-- ==== Sys2Proof/Word.lean ====
section
/-!
DEFINITION. The word type, the numbers that name cores, channels and links, and the plainest bit arithmetic.
-/
namespace Sys2Proof

/-- A 64-bit word: a G or P register. -/
abbrev Word := BitVec 64
/-- A byte. -/
abbrev Byte := BitVec 8
/-- A global core number: channel × 160 + island × 16 + core (R9). -/
abbrev CoreId := Fin 1280
/-- A channel of the die. -/
abbrev Chan := Fin 8
/-- A Tlail link of the die; link L belongs to channel L div 6 (R34). -/
abbrev LinkId := Fin 48

end Sys2Proof
end

