-- ==== Sys2Proof/Syntax.lean ====
section
/-!
DEFINITION. The commands of the block: one constructor of Instr for each row of spec/opcode_table.json, with the operands the
command carries. A command is a step of the part: an instruction at the core that issues it, an event at the unit where it
falls, a register access, a mailbox command, a message or a pin. What only the world outside decides (a frame's bytes, a
sample, a random word, a fault of a memory cell) is an operand.
-/
namespace Sys2Proof

/-- The source of a CFG's value (R95): SRC 00 an immediate, 01 a P register plus an offset, 10 a G register plus an offset,
11 reserved. -/
inductive CfgSrc where
  | imm (v : BitVec 40)
  | preg (p : BitVec 6) (off : BitVec 32)
  | greg (g : BitVec 5) (off : BitVec 32)
  | reserved
deriving DecidableEq, Repr

/-- The operand forms of PATCH.SET and PATCH.ADD, and of the scalar ALU's second operand (R84, R100). -/
inductive SrcB where
  | imm (v : BitVec 32)
  | greg (g : BitVec 5)
deriving DecidableEq, Repr

/-- Bit errors that one access meets at a bank word (R178, R181): the word (bank × 512 + word in the bank), the data bits that
read wrong, and how many bits of the check columns do. -/
structure Upset where
  word : BitVec 13
  flip : BitVec 512
  check : BitVec 3
deriving DecidableEq, Repr

/-- Ports that meet at a bank in one cycle (R174): the word this command's access names, the other ports that access the bank
in that cycle (bit 0 MX, 1 VX, 2 FOX, 3 CHIN), the word of the first of them in precedence, and whether one of their lost
accesses is a write. -/
structure Clash where
  word : BitVec 13
  others : BitVec 4
  otherWord : BitVec 9
  write : Bool
deriving DecidableEq, Repr

/-- What happens at the scratchpad's banks in the cycles of a command's accesses: bit errors, and clashes between ports. -/
structure Access where
  upsets : List Upset
  clashes : List Clash
deriving DecidableEq, Repr

/-- What every received flit carries beside its kind and payload (R394): the hops left, SEQ, ACKV, ACK, the destination and
originating chips and channels; and the symbols that the FEC corrected in the codewords that ended since the flit before. -/
structure FlitHdr where
  hops : BitVec 4
  seq : BitVec 12
  ackv : Bool
  ack : BitVec 12
  dchip : BitVec 15
  schip : BitVec 15
  dch : Chan
  sch : Chan
  corr : BitVec 16
deriving DecidableEq, Repr

/-- The fields of a LINKCTL payload (R396). -/
structure LinkCtl where
  nonce : BitVec 64
  valid : Bool
  chip : BitVec 15
  plink : BitVec 8
  part : BitVec 16
  step : BitVec 8
deriving DecidableEq, Repr

/-- The transport that brings an SPDM message (R467): DOE, MCTP, or a Tlail link. -/
inductive SpdmVia where
  | doe
  | mctp
  | tlail (link : LinkId)
deriving DecidableEq, Repr

/-- What a NEGOTIATE_ALGORITHMS request offers (R469): whether the device's one choice of each kind is among it. -/
structure AlgOffer where
  measSpec : Bool
  measHash : Bool
  asym : Bool
  hash : Bool
  dhe : Bool
  aead : Bool
  reqAsym : Bool
  keySchedule : Bool
deriving DecidableEq, Repr

/-- What a register write names: an offset of the function's BAR0 with the count of bytes written, or the message control word of the
function's MSI-X capability (R580). -/
inductive RegPlace where
  | bar0 (off : BitVec 26) (size : BitVec 4)
  | msixControl
deriving DecidableEq, Repr

/-- A reading of a thermal sensor (R507): whether its self-check passes, and what it reads in 1/16 °C, signed. -/
structure Reading where
  ok : Bool
  value : BitVec 16
deriving DecidableEq, Repr

/-- What only the world outside decides of a start: an uncorrectable fuse error, the microcode images that fail to load (bit k: image
kind k), and the cores whose arrays fail their self-test, each with row, column and format (R132, R459, R463). -/
structure BootEnv where
  fuseErr : Bool
  loadFail : BitVec 6
  bist : List (CoreId × BitVec 5 × BitVec 5 × BitVec 8)
deriving DecidableEq, Repr


/-- The commands: one constructor for each row of the table, its mnemonic and rule in the docstring. -/
inductive Instr where
  /-- NOP (R93): Holds the sequencer for 1 + EXTRA cycles and does nothing else. -/
  | nop (core : CoreId) (extra : BitVec 16)
  /-- JMP (R94): Jumps to TARGET when COND holds for G[GS] read as a signed value. -/
  | jmp (core : CoreId) (cond : BitVec 4) (gs : BitVec 5) (target : BitVec 13)
  /-- LOOP (R79): Runs the following body up to END COUNT times, or skips it when the count is zero. -/
  | loop (core : CoreId) (src : Bool) (gs : BitVec 5) (count : BitVec 16) (last : BitVec 13)
  /-- REPLAY (R81): Runs the LEN instructions from START COUNT times, then continues after the REPLAY. -/
  | replay (core : CoreId) (src : Bool) (gs : BitVec 5) (start len : BitVec 13) (count : BitVec 20)
  /-- WAIT (R85): Holds until a masked source is seen true, writes the set of true sources to G[GD] and clears a masked doorbell. -/
  | wait (core : CoreId) (mask : BitVec 6) (gd : BitVec 5)
  /-- WAIT_IDLE (R88): Holds until every unit in UNITMASK is seen not busy. -/
  | waitIdle (core : CoreId) (units : BitVec 4)
  /-- HALT (R89): Stops issue, records CODE and PC in CORE_HALT, enters HALTED and raises event 0x0102. -/
  | halt (core : CoreId) (code : BitVec 16)
  /-- RESERVED_OPCODE (R90): A reserved major opcode reaching issue halts the core with cause 2 and raises event 0x0101. -/
  | reservedOpcode (core : CoreId) (major minor : BitVec 6)
  /-- PATCH_SET (R84): Writes P[PD] from a sign-extended immediate or a G register. -/
  | patchSet (core : CoreId) (pd : BitVec 6) (src : SrcB)
  /-- PATCH_ADD (R84): Adds an immediate or a G register to P[PD]. -/
  | patchAdd (core : CoreId) (pd : BitVec 6) (src : SrcB)
  /-- PATCH_ARM (R84): Arms patch slot SLOT with the pair PD and PS. -/
  | patchArm (core : CoreId) (pd ps : BitVec 6) (slot : BitVec 3)
  /-- PATCH_CLR (R84): Disarms all eight patch slots. -/
  | patchClr (core : CoreId)
  /-- CFG (R95): Writes a layer field of unit MX, VX, FX, SY or SQ from an immediate, a P register or a G register. -/
  | cfg (core : CoreId) (unit : BitVec 4) (fld : BitVec 8) (src : CfgSrc)
  /-- GO_MX (R128): Once its unit is idle and its gates hold, starts the matrix array on MT by NT tiles of depth K. -/
  | goMx (core : CoreId) (gmask : BitVec 8) (tag : BitVec 8) (acc : Access)
  /-- MX_TILE_DRAIN (R128): A finished tile begins draining into the first free tile-queue entry and is full in it eight cycles later. -/
  | mxTileDrain (core : CoreId)
  /-- GO_VX (R155): Starts a tile spill of SP_TILES tiles from the tile queue to the scratchpad. -/
  | goVx (core : CoreId) (gmask : BitVec 8)
  /-- SPILL_TILE (R155): When a full head is seen, the spill reads, converts and writes one tile and releases the head. -/
  | spillTile (core : CoreId) (acc : Access)
  /-- GO_FX_SUBMIT (R209): Hands the descriptor formed by the FX fields to Fox. -/
  | goFxSubmit (core : CoreId) (gmask : BitVec 8)
  /-- GO_FX_FENCE (R209): Hands Fox a fence that completes when every earlier descriptor of the core is complete. -/
  | goFxFence (core : CoreId) (gmask : BitVec 8)
  /-- GO_SY (R263): Starts landing LAND_N words from input FIFO LAND_EP into the scratchpad. -/
  | goSy (core : CoreId) (gmask : BitVec 8)
  /-- SY_LAND_WORD (R263): A word present in the landing FIFO is written through the CHIN port and one word of room is freed. -/
  | syLandWord (core : CoreId) (acc : Access)
  /-- ADD (R100): G[GD] := a + b. -/
  | add (core : CoreId) (gd ga : BitVec 5) (b : SrcB)
  /-- SUB (R100): G[GD] := a - b. -/
  | sub (core : CoreId) (gd ga : BitVec 5) (b : SrcB)
  /-- AND (R100): G[GD] := a AND b. -/
  | and (core : CoreId) (gd ga : BitVec 5) (b : SrcB)
  /-- OR (R100): G[GD] := a OR b. -/
  | or (core : CoreId) (gd ga : BitVec 5) (b : SrcB)
  /-- XOR (R100): G[GD] := a XOR b. -/
  | xor (core : CoreId) (gd ga : BitVec 5) (b : SrcB)
  /-- SHL (R100): G[GD] := a shifted left by b[5:0]. -/
  | shl (core : CoreId) (gd ga : BitVec 5) (b : SrcB)
  /-- SHR (R100): G[GD] := a shifted right by b[5:0] with zero fill. -/
  | shr (core : CoreId) (gd ga : BitVec 5) (b : SrcB)
  /-- SAR (R100): G[GD] := a shifted right by b[5:0] with sign fill. -/
  | sar (core : CoreId) (gd ga : BitVec 5) (b : SrcB)
  /-- MUL (R100): G[GD] := low 64 bits of a times b, with a result latency of 3. -/
  | mul (core : CoreId) (gd ga : BitVec 5) (b : SrcB)
  /-- MIN (R100): G[GD] := signed minimum of a and b. -/
  | min (core : CoreId) (gd ga : BitVec 5) (b : SrcB)
  /-- MAX (R100): G[GD] := signed maximum of a and b. -/
  | max (core : CoreId) (gd ga : BitVec 5) (b : SrcB)
  /-- MINU (R100): G[GD] := unsigned minimum of a and b. -/
  | minu (core : CoreId) (gd ga : BitVec 5) (b : SrcB)
  /-- MAXU (R100): G[GD] := unsigned maximum of a and b. -/
  | maxu (core : CoreId) (gd ga : BitVec 5) (b : SrcB)
  /-- CMPEQ (R100): G[GD] := 1 if a = b, else 0. -/
  | cmpeq (core : CoreId) (gd ga : BitVec 5) (b : SrcB)
  /-- CMPLT (R100): G[GD] := 1 if a < b signed, else 0. -/
  | cmplt (core : CoreId) (gd ga : BitVec 5) (b : SrcB)
  /-- CMPLTU (R100): G[GD] := 1 if a < b unsigned, else 0. -/
  | cmpltu (core : CoreId) (gd ga : BitVec 5) (b : SrcB)
  /-- MOVI (R100): G[GD] := IMM32 sign-extended. -/
  | movi (core : CoreId) (gd : BitVec 5) (imm : BitVec 32)
  /-- MOVHI (R100): G[GD] := IMM32 in the high half and G[GA][31:0] in the low half. -/
  | movhi (core : CoreId) (gd ga : BitVec 5) (imm : BitVec 32)
  /-- RDS (R70): Copies a special value such as GCORE, CYC, GTC or a sync counter into G[GD]. -/
  | rds (core : CoreId) (gd : BitVec 5) (index : BitVec 8)
  /-- MOVGP (R100): P[IMM32[5:0]] := G[GA]. -/
  | movgp (core : CoreId) (p : BitVec 6) (ga : BitVec 5)
  /-- MOVPG (R100): G[GD] := P[IMM32[5:0]]. -/
  | movpg (core : CoreId) (gd : BitVec 5) (p : BitVec 6)
  /-- VADD (R140): Lane-wise a + b in F32, I32 or U32. -/
  | vadd (core : CoreId) (vd va vb : BitVec 5) (ty : BitVec 2) (bs : Bool)
  /-- VSUB (R140): Lane-wise a - b. -/
  | vsub (core : CoreId) (vd va vb : BitVec 5) (ty : BitVec 2) (bs : Bool)
  /-- VMUL (R140): Lane-wise a times b; integer forms keep the low 32 bits. -/
  | vmul (core : CoreId) (vd va vb : BitVec 5) (ty : BitVec 2) (bs : Bool)
  /-- VFMA (R140): Lane-wise a times b plus c, F32 rounded once. -/
  | vfma (core : CoreId) (vd va vb vc : BitVec 5) (ty : BitVec 2) (bs : Bool)
  /-- VMIN (R142): Lane-wise minimum, NaN-propagating for F32. -/
  | vmin (core : CoreId) (vd va vb : BitVec 5) (ty : BitVec 2) (bs : Bool)
  /-- VMAX (R142): Lane-wise maximum, NaN-propagating for F32. -/
  | vmax (core : CoreId) (vd va vb : BitVec 5) (ty : BitVec 2) (bs : Bool)
  /-- VABS (R140): Lane-wise absolute value. -/
  | vabs (core : CoreId) (vd va : BitVec 5) (ty : BitVec 2)
  /-- VNEG (R140): Lane-wise negation. -/
  | vneg (core : CoreId) (vd va : BitVec 5) (ty : BitVec 2)
  /-- VAND (R140): Lane-wise bitwise AND. -/
  | vand (core : CoreId) (vd va vb : BitVec 5) (bs : Bool)
  /-- VOR (R140): Lane-wise bitwise OR. -/
  | vor (core : CoreId) (vd va vb : BitVec 5) (bs : Bool)
  /-- VXOR (R140): Lane-wise bitwise XOR. -/
  | vxor (core : CoreId) (vd va vb : BitVec 5) (bs : Bool)
  /-- VSHL (R140): Lane-wise shift left by b[4:0]. -/
  | vshl (core : CoreId) (vd va vb : BitVec 5) (bs : Bool)
  /-- VSHR (R140): Lane-wise shift right by b[4:0] with zero fill. -/
  | vshr (core : CoreId) (vd va vb : BitVec 5) (bs : Bool)
  /-- VSAR (R140): Lane-wise shift right by b[4:0] with sign fill. -/
  | vsar (core : CoreId) (vd va vb : BitVec 5) (bs : Bool)
  /-- VCMPEQ (R140): Lane-wise equality mask. -/
  | vcmpeq (core : CoreId) (vd va vb : BitVec 5) (ty : BitVec 2) (bs : Bool)
  /-- VCMPLT (R140): Lane-wise less-than mask. -/
  | vcmplt (core : CoreId) (vd va vb : BitVec 5) (ty : BitVec 2) (bs : Bool)
  /-- VCMPLE (R140): Lane-wise less-or-equal mask. -/
  | vcmple (core : CoreId) (vd va vb : BitVec 5) (ty : BitVec 2) (bs : Bool)
  /-- VSEL (R140): Lane-wise select of a where c is nonzero, else b. -/
  | vsel (core : CoreId) (vd va vb vc : BitVec 5) (bs : Bool)
  /-- VMOV (R140): Copies register a. -/
  | vmov (core : CoreId) (vd va : BitVec 5)
  /-- VBCAST (R140): Broadcasts G[VA][31:0] to every lane. -/
  | vbcast (core : CoreId) (vd ga : BitVec 5)
  /-- VIOTA (R140): Writes lane number plus G[VA][31:0] into each lane. -/
  | viota (core : CoreId) (vd ga : BitVec 5)
  /-- VCVT (R143): Converts lanes by MODE, narrowing into or widening from part POS, and sets SAT8 or INF8 as defined. -/
  | vcvt (core : CoreId) (vd va : BitVec 5) (mode : BitVec 4) (pos : BitVec 2)
  /-- VDIV (R142): Lane-wise correctly rounded F32 division. -/
  | vdiv (core : CoreId) (vd va vb : BitVec 5) (ty : BitVec 2) (bs : Bool)
  /-- VSQRT (R142): Lane-wise correctly rounded F32 square root. -/
  | vsqrt (core : CoreId) (vd va : BitVec 5) (ty : BitVec 2)
  /-- VSCALE (R140): Lane-wise a times 2 to the power b with one rounding. -/
  | vscale (core : CoreId) (vd va vb : BitVec 5) (ty : BitVec 2) (bs : Bool)
  /-- VLD (R145): Loads 256 B from the scratchpad into a V register over four VX port words. -/
  | vld (core : CoreId) (vd ga : BitVec 5) (off : BitVec 19) (acc : Access)
  /-- VST (R147): Stores 256 B from a V register to the scratchpad in four words. -/
  | vst (core : CoreId) (vs ga : BitVec 5) (off : BitVec 19) (acc : Access)
  /-- VGATH_W (R146): Gathers 4 B per lane through the gather buffer over D distinct bank words. -/
  | vgathW (core : CoreId) (vd ga vi : BitVec 5) (off : BitVec 19) (acc : Access)
  /-- VGATH_D (R146): Gathers 8 B per lane pair through the gather buffer. -/
  | vgathD (core : CoreId) (vd ga vi : BitVec 5) (off : BitVec 19) (acc : Access)
  /-- VSCAT_W (R147): Scatters 4 B per lane, the highest lane winning on overlap. -/
  | vscatW (core : CoreId) (vs ga vi : BitVec 5) (off : BitVec 19) (acc : Access)
  /-- VSCAT_D (R147): Scatters 8 B per lane pair. -/
  | vscatD (core : CoreId) (vs ga vi : BitVec 5) (off : BitVec 19) (acc : Access)
  /-- VTPOP (R150): Once the head entry is full, reads a row pair of it into VD, optionally writes its metadata and releases it. -/
  | vtpop (core : CoreId) (vd gd : BitVec 5) (rp : BitVec 4) (rel nr : Bool)
  /-- VRSUM (R158): Sums the 64 lanes in a fixed tree into G[GD]. -/
  | vrsum (core : CoreId) (gd va : BitVec 5) (ty : BitVec 2)
  /-- VRMAX (R159): Writes the key and lane of the first-ranking lane into G[GD]. -/
  | vrmax (core : CoreId) (gd va : BitVec 5) (ty : BitVec 2)
  /-- VRMIN (R159): Writes the key and lane of the last-ranking lane into G[GD]. -/
  | vrmin (core : CoreId) (gd va : BitVec 5) (ty : BitVec 2)
  /-- TOPK (R161): Merges 64 candidate pairs into the top-k list at VD in ranking order. -/
  | topk (core : CoreId) (vd va vb gd : BitVec 5) (ty : BitVec 2) (km1 : BitVec 8)
  /-- TOPK_M (R161): Merges a second top-k list into the list at VD. -/
  | topkM (core : CoreId) (vd va gd : BitVec 5) (ty : BitVec 2) (km1 : BitVec 8)
  /-- RWAIT (R229): Holds until the core's view of a ring reaches N, then writes the slot address, count and status into G[GD]. -/
  | rwait (core : CoreId) (gd : BitVec 5) (ring : BitVec 8) (n : BitVec 7)
  /-- RPOP (R230): Releases N published slots of an IN ring. -/
  | rpop (core : CoreId) (ring : BitVec 8) (n : BitVec 7)
  /-- RPUB (R230): Publishes N slots of an OUT ring with EOS and VALID on the last. -/
  | rpub (core : CoreId) (ring : BitVec 8) (n : BitVec 7) (eos : Bool) (valid : BitVec 7)
  /-- QPUSH (R260): Once room is at least N, sends N words from V on the endpoint's route. -/
  | qpush (core : CoreId) (v : BitVec 5) (ep : BitVec 3) (nm1 : BitVec 2)
  /-- QPOP (R260): Once the FIFO holds N words, removes them into V. -/
  | qpop (core : CoreId) (v : BitVec 5) (ep : BitVec 3) (nm1 : BitVec 2)
  /-- QPEEK (R260): Once the FIFO holds N words, copies them into V without removing them. -/
  | qpeek (core : CoreId) (v : BitVec 5) (ep : BitVec 3) (nm1 : BitVec 2)
  /-- FIRSTOF (R261): Takes N words from whichever of two endpoints is ready first, counting a race when the choice depended on timing. -/
  | firstof (core : CoreId) (v : BitVec 5) (ea eb : BitVec 3) (gd : BitVec 5) (nm1 : BitVec 2)
  /-- CINC (R265): Adds AMT to an own counter or sends a token over a SIGNAL route, saturating at 0xFFFF. -/
  | cinc (core : CoreId) (rem : Bool) (ep : BitVec 3) (ctr : BitVec 4) (amt : BitVec 16)
  /-- CDEC (R265): Subtracts AMT from an own counter or sends a token, saturating at 0. -/
  | cdec (core : CoreId) (rem : Bool) (ep : BitVec 3) (ctr : BitVec 4) (amt : BitVec 16)
  /-- CWAIT (R269): Holds until S(CTR) is at least N, optionally subtracting N. -/
  | cwait (core : CoreId) (ctr : BitVec 4) (sub : Bool) (n : BitVec 16)
  /-- BAR (R270): Arrives at a channel, chip or fabric barrier and holds until release or fault, then writes its status. -/
  | bar (core : CoreId) (scope bid : BitVec 2) (gd : BitVec 5)
  /-- LAUNCH (R380): Holds until the island GTC copy reaches the target, or completes at once with LATE or REFUSED. -/
  | launch (core : CoreId) (mode : Bool) (gs gd : BitVec 5) (m : BitVec 32)
  /-- BATCH_TAKE (R305): On the lead core, takes up to N words of the oldest queued batch stream into V and writes status to G[GD]. -/
  | batchTake (core : CoreId) (v gd : BitVec 5) (nm1 : BitVec 2)
  /-- RESP_PUT (R306): On the lead core, once the response queue has room, sends the top-k list for the request named by G[GS]. -/
  | respPut (core : CoreId) (v gs : BitVec 5) (km1 : BitVec 8) (empty : Bool)
  /-- WORD_ARRIVAL (R250): A message word reaches its input FIFO after its transit. -/
  | wordArrival (core : CoreId) (ep : BitVec 3)
  /-- ROOM_RETURN (R248): Freed room reaches the sending endpoint and raises its room count. -/
  | roomReturn (core : CoreId) (ep : BitVec 3)
  /-- COUNTER_TOKEN_ARRIVAL (R268): A remote counter token reaches its core and is applied, or dropped as MISUSE outside CMASK. -/
  | counterTokenArrival (core : CoreId) (sender : BitVec 8)
  /-- DONE_CTR_INCREMENT (R211): A completed descriptor's increment reaches the issuing core's counter. -/
  | doneCtrIncrement (core : CoreId)
  /-- RING_VIEW_UPDATE (R228): A publication or freed slot reaches the core and raises its PUBV or FREEV. -/
  | ringViewUpdate (ch : Chan) (ring : BitVec 8)
  /-- DOORBELL_ARRIVAL (R583): A channel broadcast doorbell reaches a core after the crossing and sets its pending doorbell. -/
  | doorbellArrival (core : CoreId)
  /-- CHANNEL_BARRIER_RELEASE (R270): The channel barrier releases every arrived member in one generation. -/
  | channelBarrierRelease (ch : Chan) (bid : BitVec 2)
  /-- CHIP_BARRIER_RELEASE (R272): Members complete BAR in the first cycle their GTC copy reads at least the release count T. -/
  | chipBarrierRelease (ch : Chan) (bid : BitVec 2)
  /-- BAR_TIMEOUT (R273): A chip or fabric barrier not released within SYN_BAR_TIMEOUT completes arrived members with FAULT cause 1. -/
  | barTimeout (ch : Chan) (scope bid : BitVec 2)
  /-- FABRIC_BARRIER_RELEASE (R383): Members of a fabric barrier complete when the island copy reaches the released count T, or at once when late or untimed. -/
  | fabricBarrierRelease (bid : BitVec 2)
  /-- NAP_WAKE (R487): A masked source becoming true starts the FIC, completes the WAIT, sets CLKSEL and begins relocking the aligner. -/
  | napWake (core : CoreId)
  /-- ALIGNER_LOCK (R99): The core aligner locks to the island clock and a pending CLKSEL = 0 takes effect at the next instruction boundary. -/
  | alignerLock (core : CoreId)
  /-- CONFLICT_HALT_TIMEOUT (R176): The 4,096th cycle after a bank conflict halts the channel if no GO or WAIT.IDLE has done so. -/
  | conflictHaltTimeout (core : CoreId)
  /-- SWEEPER_VISIT (R190): In an idle bank cycle the sweeper rewrites a stale word as zero or corrects a W-bank word. -/
  | sweeperVisit (core : CoreId) (bank : BitVec 4)
  /-- BANK_INIT_DONE (R195): A bank initialisation of 512 cycles ends, INIT clears and waiting cores begin issue. -/
  | bankInitDone (core : CoreId) (bank : BitVec 4)
  /-- GROUP_POWER_UP_DONE (R195): A bank group finishes its 2 µs power-up and its initialisation begins. -/
  | groupPowerUpDone (core : CoreId) (group : BitVec 2)
  /-- BADGER_REPORT (R276): The quiet count reaching BDG_WINDOW captures waits, sets DEADLOCK, raises 0x0604 and halts the channel, or sets SILENT if a link is down. -/
  | badgerReport (ch : Chan)
  /-- FOX_ACCEPT (R214): Fox accepts a descriptor into a free active entry in its fixed order. -/
  | foxAccept (ch : Chan)
  /-- FOX_ISSUE (R215): In a CCLK cycle Fox issues up to 16 local HBM requests and one island delivery per island in a fixed rotation. -/
  | foxIssue (ch : Chan) (cells : List (BitVec 8 × Access))
  /-- HBM_READ_RETURN (R216): Read data returns at Fox and is written to its destination. -/
  | hbmReadReturn (ch : Chan) (pick : BitVec 11) (ue : Bool) (cells : List (BitVec 8 × Access))
  /-- DESCRIPTOR_COMPLETE (R217): Every word of a descriptor is written and its ring slots published, so it completes and its DONE_CTR acts. -/
  | descriptorComplete (ch : Chan)
  /-- PEER_SERVICE_SLOT (R237): In a reserved service slot Fox serves up to 16 words of queued remote reads, SPEC in one slot of eight. -/
  | peerServiceSlot (ch : Chan)
  /-- REMOTE_READ_TIMEOUT (R234): A remote read unanswered within FOX_RTIMEOUT completes with every word POISON. -/
  | remoteReadTimeout (ch : Chan) (msgid : BitVec 7)
  /-- FOX_HSQ_TAIL_SEEN (R212): Fox sees a new host queue tail after the crossing and takes the entries up to it. -/
  | foxHsqTailSeen (ch : Chan)
  /-- FRAME_RECEIVE (R281): An Ethernet frame is taken whole, checked for the fast path and USP validity, or sent to the slow path or dropped. -/
  | frameReceive (port : BitVec 1) (frame : List (BitVec 8)) (fcs : Bool)
  /-- SLOW_PATH_REPLY (R283): The MGC firmware answers an ARP, echo or Neighbor Solicitation frame, within its rate limit. -/
  | slowPathReply (port : BitVec 1)
  /-- REQUEST_ADMIT (R295): A checked request is stamped, its deadline armed, its body stored, placed in the open batch and its pairs handed to Fox. -/
  | requestAdmit
  /-- BATCH_BOUNDARY (R299): At window expiry, MAXB fill or a SYNC edge within limits, the open batch closes and the next window opens. -/
  | batchBoundary (svc : BitVec 12)
  /-- DEADLINE_EXPIRY (R297): A request's timer expires, its fallback is sent, and it is removed from an open batch or marked answered. -/
  | deadlineExpiry (pick : BitVec 17)
  /-- RESPONSE_ARRIVAL (R306): A RESP.PUT entry reaches the SVE and its response is sent, or discarded as LATE. -/
  | responseArrival (ch : Chan)
  /-- RESPONSE_SENT (R306): A response leaves the port and frees its response queue entry. -/
  | responseSent (ch : Chan)
  /-- BATCH_STREAM_WORD (R305): The SVE sends one batch-stream word across the chip crossing to the lead core. -/
  | batchStreamWord (ch : Chan)
  /-- TAG_GRACE_EXPIRY (R300): A finished batch tag stops being live after TAG_GRACE µs. -/
  | tagGraceExpiry (ch : Chan) (tag : BitVec 16)
  /-- SEAM_READY (R320): While HELD, the seam rule holding sends the swap to every island and PHASE becomes SWAPPING. -/
  | seamReady (ch : Chan)
  /-- EXCHANGE_SWAP (R322): The islands receive the swap, banks exchange roles, staged plan, rings and run-ahead table are adopted and PHASE becomes DONE. -/
  | exchangeSwap (ch : Chan)
  /-- EXCH_HOLD_TIMEOUT (R320): The hold timer reaching EXCH_TIMEOUT forces the seam or aborts the exchange. -/
  | exchHoldTimeout (ch : Chan)
  /-- LATCHED_SYNC_PRESENT (R327): In the first KCLK cycle after a seam interval, the latched SYNC_IN edge is presented to the boundary rule. -/
  | latchedSyncPresent (ch : Chan)
  /-- REFRESH_SLOT (R348): A refresh slot opens on its fixed period, and a pending period change takes effect. -/
  | refreshSlot (ch : Chan)
  /-- GTC_TICK (R361): Each KCLK cycle adds 1 ns plus the trim to the GTC. -/
  | gtcTick (n : BitVec 32)
  /-- FUSION_EPOCH (R371): At each multiple of 65,536 ns the level is computed and the sources fused into a steering value and state. -/
  | fusionEpoch
  /-- SYNC_IN_EDGE (R367): A SYNC_IN rising edge gives a phase sample or is discarded, and reaches the SVE as an edge. -/
  | syncInEdge (sub : BitVec 8)
  /-- PTM_DIALOGUE (R368): Every PERIOD epochs a PTM dialogue yields an offset sample. -/
  | ptmDialogue (ok : Bool) (master : BitVec 72) (sub : BitVec 8)
  /-- SYNC_OUT_PULSE (R385): At each configured GTC count a 100 ns pulse is driven on SYNC_OUT unless LOST. -/
  | syncOutPulse
  /-- BEACON_SEND (R404): At each GTC multiple of 65,536 a BEACON is sent on each link from TRAINED-ISOLATED on. -/
  | beaconSend
  /-- FLIT_TRANSMIT (R397): Each flit period the transmitter sends the first available item in the fixed order. -/
  | flitTransmit (link : LinkId) (frac : BitVec 8)
  /-- CRC_FAIL (R400): A flit failing CRC or out of sequence is discarded and opens a receive episode with a NAK. -/
  | crcFail (link : LinkId) (corr : BitVec 16) (uncorr : BitVec 8)
  /-- IDLE (R400): An IDLE flit is received and its ACK releases sender buffer entries. -/
  | idle (link : LinkId) (h : FlitHdr)
  /-- NAK (R401): A received NAK replays every unacknowledged flit from ACK + 1 and opens a send episode. -/
  | nak (link : LinkId) (h : FlitHdr)
  /-- FLOW (R399): A FLOW flit is delivered to its input endpoint, forwarded, or filtered by grants. -/
  | flow (link : LinkId) (h : FlitHdr) (core : BitVec 8) (ep : BitVec 3) (words : List (BitVec 512))
  /-- RREQ (R435): A remote read request is queued for peer service or answered RREF. -/
  | rreq (link : LinkId) (h : FlitHdr) (msgid : BitVec 7) (spec : Bool) (addr : BitVec 40) (words : BitVec 6) (tag : BitVec 16) (full : Bool)
  /-- RDATA (R396): A remote read reply flit lands its words, with POISON marks, at the requester. -/
  | rdata (link : LinkId) (h : FlitHdr) (msgid : BitVec 7) (idx wpois : BitVec 4) (last : Bool) (words : List (BitVec 512)) (cells : List (BitVec 8 × Access))
  /-- RREF (R234): A refusal completes the remote read with every word POISON. -/
  | rref (link : LinkId) (h : FlitHdr) (msgid : BitVec 7) (cause : BitVec 8) (cells : List (BitVec 8 × Access))
  /-- COMMIT (R238): A COMMIT marker makes the tag's queued SPEC reads ordinary at the peer. -/
  | commit (link : LinkId) (h : FlitHdr) (tag : BitVec 16)
  /-- CANCEL (R238): A CANCEL marker is received and changes nothing at the peer. -/
  | cancel (link : LinkId) (h : FlitHdr) (tag : BitVec 16)
  /-- HOPFAIL (R415): Sets RTE_LINKF.DOWN for link routes to the failed chip and raises 0x0B07. -/
  | hopfail (link : LinkId) (h : FlitHdr) (chip : BitVec 15) (fch : Chan) (cause : BitVec 8) (by' : BitVec 15)
  /-- BEACON (R404): A received beacon forms a two-way offset sample for time fusion. -/
  | beacon (link : LinkId) (h : FlitHdr) (txts peerTx rxts : BitVec 64) (level : BitVec 6) (usable : Bool) (bseq rxseq : BitVec 8) (frac : BitVec 8)
  /-- ARRIVE (R383): A child's arrival in a fabric barrier generation, which may complete this chip's arrival. -/
  | arrive (link : LinkId) (h : FlitHdr) (bid : BitVec 2) (gen : BitVec 32)
  /-- RELEASE (R383): A fabric barrier release naming count T is forwarded down and schedules member release. -/
  | release (link : LinkId) (h : FlitHdr) (bid : BitVec 2) (gen : BitVec 32) (count : BitVec 64)
  /-- FAULT (R384): A fabric barrier fault completes waiting members with FAULT and is passed on. -/
  | fault (link : LinkId) (h : FlitHdr) (bid : BitVec 2) (gen : BitVec 32) (cause : BitVec 2)
  /-- ATTEST (R406): An SPDM segment between MGC firmware of two chips is received. -/
  | attest (link : LinkId) (h : FlitHdr) (xid : BitVec 8) (seg : BitVec 4) (resp last : Bool) (data : List (BitVec 8))
  /-- HELLO (R408): A HELLO updates LNK_PEER with the peer's id, link, part, step and nonce. -/
  | hello (link : LinkId) (h : FlitHdr) (c : LinkCtl)
  /-- ADMIT (R408): A peer ADMIT echoing the current nonce, together with a local ADMIT, makes the link ADMITTED. -/
  | peerAdmit (link : LinkId) (h : FlitHdr) (c : LinkCtl) (echo : BitVec 64)
  /-- RETIRE (R409): A peer RETIRE takes the link to FAULT. -/
  | retire (link : LinkId) (h : FlitHdr) (c : LinkCtl)
  /-- ACK_TIMEOUT (R401): 10 µs with unacknowledged flits and no ACK progress replays them and opens a send episode. -/
  | ackTimeout (link : LinkId)
  /-- EPISODE_LIMIT (R403): An episode open 1 ms or 256 episodes in a second take the link to FAULT. -/
  | episodeLimit (link : LinkId)
  /-- SIGNAL_DETECT (R407): A DOWN link with EN, signal and cable enters TRAINING, retried every 1 s. -/
  | signalDetect (link : LinkId)
  /-- TRAINING_COMPLETE (R393): Equalisation, lock and a peer HELLO complete and the link enters TRAINED-ISOLATED. -/
  | trainingComplete (link : LinkId)
  /-- TRAINING_TIMEOUT (R407): 500 ms without completion returns the link to DOWN. -/
  | trainingTimeout (link : LinkId)
  /-- SIGNAL_LOSS (R409): Loss of signal for 1 µs, of lock for 10 µs, or of the cable takes the link DOWN. -/
  | signalLoss (link : LinkId) (cause : BitVec 2)
  /-- FAULT_RETRAIN (R407): 100 µs after FAULT the link re-enters TRAINING. -/
  | faultRetrain (link : LinkId)
  /-- HELLO_SEND (R408): Every 1 ms a HELLO is sent in TRAINED-ISOLATED and ADMITTED. -/
  | helloSend (link : LinkId)
  /-- LINK_RETIRE_DONE (R411): Once the retry buffer empties or 100 µs pass, the transmitter quiets and the link is RETIRED. -/
  | linkRetireDone (link : LinkId)
  /-- ATTESTATION_DONE (R410): A LINK_ADMIT attestation exchange completes, fails or times out at 200 ms and sends ADMIT or refuses. -/
  | attestationDone (link : LinkId) (good : Bool) (cert meas : BitVec 384)
  /-- OBIND (R427): Accepted for a BINDING channel, loads the owner key, policy and read-out key and makes it OWNED. -/
  | obind (ses : BitVec 4) (sel : BitVec 16) (ch : BitVec 8) (body : List (BitVec 8))
  /-- OGRANT (R433): Replaces the channel's grant list. -/
  | ogrant (ses : BitVec 4) (sel : BitVec 16) (ch : BitVec 8) (body : List (BitVec 8))
  /-- OSKEY (R438): Loads or clears a service tag key slot. -/
  | oskey (ses : BitVec 4) (sel : BitVec 16) (ch : BitVec 8) (body : List (BitVec 8))
  /-- OPOLICY (R424): Replaces the policy and optionally the read-out key. -/
  | opolicy (ses : BitVec 4) (sel : BitVec 16) (ch : BitVec 8) (body : List (BitVec 8))
  /-- OEND (R442): The owner requests OWNER_KILL of its channel. -/
  | oend (ses : BitVec 4) (sel : BitVec 16) (ch : BitVec 8) (body : List (BitVec 8))
  /-- OSTAT (R424): Returns OWN_CH_STAT, OWN_CH_OID and the filter counters. -/
  | ostat (ses : BitVec 4) (sel : BitVec 16) (ch : BitVec 8) (body : List (BitVec 8))
  /-- BINDING_TIMEOUT (R427): No OBIND before the timeout returns the channel to READY with a fresh ephemeral key. -/
  | bindingTimeout (ch : Chan)
  /-- KILL_SEQUENCE_COMPLETE (R443): The units finish their kill work, banks are zeroed, a new ephemeral key is loaded and the channel becomes READY, BINDING or UNASSIGNED. -/
  | killSequenceComplete (ch : Chan)
  /-- GET_VERSION (R467): SPDM request answered with version 1.2. -/
  | getVersion (via : SpdmVia)
  /-- GET_CAPABILITIES (R468): SPDM request answered with the device capabilities. -/
  | getCapabilities (via : SpdmVia)
  /-- NEGOTIATE_ALGORITHMS (R469): SPDM request accepting only the fixed algorithm set. -/
  | negotiateAlgorithms (via : SpdmVia) (offer : AlgOffer)
  /-- GET_DIGESTS (R467): SPDM request for certificate chain digests. -/
  | getDigests (via : SpdmVia)
  /-- GET_CERTIFICATE (R465): SPDM request for the slot 0 chain. -/
  | getCertificate (via : SpdmVia) (slot : BitVec 4) (offset length : BitVec 16)
  /-- CHALLENGE (R467): SPDM challenge signed by the identity key. -/
  | challenge (via : SpdmVia)
  /-- GET_MEASUREMENTS (R470): SPDM request returning measurement blocks 1 to 10. -/
  | getMeasurements (via : SpdmVia) (signed : Bool) (index : BitVec 8)
  /-- KEY_EXCHANGE (R471): Opens a mutually authenticated session, or refuses beyond 8 sessions. -/
  | keyExchange (via : SpdmVia)
  /-- FINISH (R467): Completes the session handshake. -/
  | finish (via : SpdmVia) (ses : BitVec 4) (good : Bool)
  /-- END_SESSION (R471): Ends a secure session. -/
  | endSession (via : SpdmVia) (ses : BitVec 4)
  /-- HEARTBEAT (R467): SPDM heartbeat in a session. -/
  | heartbeat (via : SpdmVia) (ses : BitVec 4)
  /-- KEY_UPDATE (R467): Updates session keys. -/
  | keyUpdate (via : SpdmVia) (ses : BitVec 4)
  /-- GET_ENCAPSULATED_REQUEST (R471): Carries the device's encapsulated requests for the requester's chain. -/
  | getEncapsulatedRequest (via : SpdmVia) (ses : BitVec 4)
  /-- DELIVER_ENCAPSULATED_RESPONSE (R471): Delivers the requester's answer to an encapsulated request. -/
  | deliverEncapsulatedResponse (via : SpdmVia) (ses : BitVec 4) (good : Bool) (leafKey : List (BitVec 8))
  /-- DOE_ABORT (R473): Ends any DOE exchange in progress but no session. -/
  | doeAbort
  /-- SET_ENDPOINT_ID (R474): MCTP control command assigning the endpoint ID. -/
  | setEndpointId (eid : BitVec 8)
  /-- GET_ENDPOINT_ID (R474): MCTP control command returning the endpoint ID. -/
  | getEndpointId
  /-- GET_MCTP_VERSION_SUPPORT (R474): MCTP control command returning supported versions. -/
  | getMctpVersionSupport (type : BitVec 8)
  /-- GET_MESSAGE_TYPE_SUPPORT (R474): MCTP control command returning supported message types. -/
  | getMessageTypeSupport
  /-- GET_VENDOR_DEFINED_MESSAGE_SUPPORT (R474): MCTP control command returning vendor message support. -/
  | getVendorDefinedMessageSupport (set : BitVec 8)
  /-- GET_TID (R621): PLDM command returning the terminus id. -/
  | getTid
  /-- SET_TID (R621): PLDM command setting the terminus id. -/
  | setTid (tid : BitVec 8)
  /-- GET_PLDM_VERSION (R621): PLDM command returning versions. -/
  | getPldmVersion (type : BitVec 8)
  /-- GET_PLDM_TYPES (R621): PLDM command returning supported types. -/
  | getPldmTypes
  /-- GET_PLDM_COMMANDS (R621): PLDM command returning supported commands. -/
  | getPldmCommands (type : BitVec 8)
  /-- GET_PDR_REPOSITORY_INFO (R621): PLDM command returning repository information. -/
  | getPdrRepositoryInfo
  /-- GET_PDR (R621): PLDM command returning a PDR. -/
  | getPdr (record : BitVec 32)
  /-- GET_SENSOR_READING (R621): PLDM command returning a numeric sensor reading. -/
  | getSensorReading (id : BitVec 16)
  /-- GET_STATE_SENSOR_READINGS (R621): PLDM command returning state sensor readings. -/
  | getStateSensorReadings (id : BitVec 16)
  /-- SET_STATE_EFFECTER_STATES (R621): PLDM command setting the locate LED effecter. -/
  | setStateEffecterStates (id : BitVec 16) (state : BitVec 8)
  /-- SET_EVENT_RECEIVER (R621): PLDM command naming the receiver of platform event messages. -/
  | setEventReceiver (enable : Bool) (eid : BitVec 8)
  /-- ALERT_RESPONSE_READ (R620): A read of the SMBus Alert Response Address returns the device's address and releases ALERT_N. -/
  | alertResponseRead
  /-- INPUT_POWER_GOOD (R449): 54 V held in range starts the cold power-on sequence up to mailbox READY. -/
  | inputPowerGood (vin iin vbank : BitVec 16) (env : BootEnv)
  /-- MOD_RST_N (R618): Held low 10 ms, removes every rail and on release runs the cold power-on sequence. -/
  | modRstN (ms : BitVec 16) (env : BootEnv)
  /-- PERST (R478): A conventional PCIe reset resets PCIe state only and ends DOE sessions. -/
  | perst
  /-- FLR (R476): A Function Level Reset of function 0 resets its PCIe state, and of a channel function performs a channel reset. -/
  | flr (fn : Fin 9)
  /-- WATCHDOG_EXPIRY (R461): 2 s without service causes a warm reset with cause 4 and counts toward fallback and recovery. -/
  | watchdogExpiry (reach : Fin 4) (env : BootEnv)
  /-- WARM_RESET (R477): MSR_RST with KEY 0x57 and WARM flushes the recorder, kills channels, ends sessions and resets the die. -/
  | warmReset (who : Fin 3) (key : BitVec 8) (warm : Bool) (env : BootEnv)
  /-- CH_RST (R480): Writing RESET performs a channel reset of dynamic state, or ends the channel's freeze. -/
  | chRst (ch : Chan)
  /-- FW_PROGRAM (R456): MSR_FW_CMD.GO starts erasing and programming an image slot range from the firmware window. -/
  | fwProgram (image : BitVec 3) (slot : Bool) (offset : BitVec 12)
  /-- FW_PROGRAM_DONE (R456): Programming and read-back end and MSR_FW_STAT reports the result. -/
  | fwProgramDone (result : Fin 4)
  /-- RECOVERY_GO (R462): In RECOVERY, MSR_RCV.GO measures and runs the window loader as stage 1. -/
  | recoveryGo (env : BootEnv)
  /-- JTAG_DEBUG_INSTRUCTION (R460): Loading a debug JTAG instruction sets debug state bit 0, reforms index 10 and kills owned channels. -/
  | jtagDebugInstruction (op : BitVec 8)
  /-- RDOUT (R562): Loading JTAG RDOUT while frozen starts the read-out on JTAG. -/
  | rdout
  /-- RDOUT_CAPTURE_DR (R563): Each Capture-DR loads the next 4 stream bytes into the RDOUT register. -/
  | rdoutCaptureDr
  /-- CORE_CTL_RUN (R103): From STOPPED, begins issue at CORE_PC once INIT is clear. -/
  | coreCtlRun (core : CoreId)
  /-- CORE_CTL_STOP (R102): Stops issue at the next instruction boundary and enters STOPPED. -/
  | coreCtlStop (core : CoreId)
  /-- CORE_CTL_DBELL (R85): Sets the core's pending doorbell. -/
  | coreCtlDbell (core : CoreId)
  /-- CORE_CTL_CRESET (R631): Performs a core reset of the sequencer and core units. -/
  | coreCtlCreset (core : CoreId)
  /-- CH_DBELL (R583): Sets the pending doorbell of one or every present core of the channel. -/
  | chDbell (ch : Chan) (all : Bool) (core : BitVec 8)
  /-- RTE_CTL_FLIP (R252): Exchanges the active and staged route plans when every core is stopped or halted, resetting room counts. -/
  | rteCtlFlip (ch : Chan)
  /-- CH_CFG_WRITE (R359): Changes CH_CFG only with the channel's cores stopped or halted and no core descriptor active, else drops it with 0x0903. -/
  | chCfgWrite (ch : Chan) (value : BitVec 32)
  /-- SPD_KIND_PWR_WRITE (R194): Sets bank kinds or group power on a stopped or halted core and starts initialisation, else is dropped. -/
  | spdKindPwrWrite (core : CoreId) (pwr : Bool) (value : BitVec 16)
  /-- RING_CFG_WRITE (R220): Configures a ring; setting EN zeroes its pointers and starts the producer's view at SLOTS. -/
  | ringCfgWrite (ch : Chan) (ring : BitVec 8) (en dir : Bool) (core : BitVec 8) (slots words : BitVec 7) (base : BitVec 19)
  /-- FOX_CTL_WRITE (R237): Sets RA_EN and RSVC, restarts the service-slot count and cancels run-ahead when RA_EN clears. -/
  | foxCtlWrite (ch : Chan) (raEn : Bool) (rsvc : BitVec 3)
  /-- FOX_HSQ_TAIL (R212): Host software writes the submission queue tail as the doorbell. -/
  | foxHsqTail (ch : Chan) (tail : BitVec 6)
  /-- HBQ_WTAIL (R309): On the U16, host software advances the word-ring tail, making batch words present. -/
  | hbqWtail (tail : BitVec 12)
  /-- HBQ_RHEAD (R311): On the U16, host software frees response ring slots. -/
  | hbqRhead (head : BitVec 5)
  /-- OWN_SKEY_LOAD (R438): Writing SLOT on a READY channel loads or clears a tag key slot from the staged key. -/
  | ownSkeyLoad (ch : Chan) (slot : BitVec 4)
  /-- FAB_FWD_DATA (R413): An access to the forwarding window reads or writes eight entries and advances CHIP by 8. -/
  | fabFwdData (value : Option (BitVec 32))
  /-- TUN_GTC_LO_READ (R365): Reading the low half latches the high half for the same requester. -/
  | tunGtcLoRead (mgc wide : Bool)
  /-- TUN_GTC_HI_READ (R365): Reading the high half returns the latched value. -/
  | tunGtcHiRead (mgc : Bool)
  /-- BAR2_ACCESS (R590): A host read or write of channel HBM through the XTS engine, after the freeze, key, HOSTIO and power checks. -/
  | bar2Access (ch : Chan) (addr : BitVec 36) (len : BitVec 13) (wr : Option (List (Option (BitVec 8))))
  /-- IRQ_MASK_WRITE (R581): Clearing a mask or cause bit may send a pending MSI-X message. -/
  | irqMaskWrite (fn : Fin 9) (mask : Bool) (value : BitVec 11)
  /-- CH_PWR_WRITE (R491): Sets the channel power request and wake sources; WAKE or REQ = RUN wakes the channel. -/
  | chPwrWrite (ch : Chan) (req : BitVec 2) (hbmoff autorun wbatch wgtc wake : Bool)
  /-- EVR_CONFIG_WRITE (R529): A change to a trigger slot or rate limit raises 0x0D24. -/
  | evrConfigWrite (off : BitVec 15) (wide : Bool) (value : BitVec 64)
  /-- EVR_ADV (R544): Moves the read cursor past a record or by a number of bytes. -/
  | evrAdv (bytes : BitVec 16)
  /-- FRZ_CTRL_GO (R549): Sends the freeze wave unless the chip is already frozen. -/
  | frzCtrlGo (mgc : Bool)
  /-- FREEZE_N (R549): FREEZE_N held low 20 ns with PIN armed sends the freeze wave. -/
  | freezeN (ns : BitVec 16)
  /-- READOUT_START (R562): FRZ_RO_CTL.START while frozen begins the read-out image on the management function. -/
  | readoutStart
  /-- READOUT_NEXT (R563): Advances the read-out window by 32 KiB. -/
  | readoutNext
  /-- READOUT_WINDOW_READY (R563): The next 32 KiB of stream is placed in the window and READY set. -/
  | readoutWindowReady
  /-- READOUT_STOP (R564): Ends the read-out with cause cut off. -/
  | readoutStop
  /-- FPN_RMV_REQ (R596): A module removal request by command. -/
  | fpnRmvReq
  /-- FPN_RMV_SAFE (R597): Host software moves REQUESTED to SAFE. -/
  | fpnRmvSafe
  /-- FPN_RMV_DENY (R597): Host software moves REQUESTED to DENIED. -/
  | fpnRmvDeny
  /-- FPN_RMV_CANCEL (R597): Host software cancels the removal request. -/
  | fpnRmvCancel
  /-- REGISTER_WRITE (R18): A write to any register without a row of its own, under its type and the state checks of R18. -/
  | registerWrite (fn : Fin 9) (place : RegPlace) (value : BitVec 64)
  /-- MAILBOX_OVERRUN (R585): MBX_DB.GO while BUSY is dropped and sets OVERRUN. -/
  | mailboxOverrun (seq : BitVec 8) (code : BitVec 8)
  /-- IDENTIFY (R588): Mailbox command returning identity, boot state, image versions and channel states. -/
  | identify (seq : BitVec 8)
  /-- CHANNEL_ASSIGN (R420): Takes an UNASSIGNED channel to READY with an ephemeral key and powers it. -/
  | channelAssign (seq : BitVec 8) (ch : Chan)
  /-- CHANNEL_RELEASE (R420): CHANNEL_ASSIGN with RELEASE runs the kill sequence and leaves the channel UNASSIGNED. -/
  | channelRelease (seq : BitVec 8) (ch : Chan)
  /-- OWNER_BIND (R426): Kills a READY channel and enters BINDING for the expected OID. -/
  | ownerBind (seq : BitVec 8) (ch : Chan) (timeout : BitVec 10) (oid : BitVec 128)
  /-- OWNER_KILL (R442): Starts the kill wave that zeroises keys, advances the epoch and halts the channel. -/
  | ownerKill (seq : BitVec 8) (ch : Chan)
  /-- EXCHANGE_ARM (R317): Arms an exchange for a channel and sets PHASE to ARMED. -/
  | exchangeArm (seq : BitVec 8) (ch : Chan)
  /-- EXCHANGE_ABORT (R329): Aborts an ARMED or HELD exchange, returning the held batch to the old program. -/
  | exchangeAbort (seq : BitVec 8) (ch : Chan)
  /-- EPOCH_FLIP (R331): Sets a service's pending table epoch. -/
  | epochFlip (seq : BitVec 8) (svc : BitVec 12) (epoch : BitVec 32)
  /-- POWER_SET (R492): Enters channel DOZE or DARK when possible, with FORCE resetting the channel first. -/
  | powerSet (seq : BitVec 8) (scope : BitVec 4) (state : BitVec 2) (force hbmoff : Bool)
  /-- POWER_SET_RUN (R494): Wakes a dozing or dark channel through its wake table. -/
  | powerSetRun (seq : BitVec 8) (scope : BitVec 4) (force hbmoff : Bool)
  /-- POWER_SET_STANDBY (R500): Closes admission, halts channels, flushes, stops links and removes rails to enter STANDBY. -/
  | powerSetStandby (seq : BitVec 8) (scope : BitVec 4) (force hbmoff : Bool)
  /-- POWER_SET_CHIP_RUN (R502): Wakes the chip from STANDBY through the chip wake table. -/
  | powerSetChipRun (seq : BitVec 8) (force hbmoff : Bool)
  /-- TIME_POLICY (R386): Applies time policy registers at the next epoch and may set the GTC while LOST. -/
  | timePolicy (seq : BitVec 8) (mask : BitVec 32) (words : List (BitVec 32))
  /-- LINK_ADMIT (R410): Mode ADMIT sends ADMIT on a TRAINED-ISOLATED link. -/
  | linkAdmit (seq : BitVec 8) (link : BitVec 6)
  /-- LINK_ADMIT_ATTEST (R410): Mode ATTEST runs the SPDM exchange to the peer and records digests. -/
  | linkAdmitAttest (seq : BitVec 8) (link : BitVec 6)
  /-- LINK_ADMIT_ATTEST_MATCH (R410): Mode ATTEST_MATCH attests and sends ADMIT only if both digests match. -/
  | linkAdmitAttestMatch (seq : BitVec 8) (link : BitVec 6) (cert meas : BitVec 384)
  /-- LINK_ADMIT_RESTORE (R410): Mode RESTORE takes a RETIRED link to DOWN. -/
  | linkAdmitRestore (seq : BitVec 8) (link : BitVec 6)
  /-- LINK_RETIRE (R411): Sends RETIRE and stops routed traffic on a link before retiring it. -/
  | linkRetire (seq : BitVec 8) (link : BitVec 6)
  /-- SERVICE_BIND (R292): Binds a service to a channel, or rebinds it at its next boundary. -/
  | serviceBind (seq : BitVec 8) (w0 w1 w2 w3 w4 w5 : BitVec 32)
  /-- SERVICE_UNBIND (R292): SERVICE_BIND with UNBIND unbinds the service at its next boundary. -/
  | serviceUnbind (seq : BitVec 8) (w0 : BitVec 32)
  /-- EVR_CLEAR (R546): Flushes, opens a CLEAR sector and hides older records. -/
  | evrClear (seq : BitVec 8)
  /-- FREEZE_ARM (R550): Sets FRZ_ARM.PIN and TRIG. -/
  | freezeArm (seq : BitVec 8) (pin trig : Bool)
  /-- DOZE_ENTRY_DONE (R493): Entry to DOZE or DARK completes with the stack in self-refresh or off. -/
  | dozeEntryDone (ch : Chan)
  /-- GTC_WAKE_MATCH (R494): The GTC reaching CH_WAKE_GTC with WGTC wakes the channel. -/
  | gtcWakeMatch (ch : Chan)
  /-- CHANNEL_WAKE_DONE (R495): The channel wake table completes and cores resume, reset, or autorun, with pending kill work done first. -/
  | channelWakeDone (ch : Chan)
  /-- WAKE_FAILURE (R499): A wake step not complete when its delay ends leaves the channel or chip in its state with WFAIL. -/
  | wakeFailure (target : Fin 9) (step : BitVec 8)
  /-- STANDBY_WAKE_DONE (R502): The chip wake table completes and channels return in DARK. -/
  | standbyWakeDone
  /-- PLL_RELOCK_DONE (R484): A LOCKSTEP relock ends and the channel's clocks restart at the new frequency. -/
  | pllRelockDone (ch : Chan)
  /-- BATCH_MARK (R509): At a batch mark a pending LOCKSTEP frequency change relocks while the batch's first word is withheld. -/
  | batchMark (ch : Chan)
  /-- THERMAL_SAMPLE (R507): Every 10 µs sensor pairs are fused, suspect pairs flagged and Tj thresholds applied. -/
  | thermalSample (pairs : List (BitVec 8 × Reading × Reading)) (hbm : List (Chan × BitVec 16))
  /-- THROTTLE_LOOP (R508): Every 100 µs the thermal limit steps down or, after 10 ms cool, back up. -/
  | throttleLoop
  /-- CAP_LOOP (R506): Every 100 µs power is compared with the caps and the cap limit stepped. -/
  | capLoop (power : List (BitVec 32)) (chip : BitVec 32)
  /-- THERMAL_TRIP (R511): Chip Tj at or above 115 °C removes compute power, stops the SVE and takes links down. -/
  | thermalTrip (region : BitVec 8)
  /-- DROOP_DETECT (R503): A supply more than 5 % low stretches the domain's clocks. -/
  | droopDetect (ch : Chan) (domain : BitVec 4) (sixteenths : BitVec 4)
  /-- DROOP_RECOVER (R503): The supply recovers and the stretch ends. -/
  | droopRecover (ch : Chan) (domain : BitVec 4) (periods : BitVec 32)
  /-- ADAPTIVE_VOLTAGE (R505): Adaptive voltage sets each channel rail to the lowest value its monitors accept. -/
  | adaptiveVoltage (ch : Chan) (mv : BitVec 10)
  /-- RECORD_EVENT (R524): The recorder takes an event, fires matching triggers and appends, repeats, counts or suppresses it. -/
  | recordEvent
  /-- NOR_PAGE_WRITE (R535): A full page, or one whose oldest record has waited 1 s, is programmed to NOR. -/
  | norPageWrite (fail : Bool)
  /-- SECTOR_ERASE (R517): The writer erases the lowest-SSEQ ring sector ahead of the write point. -/
  | sectorErase (fail : Bool)
  /-- RATE_REFILL (R526): At each operating second every token bucket and snapshot bucket refills. -/
  | rateRefill
  /-- SUMMARY_PERIOD_END (R532): At each 60 s boundary LAT, CNT and SUP summaries are staged. -/
  | summaryPeriodEnd
  /-- HOURLY_PERIOD_END (R532): At each 3,600 s boundary an ENV summary is staged. -/
  | hourlyPeriodEnd
  /-- OPSEC_MINUTE (R541): Every 60 s a unary bit of the operating-time field is programmed, with rollover at 64. -/
  | opsecMinute
  /-- INPUT_LOSS (R614): PRSNT2_N high or input below 44 V raises the input-loss signal and starts a flush. -/
  | inputLoss (presence : Bool) (mv : BitVec 16)
  /-- BANK_LOW (R615): The hold-up bank falling to 38 V removes compute-domain power. -/
  | bankLow
  /-- INPUT_RESTORE (R616): Input returning during hold-up resumes service, or after compute loss restarts cold once the bank discharges. -/
  | inputRestore (mv : BitVec 16) (env : BootEnv)
  /-- ATTN_PRESS (R596): A short ATTN press requests removal of the module or the cage shown. -/
  | attnPress
  /-- ATTN_HOLD (R595): ATTN held 5 s cancels the pending request of the object shown. -/
  | attnHold
  /-- REMOVAL_DRAIN (R598): In DRAINING the firmware waits for in-flight requests, retires links, forces channels DARK and sets SAFE. -/
  | removalDrain (timedOut : Bool)
  /-- DENIED_TIMEOUT (R597): 10 s after DENIED the removal state returns to NONE. -/
  | deniedTimeout
  /-- PAGE_TOUCH (R604): A PAGE touch steps the display page or view, or turns the display on. -/
  | pageTouch
  /-- PAGE_HOLD (R595): PAGE held 3 s turns the display off. -/
  | pageHold
  /-- DISPLAY_TIMEOUT (R604): The display turns off after the configured idle time. -/
  | displayTimeout
  /-- LATCH_CHANGE (R600): Opening or closing the ejector latch raises 0x0F05 and updates NOT SAFE. -/
  | latchChange (closed : Bool)
  /-- OSFP_CAGE_CHANGE (R601): Cable insertion or removal in an OSFP cage takes its links down or lets them train. -/
  | osfpCageChange (cage : Fin 6) (present : Bool) (pwr : BitVec 8)
  /-- QSFP_CAGE_CHANGE (R601): Insertion or removal in a QSFP-DD cage raises 0x0F06 and loses or regains PCS lock. -/
  | qsfpCageChange (port : BitVec 1) (present : Bool) (pwr : BitVec 8)
  /-- CAGE_ALARM (R612): A cage module alarm or over-class power raises 0x0F07. -/
  | cageAlarm (cage : Fin 8) (flags : BitVec 8) (pwr : Option (BitVec 8))
  /-- STANDBY_ENTRY_DONE (R500): Entry to STANDBY completes after the recorder flush, link stop, HBM self-refresh and rail removal, and PWR_STAT.CHIP reads STANDBY with event 0x0E08. -/
  | standbyEntryDone
  /-- FALLBACK_CELLS_ZEROED (R446): After a kill, the background zeroing of a service's fallback cells at 64 B per KCLK cycle ends and the cells return to the pool. -/
  | fallbackCellsZeroed (svc : BitVec 12)
  /-- BANK_EXHAUSTED (R615): With input still lost, the hold-up bank falls to 33 V and the always-on domain stops, leaving the module unpowered. -/
  | bankExhausted
  /-- UNKNOWN_COMMAND (R587): MBX_DB.GO with a CODE not in the command table completes with status UNKNOWN. -/
  | unknownCommand (seq : BitVec 8) (code : BitVec 8)
  /-- RESERVED_FLIT_KIND (R395): A received flit of kind 0xC to 0xF is discarded and counted in LNK_RX_DROP. -/
  | reservedFlitKind (link : LinkId) (h : FlitHdr)
  /-- UNSUPPORTED_SPDM_REQUEST (R467): An SPDM request outside the supported set is answered with the error UnsupportedRequest. -/
  | unsupportedSpdmRequest (via : SpdmVia)
  /-- DOE_DISCOVERY (R473): A DOE Discovery data object on function 0 is answered with the supported data object types. -/
  | doeDiscovery (index : BitVec 8)
  /-- PCS_LOCK_CHANGE (R601): An Ethernet port's PCS gains or loses lock on its stream, starting or stopping reception. -/
  | pcsLockChange (port : BitVec 1) (lock : Bool)
  /-- FUNCTION_D_STATE_CHANGE (R576): A configuration write moves a function between D0 and D3hot, stopping BAR decode or resuming it and sending pending MSI-X messages. -/
  | functionDStateChange (fn : Fin 9) (d3 : Bool)
deriving DecidableEq, Repr

end Sys2Proof
end

