-- ==== Sys2Proof/Decode.lean ====
section
/-!
DEFINITION. The commands that a word spells. The command table gives no row any bits, so no word spells a command.
-/
namespace Sys2Proof

/-- The command that the low nbits bits of w spell by the table's bits: none, for no row gives bits. -/
def decodeTableWord (_nbits _w : Nat) : Option Instr := none

end Sys2Proof
end

