-- ==== Sys2Proof/Config.lean ====
section
/-!
DEFINITION. What the spec leaves open: constants without a body. The machine reads and advances the counter State.ctr, and a
free value is one of these applied to it, so that no proof can lean on what it is. The log's entry 3 names them.
-/
namespace Sys2Proof.Config

/-- A change that an UNPREDICTABLE outcome may make to the owning channel (R12). -/
inductive FreeWrite where
  /-- a register field, by its number and its two indices -/
  | field (id a b v : Nat)
  /-- a byte of the channel's HBM, at an address in the stack -/
  | hbm (addr : Nat) (v : BitVec 8)
  /-- a byte of a core's scratchpad -/
  | spd (core addr : Nat) (v : BitVec 8)
  /-- a word of a core's instruction banks -/
  | imem (core index : Nat) (v : BitVec 64)
  /-- the words an input FIFO holds -/
  | fifo (core ep : Nat) (ws : List (BitVec 512))
  /-- the lanes of a V register -/
  | vreg (core r : Nat) (lanes : List (BitVec 32))
deriving Repr

/-- What an UNPREDICTABLE outcome does to its channel. -/
opaque freeWrites : Nat → List FreeWrite
/-- A number the spec leaves open: a wait's length in cycles, a random word, a key drawn by the part. -/
opaque freeNat : Nat → Nat
/-- Bytes the spec leaves open: HBM contents under a new key, a signature, a digest of firmware. -/
opaque freeBytes : Nat → List (BitVec 8)
/-- What a byte of HBM reads as under a key other than the one it was last written under (R428, R429, R446): by what it holds,
the key, and its address. -/
opaque hbmByte : Nat → Nat → Nat → BitVec 8
/-- Bytes of the read-out image that the spec leaves open (R568, R569): by the draw, the item and the core. -/
opaque imageBytes : Nat → Nat → Nat → List (BitVec 8)
/-- A byte of the flash as the module is made (R626): its images, the boot header and the certificate chain. -/
opaque flashByte : Nat → BitVec 8
/-- The contents of the MGC's ROM, and the fuse configuration as measured (R457). -/
opaque romBytes : List (BitVec 8)
/-- See `romBytes`. -/
opaque fuseBytes : List (BitVec 8)
/-- The wake tables and thermal limits that stage 2 loads, by the board configuration and stage 2 (R449, R457). -/
opaque tableBytes : List (BitVec 8) → List (BitVec 8) → List (BitVec 8)
/-- The fused digest of the leaf certificate (R466). -/
opaque leafDigest : List (BitVec 8)
/-- The chip id that a board configuration holds, if any (R450). -/
opaque boardChipId : List (BitVec 8) → Option Nat
/-- The result of an operation for operands whose result the spec does not state. -/
opaque freeResult : Nat → Nat → Nat

end Sys2Proof.Config
end

