-- ==== Sys2Proof/Machine/Fields.lean ====
section
/-!
DEFINITION. The named fields of the machine: every field of the spec's register tables, then the scalar state its prose
names, then the model's own counters. A field is a number of its own, its width and its value at reset; where a register is
repeated, the first index (a) and the second (b) of the place are given when it is read or written (Machine/State.lean).
-/
namespace Sys2Proof.Machine

/-- Whose state a field is: a core's or a channel's (an UNPREDICTABLE outcome may change it, R12), a channel's entry in the
SVE or telemetry block (R13 lets it change too), or the chip's, a link's or an owner's (R13 keeps it). -/
inductive Scope where
  | chip | core | chan | entry
deriving DecidableEq, Repr

/-- A named field: its own number, its width in bits, the value each of its places holds at reset, and whose it is. -/
structure Fld where
  id : Nat
  width : Nat
  reset : Nat
  scope : Scope
deriving DecidableEq, Repr

namespace Fld

/-- ID_PART.PART, RO (00, R31) -/
def idPartPart : Fld := ⟨0, 16, 4736, .chip⟩
/-- ID_PART.STEP, RO (00, R31) -/
def idPartStep : Fld := ⟨1, 8, 1, .chip⟩
/-- ID_GRADE.ISLANDS, RO (00, R31) -/
def idGradeIslands : Fld := ⟨2, 4, 10, .chip⟩
/-- ID_GRADE.CHANNELS, RO (00, R31) -/
def idGradeChannels : Fld := ⟨3, 4, 7, .chip⟩
/-- ID_GRADE.LINKS, RO (00, R31) -/
def idGradeLinks : Fld := ⟨4, 8, 48, .chip⟩
/-- ID_GRADE.SVE, RO (00, R31) -/
def idGradeSve : Fld := ⟨5, 1, 1, .chip⟩
/-- ID_ISLMAP, RO (00, R31); a = n -/
def idIslmapPhysEn : Fld := ⟨6, 10, 1023, .chip⟩
/-- CORE_STAT.STATE, RO (02, R103); a = core -/
def coreStatState : Fld := ⟨7, 3, 0, .core⟩
/-- CORE_STAT.ONFIC, RO (02, R103); a = core -/
def coreStatOnfic : Fld := ⟨8, 1, 0, .core⟩
/-- CORE_STAT.DBELL, RO (02, R103); a = core -/
def coreStatDbell : Fld := ⟨9, 1, 0, .core⟩
/-- CORE_STAT.LDEPTH, RO (02, R103); a = core -/
def coreStatLdepth : Fld := ⟨10, 3, 0, .core⟩
/-- CORE_STAT.INREPLAY, RO (02, R103); a = core -/
def coreStatInreplay : Fld := ⟨11, 1, 0, .core⟩
/-- CORE_PC, RW (02, R103); a = core -/
def corePc : Fld := ⟨12, 13, 0, .core⟩
/-- CORE_HALT.CODE, RO (02, R103); a = core -/
def coreHaltCode : Fld := ⟨13, 16, 0, .core⟩
/-- CORE_HALT.CAUSE, RO (02, R103); a = core -/
def coreHaltCause : Fld := ⟨14, 3, 0, .core⟩
/-- CORE_HALT.PC, RO (02, R103); a = core -/
def coreHaltPc : Fld := ⟨15, 13, 0, .core⟩
/-- CORE_CYC, RO (02, R103); a = core -/
def coreCyc : Fld := ⟨16, 64, 0, .core⟩
/-- CORE_G, RW (02, R103); a = core, b = n -/
def coreG : Fld := ⟨17, 64, 0, .core⟩
/-- CORE_P, RW (02, R103); a = core, b = n -/
def coreP : Fld := ⟨18, 64, 0, .core⟩
/-- CORE_SQF, RO (02, R103); a = core, b = i -/
def coreSqf : Fld := ⟨19, 64, 0, .core⟩
/-- MX_F, RO (03, R133); a = core, b = i -/
def mxF : Fld := ⟨20, 64, 0, .core⟩
/-- MX_STAT.DRAINWAIT, RO (03, R133); a = core -/
def mxStatDrainwait : Fld := ⟨21, 1, 0, .core⟩
/-- MX_STAT.RETAINED, RO (03, R133); a = core -/
def mxStatRetained : Fld := ⟨22, 1, 0, .core⟩
/-- MX_STAT.NAN, W1C (03, R133); a = core -/
def mxStatNan : Fld := ⟨23, 1, 0, .core⟩
/-- MX_STAT.INF, W1C (03, R133); a = core -/
def mxStatInf : Fld := ⟨24, 1, 0, .core⟩
/-- MX_STAT.POISON, W1C (03, R133); a = core -/
def mxStatPoison : Fld := ⟨25, 1, 0, .core⟩
/-- MX_TILES, RO (03, R133); a = core -/
def mxTiles : Fld := ⟨26, 64, 0, .core⟩
/-- MX_STALLC, RO (03, R133); a = core -/
def mxStallc : Fld := ⟨27, 64, 0, .core⟩
/-- MX_BIST.DONE, RO (03, R133); a = core -/
def mxBistDone : Fld := ⟨28, 1, 0, .core⟩
/-- MX_BIST.PASS, RO (03, R133); a = core -/
def mxBistPass : Fld := ⟨29, 1, 0, .core⟩
/-- MX_BIST.ROW, RO (03, R133); a = core -/
def mxBistRow : Fld := ⟨30, 5, 0, .core⟩
/-- MX_BIST.COL, RO (03, R133); a = core -/
def mxBistCol : Fld := ⟨31, 5, 0, .core⟩
/-- VX_F, RO (04, R163); a = core, b = i -/
def vxF : Fld := ⟨32, 64, 0, .core⟩
/-- VX_STAT.TQWAIT, RO (04, R163); a = core -/
def vxStatTqwait : Fld := ⟨33, 1, 0, .core⟩
/-- VX_STAT.POISON, W1C (04, R163); a = core -/
def vxStatPoison : Fld := ⟨34, 1, 0, .core⟩
/-- VX_STAT.SAT8, W1C (04, R163); a = core -/
def vxStatSat8 : Fld := ⟨35, 1, 0, .core⟩
/-- VX_STAT.INF8, W1C (04, R163); a = core -/
def vxStatInf8 : Fld := ⟨36, 1, 0, .core⟩
/-- VX_STAT.NAN, W1C (04, R163); a = core -/
def vxStatNan : Fld := ⟨37, 1, 0, .core⟩
/-- TQ_POPS, RO (04, R163); a = core -/
def tqPops : Fld := ⟨38, 64, 0, .core⟩
/-- SPD_KIND, RW (05, R199); a = core -/
def spdKindWbank : Fld := ⟨39, 16, 0, .core⟩
/-- SPD_KIND_NEXT, RW (05, R199); a = core -/
def spdKindNextWbank : Fld := ⟨40, 16, 0, .core⟩
/-- SPD_PWR.ON, RW (05, R199); a = core -/
def spdPwrOn : Fld := ⟨41, 4, 15, .core⟩
/-- SPD_PWR.READY, RO (05, R199); a = core -/
def spdPwrReady : Fld := ⟨42, 4, 15, .core⟩
/-- SPD_PWR_NEXT, RW (05, R199); a = core -/
def spdPwrNextOn : Fld := ⟨43, 4, 15, .core⟩
/-- SPD_STAT.CONFLICT, W1C (05, R199); a = core -/
def spdStatConflict : Fld := ⟨44, 1, 0, .core⟩
/-- SPD_STAT.AERR, W1C (05, R199); a = core -/
def spdStatAerr : Fld := ⟨45, 1, 0, .core⟩
/-- SPD_STAT.UE, W1C (05, R199); a = core -/
def spdStatUe : Fld := ⟨46, 1, 0, .core⟩
/-- SPD_STAT.INIT, RO (05, R199); a = core -/
def spdStatInit : Fld := ⟨47, 1, 0, .core⟩
/-- SPD_STAT.CLEAN, RO (05, R199); a = core -/
def spdStatClean : Fld := ⟨48, 1, 1, .core⟩
/-- SPD_STAT.ATTEMPT, RO (05, R199); a = core -/
def spdStatAttempt : Fld := ⟨49, 2, 0, .core⟩
/-- SPD_STAT.SWEPT, RO (05, R199); a = core -/
def spdStatSwept : Fld := ⟨50, 1, 1, .core⟩
/-- SPD_CONF.BANK, RO (05, R199); a = core -/
def spdConfBank : Fld := ⟨51, 4, 0, .core⟩
/-- SPD_CONF.WIN, RO (05, R199); a = core -/
def spdConfWin : Fld := ⟨52, 2, 0, .core⟩
/-- SPD_CONF.LOST, RO (05, R199); a = core -/
def spdConfLost : Fld := ⟨53, 4, 0, .core⟩
/-- SPD_CONF.WRITE, RO (05, R199); a = core -/
def spdConfWrite : Fld := ⟨54, 1, 0, .core⟩
/-- SPD_CONF.WORD, RO (05, R199); a = core -/
def spdConfWord : Fld := ⟨55, 9, 0, .core⟩
/-- SPD_CONF.CYC, RO (05, R199); a = core -/
def spdConfCyc : Fld := ⟨56, 32, 0, .core⟩
/-- SPD_STALEC, RO (05, R199); a = core -/
def spdStalec : Fld := ⟨57, 64, 0, .core⟩
/-- SPD_CECNT, RO (05, R199); a = core -/
def spdCecnt : Fld := ⟨58, 64, 0, .core⟩
/-- SPD_RERUNS, RO (05, R199); a = core -/
def spdReruns : Fld := ⟨59, 64, 0, .core⟩
/-- CH_SPD_EPOCH, RO (05, R199); a = channel -/
def chSpdEpoch : Fld := ⟨60, 4, 0, .chan⟩
/-- FOX_CTL.RA_EN, RW (06, R244); a = channel -/
def foxCtlRaEn : Fld := ⟨61, 1, 0, .chan⟩
/-- FOX_CTL.RSVC, RW (06, R244); a = channel -/
def foxCtlRsvc : Fld := ⟨62, 3, 2, .chan⟩
/-- FOX_RTIMEOUT, RW (06, R244); a = channel -/
def foxRtimeoutUs : Fld := ⟨63, 16, 100, .chan⟩
/-- FOX_HSQ_TAIL, RW (06, R244); a = channel -/
def foxHsqTailIndex : Fld := ⟨64, 6, 0, .chan⟩
/-- FOX_HSQ_HEAD, RO (06, R244); a = channel -/
def foxHsqHeadIndex : Fld := ⟨65, 6, 0, .chan⟩
/-- FOX_HSQ_DONE, RO (06, R244); a = channel -/
def foxHsqDone : Fld := ⟨66, 64, 0, .chan⟩
/-- FOX_SPEC_SERVED, RO (06, R244); a = channel -/
def foxSpecServed : Fld := ⟨67, 64, 0, .chan⟩
/-- FOX_RA_CANCELS, RO (06, R244); a = channel -/
def foxRaCancels : Fld := ⟨68, 64, 0, .chan⟩
/-- FOX_RA_RETRIES, RO (06, R244); a = channel -/
def foxRaRetries : Fld := ⟨69, 64, 0, .chan⟩
/-- FOX_RA_DISCARD, RO (06, R244); a = channel -/
def foxRaDiscard : Fld := ⟨70, 64, 0, .chan⟩
/-- FOX_POISON_WORDS, RO (06, R244); a = channel -/
def foxPoisonWords : Fld := ⟨71, 64, 0, .chan⟩
/-- FOX_REMOTE_FAIL, RO (06, R244); a = channel -/
def foxRemoteFail : Fld := ⟨72, 64, 0, .chan⟩
/-- FOX_REFUSED, RO (06, R244); a = channel -/
def foxRefused : Fld := ⟨73, 64, 0, .chan⟩
/-- FOX_RA_HIST, RO (06, R244); a = channel, b = b -/
def foxRaHist : Fld := ⟨74, 64, 0, .chan⟩
/-- FOX_RA_TAB.VALID, RW (06, R244); a = channel, b = t -/
def foxRaTabValid : Fld := ⟨75, 1, 0, .chan⟩
/-- FOX_RA_TAB.REMOTE, RW (06, R244); a = channel, b = t -/
def foxRaTabRemote : Fld := ⟨76, 1, 0, .chan⟩
/-- FOX_RA_TAB.RING, RW (06, R244); a = channel, b = t -/
def foxRaTabRing : Fld := ⟨77, 8, 0, .chan⟩
/-- FOX_RA_TAB.ROW_WORDS, RW (06, R244); a = channel, b = t -/
def foxRaTabRowWords : Fld := ⟨78, 7, 0, .chan⟩
/-- FOX_RA_TAB.BASE, RW (06, R244); a = channel, b = t -/
def foxRaTabBase : Fld := ⟨79, 40, 0, .chan⟩
/-- FOX_RA_TAB.STRIDE, RW (06, R244); a = channel, b = t -/
def foxRaTabStride : Fld := ⟨80, 40, 0, .chan⟩
/-- FOX_RA_TAB.PEER, RW (06, R244); a = channel, b = t -/
def foxRaTabPeer : Fld := ⟨81, 18, 0, .chan⟩
/-- FOX_RING_CFG.EN, RW (06, R244); a = channel, b = n -/
def foxRingCfgEn : Fld := ⟨82, 1, 0, .chan⟩
/-- FOX_RING_CFG.DIR, RW (06, R244); a = channel, b = n -/
def foxRingCfgDir : Fld := ⟨83, 1, 0, .chan⟩
/-- FOX_RING_CFG.CORE, RW (06, R244); a = channel, b = n -/
def foxRingCfgCore : Fld := ⟨84, 8, 0, .chan⟩
/-- FOX_RING_CFG.SLOTS, RW (06, R244); a = channel, b = n -/
def foxRingCfgSlots : Fld := ⟨85, 7, 0, .chan⟩
/-- FOX_RING_CFG.SLOT_WORDS, RW (06, R244); a = channel, b = n -/
def foxRingCfgSlotWords : Fld := ⟨86, 7, 0, .chan⟩
/-- FOX_RING_CFG.BASE, RW (06, R244); a = channel, b = n -/
def foxRingCfgBase : Fld := ⟨87, 19, 0, .chan⟩
/-- FOX_RING_PTR.TAIL, RO (06, R244); a = channel, b = n -/
def foxRingPtrTail : Fld := ⟨88, 6, 0, .chan⟩
/-- FOX_RING_PTR.HEAD, RO (06, R244); a = channel, b = n -/
def foxRingPtrHead : Fld := ⟨89, 6, 0, .chan⟩
/-- FOX_RING_PTR.FILL, RO (06, R244); a = channel, b = n -/
def foxRingPtrFill : Fld := ⟨90, 6, 0, .chan⟩
/-- FOX_RING_PTR.PUB, RO (06, R244); a = channel, b = n -/
def foxRingPtrPub : Fld := ⟨91, 7, 0, .chan⟩
/-- FOX_RING_PTR.TENT, RO (06, R244); a = channel, b = n -/
def foxRingPtrTent : Fld := ⟨92, 7, 0, .chan⟩
/-- FOX_RING_PTR.GEN, RO (06, R244); a = channel, b = n -/
def foxRingPtrGen : Fld := ⟨93, 8, 0, .chan⟩
/-- SY_F, RO (07, R278); a = core, b = i -/
def syF : Fld := ⟨94, 64, 0, .core⟩
/-- SYN_CNT, RW (07, R278); a = core, b = n -/
def synCnt : Fld := ⟨95, 16, 0, .core⟩
/-- SYN_FLAGS.SAT_HI, W1C (07, R278); a = core -/
def synFlagsSatHi : Fld := ⟨96, 16, 0, .core⟩
/-- SYN_FLAGS.SAT_LO, W1C (07, R278); a = core -/
def synFlagsSatLo : Fld := ⟨97, 16, 0, .core⟩
/-- SYN_FLAGS.MISUSE, W1C (07, R278); a = core -/
def synFlagsMisuse : Fld := ⟨98, 16, 0, .core⟩
/-- EP_ROOM, RO (07, R278); a = core, b = e -/
def epRoom : Fld := ⟨99, 7, 64, .core⟩
/-- RTE_CTL.ACTIVE, RO (07, R278); a = channel -/
def rteCtlActive : Fld := ⟨100, 1, 0, .chan⟩
/-- RTE_LINKF.DOWN, W1C (07, R278); a = channel -/
def rteLinkfDown : Fld := ⟨101, 6, 0, .chan⟩
/-- RTE_DROPS, RO (07, R278); a = channel -/
def rteDrops : Fld := ⟨102, 64, 0, .chan⟩
/-- BDG_CTL, RW (07, R278); a = channel -/
def bdgCtlEn : Fld := ⟨103, 1, 1, .chan⟩
/-- BDG_WINDOW, RW (07, R278); a = channel -/
def bdgWindowCycles : Fld := ⟨104, 32, 65536, .chan⟩
/-- BDG_STAT.DEADLOCK, W1C (07, R278); a = channel -/
def bdgStatDeadlock : Fld := ⟨105, 1, 0, .chan⟩
/-- BDG_STAT.QUIET, RO (07, R278); a = channel -/
def bdgStatQuiet : Fld := ⟨106, 1, 0, .chan⟩
/-- BDG_STAT.SILENT, RO (07, R278); a = channel -/
def bdgStatSilent : Fld := ⟨107, 1, 0, .chan⟩
/-- BDG_STAT.QCOUNT, RO (07, R278); a = channel -/
def bdgStatQcount : Fld := ⟨108, 32, 0, .chan⟩
/-- BDG_WHEN, RO (07, R278); a = channel -/
def bdgWhen : Fld := ⟨109, 64, 0, .chan⟩
/-- BDG_REPORTS, RO (07, R278); a = channel -/
def bdgReports : Fld := ⟨110, 64, 0, .chan⟩
/-- BDG_CORE.STATE, RO (07, R278); a = channel, b = n -/
def bdgCoreState : Fld := ⟨111, 3, 0, .chan⟩
/-- BDG_CORE.EXT, RO (07, R278); a = channel, b = n -/
def bdgCoreExt : Fld := ⟨112, 1, 0, .chan⟩
/-- BDG_CORE.WKIND, RO (07, R278); a = channel, b = n -/
def bdgCoreWkind : Fld := ⟨113, 4, 0, .chan⟩
/-- BDG_CORE.OBJ, RO (07, R278); a = channel, b = n -/
def bdgCoreObj : Fld := ⟨114, 8, 0, .chan⟩
/-- BDG_CORE.PC, RO (07, R278); a = channel, b = n -/
def bdgCorePc : Fld := ⟨115, 13, 0, .chan⟩
/-- SYN_BAR_TIMEOUT, RW (07, R278); a = channel -/
def synBarTimeoutUs : Fld := ⟨116, 16, 200, .chan⟩
/-- SYN_CHIPBAR, RW (07, R278); a = channel, b = b -/
def synChipbarChans : Fld := ⟨117, 8, 0, .chan⟩
/-- SYN_BAR_FAULTS, RO (07, R278); a = channel -/
def synBarFaults : Fld := ⟨118, 64, 0, .chan⟩
/-- HBQ_WTAIL, RW (08, R312); a = channel -/
def hbqWtail : Fld := ⟨119, 12, 0, .chan⟩
/-- HBQ_WHEAD, RO (08, R312); a = channel -/
def hbqWhead : Fld := ⟨120, 12, 0, .chan⟩
/-- HBQ_RTAIL, RO (08, R312); a = channel -/
def hbqRtail : Fld := ⟨121, 5, 0, .chan⟩
/-- HBQ_RHEAD, RW (08, R312); a = channel -/
def hbqRhead : Fld := ⟨122, 5, 0, .chan⟩
/-- HBQ_BATCHES, RO (08, R312); a = channel -/
def hbqBatches : Fld := ⟨123, 64, 0, .chan⟩
/-- SVE_CTL.EN0, RW (08, R312) -/
def sveCtlEn0 : Fld := ⟨124, 1, 0, .chip⟩
/-- SVE_CTL.EN1, RW (08, R312) -/
def sveCtlEn1 : Fld := ⟨125, 1, 0, .chip⟩
/-- SVE_INFLIGHT, RO (08, R312) -/
def sveInflight : Fld := ⟨126, 17, 0, .chip⟩
/-- SVE_PORT.MAC, RW (08, R312); a = n -/
def svePortMac : Fld := ⟨127, 48, 0, .chip⟩
/-- SVE_PORT.VLAN, RW (08, R312); a = n -/
def svePortVlan : Fld := ⟨128, 12, 0, .chip⟩
/-- SVE_PORT.VTAG, RW (08, R312); a = n -/
def svePortVtag : Fld := ⟨129, 1, 0, .chip⟩
/-- SVE_PORT.IPV4, RW (08, R312); a = n -/
def svePortIpv4 : Fld := ⟨130, 32, 0, .chip⟩
/-- SVE_PORT.UDP_PORT, RW (08, R312); a = n -/
def svePortUdpPort : Fld := ⟨131, 16, 7240, .chip⟩
/-- SVE_PORT_IPV6_HI, RW (08, R312); a = n -/
def svePortIpv6Hi : Fld := ⟨132, 64, 0, .chip⟩
/-- SVE_PORT_IPV6_LO, RW (08, R312); a = n -/
def svePortIpv6Lo : Fld := ⟨133, 64, 0, .chip⟩
/-- SVE_PORT_RX_OK, RO (08, R312); a = n -/
def svePortRxOk : Fld := ⟨134, 64, 0, .chip⟩
/-- SVE_PORT_RX_DROP, RO (08, R312); a = n -/
def svePortRxDrop : Fld := ⟨135, 64, 0, .chip⟩
/-- SVE_PORT_RX_SLOW, RO (08, R312); a = n -/
def svePortRxSlow : Fld := ⟨136, 64, 0, .chip⟩
/-- SVE_PORT_TX, RO (08, R312); a = n -/
def svePortTx : Fld := ⟨137, 64, 0, .chip⟩
/-- SVE_SVC_SEL, RW (08, R312) -/
def sveSvcSelId : Fld := ⟨138, 12, 0, .chip⟩
/-- SVE_SVC_W0.BOUND, RO (08, R312); a = service -/
def sveSvcW0Bound : Fld := ⟨139, 1, 0, .chip⟩
/-- SVE_SVC_W0.CHANNEL, RO (08, R312); a = service -/
def sveSvcW0Channel : Fld := ⟨140, 3, 0, .chip⟩
/-- SVE_SVC_W0.TAG_REQ, RO (08, R312); a = service -/
def sveSvcW0TagReq : Fld := ⟨141, 1, 0, .chip⟩
/-- SVE_SVC_W0.ERRQ, RO (08, R312); a = service -/
def sveSvcW0Errq : Fld := ⟨142, 1, 0, .chip⟩
/-- SVE_SVC_W0.SYNC, RO (08, R312); a = service -/
def sveSvcW0Sync : Fld := ⟨143, 2, 0, .chip⟩
/-- SVE_SVC_W0.WINDOW_US, RO (08, R312); a = service -/
def sveSvcW0WindowUs : Fld := ⟨144, 11, 0, .chip⟩
/-- SVE_SVC_W0.MAXB, RO (08, R312); a = service -/
def sveSvcW0Maxb : Fld := ⟨145, 9, 0, .chip⟩
/-- SVE_SVC_W0.DEADLINE_US, RO (08, R312); a = service -/
def sveSvcW0DeadlineUs : Fld := ⟨146, 20, 0, .chip⟩
/-- SVE_SVC_W0.KDEF, RO (08, R312); a = service -/
def sveSvcW0Kdef : Fld := ⟨147, 9, 0, .chip⟩
/-- SVE_SVC_W0.KEYSLOT, RO (08, R312); a = service -/
def sveSvcW0Keyslot : Fld := ⟨148, 4, 0, .chip⟩
/-- SVE_SVC_W1.EPOCH, RO (08, R312); a = service -/
def sveSvcW1Epoch : Fld := ⟨149, 32, 0, .chip⟩
/-- SVE_SVC_W1.FB_CELL, RO (08, R312); a = service -/
def sveSvcW1FbCell : Fld := ⟨150, 17, 0, .chip⟩
/-- SVE_SVC_W1.FB_LEN, RO (08, R312); a = service -/
def sveSvcW1FbLen : Fld := ⟨151, 13, 0, .chip⟩
/-- SVE_SVC_W2.ADMITTED, RO (08, R312); a = service -/
def sveSvcW2Admitted : Fld := ⟨152, 32, 0, .chip⟩
/-- SVE_SVC_W2.FALLBACKS, RO (08, R312); a = service -/
def sveSvcW2Fallbacks : Fld := ⟨153, 32, 0, .chip⟩
/-- SVE_SVC_W3.ERRORS, RO (08, R312); a = service -/
def sveSvcW3Errors : Fld := ⟨154, 32, 0, .chip⟩
/-- SVE_SVC_W3.TAGFAIL, RO (08, R312); a = service -/
def sveSvcW3Tagfail : Fld := ⟨155, 32, 0, .chip⟩
/-- SVE_FBWIN, RW (08, R312) -/
def sveFbwinBase : Fld := ⟨156, 17, 0, .chip⟩
/-- SVE_CH.ADMIT, RW (08, R312); a = n -/
def sveChAdmit : Fld := ⟨157, 1, 0, .entry⟩
/-- SVE_CH.QUOTA, RW (08, R312); a = n -/
def sveChQuota : Fld := ⟨158, 19, 49152, .entry⟩
/-- SVE_CH.HELD, RO (08, R312); a = n -/
def sveChHeld : Fld := ⟨159, 19, 0, .entry⟩
/-- SVE_CH.NEXT_TAG, RO (08, R312); a = n -/
def sveChNextTag : Fld := ⟨160, 16, 0, .entry⟩
/-- SVE_CH.QUEUED, RO (08, R312); a = n -/
def sveChQueued : Fld := ⟨161, 8, 0, .entry⟩
/-- SVE_CH.BATCHES, RO (08, R312); a = n -/
def sveChBatches : Fld := ⟨162, 64, 0, .entry⟩
/-- SVE_CH.LATE, RO (08, R312); a = n -/
def sveChLate : Fld := ⟨163, 64, 0, .entry⟩
/-- SVE_CH.TAG_GRACE, RW (08, R312); a = n -/
def sveChTagGrace : Fld := ⟨164, 16, 2000, .entry⟩
/-- SVE_CH.LIVE, RO (08, R312); a = n -/
def sveChLive : Fld := ⟨165, 17, 0, .entry⟩
/-- EXCH_CFG.MODE, RW (09, R336); a = channel -/
def exchCfgMode : Fld := ⟨166, 2, 0, .chan⟩
/-- EXCH_CFG.PCARRY, RW (09, R336); a = channel -/
def exchCfgPcarry : Fld := ⟨167, 1, 0, .chan⟩
/-- EXCH_CFG.RFLIP, RW (09, R336); a = channel -/
def exchCfgRflip : Fld := ⟨168, 1, 0, .chan⟩
/-- EXCH_CFG.RATAB, RW (09, R336); a = channel -/
def exchCfgRatab : Fld := ⟨169, 1, 0, .chan⟩
/-- EXCH_CFG.FORCE, RW (09, R336); a = channel -/
def exchCfgForce : Fld := ⟨170, 1, 0, .chan⟩
/-- EXCH_SEAM.TAG, RW (09, R336); a = channel -/
def exchSeamTag : Fld := ⟨171, 16, 0, .chan⟩
/-- EXCH_SEAM.EPOCH, RW (09, R336); a = channel -/
def exchSeamEpoch : Fld := ⟨172, 32, 0, .chan⟩
/-- EXCH_TIMEOUT, RW (09, R336); a = channel -/
def exchTimeoutUs : Fld := ⟨173, 16, 2000, .chan⟩
/-- EXCH_STAT.PHASE, RO (09, R336); a = channel -/
def exchStatPhase : Fld := ⟨174, 3, 0, .chan⟩
/-- EXCH_STAT.RESULT, RO (09, R336); a = channel -/
def exchStatResult : Fld := ⟨175, 3, 0, .chan⟩
/-- EXCH_STAT.SEAM_TAG, RO (09, R336); a = channel -/
def exchStatSeamTag : Fld := ⟨176, 16, 0, .chan⟩
/-- EXCH_STAT.NOTREADY, RO (09, R336); a = channel -/
def exchStatNotready : Fld := ⟨177, 8, 0, .chan⟩
/-- EXCH_STAT.SYNCDROP, RO (09, R336); a = channel -/
def exchStatSyncdrop : Fld := ⟨178, 8, 0, .chan⟩
/-- EXCH_COUNT, RO (09, R336); a = channel -/
def exchCount : Fld := ⟨179, 64, 0, .chan⟩
/-- EXCH_LAST_GTC, RO (09, R336); a = channel -/
def exchLastGtc : Fld := ⟨180, 64, 0, .chan⟩
/-- EXCH_RSEL, RW (09, R336); a = channel, b = w -/
def exchRsel : Fld := ⟨181, 32, 0, .chan⟩
/-- EXCH_RATAB.VALID, RW (09, R336); a = channel, b = t -/
def exchRatabValid : Fld := ⟨182, 1, 0, .chan⟩
/-- EXCH_RATAB.REMOTE, RW (09, R336); a = channel, b = t -/
def exchRatabRemote : Fld := ⟨183, 1, 0, .chan⟩
/-- EXCH_RATAB.RING, RW (09, R336); a = channel, b = t -/
def exchRatabRing : Fld := ⟨184, 8, 0, .chan⟩
/-- EXCH_RATAB.ROW_WORDS, RW (09, R336); a = channel, b = t -/
def exchRatabRowWords : Fld := ⟨185, 7, 0, .chan⟩
/-- EXCH_RATAB.BASE, RW (09, R336); a = channel, b = t -/
def exchRatabBase : Fld := ⟨186, 40, 0, .chan⟩
/-- EXCH_RATAB.STRIDE, RW (09, R336); a = channel, b = t -/
def exchRatabStride : Fld := ⟨187, 40, 0, .chan⟩
/-- EXCH_RATAB.PEER, RW (09, R336); a = channel, b = t -/
def exchRatabPeer : Fld := ⟨188, 18, 0, .chan⟩
/-- EXCH_RING_CFG.EN, RW (09, R336); a = channel, b = n -/
def exchRingCfgEn : Fld := ⟨189, 1, 0, .chan⟩
/-- EXCH_RING_CFG.DIR, RW (09, R336); a = channel, b = n -/
def exchRingCfgDir : Fld := ⟨190, 1, 0, .chan⟩
/-- EXCH_RING_CFG.CORE, RW (09, R336); a = channel, b = n -/
def exchRingCfgCore : Fld := ⟨191, 8, 0, .chan⟩
/-- EXCH_RING_CFG.SLOTS, RW (09, R336); a = channel, b = n -/
def exchRingCfgSlots : Fld := ⟨192, 7, 0, .chan⟩
/-- EXCH_RING_CFG.SLOT_WORDS, RW (09, R336); a = channel, b = n -/
def exchRingCfgSlotWords : Fld := ⟨193, 7, 0, .chan⟩
/-- EXCH_RING_CFG.BASE, RW (09, R336); a = channel, b = n -/
def exchRingCfgBase : Fld := ⟨194, 19, 0, .chan⟩
/-- EPOCH_CTL, RW (09, R336); a = channel -/
def epochCtlRapar : Fld := ⟨195, 1, 0, .chan⟩
/-- EPOCH_INFL_EVEN, RO (09, R336); a = channel -/
def epochInflEven : Fld := ⟨196, 17, 0, .chan⟩
/-- EPOCH_INFL_ODD, RO (09, R336); a = channel -/
def epochInflOdd : Fld := ⟨197, 17, 0, .chan⟩
/-- EPOCH_RABASE, RW (09, R336); a = channel, b = t -/
def epochRabaseBase : Fld := ⟨198, 40, 0, .chan⟩
/-- CH_CFG.LOCKSTEP, RW (10, R358); a = channel -/
def chCfgLockstep : Fld := ⟨199, 1, 0, .chan⟩
/-- CH_CFG.LFREQ, RW (10, R358); a = channel -/
def chCfgLfreq : Fld := ⟨200, 2, 2, .chan⟩
/-- CH_CFG.ALLOW_RACE, RW (10, R358); a = channel -/
def chCfgAllowRace : Fld := ⟨201, 1, 0, .chan⟩
/-- CH_CFG.REFALIGN, RW (10, R358); a = channel -/
def chCfgRefalign : Fld := ⟨202, 1, 0, .chan⟩
/-- RETRY_COUNT, RO (10, R359); a = channel -/
def retryCount : Fld := ⟨203, 64, 0, .chan⟩
/-- RACE_COUNT, RO (10, R359); a = channel -/
def raceCount : Fld := ⟨204, 64, 0, .chan⟩
/-- STRETCH_CYCLES.FRAC, RO (10, R359); a = channel -/
def stretchCyclesFrac : Fld := ⟨205, 4, 0, .chan⟩
/-- STRETCH_CYCLES.WHOLE, RO (10, R359); a = channel -/
def stretchCyclesWhole : Fld := ⟨206, 60, 0, .chan⟩
/-- DET_ISL_STRETCH.FRAC, RO (10, R359); a = channel, b = i -/
def detIslStretchFrac : Fld := ⟨207, 4, 0, .chan⟩
/-- DET_ISL_STRETCH.WHOLE, RO (10, R359); a = channel, b = i -/
def detIslStretchWhole : Fld := ⟨208, 60, 0, .chan⟩
/-- DET_CTL, RW (10, R359); a = channel -/
def detCtlExpect : Fld := ⟨209, 2, 0, .chan⟩
/-- DET_LOG_HEAD.NEXT, RO (10, R359); a = channel -/
def detLogHeadNext : Fld := ⟨210, 6, 0, .chan⟩
/-- DET_LOG_HEAD.WRITTEN, RO (10, R359); a = channel -/
def detLogHeadWritten : Fld := ⟨211, 32, 0, .chan⟩
/-- DET_LOG.TAG, RO (10, R359); a = channel, b = e -/
def detLogTag : Fld := ⟨212, 16, 0, .chan⟩
/-- DET_LOG.KEPT, RO (10, R359); a = channel, b = e -/
def detLogKept : Fld := ⟨213, 2, 0, .chan⟩
/-- DET_LOG.FREQ, RO (10, R359); a = channel, b = e -/
def detLogFreq : Fld := ⟨214, 2, 0, .chan⟩
/-- DET_LOG.REF2X, RO (10, R359); a = channel, b = e -/
def detLogRef2x : Fld := ⟨215, 1, 0, .chan⟩
/-- DET_LOG.CAUSES, RO (10, R359); a = channel, b = e -/
def detLogCauses : Fld := ⟨216, 8, 0, .chan⟩
/-- DET_LOG.SEGS, RO (10, R359); a = channel, b = e -/
def detLogSegs : Fld := ⟨217, 16, 0, .chan⟩
/-- DET_LOG.PHASE, RO (10, R359); a = channel, b = e -/
def detLogPhase : Fld := ⟨218, 16, 0, .chan⟩
/-- DET_LOG.CSIG, RO (10, R359); a = channel, b = e -/
def detLogCsig : Fld := ⟨219, 64, 0, .chan⟩
/-- DET_LOG.OSIG, RO (10, R359); a = channel, b = e -/
def detLogOsig : Fld := ⟨220, 64, 0, .chan⟩
/-- DET_LOG.DRETRY, RO (10, R359); a = channel, b = e -/
def detLogDretry : Fld := ⟨221, 16, 0, .chan⟩
/-- DET_LOG.DRACE, RO (10, R359); a = channel, b = e -/
def detLogDrace : Fld := ⟨222, 16, 0, .chan⟩
/-- DET_LOG.DSTRETCH, RO (10, R359); a = channel, b = e -/
def detLogDstretch : Fld := ⟨223, 32, 0, .chan⟩
/-- DET_CORE.DCYC, RO (10, R359); a = core -/
def detCoreDcyc : Fld := ⟨224, 32, 0, .core⟩
/-- DET_CORE.SEGS, RO (10, R359); a = core -/
def detCoreSegs : Fld := ⟨225, 16, 0, .core⟩
/-- DET_CORE.OPEN, RO (10, R359); a = core -/
def detCoreOpen : Fld := ⟨226, 16, 0, .core⟩
/-- TUN_STAT.STATE, RO (11, R387) -/
def tunStatState : Fld := ⟨227, 2, 3, .chip⟩
/-- TUN_STAT.CONTESTED, RO (11, R387) -/
def tunStatContested : Fld := ⟨228, 1, 0, .chip⟩
/-- TUN_STAT.FORCED, RO (11, R387) -/
def tunStatForced : Fld := ⟨229, 1, 0, .chip⟩
/-- TUN_STAT.SLEWING, RO (11, R387) -/
def tunStatSlewing : Fld := ⟨230, 1, 0, .chip⟩
/-- TUN_STAT.STEPPED, W1C (11, R387) -/
def tunStatStepped : Fld := ⟨231, 1, 0, .chip⟩
/-- TUN_STAT.NAGREE, RO (11, R387) -/
def tunStatNagree : Fld := ⟨232, 6, 0, .chip⟩
/-- TUN_STAT.NELIG, RO (11, R387) -/
def tunStatNelig : Fld := ⟨233, 6, 0, .chip⟩
/-- TUN_STAT.LEVEL, RO (11, R387) -/
def tunStatLevel : Fld := ⟨234, 6, 63, .chip⟩
/-- TUN_STAT.AGE_MS, RO (11, R387) -/
def tunStatAgeMs : Fld := ⟨235, 16, 0, .chip⟩
/-- TUN_TRIM, RO (11, R387) -/
def tunTrim : Fld := ⟨236, 32, 0, .chip⟩
/-- TUN_FEST, RO (11, R387) -/
def tunFest : Fld := ⟨237, 32, 0, .chip⟩
/-- TUN_OFFSET, RO (11, R387) -/
def tunOffset : Fld := ⟨238, 32, 0, .chip⟩
/-- TUN_POL.SYNC_EN, RO (11, R387) -/
def tunPolSyncEn : Fld := ⟨239, 1, 0, .chip⟩
/-- TUN_POL.SYNC_REF, RO (11, R387) -/
def tunPolSyncRef : Fld := ⟨240, 1, 0, .chip⟩
/-- TUN_POL.PTM_EN, RO (11, R387) -/
def tunPolPtmEn : Fld := ⟨241, 1, 0, .chip⟩
/-- TUN_POL.PTM_REF, RO (11, R387) -/
def tunPolPtmRef : Fld := ⟨242, 1, 0, .chip⟩
/-- TUN_POL.FORCE, RO (11, R387) -/
def tunPolForce : Fld := ⟨243, 7, 127, .chip⟩
/-- TUN_POL.STEP_NS, RO (11, R387) -/
def tunPolStepNs : Fld := ⟨244, 32, 1000, .chip⟩
/-- TUN_LNKEN, RO (11, R387) -/
def tunLnkenEn : Fld := ⟨245, 48, 281474976710655, .chip⟩
/-- TUN_LREFUSED, RO (11, R387) -/
def tunLrefused : Fld := ⟨246, 64, 0, .chip⟩
/-- TUN_QUAR, RO (11, R387) -/
def tunQuar : Fld := ⟨247, 64, 0, .chip⟩
/-- TUN_FBAR_LATE, RO (11, R387) -/
def tunFbarLate : Fld := ⟨248, 64, 0, .chip⟩
/-- TUN_FBAR_UNTIMED, RO (11, R387) -/
def tunFbarUntimed : Fld := ⟨249, 64, 0, .chip⟩
/-- TUN_SRC.OFFSET, RO (11, R387); a = n -/
def tunSrcOffset : Fld := ⟨250, 32, 0, .chip⟩
/-- TUN_SRC.PLEVEL, RO (11, R387); a = n -/
def tunSrcPlevel : Fld := ⟨251, 6, 63, .chip⟩
/-- TUN_SRC.USABLE, RO (11, R387); a = n -/
def tunSrcUsable : Fld := ⟨252, 1, 0, .chip⟩
/-- TUN_SRC.FRESH, RO (11, R387); a = n -/
def tunSrcFresh : Fld := ⟨253, 1, 0, .chip⟩
/-- TUN_SRC.ELIG, RO (11, R387); a = n -/
def tunSrcElig : Fld := ⟨254, 1, 0, .chip⟩
/-- TUN_SRC.AGREE, RO (11, R387); a = n -/
def tunSrcAgree : Fld := ⟨255, 1, 0, .chip⟩
/-- TUN_SRC.QUAR, RO (11, R387); a = n -/
def tunSrcQuar : Fld := ⟨256, 1, 0, .chip⟩
/-- TUN_SRC.QLEFT, RO (11, R387); a = n -/
def tunSrcQleft : Fld := ⟨257, 8, 0, .chip⟩
/-- TUN_SRC.DELAY, RO (11, R387); a = n -/
def tunSrcDelay : Fld := ⟨258, 32, 0, .chip⟩
/-- TUN_SRC.SAMPLES, RO (11, R387); a = n -/
def tunSrcSamples : Fld := ⟨259, 16, 0, .chip⟩
/-- TUN_SRC.DISCARDS, RO (11, R387); a = n -/
def tunSrcDiscards : Fld := ⟨260, 16, 0, .chip⟩
/-- TUN_ASYM, RW (11, R387); a = n -/
def tunAsym : Fld := ⟨261, 32, 0, .chip⟩
/-- TUN_FBAR.CHANS, RW (11, R387); a = b -/
def tunFbarChans : Fld := ⟨262, 8, 0, .chip⟩
/-- TUN_FBAR.UPCH, RW (11, R387); a = b -/
def tunFbarUpch : Fld := ⟨263, 3, 0, .chip⟩
/-- TUN_FBAR.UPL, RW (11, R387); a = b -/
def tunFbarUpl : Fld := ⟨264, 3, 7, .chip⟩
/-- TUN_FBAR.DOWN, RW (11, R387); a = b -/
def tunFbarDown : Fld := ⟨265, 48, 0, .chip⟩
/-- TUN_FBAR_LEAD, RW (11, R387) -/
def tunFbarLeadNs : Fld := ⟨266, 16, 2000, .chip⟩
/-- LNK_CFG, RW (12, R417); a = link -/
def lnkCfgEn : Fld := ⟨267, 1, 1, .chip⟩
/-- LNK_STAT.STATE, RO (12, R417); a = link -/
def lnkStatState : Fld := ⟨268, 3, 0, .chip⟩
/-- LNK_STAT.LADMIT, RO (12, R417); a = link -/
def lnkStatLadmit : Fld := ⟨269, 1, 0, .chip⟩
/-- LNK_STAT.PADMIT, RO (12, R417); a = link -/
def lnkStatPadmit : Fld := ⟨270, 1, 0, .chip⟩
/-- LNK_STAT.CABLE, RO (12, R417); a = link -/
def lnkStatCable : Fld := ⟨271, 1, 0, .chip⟩
/-- LNK_STAT.SIGNAL, RO (12, R417); a = link -/
def lnkStatSignal : Fld := ⟨272, 1, 0, .chip⟩
/-- LNK_STAT.LOCK, RO (12, R417); a = link -/
def lnkStatLock : Fld := ⟨273, 1, 0, .chip⟩
/-- LNK_STAT.FCAUSE, RO (12, R417); a = link -/
def lnkStatFcause : Fld := ⟨274, 4, 0, .chip⟩
/-- LNK_PEER.CHIP, RO (12, R417); a = link -/
def lnkPeerChip : Fld := ⟨275, 15, 0, .chip⟩
/-- LNK_PEER.VALID, RO (12, R417); a = link -/
def lnkPeerValid : Fld := ⟨276, 1, 0, .chip⟩
/-- LNK_PEER.PLINK, RO (12, R417); a = link -/
def lnkPeerPlink : Fld := ⟨277, 6, 0, .chip⟩
/-- LNK_PEER.PART, RO (12, R417); a = link -/
def lnkPeerPart : Fld := ⟨278, 16, 0, .chip⟩
/-- LNK_PEER.STEP, RO (12, R417); a = link -/
def lnkPeerStep : Fld := ⟨279, 8, 0, .chip⟩
/-- LNK_PNONCE, RO (12, R417); a = link -/
def lnkPnonce : Fld := ⟨280, 64, 0, .chip⟩
/-- LNK_TX_FLITS, RO (12, R417); a = link -/
def lnkTxFlits : Fld := ⟨281, 64, 0, .chip⟩
/-- LNK_RX_FLITS, RO (12, R417); a = link -/
def lnkRxFlits : Fld := ⟨282, 64, 0, .chip⟩
/-- LNK_CRC_ERR, RO (12, R417); a = link -/
def lnkCrcErr : Fld := ⟨283, 64, 0, .chip⟩
/-- LNK_FEC_CORR, RO (12, R417); a = link -/
def lnkFecCorr : Fld := ⟨284, 64, 0, .chip⟩
/-- LNK_FEC_UNCORR, RO (12, R417); a = link -/
def lnkFecUncorr : Fld := ⟨285, 64, 0, .chip⟩
/-- LNK_EPISODES, RO (12, R417); a = link -/
def lnkEpisodes : Fld := ⟨286, 64, 0, .chip⟩
/-- LNK_ISO_DROP, RO (12, R417); a = link -/
def lnkIsoDrop : Fld := ⟨287, 64, 0, .chip⟩
/-- LNK_RX_DROP, RO (12, R417); a = link -/
def lnkRxDrop : Fld := ⟨288, 64, 0, .chip⟩
/-- LNK_ATT_STAT, RO (12, R417); a = link -/
def lnkAttStatAtt : Fld := ⟨289, 3, 0, .chip⟩
/-- LNK_CERT_DIGEST, RO (12, R417); a = link, b = w -/
def lnkCertDigest : Fld := ⟨290, 64, 0, .chip⟩
/-- LNK_MEAS_DIGEST, RO (12, R417); a = link, b = w -/
def lnkMeasDigest : Fld := ⟨291, 64, 0, .chip⟩
/-- FAB_CTL.CHIP_ID, RW (12, R417) -/
def fabCtlChipId : Fld := ⟨292, 15, 0, .chip⟩
/-- FAB_CTL.VALID, RW (12, R417) -/
def fabCtlValid : Fld := ⟨293, 1, 0, .chip⟩
/-- FAB_CTL.HOPMAX, RW (12, R417) -/
def fabCtlHopmax : Fld := ⟨294, 4, 8, .chip⟩
/-- FAB_FWD_ADDR.CHIP, RW (12, R417) -/
def fabFwdAddrChip : Fld := ⟨295, 15, 0, .chip⟩
/-- FAB_FWD_ADDR.CH, RW (12, R417) -/
def fabFwdAddrCh : Fld := ⟨296, 3, 0, .chip⟩
/-- FAB_FWD_FRAMES, RO (12, R417) -/
def fabFwdFrames : Fld := ⟨297, 64, 0, .chip⟩
/-- FAB_FWD_DROP, RO (12, R417) -/
def fabFwdDrop : Fld := ⟨298, 64, 0, .chip⟩
/-- FAB_HOPFAIL_TX, RO (12, R417) -/
def fabHopfailTx : Fld := ⟨299, 64, 0, .chip⟩
/-- FAB_HOPFAIL_RX, RO (12, R417) -/
def fabHopfailRx : Fld := ⟨300, 64, 0, .chip⟩
/-- OWN_CH_STAT.STATE, RO (13, R447); a = channel -/
def ownChStatState : Fld := ⟨301, 3, 0, .chip⟩
/-- OWN_CH_STAT.KEYSRC, RO (13, R447); a = channel -/
def ownChStatKeysrc : Fld := ⟨302, 2, 0, .chip⟩
/-- OWN_CH_STAT.RDKEY, RO (13, R447); a = channel -/
def ownChStatRdkey : Fld := ⟨303, 1, 0, .chip⟩
/-- OWN_CH_STAT.PENDING, RO (13, R447); a = channel -/
def ownChStatPending : Fld := ⟨304, 1, 0, .chip⟩
/-- OWN_CH_STAT.SKEYS, RO (13, R447); a = channel -/
def ownChStatSkeys : Fld := ⟨305, 16, 0, .chip⟩
/-- OWN_CH_OID, RO (13, R447); a = channel, b = w -/
def ownChOid : Fld := ⟨306, 64, 0, .chip⟩
/-- OWN_CFG.HOSTIO, RWL (13, R447); a = channel -/
def ownCfgHostio : Fld := ⟨307, 2, 0, .chip⟩
/-- OWN_CFG.EVR_VISIBLE, RWL (13, R447); a = channel -/
def ownCfgEvrVisible : Fld := ⟨308, 1, 1, .chip⟩
/-- OWN_CFG.SVC_TAGGED, RWL (13, R447); a = channel -/
def ownCfgSvcTagged : Fld := ⟨309, 1, 0, .chip⟩
/-- OWN_GRANT.CHIP, RWL (13, R447); a = channel, b = e -/
def ownGrantChip : Fld := ⟨310, 15, 0, .chip⟩
/-- OWN_GRANT.CH, RWL (13, R447); a = channel, b = e -/
def ownGrantCh : Fld := ⟨311, 3, 0, .chip⟩
/-- OWN_GRANT.SEND, RWL (13, R447); a = channel, b = e -/
def ownGrantSend : Fld := ⟨312, 1, 0, .chip⟩
/-- OWN_GRANT.RECV, RWL (13, R447); a = channel, b = e -/
def ownGrantRecv : Fld := ⟨313, 1, 0, .chip⟩
/-- OWN_GRANT.READ, RWL (13, R447); a = channel, b = e -/
def ownGrantRead : Fld := ⟨314, 1, 0, .chip⟩
/-- OWN_GRANT.SERVE, RWL (13, R447); a = channel, b = e -/
def ownGrantServe : Fld := ⟨315, 1, 0, .chip⟩
/-- OWN_SKEY_LOAD_KEY, WO (13, R447); a = channel, b = w -/
def ownSkeyLoadKey : Fld := ⟨316, 64, 0, .chip⟩
/-- OWN_FILT_TX, RO (13, R447); a = channel -/
def ownFiltTx : Fld := ⟨317, 64, 0, .chip⟩
/-- OWN_FILT_RX, RO (13, R447); a = channel -/
def ownFiltRx : Fld := ⟨318, 64, 0, .chip⟩
/-- OWN_BAR2_DENY, RO (13, R447); a = channel -/
def ownBar2Deny : Fld := ⟨319, 64, 0, .chip⟩
/-- OWN_KILLS, RO (13, R447); a = channel -/
def ownKills : Fld := ⟨320, 64, 0, .chip⟩
/-- MSR_BOOT.STAGE, RO (14, R480) -/
def msrBootStage : Fld := ⟨321, 3, 0, .chip⟩
/-- MSR_BOOT.FALLBACK, RO (14, R480) -/
def msrBootFallback : Fld := ⟨322, 1, 0, .chip⟩
/-- MSR_BOOT.SLOTB, RO (14, R480) -/
def msrBootSlotb : Fld := ⟨323, 6, 0, .chip⟩
/-- MSR_BOOT.RCAUSE, RO (14, R480) -/
def msrBootRcause : Fld := ⟨324, 4, 1, .chip⟩
/-- MSR_BOOT.WDCOUNT, RO (14, R480) -/
def msrBootWdcount : Fld := ⟨325, 4, 0, .chip⟩
/-- MSR_BOOT.READY_MS, RO (14, R480) -/
def msrBootReadyMs : Fld := ⟨326, 32, 0, .chip⟩
/-- MSR_BOOTSEL, RW (14, R480) -/
def msrBootselPreferB : Fld := ⟨327, 6, 0, .chip⟩
/-- MSR_LOCK, RO (14, R480) -/
def msrLockLocked : Fld := ⟨328, 9, 0, .chip⟩
/-- MSR_DBG, RO (14, R480) -/
def msrDbgState : Fld := ⟨329, 2, 0, .chip⟩
/-- MSR_VAL, RO (14, R480); a = i, b = w -/
def msrVal : Fld := ⟨330, 64, 0, .chip⟩
/-- MSR_IMGVER, RO (14, R480); a = k -/
def msrImgverVersion : Fld := ⟨331, 32, 0, .chip⟩
/-- MSR_FW_CMD.IMAGE, RW (14, R480) -/
def msrFwCmdImage : Fld := ⟨332, 3, 0, .chip⟩
/-- MSR_FW_CMD.SLOT, RW (14, R480) -/
def msrFwCmdSlot : Fld := ⟨333, 1, 0, .chip⟩
/-- MSR_FW_CMD.OFFSET, RW (14, R480) -/
def msrFwCmdOffset : Fld := ⟨334, 12, 0, .chip⟩
/-- MSR_FW_LEN, RW (14, R480) -/
def msrFwLenBytes : Fld := ⟨335, 16, 0, .chip⟩
/-- MSR_FW_STAT.BUSY, RO (14, R480) -/
def msrFwStatBusy : Fld := ⟨336, 1, 0, .chip⟩
/-- MSR_FW_STAT.RESULT, RO (14, R480) -/
def msrFwStatResult : Fld := ⟨337, 3, 0, .chip⟩
/-- MSR_FWWIN, RW (14, R480); a = i -/
def msrFwwin : Fld := ⟨338, 8, 0, .chip⟩
/-- CH_PWR.REQ, RW (15, R513); a = channel -/
def chPwrReq : Fld := ⟨339, 2, 0, .chan⟩
/-- CH_PWR.HBMOFF, RW (15, R513); a = channel -/
def chPwrHbmoff : Fld := ⟨340, 1, 0, .chan⟩
/-- CH_PWR.AUTORUN, RW (15, R513); a = channel -/
def chPwrAutorun : Fld := ⟨341, 1, 0, .chan⟩
/-- CH_PWR.WBATCH, RW (15, R513); a = channel -/
def chPwrWbatch : Fld := ⟨342, 1, 1, .chan⟩
/-- CH_PWR.WGTC, RW (15, R513); a = channel -/
def chPwrWgtc : Fld := ⟨343, 1, 0, .chan⟩
/-- CH_PWR_STAT.STATE, RO (15, R513); a = channel -/
def chPwrStatState : Fld := ⟨344, 3, 3, .chan⟩
/-- CH_PWR_STAT.WCAUSE, RO (15, R513); a = channel -/
def chPwrStatWcause : Fld := ⟨345, 3, 0, .chan⟩
/-- CH_PWR_STAT.WFAIL, W1C (15, R513); a = channel -/
def chPwrStatWfail : Fld := ⟨346, 1, 0, .chan⟩
/-- CH_PWR_STAT.DEFER, RO (15, R513); a = channel -/
def chPwrStatDefer : Fld := ⟨347, 16, 0, .chan⟩
/-- CH_PWR_STAT.WAKE_NS, RO (15, R513); a = channel -/
def chPwrStatWakeNs : Fld := ⟨348, 32, 0, .chan⟩
/-- CH_WAKE_GTC, RW (15, R513); a = channel -/
def chWakeGtc : Fld := ⟨349, 64, 0, .chan⟩
/-- CH_PWR_DROPS, RO (15, R513); a = channel -/
def chPwrDrops : Fld := ⟨350, 64, 0, .chan⟩
/-- CH_FSET.FSET, RW (15, R513); a = channel, b = i -/
def chFsetFset : Fld := ⟨351, 11, 1500, .chan⟩
/-- CH_FSET.FMIN, RW (15, R513); a = channel, b = i -/
def chFsetFmin : Fld := ⟨352, 11, 800, .chan⟩
/-- CH_PCTL.PCAP_W, RW (15, R513); a = channel -/
def chPctlPcapW : Fld := ⟨353, 16, 0, .chan⟩
/-- CH_PCTL.LMIN, RW (15, R513); a = channel -/
def chPctlLmin : Fld := ⟨354, 2, 0, .chan⟩
/-- CH_CLK_STAT.FEFF, RO (15, R513); a = channel, b = i -/
def chClkStatFeff : Fld := ⟨355, 11, 0, .chan⟩
/-- CH_CLK_STAT.HALVED, RO (15, R513); a = channel, b = i -/
def chClkStatHalved : Fld := ⟨356, 1, 0, .chan⟩
/-- CH_CLK_STAT.THROTTLED, RO (15, R513); a = channel, b = i -/
def chClkStatThrottled : Fld := ⟨357, 1, 0, .chan⟩
/-- CH_CLK_STAT.CAPPED, RO (15, R513); a = channel, b = i -/
def chClkStatCapped : Fld := ⟨358, 1, 0, .chan⟩
/-- PWR_CAP, RW (15, R513) -/
def pwrCapWatts : Fld := ⟨359, 16, 0, .chip⟩
/-- PWR_STAT.THROTTLE, RO (15, R513) -/
def pwrStatThrottle : Fld := ⟨360, 8, 0, .chip⟩
/-- PWR_STAT.HALVED, RO (15, R513) -/
def pwrStatHalved : Fld := ⟨361, 8, 0, .chip⟩
/-- PWR_STAT.SENSOR_SUSPECT, W1C (15, R513) -/
def pwrStatSensorSuspect : Fld := ⟨362, 1, 0, .chip⟩
/-- PWR_STAT.CAPMISS, W1C (15, R513) -/
def pwrStatCapmiss : Fld := ⟨363, 1, 0, .chip⟩
/-- PWR_STAT.WFAIL, W1C (15, R513) -/
def pwrStatWfail : Fld := ⟨364, 1, 0, .chip⟩
/-- PWR_STAT.CHIP, RO (15, R513) -/
def pwrStatChip : Fld := ⟨365, 2, 0, .chip⟩
/-- PWR_SUSPECT.ISL, W1C (15, R513); a = n -/
def pwrSuspectIsl : Fld := ⟨366, 10, 0, .chip⟩
/-- PWR_SUSPECT.UNITS, W1C (15, R513); a = n -/
def pwrSuspectUnits : Fld := ⟨367, 1, 0, .chip⟩
/-- PWR_TRIP.TRIPPED, RO (15, R513) -/
def pwrTripTripped : Fld := ⟨368, 1, 0, .chip⟩
/-- PWR_TRIP.CHIPSUS, W1C (15, R513) -/
def pwrTripChipsus : Fld := ⟨369, 1, 0, .chip⟩
/-- PWR_TRIP.REGION, RO (15, R513) -/
def pwrTripRegion : Fld := ⟨370, 8, 0, .chip⟩
/-- PWR_TRIP.TJ, RO (15, R513) -/
def pwrTripTj : Fld := ⟨371, 16, 0, .chip⟩
/-- PWR_VFLOOR, RO (15, R513); a = n -/
def pwrVfloor : Fld := ⟨372, 10, 0, .chip⟩
/-- PWR_WT_DIR.FIRST, RO (15, R513); a = t -/
def pwrWtDirFirst : Fld := ⟨373, 8, 0, .chip⟩
/-- PWR_WT_DIR.RECORDS, RO (15, R513); a = t -/
def pwrWtDirRecords : Fld := ⟨374, 8, 0, .chip⟩
/-- PWR_WT, RO (15, R513); a = e -/
def pwrWt : Fld := ⟨375, 64, 0, .chip⟩
/-- TEL_CH.PWR_MW, RO (15, R513); a = n -/
def telChPwrMw : Fld := ⟨376, 32, 0, .entry⟩
/-- TEL_CH.RAIL_MV, RO (15, R513); a = n -/
def telChRailMv : Fld := ⟨377, 32, 0, .entry⟩
/-- TEL_CH.TJ, RO (15, R513); a = n -/
def telChTj : Fld := ⟨378, 16, 0, .entry⟩
/-- TEL_CH.HBM_TJ, RO (15, R513); a = n -/
def telChHbmTj : Fld := ⟨379, 16, 0, .entry⟩
/-- TEL_CHIP.PWR_MW, RO (15, R513) -/
def telChipPwrMw : Fld := ⟨380, 32, 0, .chip⟩
/-- TEL_CHIP.TJ, RO (15, R513) -/
def telChipTj : Fld := ⟨381, 16, 0, .chip⟩
/-- EVR_STAT.MOUNTED, RO (16, R548) -/
def evrStatMounted : Fld := ⟨382, 1, 0, .chip⟩
/-- EVR_STAT.FLUSHING, RO (16, R548) -/
def evrStatFlushing : Fld := ⟨383, 1, 0, .chip⟩
/-- EVR_CUR, RW (16, R548) -/
def evrCurPos : Fld := ⟨384, 44, 0, .chip⟩
/-- EVR_WRITTEN, RO (16, R548) -/
def evrWritten : Fld := ⟨385, 64, 0, .chip⟩
/-- EVR_LOST, RO (16, R548) -/
def evrLost : Fld := ⟨386, 64, 0, .chip⟩
/-- EVR_SUPPRESSED, RO (16, R548) -/
def evrSuppressed : Fld := ⟨387, 64, 0, .chip⟩
/-- EVR_BADSECT, RO (16, R548) -/
def evrBadsect : Fld := ⟨388, 64, 0, .chip⟩
/-- EVR_TRIG.CODE, RW (16, R548); a = s -/
def evrTrigCode : Fld := ⟨389, 16, 0, .chip⟩
/-- EVR_TRIG.MASK, RW (16, R548); a = s -/
def evrTrigMask : Fld := ⟨390, 16, 0, .chip⟩
/-- EVR_TRIG.SRC, RW (16, R548); a = s -/
def evrTrigSrc : Fld := ⟨391, 9, 0, .chip⟩
/-- EVR_TRIG.N, RW (16, R548); a = s -/
def evrTrigN : Fld := ⟨392, 5, 0, .chip⟩
/-- EVR_TRIG.FRZ, RW (16, R548); a = s -/
def evrTrigFrz : Fld := ⟨393, 1, 0, .chip⟩
/-- EVR_TRIG.EN, RW (16, R548); a = s -/
def evrTrigEn : Fld := ⟨394, 1, 0, .chip⟩
/-- EVR_TRIG.MISSED, RO (16, R548); a = s -/
def evrTrigMissed : Fld := ⟨395, 16, 0, .chip⟩
/-- EVR_TRIG_SEL, RW (16, R548); a = s, b = j -/
def evrTrigSel : Fld := ⟨396, 32, 0, .chip⟩
/-- EVR_RLIM, RW (16, R548); a = c -/
def evrRlim : Fld := ⟨397, 8, 16, .chip⟩
/-- FRZ_ARM.PIN, RO (17, R572) -/
def frzArmPin : Fld := ⟨398, 1, 0, .chip⟩
/-- FRZ_ARM.TRIG, RO (17, R572) -/
def frzArmTrig : Fld := ⟨399, 1, 0, .chip⟩
/-- FRZ_STAT.FROZEN, RO (17, R572) -/
def frzStatFrozen : Fld := ⟨400, 1, 0, .chip⟩
/-- FRZ_STAT.SRC, RO (17, R572) -/
def frzStatSrc : Fld := ⟨401, 2, 0, .chip⟩
/-- FRZ_STAT.SLOT, RO (17, R572) -/
def frzStatSlot : Fld := ⟨402, 5, 0, .chip⟩
/-- FRZ_STAT.CHFROZEN, RO (17, R572) -/
def frzStatChfrozen : Fld := ⟨403, 8, 0, .chip⟩
/-- FRZ_STAT.RO, RO (17, R572) -/
def frzStatRo : Fld := ⟨404, 3, 0, .chip⟩
/-- FRZ_STAT.PATH, RO (17, R572) -/
def frzStatPath : Fld := ⟨405, 1, 0, .chip⟩
/-- FRZ_GTC, RO (17, R572) -/
def frzGtc : Fld := ⟨406, 64, 0, .chip⟩
/-- FRZ_RO_POS, RO (17, R572) -/
def frzRoPosOffset : Fld := ⟨407, 64, 0, .chip⟩
/-- FRZ_RO_LEN.BYTES, RO (17, R572) -/
def frzRoLenBytes : Fld := ⟨408, 17, 0, .chip⟩
/-- FRZ_RO_LEN.LAST, RO (17, R572) -/
def frzRoLenLast : Fld := ⟨409, 1, 0, .chip⟩
/-- FRZ_RO_LEN.READY, RO (17, R572) -/
def frzRoLenReady : Fld := ⟨410, 1, 0, .chip⟩
/-- FRZ_HBM.BASE, RW (17, R572); a = n, b = r -/
def frzHbmBase : Fld := ⟨411, 40, 0, .chip⟩
/-- FRZ_HBM.LEN, RW (17, R572); a = n, b = r -/
def frzHbmLen : Fld := ⟨412, 15, 0, .chip⟩
/-- FRZ_ROWIN, RO (17, R572); a = i -/
def frzRowin : Fld := ⟨413, 8, 0, .chip⟩
/-- ID_SERIAL, RO (18, R593) -/
def idSerial : Fld := ⟨414, 64, 0, .chip⟩
/-- ID_SLOT, RO (18, R593) -/
def idSlot : Fld := ⟨415, 8, 0, .chip⟩
/-- ID_TOPO.CONN, RO (18, R593); a = n -/
def idTopoConn : Fld := ⟨416, 3, 0, .chip⟩
/-- ID_TOPO.POS, RO (18, R593); a = n -/
def idTopoPos : Fld := ⟨417, 1, 0, .chip⟩
/-- ID_TOPO.BPAIR, RO (18, R593); a = n -/
def idTopoBpair : Fld := ⟨418, 8, 0, .chip⟩
/-- MBX_CMD.CODE, RW (18, R593) -/
def mbxCmdCode : Fld := ⟨419, 8, 0, .chip⟩
/-- MBX_CMD.SEQ, RW (18, R593) -/
def mbxCmdSeq : Fld := ⟨420, 8, 0, .chip⟩
/-- MBX_STAT.BUSY, RO (18, R593) -/
def mbxStatBusy : Fld := ⟨421, 1, 0, .chip⟩
/-- MBX_STAT.DONE, W1C (18, R593) -/
def mbxStatDone : Fld := ⟨422, 1, 0, .chip⟩
/-- MBX_STAT.READY, RO (18, R593) -/
def mbxStatReady : Fld := ⟨423, 1, 0, .chip⟩
/-- MBX_STAT.OVERRUN, W1C (18, R593) -/
def mbxStatOverrun : Fld := ⟨424, 1, 0, .chip⟩
/-- MBX_STAT.STATUS, RO (18, R593) -/
def mbxStatStatus : Fld := ⟨425, 8, 0, .chip⟩
/-- MBX_STAT.SEQ, RO (18, R593) -/
def mbxStatSeq : Fld := ⟨426, 8, 0, .chip⟩
/-- MBX_STAT.CODE, RO (18, R593) -/
def mbxStatCode : Fld := ⟨427, 8, 0, .chip⟩
/-- MBX_STAT.DETAIL, RO (18, R593) -/
def mbxStatDetail : Fld := ⟨428, 16, 0, .chip⟩
/-- MBX_ARG, RW (18, R593); a = w -/
def mbxArg : Fld := ⟨429, 32, 0, .chip⟩
/-- MBX_RSP, RO (18, R593); a = w -/
def mbxRsp : Fld := ⟨430, 32, 0, .chip⟩
/-- MBX_IRQ_STAT, W1C (18, R593) -/
def mbxIrqStatCause : Fld := ⟨431, 11, 0, .chip⟩
/-- MBX_IRQ_MASK, RW (18, R593) -/
def mbxIrqMask : Fld := ⟨432, 11, 2047, .chip⟩
/-- CH_IRQ_STAT, W1C (18, R593); a = channel -/
def chIrqStatCause : Fld := ⟨433, 8, 0, .chan⟩
/-- CH_IRQ_MASK, RW (18, R593); a = channel -/
def chIrqMask : Fld := ⟨434, 8, 255, .chan⟩
/-- FPN_STAT.LATCH, RO (19, R626) -/
def fpnStatLatch : Fld := ⟨435, 1, 0, .chip⟩
/-- FPN_STAT.ATTN, RO (19, R626) -/
def fpnStatAttn : Fld := ⟨436, 1, 0, .chip⟩
/-- FPN_STAT.DISP, RO (19, R626) -/
def fpnStatDisp : Fld := ⟨437, 1, 1, .chip⟩
/-- FPN_STAT.PAGE, RO (19, R626) -/
def fpnStatPage : Fld := ⟨438, 3, 0, .chip⟩
/-- FPN_STAT.VIEW, RO (19, R626) -/
def fpnStatView : Fld := ⟨439, 3, 0, .chip⟩
/-- FPN_STAT.RMV, RO (19, R626) -/
def fpnStatRmv : Fld := ⟨440, 3, 0, .chip⟩
/-- FPN_CTL.RMV_AUTO, RW (19, R626) -/
def fpnCtlRmvAuto : Fld := ⟨441, 1, 0, .chip⟩
/-- FPN_CTL.AUTORET, RW (19, R626) -/
def fpnCtlAutoret : Fld := ⟨442, 1, 0, .chip⟩
/-- FPN_CTL.DTIMEOUT, RW (19, R626) -/
def fpnCtlDtimeout : Fld := ⟨443, 8, 60, .chip⟩
/-- FPN_CTL.RMV_TMO_MS, RW (19, R626) -/
def fpnCtlRmvTmoMs : Fld := ⟨444, 16, 10000, .chip⟩
/-- FPN_LOC, RW (19, R626) -/
def fpnLocMode : Fld := ⟨445, 2, 0, .chip⟩
/-- FPN_ALERT.CAUSE, W1C (19, R626) -/
def fpnAlertCause : Fld := ⟨446, 6, 0, .chip⟩
/-- FPN_ALERT.EN, RW (19, R626) -/
def fpnAlertEn : Fld := ⟨447, 6, 63, .chip⟩
/-- FPN_PWR.VIN, RO (19, R626) -/
def fpnPwrVin : Fld := ⟨448, 16, 0, .chip⟩
/-- FPN_PWR.IIN, RO (19, R626) -/
def fpnPwrIin : Fld := ⟨449, 16, 0, .chip⟩
/-- FPN_PWR.VBANK, RO (19, R626) -/
def fpnPwrVbank : Fld := ⟨450, 16, 0, .chip⟩
/-- FPN_PWR.LOSSES, RO (19, R626) -/
def fpnPwrLosses : Fld := ⟨451, 16, 0, .chip⟩
/-- FPN_CAGE.PRESENT, RO (19, R626); a = k -/
def fpnCagePresent : Fld := ⟨452, 1, 0, .chip⟩
/-- FPN_CAGE.HIGHPWR, RO (19, R626); a = k -/
def fpnCageHighpwr : Fld := ⟨453, 1, 0, .chip⟩
/-- FPN_CAGE.OVERCLASS, RO (19, R626); a = k -/
def fpnCageOverclass : Fld := ⟨454, 1, 0, .chip⟩
/-- FPN_CAGE.ALARM, W1C (19, R626); a = k -/
def fpnCageAlarm : Fld := ⟨455, 1, 0, .chip⟩
/-- FPN_CAGE.RREQ, RO (19, R626); a = k -/
def fpnCageRreq : Fld := ⟨456, 1, 0, .chip⟩
/-- FPN_CAGE.PWR_W, RO (19, R626); a = k -/
def fpnCagePwrW : Fld := ⟨457, 8, 0, .chip⟩
/-- TUN_SYNC_CFG.PERIOD_NS, RO (11, R387) -/
def tunSyncCfgPeriodNs : Fld := ⟨458, 32, 0, .chip⟩
/-- TUN_SYNC_CFG.OFFSET_NS, RO (11, R387) -/
def tunSyncCfgOffsetNs : Fld := ⟨459, 32, 0, .chip⟩
/-- TUN_SYNC_DLY, RO (11, R387) -/
def tunSyncDly : Fld := ⟨460, 32, 0, .chip⟩
/-- TUN_SOUT_CFG.PERIOD_NS, RO (11, R387) -/
def tunSoutCfgPeriodNs : Fld := ⟨461, 32, 0, .chip⟩
/-- TUN_SOUT_CFG.OFFSET_NS, RO (11, R387) -/
def tunSoutCfgOffsetNs : Fld := ⟨462, 32, 0, .chip⟩
/-- TUN_PTM_CFG, RO (11, R387) -/
def tunPtmCfgPeriod : Fld := ⟨463, 16, 16, .chip⟩
/-- TUN_PTM_OFS, RO (11, R387) -/
def tunPtmOfs : Fld := ⟨464, 64, 0, .chip⟩
/-- RTE_RANK, RW (07, R253); a = channel, b = p × c -/
def rteRank : Fld := ⟨465, 8, 0, .chan⟩
/-- RTE_EXT, RW (07, R253); a = channel, b = p × c -/
def rteExt : Fld := ⟨466, 8, 0, .chan⟩
/-- RTE_ROUTE, RW (07, R253); a = channel, b = p × x -/
def rteRoute : Fld := ⟨467, 64, 0, .chan⟩
/-- RTE_BAR_MEM, RW (07, R270); a = channel, b = p × x -/
def rteBarMem : Fld := ⟨468, 32, 0, .chan⟩
/-- first instruction of the body of the active loop at depth b (02, R79) -/
def coreLoopStart : Fld := ⟨469, 13, 0, .core⟩
/-- END of the active loop at depth b (02, R79) -/
def coreLoopLast : Fld := ⟨470, 13, 0, .core⟩
/-- COUNT of the active loop at depth b (02, R79) -/
def coreLoopCount : Fld := ⟨471, 32, 0, .core⟩
/-- iteration index of the active loop at depth b (02, R70) -/
def coreLoopIdx : Fld := ⟨472, 32, 0, .core⟩
/-- START of the active REPLAY (02, R81) -/
def coreRepStart : Fld := ⟨473, 13, 0, .core⟩
/-- LEN of the active REPLAY (02, R81) -/
def coreRepLen : Fld := ⟨474, 13, 0, .core⟩
/-- COUNT of the active REPLAY (02, R81) -/
def coreRepCount : Fld := ⟨475, 32, 0, .core⟩
/-- iteration index of the active REPLAY (02, R70) -/
def coreRepIdx : Fld := ⟨476, 32, 0, .core⟩
/-- the instruction after the active REPLAY (02, R81) -/
def coreRepRet : Fld := ⟨477, 13, 0, .core⟩
/-- patch slot b armed (02, R84) -/
def corePatchArm : Fld := ⟨478, 1, 0, .core⟩
/-- PD of patch slot b (02, R84) -/
def corePatchPd : Fld := ⟨479, 6, 0, .core⟩
/-- PS of patch slot b (02, R84) -/
def corePatchPs : Fld := ⟨480, 6, 0, .core⟩
/-- the CORE_CYC from which G register b can be read without a stall (02, R65) -/
def coreGRdy : Fld := ⟨481, 64, 0, .core⟩
/-- the CORE_CYC from which V register b can be read without a stall (04, R136) -/
def coreVRdy : Fld := ⟨482, 64, 0, .core⟩
/-- what a waiting or gated core waits for (07, R275) -/
def coreWkind : Fld := ⟨483, 4, 0, .core⟩
/-- the object a waiting or gated core waits on (07, R275) -/
def coreWobj : Fld := ⟨484, 8, 0, .core⟩
/-- a CLKSEL = 0 written on the FIC awaits the island clock's lock (02, R99) -/
def coreClkPend : Fld := ⟨485, 1, 0, .core⟩
/-- the core's clock aligner is locked to the island clock (02, R99) -/
def coreAlign : Fld := ⟨486, 1, 1, .core⟩
/-- the active instruction bank, 0 for physical bank A (02, R57) -/
def coreBank : Fld := ⟨487, 1, 0, .core⟩
/-- the first CORE_CYC at which the matrix array is seen not busy, once its last tile has drained (03, R130) -/
def mxDoneAt : Fld := ⟨488, 64, 0, .core⟩
/-- the plane that holds the retained tile (03, R114) -/
def mxRetPlane : Fld := ⟨489, 1, 0, .core⟩
/-- the retained tile is INT32 (03, R111) -/
def mxRetInt : Fld := ⟨490, 1, 0, .core⟩
/-- the first CORE_CYC at which the VX unit is seen not busy, once its last tile is spilled (04, R155) -/
def vxDoneAt : Fld := ⟨491, 64, 0, .core⟩
/-- physical index of the head entry (TQ_STAT.HEAD) (04, R149) -/
def tqHead : Fld := ⟨492, 3, 0, .core⟩
/-- state of tile-queue entry b: 0 FREE, 1 FILLING, 2 FULL, 3 READ (TQ_STAT.STATE) (04, R148) -/
def tqEnt : Fld := ⟨493, 2, 0, .core⟩
/-- the first CORE_CYC at which tile-queue entry b is free (03, R128) -/
def tqFreeAt : Fld := ⟨494, 64, 0, .core⟩
/-- the first CORE_CYC at which tile-queue entry b is seen full (03, R128) -/
def tqFullAt : Fld := ⟨495, 64, 0, .core⟩
/-- epoch tag of bank word b (address [18:6]) (05, R188) -/
def spdTag : Fld := ⟨496, 4, 0, .core⟩
/-- bank word b holds a code that fails every check (05, R168) -/
def spdErr : Fld := ⟨497, 1, 0, .core⟩
/-- banks whose initialisation runs (05, R195) -/
def spdInitMask : Fld := ⟨498, 16, 0, .core⟩
/-- groups that are powering up (05, R195) -/
def spdUpMask : Fld := ⟨499, 4, 0, .core⟩
/-- the sweeper's next word in bank b (05, R190) -/
def spdSweepPos : Fld := ⟨500, 9, 0, .core⟩
/-- words of bank b visited since the last epoch advance (05, R190) -/
def spdVisited : Fld := ⟨501, 10, 512, .core⟩
/-- a channel halt pends after a conflict or VX error of this core (05, R176) -/
def spdHaltPend : Fld := ⟨502, 1, 0, .core⟩
/-- one plus the last second in which event 0x0406 was raised (05, R178) -/
def spdCeSec : Fld := ⟨503, 64, 0, .core⟩
/-- the core waits for INIT to clear before it begins issue (05, R195) -/
def coreStartWait : Fld := ⟨504, 1, 0, .core⟩
/-- MSI-X enabled on function a (18, R580) -/
def msixEn : Fld := ⟨505, 1, 0, .chip⟩
/-- MSI-X function mask of function a (18, R580) -/
def msixFmask : Fld := ⟨506, 1, 0, .chip⟩
/-- MSI-X mask of vector b of function a (PCIe: set at reset) (18, R580) -/
def msixVmask : Fld := ⟨507, 1, 1, .chip⟩
/-- PBA bit of vector b of function a (18, R581) -/
def msixPba : Fld := ⟨508, 1, 0, .chip⟩
/-- function a is in D3hot (18, R576) -/
def fnD3 : Fld := ⟨509, 1, 0, .chip⟩
/-- the Global Time Counter in ns (TUN_GTC_LO and TUN_GTC_HI show its halves) (11, R361) -/
def gtc : Fld := ⟨510, 64, 0, .chip⟩
/-- the core's view of ring b: published slots not yet popped (06, R228) -/
def ringPubv : Fld := ⟨511, 7, 0, .chan⟩
/-- the core's view of ring b: free slots of an OUT ring (06, R228) -/
def ringFreev : Fld := ⟨512, 7, 0, .chan⟩
/-- the slot of ring b at the core's pointer (06, R229) -/
def ringCorePtr : Fld := ⟨513, 6, 0, .chan⟩
/-- state of slot b mod 64 of ring b div 64: 0 FREE, 1 RESERVED, 2 TENTATIVE, 3 PUBLISHED (06, R222) -/
def ringSlotSt : Fld := ⟨514, 2, 0, .chan⟩
/-- the slot's last byte has landed (06, R224) -/
def ringSlotLanded : Fld := ⟨515, 1, 0, .chan⟩
/-- valid words of the slot (06, R223) -/
def ringSlotWords : Fld := ⟨516, 7, 0, .chan⟩
/-- EOS of the slot (06, R223) -/
def ringSlotEos : Fld := ⟨517, 1, 0, .chan⟩
/-- POISON of the slot (06, R223) -/
def ringSlotPoison : Fld := ⟨518, 1, 0, .chan⟩
/-- words of the slot still to land or to be drained (06, R224) -/
def ringSlotLeft : Fld := ⟨519, 7, 0, .chan⟩
/-- generation of the ring when the slot was reserved (06, R243) -/
def ringSlotGen : Fld := ⟨520, 8, 0, .chan⟩
/-- a GO.FX awaits Fox's acceptance (06, R210) -/
def fxWait : Fld := ⟨521, 1, 0, .core⟩
/-- the first CORE_CYC at which the FX unit is seen not busy (06, R210) -/
def fxDoneAt : Fld := ⟨522, 64, 0, .core⟩
/-- FX layer field b (06, R208) -/
def fxF : Fld := ⟨523, 64, 0, .core⟩
/-- words the landing in progress has still to write (07, R263) -/
def syLeft : Fld := ⟨524, 64, 0, .core⟩
/-- words the landing in progress has written (07, R263) -/
def syIdx : Fld := ⟨525, 16, 0, .core⟩
/-- input endpoint of the landing in progress (07, R263) -/
def syEp : Fld := ⟨526, 3, 0, .core⟩
/-- scratchpad address of the landing in progress (07, R263) -/
def syAddr : Fld := ⟨527, 19, 0, .core⟩
/-- the first CORE_CYC at which the SY unit is seen not busy (07, R263) -/
def syDoneAt : Fld := ⟨528, 64, 0, .core⟩
/-- completed arrivals of the core at barrier b mod 4 of scope b div 4 (07, R273) -/
def barCount : Fld := ⟨529, 32, 0, .core⟩
/-- the core has arrived at barrier b mod 4 of scope b div 4 and holds there (07, R270) -/
def barWait : Fld := ⟨530, 1, 0, .core⟩
/-- cause of the fault of the open generation of barrier b mod 4 of scope b div 4, 0 none (07, R273) -/
def barFault : Fld := ⟨531, 2, 0, .chan⟩
/-- the generation that barFault names (07, R273) -/
def barFaultGen : Fld := ⟨532, 32, 0, .chan⟩
/-- the BAR_TIMEOUT timer of barrier b mod 4 of scope b div 4 runs (07, R273) -/
def barTimer : Fld := ⟨533, 1, 0, .chan⟩
/-- publications or freed slots of ring b on their way to the core's view (06, R228) -/
def ringViewPend : Fld := ⟨534, 7, 0, .chan⟩
/-- the slot of OUT ring b that Fox reads next (06, R225) -/
def ringReadSlot : Fld := ⟨535, 6, 0, .chan⟩
/-- the active entry that led the last issue cycle (06, R215) -/
def foxLead : Fld := ⟨536, 6, 63, .chan⟩
/-- descriptors that have arrived at Fox, the order of arrival (06, R214) -/
def foxSeq : Fld := ⟨537, 32, 0, .chan⟩
/-- service slots since the last restart (06, R237) -/
def foxServK : Fld := ⟨538, 32, 0, .chan⟩
/-- the peer service share in effect since the last restart (06, R237) -/
def foxRsvcEff : Fld := ⟨539, 3, 2, .chan⟩
/-- the host queue tail that Fox has seen (06, R212) -/
def foxHsqSeen : Fld := ⟨540, 6, 0, .chan⟩
/-- a host queue tail is on its way to Fox (06, R212) -/
def foxHsqWay : Fld := ⟨541, 1, 0, .chan⟩
/-- forwarding entry of channel a for chip b: link 0 to 5, or 7 none (12, R413) -/
def fabFwd : Fld := ⟨542, 3, 7, .chip⟩
/-- the next SEQ that link a sends (12, R394) -/
def lnkTxSeq : Fld := ⟨543, 12, 0, .chip⟩
/-- the SEQ that link a expects (12, R400) -/
def lnkExp : Fld := ⟨544, 12, 0, .chip⟩
/-- nak_pending of link a (12, R400) -/
def lnkNakPend : Fld := ⟨545, 1, 0, .chip⟩
/-- a NAK waits to be sent on link a (12, R400) -/
def lnkNakDue : Fld := ⟨546, 1, 0, .chip⟩
/-- a receive episode is open on link a (12, R402) -/
def lnkRxEp : Fld := ⟨547, 1, 0, .chip⟩
/-- a send episode is open on link a (12, R402) -/
def lnkTxEp : Fld := ⟨548, 1, 0, .chip⟩
/-- the SEQ whose acknowledgement ends the send episode of link a (12, R401) -/
def lnkTxEpSeq : Fld := ⟨549, 12, 0, .chip⟩
/-- flits of the retry buffer of link a that still have to be replayed (12, R401) -/
def lnkReplay : Fld := ⟨550, 10, 0, .chip⟩
/-- the class that the rotation of link a serves next (12, R397) -/
def lnkRot : Fld := ⟨551, 2, 0, .chip⟩
/-- this side's NONCE on link a (12, R408) -/
def lnkNonce : Fld := ⟨552, 64, 0, .chip⟩
/-- a HELLO has come on link a since TRAINING began (12, R407) -/
def lnkHello : Fld := ⟨553, 1, 0, .chip⟩
/-- a LINK_RETIRE runs on link a (12, R411) -/
def lnkRetiring : Fld := ⟨554, 1, 0, .chip⟩
/-- link a has been ADMITTED (12, R417) -/
def lnkEverAdm : Fld := ⟨555, 1, 0, .chip⟩
/-- the BSEQ of the last beacon sent on link a (12, R404) -/
def lnkBseq : Fld := ⟨556, 8, 0, .chip⟩
/-- a beacon waits to be sent on link a (12, R404) -/
def lnkBcnDue : Fld := ⟨557, 1, 0, .chip⟩
/-- the BSEQ of the last beacon received on link a (12, R404) -/
def lnkPeerBseq : Fld := ⟨558, 8, 0, .chip⟩
/-- the TXTS of the last beacon received on link a (12, R404) -/
def lnkPeerTx : Fld := ⟨559, 64, 0, .chip⟩
/-- the local receive time of the last beacon on link a (12, R404) -/
def lnkPeerRx : Fld := ⟨560, 64, 0, .chip⟩
/-- one plus the microsecond in which the chip last sent a HOPFAIL (12, R414) -/
def fabHfTime : Fld := ⟨561, 64, 0, .chip⟩
/-- the core of the channel that arrived last at barrier b mod 4 of scope b div 4 (07, R270) -/
def barLast : Fld := ⟨562, 8, 0, .chan⟩
/-- the chip's generation of fabric barrier a (12, R405) -/
def fbarGen : Fld := ⟨563, 32, 0, .chip⟩
/-- an ARRIVE for the current generation of fabric barrier a has come on link b (11, R383) -/
def fbarArr : Fld := ⟨564, 1, 0, .chip⟩
/-- this chip has arrived in the current generation of fabric barrier a (11, R383) -/
def fbarSent : Fld := ⟨565, 1, 0, .chip⟩
/-- the current generation of fabric barrier a is released at fbarT (11, R383) -/
def fbarRel : Fld := ⟨566, 1, 0, .chip⟩
/-- the release count T of fabric barrier a (11, R383) -/
def fbarT : Fld := ⟨567, 64, 0, .chip⟩
/-- every word of the landing was present when it began (07, R263) -/
def syExact : Fld := ⟨568, 1, 0, .core⟩
/-- a batch interval of the channel is open (10, R338) -/
def detOpen : Fld := ⟨569, 1, 0, .chan⟩
/-- batch tag of the open interval (10, R355) -/
def detTag : Fld := ⟨570, 16, 0, .chan⟩
/-- causes set in the open interval, as DET_LOG numbers them (10, R356) -/
def detCauses : Fld := ⟨571, 8, 0, .chan⟩
/-- RETRY_COUNT at the opening of the interval (10, R355) -/
def detRetry0 : Fld := ⟨572, 64, 0, .chan⟩
/-- RACE_COUNT at the opening of the interval (10, R355) -/
def detRace0 : Fld := ⟨573, 64, 0, .chan⟩
/-- STRETCH_CYCLES.WHOLE at the opening of the interval (10, R355) -/
def detStretch0 : Fld := ⟨574, 60, 0, .chan⟩
/-- OSIG of the open interval so far (10, R345) -/
def detOsig : Fld := ⟨575, 64, 0, .chan⟩
/-- ring b has published a slot filled by rows or by a REMOTE descriptor in the interval (10, R343) -/
def detRingExt : Fld := ⟨576, 1, 0, .chan⟩
/-- a segment of the core is running (10, R344) -/
def detSegOpen : Fld := ⟨577, 1, 0, .core⟩
/-- CORE_CYC in which the segment opened (10, R344) -/
def detSegStart : Fld := ⟨578, 64, 0, .core⟩
/-- the segment has made an external wait (10, R344) -/
def detSegExt : Fld := ⟨579, 1, 0, .core⟩
/-- open segments of the core in the interval so far (10, R344) -/
def detSegOpens : Fld := ⟨580, 16, 0, .core⟩
/-- counter b last rose by the DONE_CTR increment of a REMOTE descriptor (10, R343) -/
def synRem : Fld := ⟨581, 1, 0, .core⟩
/-- the slot period of the stack is halved (10, R349) -/
def refHalf : Fld := ⟨582, 1, 0, .chan⟩
/-- the slot period that the next slot boundary brings is halved (10, R349) -/
def refPend : Fld := ⟨583, 1, 0, .chan⟩
/-- the LOCKSTEP frequency in force, as LFREQ numbers it (15, R484) -/
def chLfreqEff : Fld := ⟨584, 2, 2, .chan⟩
/-- requests of service a answered in latency bin b (08, R313) -/
def svcLat : Fld := ⟨585, 32, 0, .chip⟩
/-- the second that slowCnt counts, of port a (08, R283) -/
def slowSec : Fld := ⟨586, 64, 0, .chip⟩
/-- slow-path frames handled in that second, of port a (08, R283) -/
def slowCnt : Fld := ⟨587, 16, 0, .chip⟩
/-- requests admitted so far (08, R295) -/
def sveSerial : Fld := ⟨588, 48, 0, .chip⟩
/-- GTC at which the hold timer started (09, R319) -/
def exchHeldAt : Fld := ⟨589, 64, 0, .chan⟩
/-- the seam interval of the channel runs (09, R327) -/
def exchSeam : Fld := ⟨590, 1, 0, .chan⟩
/-- a SYNC edge is latched (09, R327) -/
def exchSync : Fld := ⟨591, 1, 0, .chan⟩
/-- the command in progress (18, R584) -/
def mbxCur : Fld := ⟨592, 8, 0, .chip⟩
/-- the channel, service or link that it names (18, R584) -/
def mbxCurObj : Fld := ⟨593, 16, 0, .chip⟩
/-- the state that the channel enters, holds or wakes from is DARK rather than DOZE (15, R495) -/
def pwrDark : Fld := ⟨594, 1, 1, .chan⟩
/-- the service tag key in slot b of channel a (13, R438) -/
def ownSkey : Fld := ⟨595, 256, 0, .chip⟩
/-- the target count of the LAUNCH that the core holds (11, R380) -/
def coreLaunchT : Fld := ⟨596, 97, 0, .core⟩
/-- rings of the channel that hold a slot reserved by a descriptor the forced seam abandoned (09, R328) -/
def foxRings : Fld := ⟨597, 256, 0, .chan⟩
/-- the retained tile carries POISON (03, R126) -/
def mxRetPoison : Fld := ⟨598, 1, 0, .core⟩
/-- scratchpad word address that gave the retained tile its POISON (03, R126) -/
def mxRetAddr : Fld := ⟨599, 19, 0, .core⟩
/-- SEQ of the command in progress (18, R584) -/
def mbxSeq : Fld := ⟨600, 8, 0, .chip⟩
/-- words left of the stream that BATCH.TAKE has begun on the U16, 0 between streams (08, R310) -/
def hbqLeft : Fld := ⟨601, 32, 0, .chan⟩
/-- batch tag of that stream (08, R310) -/
def hbqTag : Fld := ⟨602, 16, 0, .chan⟩
/-- the fraction of the GTC below 1 ns, in units of 2^-32 ns (11, R361) -/
def gtcFrac : Fld := ⟨603, 32, 0, .chip⟩
/-- nanoseconds that the MGC has counted while the Tuning Unit is off (11, R363) -/
def gtcAway : Fld := ⟨604, 64, 0, .chip⟩
/-- the high half latched for requester a: 0 PCIe function 0, 1 the MGC (11, R365) -/
def gtcLatch : Fld := ⟨605, 32, 0, .chip⟩
/-- KCLK ticks counted (11, R371) -/
def tunTicks : Fld := ⟨606, 64, 0, .chip⟩
/-- signed sum of TUN_TRIM - TUN_FEST over the ticks counted, in units of 2^-32 ns (11, R371) -/
def tunRun : Fld := ⟨607, 128, 0, .chip⟩
/-- fusion epochs run (11, R371) -/
def tunEpochs : Fld := ⟨608, 64, 0, .chip⟩
/-- GTC / 65,536 at the last epoch (11, R371) -/
def tunEpochAt : Fld := ⟨609, 64, 0, .chip⟩
/-- holdover age in ns (11, R371) -/
def tunAge : Fld := ⟨610, 64, 0, .chip⟩
/-- the last sample of source a less the steps since, signed, in 1/256 ns (11, R371) -/
def tunSrcOff : Fld := ⟨611, 128, 0, .chip⟩
/-- the one-way delay of the last sample of source a, signed, in 1/256 ns (11, R366) -/
def tunSrcDly : Fld := ⟨612, 128, 0, .chip⟩
/-- tunRun when the last sample of source a was taken (11, R371) -/
def tunSrcRun : Fld := ⟨613, 128, 0, .chip⟩
/-- epochs run when the last sample of source a was taken (11, R369) -/
def tunSrcEp : Fld := ⟨614, 64, 0, .chip⟩
/-- ticks counted when the last sample of source a was taken (11, R369) -/
def tunSrcTick : Fld := ⟨615, 64, 0, .chip⟩
/-- ticks at steered epoch a mod 64 (11, R377) -/
def tunFestX : Fld := ⟨616, 64, 0, .chip⟩
/-- adopted time less ticks at steered epoch a mod 64, signed, in units of 2^-32 ns (11, R377) -/
def tunFestY : Fld := ⟨617, 128, 0, .chip⟩
/-- points held, at most 64 (11, R377) -/
def tunFestN : Fld := ⟨618, 7, 0, .chip⟩
/-- where the next point goes (11, R377) -/
def tunFestNext : Fld := ⟨619, 6, 0, .chip⟩
/-- the asymmetry of link a in force since the last epoch (11, R366) -/
def tunAsymEff : Fld := ⟨620, 32, 0, .chip⟩
/-- the count of epochs at which the next PTM dialogue is due (11, R368) -/
def tunPtmNext : Fld := ⟨621, 64, 0, .chip⟩
/-- one plus the GTC count of the last SYNC_OUT pulse (11, R385) -/
def tunSoutLast : Fld := ⟨622, 65, 0, .chip⟩
/-- argument word a of the command in progress (18, R584) -/
def mbxCopy : Fld := ⟨623, 32, 0, .chip⟩
/-- M, the GTC count at which the refresh-slot counter of the channel restarts (10, R348) -/
def refBase : Fld := ⟨624, 64, 0, .chan⟩
/-- the refresh-slot counter of the channel has still to restart for its open interval (10, R348) -/
def refRestart : Fld := ⟨625, 1, 0, .chan⟩
/-- the GTC count at which the open receive episode of link a opened (12, R403) -/
def lnkRxEpAt : Fld := ⟨626, 64, 0, .chip⟩
/-- the GTC count at which the open send episode of link a opened (12, R403) -/
def lnkTxEpAt : Fld := ⟨627, 64, 0, .chip⟩
/-- one plus the GTC count at which the episode in place b of the last 256 of link a opened (12, R403) -/
def lnkEpTime : Fld := ⟨628, 65, 0, .chip⟩
/-- the place of the next episode of link a (12, R403) -/
def lnkEpNext : Fld := ⟨629, 8, 0, .chip⟩
/-- the GTC count of the last ACK progress of link a, or of the first flit since (12, R401) -/
def lnkAckAt : Fld := ⟨630, 64, 0, .chip⟩
/-- link a has sent a beacon since it left TRAINING (12, R404) -/
def lnkBcnSent : Fld := ⟨631, 1, 0, .chip⟩
/-- GTC / 65,536 when beacons last fell due (12, R404) -/
def lnkBcnAt : Fld := ⟨632, 64, 0, .chip⟩
/-- the GTC count at which LINK_RETIRE of link a began to wait (12, R411) -/
def lnkRetireAt : Fld := ⟨633, 64, 0, .chip⟩
/-- a whole SPDM request waits at link a (12, R406) -/
def lnkAttGot : Fld := ⟨634, 1, 0, .chip⟩
/-- its XID (12, R406) -/
def lnkAttXid : Fld := ⟨635, 8, 0, .chip⟩
/-- the mode of the LINK_ADMIT in progress (18, R588) -/
def mbxMode : Fld := ⟨636, 2, 0, .chip⟩
/-- the channel PLL relocks: CCLK and every island clock of the channel stand still (15, R484) -/
def pllRelock : Fld := ⟨637, 1, 0, .chan⟩
/-- the LOCKSTEP frequency that the relock in progress brings (15, R484) -/
def chLfreqNext : Fld := ⟨638, 2, 2, .chan⟩
/-- the GTC count at which the running wake began (15, R495) -/
def wakeAt : Fld := ⟨639, 64, 0, .chan⟩
/-- the cap loop's limit on the LOCKSTEP frequency of the channel (15, R506) -/
def capLimL : Fld := ⟨640, 2, 2, .chan⟩
/-- the thermal limit on the LOCKSTEP frequency of the channel (15, R508) -/
def thLimL : Fld := ⟨641, 2, 2, .chan⟩
/-- the key in the XTS engine of channel a, as a name: 0 none, 4k + 3 a delivered key k, 4n + 2 the part's own draw n (13, R429) -/
def xtsKey : Fld := ⟨642, 520, 0, .chip⟩
/-- names what the stack of channel a holds where nothing has been written since it was powered (13, R446) -/
def hbmGen : Fld := ⟨643, 64, 1, .chip⟩
/-- the read-out public key of channel a (13, R441) -/
def rdKey : Fld := ⟨644, 776, 0, .chip⟩
/-- what follows the running kill of channel a: 0 READY, 1 BINDING, 2 UNASSIGNED (13, R443) -/
def killThen : Fld := ⟨645, 2, 0, .chip⟩
/-- the GTC count at the command of the running kill of channel a (13, R443) -/
def killAt : Fld := ⟨646, 64, 0, .chip⟩
/-- a forced sweep pass of the core is due at the channel reset that ends the freeze (05, R191) -/
def killPass : Fld := ⟨647, 1, 0, .chip⟩
/-- the rest of the kill of channel a runs at the channel reset that ends the freeze (13, R442) -/
def killDue : Fld := ⟨648, 1, 0, .chip⟩
/-- the binding timeout of channel a in s (13, R426) -/
def bindTmo : Fld := ⟨649, 10, 0, .chip⟩
/-- the GTC count at which channel a entered BINDING (13, R426) -/
def bindAt : Fld := ⟨650, 64, 0, .chip⟩
/-- the fallback cells of service a are being zeroed after a kill (13, R446) -/
def svcZero : Fld := ⟨651, 1, 0, .chip⟩
/-- their first cell (13, R446) -/
def svcZeroCell : Fld := ⟨652, 17, 0, .chip⟩
/-- the bytes they held (13, R446) -/
def svcZeroLen : Fld := ⟨653, 13, 0, .chip⟩
/-- a message of vector b of function a waits for the return from D3hot (18, R576) -/
def msixD3 : Fld := ⟨654, 1, 0, .chip⟩
/-- why the section of channel a is a stub since the wave: 0 none, 2 killed, 3 reset, 4 trip (17, R567) -/
def frzCause : Fld := ⟨655, 3, 0, .chip⟩
/-- SPDM session a: 0 closed, 1 key exchange done, 2 requester authenticated, 3 open (14, R471) -/
def sesState : Fld := ⟨656, 2, 0, .chip⟩
/-- transport of session a: 0 DOE, 1 MCTP (14, R471) -/
def sesVia : Fld := ⟨657, 1, 0, .chip⟩
/-- OID of the requester of session a, byte 0 least (13, R423) -/
def sesOid : Fld := ⟨658, 128, 0, .chip⟩
/-- the cap loop's limit on island b of channel a in MHz (15, R506) -/
def capLim : Fld := ⟨659, 11, 1650, .chan⟩
/-- the thermal limit on island b of channel a in MHz (15, R508) -/
def thLim : Fld := ⟨660, 11, 1650, .chan⟩
/-- one plus the GTC count since which Tj of channel a has stayed at or below 93 °C, 0 where it has not (15, R508) -/
def thCoolAt : Fld := ⟨661, 65, 0, .chan⟩
/-- one plus the GTC count since which Tj of channel a has stayed at or below 100 °C, 0 where it has not (15, R508) -/
def hvCoolAt : Fld := ⟨662, 65, 0, .chan⟩
/-- one plus the GTC count since which the power of channel a and of the chip has stayed below 95 % of its cap (15, R506) -/
def capCoolAt : Fld := ⟨663, 65, 0, .chan⟩
/-- the step that the cap loop asks for at the next batch mark of channel a: 0 none, 1 down, 2 up (15, R506) -/
def capPend : Fld := ⟨664, 2, 0, .chan⟩
/-- one plus SVE_CH.BATCHES at the last batch mark of channel a (15, R509) -/
def markAt : Fld := ⟨665, 65, 0, .chan⟩
/-- 32,768 plus the fused reading of region a in 1/16 °C, 0 before its first sample (15, R507) -/
def regTemp : Fld := ⟨666, 17, 0, .chip⟩
/-- one plus the GTC count since which the pair of region a has differed by more than 8 °C (15, R507) -/
def susAt : Fld := ⟨667, 65, 0, .chip⟩
/-- sixteenths by which the clock of domain b of channel a is stretched: islands 0 to 9, CCLK 10 (15, R503) -/
def droop : Fld := ⟨668, 4, 0, .chan⟩
/-- the stack of channel a is powered off (15, R493) -/
def hbmOff : Fld := ⟨669, 1, 0, .chip⟩
/-- HBMOFF of the last STANDBY (15, R500) -/
def stbHbmoff : Fld := ⟨670, 1, 0, .chip⟩
/-- FORCE of the last STANDBY (15, R500) -/
def stbForce : Fld := ⟨671, 1, 0, .chip⟩
/-- the GTC count at which the entry to STANDBY, or the wake from it, began (15, R500) -/
def stbAt : Fld := ⟨672, 64, 0, .chip⟩
/-- tokens left in the bucket of code a (its EVR_RLIM index) and source b (16, R526) -/
def evrTok : Fld := ⟨673, 8, 16, .chip⟩
/-- occurrences of code a from source b suppressed in the summary period (16, R533) -/
def evrSup : Fld := ⟨674, 32, 0, .chip⟩
/-- records lost at the unwritten limit and not yet reported (16, R526) -/
def evrLostSec : Fld := ⟨675, 32, 0, .chip⟩
/-- snapshots left in the bucket of trigger slot a (16, R531) -/
def evrSnapTok : Fld := ⟨676, 5, 16, .chip⟩
/-- count b of the summary-only code and subject a (code place × 64 + subject) in the period (16, R533) -/
def evrCnt : Fld := ⟨677, 32, 0, .chip⟩
/-- stale reads of core a in the period, saturating (16, R533) -/
def evrStale : Fld := ⟨678, 16, 0, .chip⟩
/-- the flush that runs is for an input loss (16, R536) -/
def evrFlushIn : Fld := ⟨679, 1, 0, .chip⟩
/-- the open ring sector, or 0 (16, R516) -/
def evrSec : Fld := ⟨680, 13, 0, .chip⟩
/-- its SSEQ, or that of the sector opened last (16, R516) -/
def evrSseq : Fld := ⟨681, 32, 0, .chip⟩
/-- the unit of the open sector that the next record takes (16, R538) -/
def evrUnit : Fld := ⟨682, 8, 0, .chip⟩
/-- one plus the SSEQ of ring sector a, or 0 where it is erased (16, R516) -/
def evrSecSseq : Fld := ⟨683, 33, 0, .chip⟩
/-- ring sector a failed verification (16, R517) -/
def evrSecBad : Fld := ⟨684, 1, 0, .chip⟩
/-- one plus the SSEQ of the newest CLEAR sector, or 0 (16, R546) -/
def evrClear : Fld := ⟨685, 33, 0, .chip⟩
/-- records lost with the input, to be reported at the next mount (16, R537) -/
def evrLostIn : Fld := ⟨686, 32, 0, .chip⟩
/-- summaries of the part-period lost to STANDBY (16, R535) -/
def evrLostStb : Fld := ⟨687, 32, 0, .chip⟩
/-- B of the current base record of counter a: 0 operating time, 1 power cycles (16, R540) -/
def ctrB : Fld := ⟨688, 40, 0, .chip⟩
/-- A of that record (16, R540) -/
def ctrA : Fld := ⟨689, 7, 0, .chip⟩
/-- FIELD of that record (16, R540) -/
def ctrF : Fld := ⟨690, 1, 0, .chip⟩
/-- cleared bits of that field (16, R540) -/
def ctrC : Fld := ⟨691, 7, 0, .chip⟩
/-- SEQ of that record (16, R539) -/
def ctrSeq : Fld := ⟨692, 32, 0, .chip⟩
/-- the active record sector of counter a (16, R539) -/
def ctrSec : Fld := ⟨693, 1, 0, .chip⟩
/-- records in it (16, R541) -/
def ctrN : Fld := ⟨694, 8, 0, .chip⟩
/-- operating seconds since the last bit was programmed (16, R540) -/
def opsS : Fld := ⟨695, 32, 0, .chip⟩
/-- one plus an extreme of the hour at channel a (8 the chip): b is 0, 1 Tj maximum and minimum, 2 HBM maximum, 3, 4 rail mV maximum and minimum, 5 power maximum (16, R533) -/
def envExt : Fld := ⟨696, 33, 0, .chip⟩
/-- fallbacks of service a in the period (16, R533) -/
def svcFbN : Fld := ⟨697, 32, 0, .chip⟩
/-- longest time from admission to answer of service a in the period (16, R533) -/
def svcMaxUs : Fld := ⟨698, 32, 0, .chip⟩
/-- ALERT_N is asserted (19, R620) -/
def alertPin : Fld := ⟨699, 1, 0, .chip⟩
/-- 0 the module has no power, 1 it has power and has run its power-on sequence, 2 it has power and is at reset (19, R613) -/
def modOn : Fld := ⟨700, 2, 2, .chip⟩
/-- the input is lost (19, R614) -/
def inLost : Fld := ⟨701, 1, 0, .chip⟩
/-- the GTC count at which it was lost (19, R616) -/
def inLostAt : Fld := ⟨702, 64, 0, .chip⟩
/-- compute-domain power was removed in hold-up (19, R615) -/
def compOff : Fld := ⟨703, 1, 0, .chip⟩
/-- how far the drain rule has come: 0 not begun, 1 waiting for SVE_INFLIGHT, 2 + l at link l, 50 + n at channel n, 58 over (19, R598) -/
def rmvStep : Fld := ⟨704, 6, 0, .chip⟩
/-- the PLDM terminus id (19, R621) -/
def pldmTid : Fld := ⟨705, 8, 0, .chip⟩
/-- one plus the endpoint that receives platform events, or 0 (19, R621) -/
def pldmRx : Fld := ⟨706, 9, 0, .chip⟩
/-- the MCTP endpoint id (14, R474) -/
def mctpEid : Fld := ⟨707, 8, 0, .chip⟩
/-- the section that the read-out streams next: 0 chip, 1 + n channel n, 9 END, 10 none (17, R565) -/
def roNext : Fld := ⟨708, 4, 0, .chip⟩
/-- the CRC-32C state over the image bytes sent (17, R566) -/
def roCrc : Fld := ⟨709, 32, 0, .chip⟩
/-- image bytes sent (17, R564) -/
def roSent : Fld := ⟨710, 64, 0, .chip⟩
/-- bytes of the channel section streaming that are not yet sent (17, R566) -/
def roLast : Fld := ⟨711, 27, 0, .chip⟩
/-- its form (17, R566) -/
def roForm : Fld := ⟨712, 2, 0, .chip⟩
/-- one plus its channel, or 0 (17, R566) -/
def roOn : Fld := ⟨713, 4, 0, .chip⟩
/-- the array of core a fails its self-test (03, R132) -/
def mxFail : Fld := ⟨714, 1, 0, .chip⟩
/-- address or data word b of the MSI-X table of function a; entry b / 4 (18, R580) -/
def msixTab : Fld := ⟨715, 32, 0, .chip⟩
/-- the unit after the last record of ring sector a, once another is open (16, R544) -/
def evrSecEnd : Fld := ⟨716, 8, 0, .chip⟩
/-- power was lost with a record partly programmed at the write point (16, R538) -/
def evrTorn : Fld := ⟨717, 1, 0, .chip⟩
/-- OPSEC at the freeze wave (17, R565) -/
def frzOpsec : Fld := ⟨718, 40, 0, .chip⟩
/-- the power-cycle count at the freeze wave (17, R565) -/
def frzPcyc : Fld := ⟨719, 24, 0, .chip⟩
/-- the PCS of Ethernet port a has lock (19, R601) -/
def pcsLock : Fld := ⟨720, 1, 0, .chip⟩
/-- the SVE microcode failed to load (14, R459) -/
def sveBad : Fld := ⟨721, 1, 0, .chip⟩
/-- the Tlail microcode failed to load (14, R459) -/
def tlailBad : Fld := ⟨722, 1, 0, .chip⟩
/-- image kind of the programming in progress (14, R456) -/
def fwJobImage : Fld := ⟨723, 3, 0, .chip⟩
/-- its slot (14, R456) -/
def fwJobSlot : Fld := ⟨724, 1, 0, .chip⟩
/-- its offset in the slot, in 4 KiB units (14, R456) -/
def fwJobOffset : Fld := ⟨725, 12, 0, .chip⟩
/-- its length in bytes (14, R456) -/
def fwJobLen : Fld := ⟨726, 16, 0, .chip⟩
/-- certificate slot 0 is reported as empty (14, R466) -/
def chainEmpty : Fld := ⟨727, 1, 0, .chip⟩
/-- the slot pins GA0 to GA7 (19, R620) -/
def gaPins : Fld := ⟨728, 8, 0, .chip⟩
/-- what the encapsulated flow of session a has asked for: 0 nothing, 1 the digests, 2 the certificate chain (14, R471) -/
def sesAsk : Fld := ⟨729, 2, 0, .chip⟩

/-- Fields 0 to 39, in order. -/
def all0 : List Fld := [idPartPart, idPartStep, idGradeIslands, idGradeChannels, idGradeLinks, idGradeSve, idIslmapPhysEn, coreStatState, coreStatOnfic, coreStatDbell, coreStatLdepth, coreStatInreplay, corePc, coreHaltCode, coreHaltCause, coreHaltPc, coreCyc, coreG, coreP, coreSqf, mxF, mxStatDrainwait, mxStatRetained, mxStatNan, mxStatInf, mxStatPoison, mxTiles, mxStallc, mxBistDone, mxBistPass, mxBistRow, mxBistCol, vxF, vxStatTqwait, vxStatPoison, vxStatSat8, vxStatInf8, vxStatNan, tqPops, spdKindWbank]

/-- Fields 40 to 79, in order. -/
def all1 : List Fld := [spdKindNextWbank, spdPwrOn, spdPwrReady, spdPwrNextOn, spdStatConflict, spdStatAerr, spdStatUe, spdStatInit, spdStatClean, spdStatAttempt, spdStatSwept, spdConfBank, spdConfWin, spdConfLost, spdConfWrite, spdConfWord, spdConfCyc, spdStalec, spdCecnt, spdReruns, chSpdEpoch, foxCtlRaEn, foxCtlRsvc, foxRtimeoutUs, foxHsqTailIndex, foxHsqHeadIndex, foxHsqDone, foxSpecServed, foxRaCancels, foxRaRetries, foxRaDiscard, foxPoisonWords, foxRemoteFail, foxRefused, foxRaHist, foxRaTabValid, foxRaTabRemote, foxRaTabRing, foxRaTabRowWords, foxRaTabBase]

/-- Fields 80 to 119, in order. -/
def all2 : List Fld := [foxRaTabStride, foxRaTabPeer, foxRingCfgEn, foxRingCfgDir, foxRingCfgCore, foxRingCfgSlots, foxRingCfgSlotWords, foxRingCfgBase, foxRingPtrTail, foxRingPtrHead, foxRingPtrFill, foxRingPtrPub, foxRingPtrTent, foxRingPtrGen, syF, synCnt, synFlagsSatHi, synFlagsSatLo, synFlagsMisuse, epRoom, rteCtlActive, rteLinkfDown, rteDrops, bdgCtlEn, bdgWindowCycles, bdgStatDeadlock, bdgStatQuiet, bdgStatSilent, bdgStatQcount, bdgWhen, bdgReports, bdgCoreState, bdgCoreExt, bdgCoreWkind, bdgCoreObj, bdgCorePc, synBarTimeoutUs, synChipbarChans, synBarFaults, hbqWtail]

/-- Fields 120 to 159, in order. -/
def all3 : List Fld := [hbqWhead, hbqRtail, hbqRhead, hbqBatches, sveCtlEn0, sveCtlEn1, sveInflight, svePortMac, svePortVlan, svePortVtag, svePortIpv4, svePortUdpPort, svePortIpv6Hi, svePortIpv6Lo, svePortRxOk, svePortRxDrop, svePortRxSlow, svePortTx, sveSvcSelId, sveSvcW0Bound, sveSvcW0Channel, sveSvcW0TagReq, sveSvcW0Errq, sveSvcW0Sync, sveSvcW0WindowUs, sveSvcW0Maxb, sveSvcW0DeadlineUs, sveSvcW0Kdef, sveSvcW0Keyslot, sveSvcW1Epoch, sveSvcW1FbCell, sveSvcW1FbLen, sveSvcW2Admitted, sveSvcW2Fallbacks, sveSvcW3Errors, sveSvcW3Tagfail, sveFbwinBase, sveChAdmit, sveChQuota, sveChHeld]

/-- Fields 160 to 199, in order. -/
def all4 : List Fld := [sveChNextTag, sveChQueued, sveChBatches, sveChLate, sveChTagGrace, sveChLive, exchCfgMode, exchCfgPcarry, exchCfgRflip, exchCfgRatab, exchCfgForce, exchSeamTag, exchSeamEpoch, exchTimeoutUs, exchStatPhase, exchStatResult, exchStatSeamTag, exchStatNotready, exchStatSyncdrop, exchCount, exchLastGtc, exchRsel, exchRatabValid, exchRatabRemote, exchRatabRing, exchRatabRowWords, exchRatabBase, exchRatabStride, exchRatabPeer, exchRingCfgEn, exchRingCfgDir, exchRingCfgCore, exchRingCfgSlots, exchRingCfgSlotWords, exchRingCfgBase, epochCtlRapar, epochInflEven, epochInflOdd, epochRabaseBase, chCfgLockstep]

/-- Fields 200 to 239, in order. -/
def all5 : List Fld := [chCfgLfreq, chCfgAllowRace, chCfgRefalign, retryCount, raceCount, stretchCyclesFrac, stretchCyclesWhole, detIslStretchFrac, detIslStretchWhole, detCtlExpect, detLogHeadNext, detLogHeadWritten, detLogTag, detLogKept, detLogFreq, detLogRef2x, detLogCauses, detLogSegs, detLogPhase, detLogCsig, detLogOsig, detLogDretry, detLogDrace, detLogDstretch, detCoreDcyc, detCoreSegs, detCoreOpen, tunStatState, tunStatContested, tunStatForced, tunStatSlewing, tunStatStepped, tunStatNagree, tunStatNelig, tunStatLevel, tunStatAgeMs, tunTrim, tunFest, tunOffset, tunPolSyncEn]

/-- Fields 240 to 279, in order. -/
def all6 : List Fld := [tunPolSyncRef, tunPolPtmEn, tunPolPtmRef, tunPolForce, tunPolStepNs, tunLnkenEn, tunLrefused, tunQuar, tunFbarLate, tunFbarUntimed, tunSrcOffset, tunSrcPlevel, tunSrcUsable, tunSrcFresh, tunSrcElig, tunSrcAgree, tunSrcQuar, tunSrcQleft, tunSrcDelay, tunSrcSamples, tunSrcDiscards, tunAsym, tunFbarChans, tunFbarUpch, tunFbarUpl, tunFbarDown, tunFbarLeadNs, lnkCfgEn, lnkStatState, lnkStatLadmit, lnkStatPadmit, lnkStatCable, lnkStatSignal, lnkStatLock, lnkStatFcause, lnkPeerChip, lnkPeerValid, lnkPeerPlink, lnkPeerPart, lnkPeerStep]

/-- Fields 280 to 319, in order. -/
def all7 : List Fld := [lnkPnonce, lnkTxFlits, lnkRxFlits, lnkCrcErr, lnkFecCorr, lnkFecUncorr, lnkEpisodes, lnkIsoDrop, lnkRxDrop, lnkAttStatAtt, lnkCertDigest, lnkMeasDigest, fabCtlChipId, fabCtlValid, fabCtlHopmax, fabFwdAddrChip, fabFwdAddrCh, fabFwdFrames, fabFwdDrop, fabHopfailTx, fabHopfailRx, ownChStatState, ownChStatKeysrc, ownChStatRdkey, ownChStatPending, ownChStatSkeys, ownChOid, ownCfgHostio, ownCfgEvrVisible, ownCfgSvcTagged, ownGrantChip, ownGrantCh, ownGrantSend, ownGrantRecv, ownGrantRead, ownGrantServe, ownSkeyLoadKey, ownFiltTx, ownFiltRx, ownBar2Deny]

/-- Fields 320 to 359, in order. -/
def all8 : List Fld := [ownKills, msrBootStage, msrBootFallback, msrBootSlotb, msrBootRcause, msrBootWdcount, msrBootReadyMs, msrBootselPreferB, msrLockLocked, msrDbgState, msrVal, msrImgverVersion, msrFwCmdImage, msrFwCmdSlot, msrFwCmdOffset, msrFwLenBytes, msrFwStatBusy, msrFwStatResult, msrFwwin, chPwrReq, chPwrHbmoff, chPwrAutorun, chPwrWbatch, chPwrWgtc, chPwrStatState, chPwrStatWcause, chPwrStatWfail, chPwrStatDefer, chPwrStatWakeNs, chWakeGtc, chPwrDrops, chFsetFset, chFsetFmin, chPctlPcapW, chPctlLmin, chClkStatFeff, chClkStatHalved, chClkStatThrottled, chClkStatCapped, pwrCapWatts]

/-- Fields 360 to 399, in order. -/
def all9 : List Fld := [pwrStatThrottle, pwrStatHalved, pwrStatSensorSuspect, pwrStatCapmiss, pwrStatWfail, pwrStatChip, pwrSuspectIsl, pwrSuspectUnits, pwrTripTripped, pwrTripChipsus, pwrTripRegion, pwrTripTj, pwrVfloor, pwrWtDirFirst, pwrWtDirRecords, pwrWt, telChPwrMw, telChRailMv, telChTj, telChHbmTj, telChipPwrMw, telChipTj, evrStatMounted, evrStatFlushing, evrCurPos, evrWritten, evrLost, evrSuppressed, evrBadsect, evrTrigCode, evrTrigMask, evrTrigSrc, evrTrigN, evrTrigFrz, evrTrigEn, evrTrigMissed, evrTrigSel, evrRlim, frzArmPin, frzArmTrig]

/-- Fields 400 to 439, in order. -/
def all10 : List Fld := [frzStatFrozen, frzStatSrc, frzStatSlot, frzStatChfrozen, frzStatRo, frzStatPath, frzGtc, frzRoPosOffset, frzRoLenBytes, frzRoLenLast, frzRoLenReady, frzHbmBase, frzHbmLen, frzRowin, idSerial, idSlot, idTopoConn, idTopoPos, idTopoBpair, mbxCmdCode, mbxCmdSeq, mbxStatBusy, mbxStatDone, mbxStatReady, mbxStatOverrun, mbxStatStatus, mbxStatSeq, mbxStatCode, mbxStatDetail, mbxArg, mbxRsp, mbxIrqStatCause, mbxIrqMask, chIrqStatCause, chIrqMask, fpnStatLatch, fpnStatAttn, fpnStatDisp, fpnStatPage, fpnStatView]

/-- Fields 440 to 479, in order. -/
def all11 : List Fld := [fpnStatRmv, fpnCtlRmvAuto, fpnCtlAutoret, fpnCtlDtimeout, fpnCtlRmvTmoMs, fpnLocMode, fpnAlertCause, fpnAlertEn, fpnPwrVin, fpnPwrIin, fpnPwrVbank, fpnPwrLosses, fpnCagePresent, fpnCageHighpwr, fpnCageOverclass, fpnCageAlarm, fpnCageRreq, fpnCagePwrW, tunSyncCfgPeriodNs, tunSyncCfgOffsetNs, tunSyncDly, tunSoutCfgPeriodNs, tunSoutCfgOffsetNs, tunPtmCfgPeriod, tunPtmOfs, rteRank, rteExt, rteRoute, rteBarMem, coreLoopStart, coreLoopLast, coreLoopCount, coreLoopIdx, coreRepStart, coreRepLen, coreRepCount, coreRepIdx, coreRepRet, corePatchArm, corePatchPd]

/-- Fields 480 to 519, in order. -/
def all12 : List Fld := [corePatchPs, coreGRdy, coreVRdy, coreWkind, coreWobj, coreClkPend, coreAlign, coreBank, mxDoneAt, mxRetPlane, mxRetInt, vxDoneAt, tqHead, tqEnt, tqFreeAt, tqFullAt, spdTag, spdErr, spdInitMask, spdUpMask, spdSweepPos, spdVisited, spdHaltPend, spdCeSec, coreStartWait, msixEn, msixFmask, msixVmask, msixPba, fnD3, gtc, ringPubv, ringFreev, ringCorePtr, ringSlotSt, ringSlotLanded, ringSlotWords, ringSlotEos, ringSlotPoison, ringSlotLeft]

/-- Fields 520 to 559, in order. -/
def all13 : List Fld := [ringSlotGen, fxWait, fxDoneAt, fxF, syLeft, syIdx, syEp, syAddr, syDoneAt, barCount, barWait, barFault, barFaultGen, barTimer, ringViewPend, ringReadSlot, foxLead, foxSeq, foxServK, foxRsvcEff, foxHsqSeen, foxHsqWay, fabFwd, lnkTxSeq, lnkExp, lnkNakPend, lnkNakDue, lnkRxEp, lnkTxEp, lnkTxEpSeq, lnkReplay, lnkRot, lnkNonce, lnkHello, lnkRetiring, lnkEverAdm, lnkBseq, lnkBcnDue, lnkPeerBseq, lnkPeerTx]

/-- Fields 560 to 599, in order. -/
def all14 : List Fld := [lnkPeerRx, fabHfTime, barLast, fbarGen, fbarArr, fbarSent, fbarRel, fbarT, syExact, detOpen, detTag, detCauses, detRetry0, detRace0, detStretch0, detOsig, detRingExt, detSegOpen, detSegStart, detSegExt, detSegOpens, synRem, refHalf, refPend, chLfreqEff, svcLat, slowSec, slowCnt, sveSerial, exchHeldAt, exchSeam, exchSync, mbxCur, mbxCurObj, pwrDark, ownSkey, coreLaunchT, foxRings, mxRetPoison, mxRetAddr]

/-- Fields 600 to 639, in order. -/
def all15 : List Fld := [mbxSeq, hbqLeft, hbqTag, gtcFrac, gtcAway, gtcLatch, tunTicks, tunRun, tunEpochs, tunEpochAt, tunAge, tunSrcOff, tunSrcDly, tunSrcRun, tunSrcEp, tunSrcTick, tunFestX, tunFestY, tunFestN, tunFestNext, tunAsymEff, tunPtmNext, tunSoutLast, mbxCopy, refBase, refRestart, lnkRxEpAt, lnkTxEpAt, lnkEpTime, lnkEpNext, lnkAckAt, lnkBcnSent, lnkBcnAt, lnkRetireAt, lnkAttGot, lnkAttXid, mbxMode, pllRelock, chLfreqNext, wakeAt]

/-- Fields 640 to 679, in order. -/
def all16 : List Fld := [capLimL, thLimL, xtsKey, hbmGen, rdKey, killThen, killAt, killPass, killDue, bindTmo, bindAt, svcZero, svcZeroCell, svcZeroLen, msixD3, frzCause, sesState, sesVia, sesOid, capLim, thLim, thCoolAt, hvCoolAt, capCoolAt, capPend, markAt, regTemp, susAt, droop, hbmOff, stbHbmoff, stbForce, stbAt, evrTok, evrSup, evrLostSec, evrSnapTok, evrCnt, evrStale, evrFlushIn]

/-- Fields 680 to 719, in order. -/
def all17 : List Fld := [evrSec, evrSseq, evrUnit, evrSecSseq, evrSecBad, evrClear, evrLostIn, evrLostStb, ctrB, ctrA, ctrF, ctrC, ctrSeq, ctrSec, ctrN, opsS, envExt, svcFbN, svcMaxUs, alertPin, modOn, inLost, inLostAt, compOff, rmvStep, pldmTid, pldmRx, mctpEid, roNext, roCrc, roSent, roLast, roForm, roOn, mxFail, msixTab, evrSecEnd, evrTorn, frzOpsec, frzPcyc]

/-- Fields 720 to 729, in order. -/
def all18 : List Fld := [pcsLock, sveBad, tlailBad, fwJobImage, fwJobSlot, fwJobOffset, fwJobLen, chainEmpty, gaPins, sesAsk]

/-- Every field, at the place its number names. -/
def all : List Fld := all0 ++ all1 ++ all2 ++ all3 ++ all4 ++ all5 ++ all6 ++ all7 ++ all8 ++ all9 ++ all10 ++ all11 ++ all12 ++ all13 ++ all14 ++ all15 ++ all16 ++ all17 ++ all18

end Fld

end Sys2Proof.Machine
end

