-- ==== Sys2Proof/Machine/Tab.lean ====
section
/-!
DEFINITION. Sparse tables: a list of (key, value) pairs, the keys strictly rising. What an unlisted key reads as is the
caller's. `set` keeps one entry a key; `setD` also drops an entry that holds what an unlisted key reads as, so that equal
tables are equal lists.
-/
namespace Sys2Proof.Machine

/-- A sparse table from keys to values. -/
abbrev Tab (α : Type) := List (Nat × α)

/-- The value listed at a key, if any. -/
def tget? {α : Type} : Tab α → Nat → Option α
  | [], _ => none
  | (j, w) :: t, k => if k = j then some w else tget? t k

/-- The value at a key, or what an unlisted key reads as. -/
def tget {α : Type} (d : α) (t : Tab α) (k : Nat) : α := (tget? t k).getD d

/-- The table with a value at a key. -/
def tset {α : Type} : Tab α → Nat → α → Tab α
  | [], k, v => [(k, v)]
  | (j, w) :: t, k, v =>
    if k = j then (k, v) :: t
    else if k < j then (k, v) :: (j, w) :: t
    else (j, w) :: tset t k v

/-- The table without the keys that a test names. -/
def tclear {α : Type} (p : Nat → Bool) (t : Tab α) : Tab α := t.filter fun e => !p e.1

/-- The table without one key. -/
def tdel {α : Type} (t : Tab α) (k : Nat) : Tab α := tclear (fun j => j == k) t

/-- `tset`, dropping the entry where the value is what an unlisted key reads as. -/
def tsetD {α : Type} [DecidableEq α] (d : α) (t : Tab α) (k : Nat) (v : α) : Tab α :=
  if v = d then tdel t k else tset t k v

/-- The keys strictly rise. -/
def tsorted {α : Type} : Tab α → Bool
  | [] => true
  | [_] => true
  | (j, _) :: (k, w) :: t => decide (j < k) && tsorted ((k, w) :: t)

end Sys2Proof.Machine
end

