-- ==== Sys2Proof/Machine/Types.lean ====
section
/-!
DEFINITION. The things the machine's queues hold.
-/
namespace Sys2Proof.Machine

/-- An event on its way to the Event Recorder: its code, its source (a channel, or 8 for the chip) and its context words. -/
structure Event where
  code : Nat
  src : Nat
  ctx : List Nat
deriving DecidableEq, Repr

/-- A tile on its way to the tile queue or in one of its entries (R113): the 1,024 values, row by row, and the metadata. -/
structure Tile where
  vals : List (BitVec 32)
  int : Bool
  i : Nat
  j : Nat
  t : Nat
  tag : Nat
  last : Bool
  poison : Bool
  addr : Nat
deriving DecidableEq, Repr

/-- A GO.MX in progress: its tiles not yet drained, and the terms of the timing rule of R128. -/
structure MxJob where
  tiles : List Tile
  tc : Nat
  load : Bool
  cont : Bool
  retPlane : Nat
  plane0 : Nat
  plane1 : Nat
  preFree : Nat
  drainFree : Nat
  prevEnd : Nat
deriving DecidableEq, Repr

/-- A GO.VX spill in progress (R154, R155): tiles left, the index of the next, the fields it started with, and the cycle from
which the next tile may be read. -/
structure VxJob where
  left : Nat
  idx : Nat
  fmt : Nat
  base : Nat
  stride : Nat
  trans : Bool
  next : Nat
deriving DecidableEq, Repr

/-- A message word, a token, freed room or a doorbell on its way to a core (R248, R250, R266, R583). -/
inductive Transit where
  /-- a word for input endpoint `ep` of core `core`; `link` tells that it came over a link -/
  | word (core ep : Nat) (data : BitVec 512) (link : Bool)
  /-- room freed for output endpoint `ep` of core `core` -/
  | room (core ep n : Nat)
  /-- a counter token: the counter, the amount, whether it subtracts, the route's CMASK and the sender -/
  | token (core ctr amt : Nat) (sub : Bool) (cmask sender : Nat)
  /-- a DONE_CTR increment; `remote` tells that the descriptor had a REMOTE source -/
  | done (core ctr : Nat) (remote : Bool)
  /-- a broadcast doorbell -/
  | doorbell (core : Nat)
deriving DecidableEq, Repr

/-- A descriptor at Fox (R203), waiting or active. Kind 4 is a stream of table rows (R240): `rows` lists the indices, `ring` and
`n0` (the words of a row) come from the table's entry, and `tab` names the table. -/
structure Desc where
  /-- its place in the order of arrival -/
  seq : Nat
  /-- 0 to 159 a core of the channel, 160 the host queue, 161 run-ahead -/
  src : Nat
  /-- a fence of GO.FX, which moves nothing (R209) -/
  isFence : Bool := false
  kind : Nat := 0
  sspace : Nat := 0
  dspace : Nat := 0
  sside : Bool := false
  eos : Bool := false
  /-- its FENCE flag (R218) -/
  fence : Bool := false
  ring : Nat := 0
  done : Nat := 0
  n0 : Nat := 0
  n1 : Nat := 0
  n2 : Nat := 0
  n3 : Nat := 0
  sa : Nat := 0
  da : Nat := 0
  s1 : Nat := 0
  s2 : Nat := 0
  s3 : Nat := 0
  idx : Nat := 0
  idxCore : Nat := 0
  chip : Nat := 0
  pch : Nat := 0
  /-- the bank mask of a host descriptor -/
  mask : Nat := 0
  tab : Nat := 0
  rows : List Nat := []
  /-- the batch tag of table rows, and whether its epoch is odd -/
  tag : Nat := 0
  odd : Bool := false
  /-- the batch is not committed yet -/
  tent : Bool := false
  /-- a free entry was there when it arrived (R210) -/
  atOnce : Bool := true
  /-- ring slots reserved for it, in order -/
  slots : List Nat := []
  /-- words issued, and words that have reached the destination -/
  issued : Nat := 0
  landed : Nat := 0
  /-- the index-list word it holds (R205) -/
  cache : Option (Nat × List (BitVec 8)) := none
  /-- event 0x0501 has been raised for it -/
  poisoned : Bool := false
deriving DecidableEq, Repr

/-- A local read outstanding: the descriptor it belongs to, the word's number in it, the index of its row, and the line as
read. -/
structure Req where
  seq : Nat
  w : Nat
  ix : Nat
  data : List (BitVec 8)
  poison : Bool
deriving DecidableEq, Repr

/-- A remote read message outstanding at the requester (R236): its MSGID, the descriptor and the first word it brings, the index of
their row, how many, the words that have come, the peer, the address, SPEC, the batch tag, and the first-hop link. -/
structure RMsg where
  id : Nat
  seq : Nat
  w : Nat
  ix : Nat
  n : Nat
  got : List Nat
  chip : Nat
  pch : Nat
  addr : Nat
  spec : Bool
  tag : Nat
  link : Nat
deriving DecidableEq, Repr

/-- A remote read queued for peer service (R237): the requester, its MSGID, the address, the words left to read and those read,
with their POISON marks, and whether it is SPEC. -/
structure PeerRead where
  chip : Nat
  pch : Nat
  id : Nat
  addr : Nat
  n : Nat
  words : List (List (BitVec 8) × Bool)
  spec : Bool
  tag : Nat
deriving DecidableEq, Repr

/-- A flit (R394). -/
structure Flit where
  kind : Nat
  last : Bool := true
  spec : Bool := false
  hops : Nat := 0
  seq : Nat := 0
  ackv : Bool := false
  ack : Nat := 0
  dchip : Nat := 0
  schip : Nat := 0
  dch : Nat := 0
  sch : Nat := 0
  arg : Nat := 0
  payload : List (BitVec 8) := []
deriving DecidableEq, Repr

/-- Where a reply goes (R284): the port, the MAC and IP addresses and UDP ports of the request with source and destination
exchanged, its VLAN tag if any; `ttl` is the TTL or hop limit and `df` the DF flag of an IPv4 reply. -/
structure ReplyTo where
  port : Nat
  mac : Nat
  vlan : Option Nat
  v6 : Bool
  srcIp : Nat
  dstIp : Nat
  srcPort : Nat
  dstPort : Nat
  ttl : Nat := 64
  df : Bool := true
deriving DecidableEq, Repr

/-- A request (R285, R286, R295): as it arrived, and where it stands. -/
structure Request where
  /-- its place in the order of admission -/
  id : Nat
  svc : Nat
  ch : Nat
  /-- the batch tag of its window -/
  tag : Nat
  /-- its slot, once its batch is committed -/
  slot : Option Nat
  dest : ReplyTo
  client : Nat
  req : Nat
  /-- the effective K -/
  k : Nat
  body : List (BitVec 8)
  pairs : List (Nat × Nat)
  ncand : Nat
  epoch : Nat
  /-- GTC at admission, and the GTC tick at which its timer expires -/
  admitted : Nat
  due : Nat
  /-- the key under which its tag checked good, if it carried one (R288) -/
  key : Option Nat
  answered : Bool
  /-- its pairs are in Fox's hands as run-ahead -/
  handed : Bool
deriving DecidableEq, Repr

/-- The open window of a service (R299, R300). -/
structure Window where
  openAt : Nat
  tag : Option Nat
  /-- run-ahead of the batch was cancelled, and was retried -/
  cancelled : Bool
  retried : Bool
deriving DecidableEq, Repr

/-- A committed batch not fully taken (R302, R303): its words not yet sent, those at the lead core, each with whether taking it
frees a buffer cell, and whether a take has begun it. -/
structure Batch where
  tag : Nat
  svc : Nat
  epoch : Nat
  left : List (BitVec 512 × Bool)
  there : List (BitVec 512 × Bool)
  begun : Bool
deriving DecidableEq, Repr

/-- A RESP.PUT entry (R306): on its way, or arrived at the SVE and not yet off the port. -/
structure Resp where
  tag : Nat
  slot : Nat
  entries : List (Nat × Nat)
  arrived : Bool
deriving DecidableEq, Repr

/-- New settings of a service that wait for its next boundary (R292): SVE_SVC_W0, FB_CELL and FB_LEN, or an unbinding. -/
structure SvcPend where
  unbind : Bool
  w0 : Nat
  cell : Nat
  len : Nat
deriving DecidableEq, Repr

/-- A live batch tag (R300): its window has closed; its batch has been fully taken or discarded, or held no request. -/
structure TagSt where
  closed : Bool
  taken : Bool
  nreq : Nat
deriving DecidableEq, Repr

/-- A frame the slow path passed to the MGC firmware (R283). -/
structure SlowFrame where
  port : Nat
  bytes : List (BitVec 8)
deriving DecidableEq, Repr

/-- A segment that ended at a BAR arrival without an external wait (R344): its length and the rings it waited on. -/
structure Seg where
  len : Nat
  rings : List Nat
deriving DecidableEq, Repr

/-- A record of the Event Recorder that is not wholly in NOR (R535): its NOR address, its bytes, how many of them are programmed, and,
for an event record, the event. -/
structure Rec where
  addr : Nat
  bytes : List (BitVec 8)
  done : Nat
  ev : Option Event
deriving DecidableEq, Repr

/-- The SPDM errors that the spec names (R467, R469, R471, R472). -/
inductive SpdmErr where
  | unsupportedRequest | unexpectedRequest | sessionLimitExceeded | invalidRequest | noCommonAlgorithm
deriving DecidableEq, Repr

/-- What an SPDM response says (R467 to R472). -/
inductive SpdmReply where
  /-- the one version answered -/
  | version (v : Nat)
  /-- the capabilities by name, CTExponent, DataTransferSize and MaxSPDMmsgSize -/
  | capabilities (caps : List String) (ctExponent dataSize maxSize : Nat)
  | algorithms
  /-- the mask of certificate slots that hold a chain, and the digest of slot 0 -/
  | digests (slots : Nat) (digest : List (BitVec 8))
  /-- a portion of the slot 0 chain, and the bytes that remain -/
  | certificate (portion : List (BitVec 8)) (remainder : Nat)
  /-- a signature by the identity key -/
  | challengeAuth (sig : List (BitVec 8))
  /-- the count of blocks, the blocks as (index, value type, digest), and the signature of a signed answer -/
  | measurements (count : Nat) (blocks : List (Nat × Nat × List (BitVec 8))) (sig : Option (List (BitVec 8)))
  /-- a session's id, MutAuthRequested, HeartbeatPeriod and the signature -/
  | keyExchange (ses : Nat) (mutAuth : Bool) (heartbeat : Nat) (sig : List (BitVec 8))
  | finish (ses : Nat)
  | endSessionAck (ses : Nat)
  | heartbeatAck (ses : Nat)
  | keyUpdateAck (ses : Nat)
  /-- an encapsulated request: GET_DIGESTS (false) or GET_CERTIFICATE (true) -/
  | encapsulatedRequest (ses : Nat) (certificate : Bool)
  | encapsulatedAck (ses : Nat)
  | error (e : SpdmErr)
  /-- a vendor-defined response: the selector, OP, CHANNEL, the status byte and the reply data (R424, R472) -/
  | vendor (ses sel op ch status : Nat) (data : List (BitVec 8))
deriving DecidableEq, Repr

/-- A reply of the MCTP endpoint to a control command (R474). -/
inductive MctpReply where
  | setEid (eid : Nat)
  | eid (eid : Nat)
  /-- the versions and the vendor support are bytes that the spec does not give -/
  | versions (bs : List (BitVec 8))
  | types (ts : List Nat)
  | vendor (bs : List (BitVec 8))
deriving DecidableEq, Repr

/-- A reply to a PLDM command (R621). -/
inductive PldmReply where
  | tid (tid : Nat)
  | done
  /-- bytes that the spec does not give: versions, repository information, a PDR -/
  | open (bs : List (BitVec 8))
  | types (ts : List String)
  | commands (cs : List String)
  /-- a numeric reading: `num` of `den` to the unit -/
  | reading (num : Int) (den : Nat)
  | state (v : Nat)
  /-- the command names something that the device does not have -/
  | error
deriving DecidableEq, Repr

/-- What the part hands to the world outside, oldest first. -/
inductive Output where
  /-- an MSI-X message of a function's vector (R581) -/
  | msix (fn vec : Nat)
  /-- the 272 bytes of a flit on a link (R394, R397) -/
  | flit (link : Nat) (bytes : List (BitVec 8))
  /-- a USP datagram (R284, R287): where it goes and its bytes -/
  | datagram (dest : ReplyTo) (bytes : List (BitVec 8))
  /-- the MGC firmware's answer to a slow-path frame (R283) -/
  | slowReply (port : Nat) (frame : List (BitVec 8))
  /-- a pulse on SYNC_OUT at a GTC count (R385) -/
  | syncPulse (count : Nat)
  /-- the data of a register read: `who` is 0 for function 0, 1 + ch for a channel function, 9 for the MGC -/
  | readData (who v : Nat)
  /-- the bytes of a channel BAR2 read (R590) -/
  | readBytes (ch : Nat) (bytes : List (BitVec 8))
  /-- the 33 bits of the JTAG read-out register (R563) -/
  | jtag (v : Nat)
  /-- a platform event message to a PLDM endpoint: a sensor and its state, or the thresholds that it has reached (R621) -/
  | pldmEvent (eid sensor v : Nat)
  /-- a DOE Discovery answer: the vendor, the data object type and the next index (R473) -/
  | doe (vendor type next : Nat)
  | mctp (r : MctpReply)
  | pldm (r : PldmReply)
  /-- the address with which the device answers the Alert Response Address (R620) -/
  | alertAddress (a : Nat)
  /-- an SPDM response -/
  | spdm (via : SpdmVia) (r : SpdmReply)
deriving DecidableEq, Repr

end Sys2Proof.Machine
end

