-- ==== Sys2Proof/Machine/State.lean ====
section
/-!
DEFINITION. The state of the block, as plain data: the named fields that differ from reset, the byte memory, the queues of
the units, and the queue of commands that wait.
-/
namespace Sys2Proof.Machine

/-- Why a command stops the model. No command stops it where the spec gives an effect. -/
inductive Fault where
  /-- Nothing raises this: the spec names no behaviour that stops the part and leaves no state (safe). -/
  | none
deriving DecidableEq, Repr

/-- Why a command has no meaning in the model. -/
inductive Refusal where
  /-- A command whose meaning is not written: raised by Dispatch alone, by the command's mnemonic (safe). -/
  | notModelled (mnemonic : String)
deriving DecidableEq, Repr

/-- The machine. A field or byte that no list names reads as at reset. -/
structure State where
  /-- the named fields (Fields.lean), by key -/
  reg : Tab Nat
  /-- the bytes of every addressed memory, by the addresses of Ops.lean -/
  mem : List Host.Cell
  /-- V registers that are not zero: 64 lanes each, by core × 32 + register (R135) -/
  vreg : Tab (List (BitVec 32))
  /-- accumulator planes that are not zero, by core × 2 + plane (R114) -/
  planes : Tab (List (BitVec 32))
  /-- the contents of tile-queue entries, by core × 8 + entry (R148) -/
  tiles : Tab Tile
  /-- GO.MX in progress, by core -/
  mxJobs : Tab MxJob
  /-- GO.VX in progress, by core -/
  vxJobs : Tab VxJob
  /-- what each core saved at its re-run point, by core: the sequencer fields then (R183) -/
  rerun : Tab (List (Nat × Nat))
  /-- the words in each input FIFO, oldest first, by core × 8 + endpoint (R246) -/
  fifo : Tab (List (BitVec 512))
  /-- words, room, tokens, increments and doorbells on their way to cores, oldest first, by channel -/
  transit : Tab (List Transit)
  /-- descriptors that have arrived at Fox and are not accepted, in order, by channel (R214) -/
  foxArr : Tab (List Desc)
  /-- the active descriptors, by channel × 64 + entry (R210) -/
  foxAct : Tab Desc
  /-- local reads outstanding, oldest first, by channel (R216) -/
  foxReqs : Tab (List Req)
  /-- remote read messages outstanding, oldest first, by channel (R236) -/
  foxMsgs : Tab (List RMsg)
  /-- remote reads queued for peer service, oldest first, by serving channel (R237) -/
  foxPeer : Tab (List PeerRead)
  /-- HBM lines that hold the controller's poison code, by line (R233) -/
  hbmBad : Tab Nat
  /-- the key under which each written HBM line was last written, by line (R429) -/
  hbmKey : Tab Nat
  /-- flits waiting to be sent, oldest first, by link × 8 + class: 0 BARRIER, LINKCTL and HOPFAIL, 1 forwarded, 2 FLOW,
  3 RDATA and RREF, 4 MARK and RREQ, 5 ATTEST (R397) -/
  txq : Tab (List Flit)
  /-- sequenced flits sent and not acknowledged, oldest first, by link (R401) -/
  retry : Tab (List Flit)
  /-- the bytes of the SPDM message that ATTEST segments have brought so far, by link × 2 + DIR (R406) -/
  attest : Tab (List (BitVec 8))
  /-- the segments of the open interval that may be closed, oldest first, by core (R344) -/
  segs : Tab (List Seg)
  /-- the rings the running segment has waited on, by core (R343) -/
  segRings : Tab (List Nat)
  /-- the requests whose batch tags are live, in order of admission (R295, R300) -/
  requests : List Request
  /-- the open window of each bound service (R299) -/
  windows : Tab Window
  /-- committed batches not fully taken, in queue order, by channel (R302) -/
  batches : Tab (List Batch)
  /-- RESP.PUT entries, oldest first, by channel (R306) -/
  resps : Tab (List Resp)
  /-- live batch tags, by channel × 65,536 + tag (R300) -/
  liveTags : Tab TagSt
  /-- settings that wait for a service's next boundary (R292) -/
  svcPend : Tab SvcPend
  /-- a service's pending epoch (R331) -/
  epochPend : Tab Nat
  /-- frames at the slow path, oldest first (R283) -/
  slow : List SlowFrame
  /-- requests that passed FRAME_RECEIVE's checks and are not yet admitted, oldest first -/
  checked : List Request
  /-- the instruction each held core holds -/
  held : Tab Instr
  /-- events raised and not yet taken by the recorder, oldest first -/
  evq : List Event
  /-- records in the recorder's SRAM, oldest first (R535) -/
  evrBuf : List Rec
  /-- summary records staged and not yet appended, oldest first (R532) -/
  evrStaged : List (List (BitVec 8))
  /-- bytes of the read-out image made and not yet sent (R563) -/
  roTail : List (BitVec 8)
  /-- what the part has handed out, oldest first -/
  out : List Output
  /-- how many free values have been drawn (the model's own) -/
  ctr : Nat
  /-- the commands that wait, first in, first out -/
  pending : List Instr
deriving DecidableEq, Repr

/-- The machine right after cold reset: every field at its reset value, nothing listed, nothing waiting. -/
def State.reset : State :=
  { reg := [], mem := [], vreg := [], planes := [], tiles := [], mxJobs := [], vxJobs := [], rerun := [], fifo := [],
    transit := [], foxArr := [], foxAct := [], foxReqs := [], foxMsgs := [], foxPeer := [], hbmBad := [], hbmKey := [], txq := [], retry := [], attest := [],
    segs := [], segRings := [], requests := [], windows := [], batches := [], resps := [], liveTags := [], svcPend := [],
    epochPend := [], slow := [], checked := [],
    held := [], evq := [], evrBuf := [], evrStaged := [], roTail := [], out := [], ctr := 0, pending := [] }

end Sys2Proof.Machine
end

