-- ==== Sys2Proof/Machine/Ops.lean ====
section
/-!
DEFINITION. The shared operations over the state: reading and writing a named field, the addressed memories, events,
interrupts, free values, and the outcome the spec calls UNPREDICTABLE.
-/
namespace Sys2Proof.Machine

/-- The outcome of a command. -/
abbrev Out := Host.Outcome State Fault Refusal

/-! ## Named fields -/

/-- The key of a field's place: its number and the two indices. -/
def key (f : Fld) (a b : Nat) : Nat := f.id * 2 ^ 48 + a % 2 ^ 24 * 2 ^ 24 + b % 2 ^ 24

/-- The field number a key names. -/
def keyFld (k : Nat) : Nat := k / 2 ^ 48
/-- The first index a key names. -/
def keyA (k : Nat) : Nat := k / 2 ^ 24 % 2 ^ 24

/-- The default trigger slots (R531): the code of slot a. -/
def trigCode : Nat → Nat
  | 0 => 0x0604 | 1 => 0x0E04 | 2 => 0x0A01
  | _ => 0

/-- The sources a default slot takes: channels 0 to 7, or the chip. -/
def trigSrc : Nat → Nat
  | 0 => 0xFF | 1 => 0xFF | 2 => 0x100
  | _ => 0

/-- A selector of the source's channel (R530): REL, at an offset of its BAR0; `wide` reads 64 bits. -/
def selRel (wide : Bool) (off : Nat) : Nat := (if wide then 2 ^ 31 else 0) + 3 * 2 ^ 29 + off

/-- A selector of management BAR0. -/
def selMgmt (wide : Bool) (off : Nat) : Nat := (if wide then 2 ^ 31 else 0) + off

/-- The selectors of a default slot, in order: a 64-bit register is read whole. -/
def trigSels : Nat → List Nat
  | 0 => [selRel true 0x300010, selRel true 0x300018, selRel true 0x300020, selRel false 0x208008, selRel true 0x100008,
      selRel true 0x500018, selRel true 0x208]
  | 1 => [selMgmt false 0x10008, selMgmt true 0xB0200] ++ (List.range 10).map fun i => selRel false (0x380 + 4 * i)
  | 2 => [selMgmt true 0x20010, selMgmt false 0x20018, selMgmt false 0x2001C, selMgmt false 0x20020]
  | _ => []

/-- The codes that are written by the critical path (R528). -/
def criticalCodes : List Nat := [0x0202, 0x0D04, 0x0D05, 0x0D06, 0x0D0A, 0x0D20, 0x0E05, 0x0F01, 0x1001]

/-- The place of a code in EVR_RLIM. -/
def rlimIx (code : Nat) : Nat := (code / 256 - 1) * 256 + code % 256

/-- The links of the OSFP cages, two to a cage (R610). -/
def cageLinks : List Nat := [4, 5, 10, 11, 16, 17, 22, 23, 29, 35, 41, 47]

/-- The place of a backplane link among the backplane links (R609). -/
def backplaneIx (l : Nat) : Nat := l - (cageLinks.filter fun k => decide (k < l)).length

/-- What a place of a field holds at reset: the field's reset value, but for the fields whose reset value depends on the
place. -/
def resetAt (f : Fld) (a b : Nat) : Nat :=
  if f.id = Fld.mxF.id then (if b = 0x0C then 1 else 0)
  else if f.id = Fld.evrTrigCode.id then trigCode a
  else if f.id = Fld.evrTrigMask.id then (if a < 3 then 0xFFFF else 0)
  else if f.id = Fld.evrTrigSrc.id then trigSrc a
  else if f.id = Fld.evrTrigN.id then (trigSels a).length
  else if f.id = Fld.evrTrigEn.id then (if a < 3 then 1 else 0)
  else if f.id = Fld.evrTrigSel.id then (trigSels a).getD b 0
  else if f.id = Fld.evrRlim.id then (if criticalCodes.any (fun c => rlimIx c == a) then 255 else f.reset)
  else if f.id = Fld.lnkStatCable.id then (if cageLinks.contains a then 0 else 1)
  else f.reset

/-- The value of a field. -/
def State.get (s : State) (f : Fld) (a b : Nat) : Nat := (tget? s.reg (key f a b)).getD (resetAt f a b)

/-- The state with a field written; the value is cut to the field's width. -/
def State.put (s : State) (f : Fld) (a b v : Nat) : State :=
  { s with reg := tsetD (resetAt f a b) s.reg (key f a b) (v % 2 ^ f.width) }

/-- A one-bit field, or a count, is not zero. -/
def State.on (s : State) (f : Fld) (a b : Nat) : Bool := s.get f a b != 0

/-- Add to a counter, wrapping at its width. -/
def State.inc (s : State) (f : Fld) (a b n : Nat) : State := s.put f a b (s.get f a b + n)

/-- Set one bit of a field. -/
def State.setBit (s : State) (f : Fld) (a b bit : Nat) : State := s.put f a b (s.get f a b ||| 2 ^ bit)

/-- Clear one bit of a field. -/
def State.clrBit (s : State) (f : Fld) (a b bit : Nat) : State :=
  if (s.get f a b).testBit bit then s.put f a b (s.get f a b - 2 ^ bit) else s

/-- One bit of a field. -/
def State.bit (s : State) (f : Fld) (a b bit : Nat) : Bool := (s.get f a b).testBit bit

/-- Return every place of the named fields whose first index a test accepts to its reset value. -/
def State.clearFlds (s : State) (fs : List Fld) (p : Nat → Bool) : State :=
  { s with reg := tclear (fun k => (fs.any fun f => f.id == keyFld k) && p (keyA k)) s.reg }

/-- Bits [lo + w - 1 : lo] of a number. -/
def bitsAt (v lo w : Nat) : Nat := v / 2 ^ lo % 2 ^ w

/-- The numbers below n for which a test holds, rising. -/
def below (n : Nat) (p : Nat → Bool) : List Nat := (List.range n).filter p

/-! ## The names of cores -/

/-- The channel of a core. -/
def chanOf (c : Nat) : Nat := c / 160
/-- The logical island of a core. -/
def islOf (c : Nat) : Nat := c % 160 / 16
/-- A core is present when its island is below the grade's island count (R11). -/
def State.present (s : State) (c : Nat) : Bool := decide (islOf c < s.get Fld.idGradeIslands 0 0)
/-- The present cores of a channel, rising. -/
def State.coresOf (s : State) (ch : Nat) : List Nat := ((List.range 160).map (ch * 160 + ·)).filter s.present
/-- The lead core of a channel, x.0.0. -/
def leadCore (ch : Nat) : Nat := ch * 160

/-! ## The addressed memories

One list of bytes holds them all, each at addresses of its own: the HBM stacks (R24), the scratchpads (R165), the
instruction banks (R57), the fallback pool (R293) and the recorder's NOR (R515). -/

/-- Address a of channel ch's HBM stack, modulo 2^40 (R204). -/
def hbmAddr (ch a : Nat) : Nat := ch * 2 ^ 40 + a % 2 ^ 40
/-- Address a of core c's scratchpad, modulo 2^19 (R165). -/
def spdAddr (c a : Nat) : Nat := 2 ^ 44 + c * 2 ^ 19 + a % 2 ^ 19
/-- Byte address of instruction i of a physical bank of core c. -/
def imemAddr (c bank i : Nat) : Nat := 2 ^ 45 + c * 2 ^ 17 + bank % 2 * 2 ^ 16 + i % 8192 * 8
/-- Byte a of the fallback pool. -/
def poolAddr (a : Nat) : Nat := 2 ^ 46 + a
/-- Byte a of the host submission queue of a channel (R212). -/
def hsqAddr (ch a : Nat) : Nat := 2 ^ 46 + 2 ^ 40 + ch * 4096 + a
/-- Byte a of the U16's word ring, and of its response ring (R308). -/
def hbqWordAddr (a : Nat) : Nat := 2 ^ 46 + 2 ^ 41 + a
/-- Byte a of the U16's response ring (R308). -/
def hbqRespAddr (a : Nat) : Nat := 2 ^ 46 + 2 ^ 41 + 2 ^ 20 + a
/-- Byte a of the NOR flash. -/
def norAddr (a : Nat) : Nat := 2 ^ 47 + a
/-- The first address past the NOR flash. -/
def memTop : Nat := 2 ^ 48

/-- What a byte that nothing has written reads as: in the flash's first 32 MiB what the module was made with (R453, R626), which the
spec leaves open; in the recorder's region ones, erased (R516); in every other memory zero. -/
def memDefault (a : Nat) : BitVec 8 :=
  if a < 2 ^ 47 then 0x00#8 else if a < 2 ^ 47 + 2 ^ 25 then Config.flashByte (a - 2 ^ 47) else 0xFF#8

/-- The byte at an address. -/
def State.byte (s : State) (a : Nat) : BitVec 8 := (tget? s.mem a).getD (memDefault a)

/-- Write one byte, keeping the canonical form. -/
def State.setByte (s : State) (a : Nat) (v : BitVec 8) : State := { s with mem := tsetD (memDefault a) s.mem a v }

/-- The canonical form of the memory: addresses strictly rising, no entry equal to what an unlisted address reads as. -/
def Memory.wf (m : List Host.Cell) : Bool := tsorted m && m.all fun e => e.2 != memDefault e.1

/-- The bytes at n rising addresses. -/
def State.bytes (s : State) (a n : Nat) : List (BitVec 8) := (List.range n).map fun k => s.byte (a + k)

/-- Write bytes at rising addresses. -/
def State.setBytes (s : State) (a : Nat) : List (BitVec 8) → State
  | [] => s
  | v :: vs => (s.setByte a v).setBytes (a + 1) vs

/-- Drop every byte listed in a range of addresses: it reads as unwritten memory. -/
def State.wipe (s : State) (lo hi : Nat) : State :=
  { s with mem := tclear (fun a => decide (lo ≤ a) && decide (a < hi)) s.mem }

/-- The number some bytes spell, least significant first (R23). -/
def leNat : List (BitVec 8) → Nat
  | [] => 0
  | b :: bs => b.toNat + 256 * leNat bs

/-- The number some bytes spell, most significant first (R23). -/
def beNat (bs : List (BitVec 8)) : Nat := leNat bs.reverse

/-- The n bytes of a number, least significant first. -/
def leBytes : Nat → Nat → List (BitVec 8)
  | 0, _ => []
  | n + 1, v => BitVec.ofNat 8 v :: leBytes n (v / 256)

/-- The n bytes of a number, most significant first. -/
def beBytes (n v : Nat) : List (BitVec 8) := (leBytes n v).reverse

/-! ## Events, interrupts and outputs -/

/-- Raise an event: it joins the events on their way to the recorder (R524). What is raised in STANDBY, or from the flush of an
input loss on, is not recorded (R536 and the collisions of chapter 16). -/
def State.raise (s : State) (code src : Nat) (ctx : List Nat) : State :=
  if s.on .evrFlushIn 0 0 || s.get .pwrStatChip 0 0 == 2 then s else { s with evq := s.evq ++ [⟨code, src, ctx⟩] }

/-- An occurrence of a summary-only code (R527): its subject, which of its counts, and how much. -/
def State.tally (s : State) (code src subject k n : Nat) : State := s.raise code src [subject, k, n]

/-- Hand something to the world outside. -/
def State.emit (s : State) (o : Output) : State := { s with out := s.out ++ [o] }

/-- Send a function's MSI-X message: in D3hot it waits for the return to D0; nothing while MSI-X is off; a masked vector sets its
PBA bit (R576, R581). -/
def State.sendMsix (s : State) (fn vec : Nat) : State :=
  if s.on .fnD3 fn 0 then s.put .msixD3 fn vec 1
  else if !s.on .msixEn fn 0 then s
  else if s.on .msixFmask fn 0 || s.on .msixVmask fn vec then s.put .msixPba fn vec 1
  else s.emit (.msix fn vec)

/-- Set a cause of function 0; a cause going from 0 to 1 while its mask is 0 sends its message (R581). -/
def State.mgCause (s : State) (bit : Nat) : State :=
  let t := s.setBit .mbxIrqStatCause 0 0 bit
  if s.bit .mbxIrqStatCause 0 0 bit || s.bit .mbxIrqMask 0 0 bit then t else t.sendMsix 0 bit

/-- Set a cause of a channel's function 1 + ch (R581). -/
def State.chCause (s : State) (ch bit : Nat) : State :=
  let t := s.setBit .chIrqStatCause ch 0 bit
  if s.bit .chIrqStatCause ch 0 bit || s.bit .chIrqMask ch 0 bit then t else t.sendMsix (1 + ch) bit

/-- A cause of FPN_ALERT is set: where it is enabled and ALERT_N is not asserted, ALERT_N is, with event 0x0F08 (R620, R627). -/
def State.alert (s : State) (bit : Nat) : State :=
  let t := s.setBit .fpnAlertCause 0 0 bit
  if s.on .alertPin 0 0 || !s.bit .fpnAlertEn 0 0 bit then t else (t.put .alertPin 0 0 1).raise 0x0F08 8 [bit]

/-- Tell the receiver of platform events, where one is set, a sensor's new state (R621). -/
def State.sensor (s : State) (id v : Nat) : State :=
  if s.on .pldmRx 0 0 then s.emit (.pldmEvent (s.get .pldmRx 0 0 - 1) id v) else s

/-- A flush of the recorder begins, once it is mounted (R536). -/
def State.flush (s : State) : State := if s.on .evrStatMounted 0 0 then s.put .evrStatFlushing 0 0 1 else s

/-- A channel changes its power state: event 0x0E01, and cause PWR where it reaches RUN, DOZE or DARK (R493, R514, R581). -/
def State.setPwr (s : State) (ch st : Nat) : State :=
  let old := s.get .chPwrStatState ch 0
  if old = st then s
  else
    let t := (s.put .chPwrStatState ch 0 st).raise 0x0E01 ch [ch, old, st, s.get .chPwrStatWcause ch 0]
    if st = 0 ∨ st = 2 ∨ st = 3 then t.chCause ch 3 else t

/-! ## What the part may do at all -/

/-- The chip is frozen (R553). -/
def State.frozen (s : State) : Bool := s.on .frzStatFrozen 0 0
/-- The channel's compute domain runs: the channel is in RUN, its PLL does not relock, and it is not in the frozen set (R484,
R489, R553, R571). -/
def State.chanRuns (s : State) (ch : Nat) : Bool :=
  !s.bit .frzStatChfrozen 0 0 ch && s.get .chPwrStatState ch 0 == 0 && !s.on .pllRelock ch 0
/-- Compute-domain power is off: after a trip (R511), or with the hold-up bank below 38 V (R615). -/
def State.cut (s : State) : Bool := s.on .pwrTripTripped 0 0 || s.on .compOff 0 0
/-- Host software's write to a block of a channel's BAR0 takes effect: the function is not in D3hot (R576), the chip is neither
frozen (R557) nor in STANDBY (R501), and the channel is not KILLING (R445); for the blocks that lose power, named by `powered`,
the channel is in RUN (R490). -/
def State.chWrite (s : State) (ch : Nat) (powered : Bool) : Bool :=
  s.on .modOn 0 0 && !s.on .fnD3 (1 + ch) 0 && !s.frozen && decide (s.get .pwrStatChip 0 0 < 2) && s.get .ownChStatState ch 0 != 4 &&
    (!powered || s.get .chPwrStatState ch 0 == 0)
/-- Host software's write to management BAR0 takes effect: the module has power, and function 0 is not in D3hot (R576). -/
def State.mgWrite (s : State) : Bool := s.on .modOn 0 0 && !s.on .fnD3 0 0

/-- The grade is the U16, which has a host batch queue in place of the Service Engine (R3, R308). -/
def State.isU16 (s : State) : Bool := s.get .idPartPart 0 0 == 0x0016
/-- The Service Engine and its ports run: the grade has them, the chip is in RUN, not frozen and not tripped (R3, R500, R511,
R555). -/
def State.sveUp (s : State) : Bool :=
  s.on .idGradeSve 0 0 && s.get .pwrStatChip 0 0 == 0 && !s.frozen && !s.cut

/-! ## Free values and UNPREDICTABLE outcomes -/

/-- Count one free value drawn. -/
def State.draw (s : State) : State := { s with ctr := s.ctr + 1 }

/-! ## HBM through the XTS engine (R37, R429) -/

/-- Write a 64 B line of HBM under the channel's key, with the controller's poison code where the word carries POISON (R233). -/
def hbmWrite (ch addr : Nat) (bs : List (BitVec 8)) (poison : Bool) (s : State) : State :=
  let line := hbmAddr ch addr / 64
  let t := s.setBytes (hbmAddr ch (addr / 64 * 64)) bs
  { t with
    hbmBad := if poison then tset t.hbmBad line 1 else tdel t.hbmBad line
    hbmKey := tset t.hbmKey line (s.get .xtsKey ch 0) }

/-- A line of HBM under the channel's key, and whether it reads as uncorrectable: the bytes last written where the key wrote them,
else bytes the spec leaves open (R428, R429, R446). -/
def hbmRead (ch addr : Nat) (s : State) : List (BitVec 8) × Bool :=
  let a := hbmAddr ch (addr / 64 * 64)
  let k := s.get .xtsKey ch 0
  let was := (tget? s.hbmKey (a / 64)).getD (s.get .hbmGen ch 0)
  (if was = k then s.bytes a 64 else (List.range 64).map fun i => Config.hbmByte was k (a + i),
    (tget? s.hbmBad (a / 64)).isSome)

/-- The stack of a channel loses what it held: it is powered off, or trained anew. -/
def hbmLost (ch : Nat) (s : State) : State :=
  let mine (line : Nat) : Bool := line / 2 ^ 34 == ch
  let t := s.wipe (ch * 2 ^ 40) ((ch + 1) * 2 ^ 40)
  { t with hbmBad := tclear mine t.hbmBad, hbmKey := tclear mine t.hbmKey }.put .hbmGen ch 0 (4 * s.ctr + 1) |>.draw

/-- A 64 B word whose contents are free. -/
def freeWord (s : State) : List (BitVec 8) := (Config.freeBytes s.ctr ++ List.replicate 64 0#8).take 64

/-- The 512-bit words an input FIFO holds. -/
def State.fifoAt (s : State) (c e : Nat) : List (BitVec 512) := tget [] s.fifo (c * 8 + e)
/-- Set the words an input FIFO holds. -/
def State.setFifo (s : State) (c e : Nat) (ws : List (BitVec 512)) : State :=
  { s with fifo := tsetD [] s.fifo (c * 8 + e) ws }

/-- The crossings of a channel under way, oldest first. -/
def State.transitOf (s : State) (ch : Nat) : List Transit := tget [] s.transit ch
/-- Set them. -/
def State.setTransit (s : State) (ch : Nat) (l : List Transit) : State := { s with transit := tsetD [] s.transit ch l }
/-- Send something on its way to a core of a channel. -/
def State.send (s : State) (ch : Nat) (x : Transit) : State := s.setTransit ch (s.transitOf ch ++ [x])

/-- Whether a field belongs to a channel, for R12 and R13. -/
def ownedBy (f : Fld) (a ch : Nat) : Bool :=
  match f.scope with
  | .core => a / 160 == ch
  | .chan => a == ch
  | .entry => a == ch
  | .chip => false

/-- One change that an UNPREDICTABLE outcome makes, kept to the owning channel (R12, R13). -/
def applyFree (ch : Nat) (s : State) : Config.FreeWrite → State
  | .field id a b v =>
    match Fld.all[id]? with
    | some f => if ownedBy f a ch then s.put f a b v else s
    | none => s
  | .hbm addr v =>
    let (bs, bad) := hbmRead ch addr s
    hbmWrite ch addr (bs.mapIdx fun i b => if i = addr % 64 then v else b) bad s
  | .spd core addr v => if core / 160 = ch then s.setByte (spdAddr core addr) v else s
  | .imem core index v =>
    if core / 160 = ch then s.setBytes (imemAddr core (index / 8192) index) (leBytes 8 v.toNat) else s
  | .fifo core ep ws => if core / 160 = ch ∧ ep < 8 then s.setFifo core ep ws else s
  | .vreg core r lanes =>
    if core / 160 = ch ∧ r < 32 then
      { s with vreg := tsetD (List.replicate 64 0#32) s.vreg (core * 32 + r) ((lanes ++ List.replicate 64 0#32).take 64) }
    else s

/-- An UNPREDICTABLE outcome on a channel (R12): free changes to that channel's state, and to nothing else (R13). -/
def havoc (ch : Nat) (s : State) : State := (Config.freeWrites s.ctr).foldl (applyFree ch) s.draw

end Sys2Proof.Machine
end

