-- ==== Sys2Proof/Machine/Seq.lean ====
section
/-!
DEFINITION. The sequencer of a core, shared by every instruction: its registers, the interlock, when a core may issue, how it
holds an instruction, and what retiring one does to the program counter, the loops and the REPLAY (R62 to R91).

An instruction command stands for the instruction at the core's program counter reaching issue. At a core that cannot issue
it does nothing. Where its condition does not hold yet, the core holds it, and the same command sent again is its next try.
-/
namespace Sys2Proof.Machine

/-- CORE_STAT.STATE codes. -/
abbrev stStopped : Nat := 0
abbrev stRunning : Nat := 1
abbrev stGated : Nat := 2
abbrev stWaiting : Nat := 3
abbrev stNap : Nat := 4
abbrev stHalted : Nat := 5

/-- CORE_STAT.STATE of a core. -/
def State.coreState (s : State) (c : Nat) : Nat := s.get .coreStatState c 0

/-! ## Registers -/

/-- Register Gn; G0 reads zero (R68). -/
def State.g (s : State) (c n : Nat) : Word := if n = 0 then 0#64 else BitVec.ofNat 64 (s.get .coreG c n)

/-- Write Gn with a result usable `lat` cycles after this one; a write of G0 is dropped (R68, R101). -/
def State.setG (s : State) (c n lat : Nat) (v : Word) : State :=
  if n = 0 then s else (s.put .coreG c n v.toNat).put .coreGRdy c n (s.get .coreCyc c 0 + lat)

/-- Register Pn (R69). -/
def State.p (s : State) (c n : Nat) : Word := BitVec.ofNat 64 (s.get .coreP c n)

/-- Write Pn. -/
def State.setP (s : State) (c n : Nat) (v : Word) : State := s.put .coreP c n v.toNat

/-- The 64 lanes of V register n (R135). -/
def State.v (s : State) (c n : Nat) : List (BitVec 32) := tget (List.replicate 64 0#32) s.vreg (c * 32 + n % 32)

/-- 64 lanes: those given, and zero for any that are not. -/
def lanes64 (ls : List (BitVec 32)) : List (BitVec 32) := (ls ++ List.replicate 64 0#32).take 64

/-- Write the 64 lanes of V register n without touching when it can be read. -/
def State.putV (s : State) (c n : Nat) (ls : List (BitVec 32)) : State :=
  { s with vreg := tsetD (List.replicate 64 0#32) s.vreg (c * 32 + n % 32) (lanes64 ls) }

/-- Write V register n with a result usable `lat` cycles after this one. -/
def State.setV (s : State) (c n lat : Nat) (ls : List (BitVec 32)) : State :=
  (s.putV c n ls).put .coreVRdy c (n % 32) (s.get .coreCyc c 0 + lat)

/-! ## Cycles and stalls -/

/-- Let cycles of the core's clock pass (R71). -/
def State.pass (s : State) (c n : Nat) : State := s.inc .coreCyc c 0 n

/-- Let the core's clock reach a cycle, if it has not yet. -/
def State.reach (s : State) (c cyc : Nat) : State := if s.get .coreCyc c 0 < cyc then s.put .coreCyc c 0 cyc else s

/-- Stall until the G registers named are available (R65). -/
def State.stallG (s : State) (c : Nat) (ns : List Nat) : State := ns.foldl (fun t n => t.reach c (t.get .coreGRdy c n)) s

/-- Stall until the V registers named are available (R136). -/
def State.stallV (s : State) (c : Nat) (ns : List Nat) : State :=
  ns.foldl (fun t n => t.reach c (t.get .coreVRdy c (n % 32))) s

/-! ## Issue and hold -/

/-- The core holds an instruction. -/
def State.isHeld (s : State) (c : Nat) : Bool := (tget? s.held c).isSome

/-- The core may issue instruction i now: it is present, its channel runs, and it is RUNNING or holds exactly i (R62). -/
def State.ready (s : State) (c : Nat) (i : Instr) : Bool :=
  s.present c && s.chanRuns (chanOf c) &&
    ((s.coreState c == stRunning && !s.on .coreStartWait c 0) ||
      ((s.coreState c == stGated || s.coreState c == stWaiting) && tget? s.held c == some i))

/-- The core lets go of what it holds and is RUNNING. -/
def State.resume (s : State) (c : Nat) : State :=
  { (((s.put .coreStatState c 0 stRunning).put .coreWkind c 0 0).put .coreWobj c 0 0) with held := tdel s.held c }

/-- The core holds instruction i, in a state (GATED or WAITING), on an object of a kind (R275). -/
def State.hold (s : State) (c : Nat) (i : Instr) (st kind obj : Nat) : State :=
  { (((s.put .coreStatState c 0 st).put .coreWkind c 0 kind).put .coreWobj c 0 obj) with held := tset s.held c i }

/-- Give a core an instruction: its effect where the core may issue it, nothing where it may not. -/
def issue (c : Nat) (i : Instr) (s : State) (k : State → State) : Out :=
  .next (if s.ready c i then k (s.resume c) else s)

/-- The cycles a hold on something outside the core took: free (the crossing latencies of R46 have no fixed value). -/
def State.waited (s : State) (c : Nat) (held : Bool) : State :=
  if held then (s.pass c (Config.freeNat s.ctr)).draw else s

/-! ## Retiring -/

/-- Set the program counter. -/
def State.setPc (s : State) (c pc : Nat) : State := s.put .corePc c 0 (pc % 8192)

/-- One armed patch slot adds to its P register (R82). -/
def patchSlot (c : Nat) (s : State) (k : Nat) : State :=
  if s.on .corePatchArm c k then
    let d := s.get .corePatchPd c k
    s.setP c d (s.p c d + s.p c (s.get .corePatchPs c k))
  else s

/-- An iteration boundary of the active REPLAY: one cycle, the armed slots in order 0 to 7, then the next iteration or the
return (R82). -/
def replayBoundary (c : Nat) (s : State) : State :=
  let t := ((List.range 8).foldl (patchSlot c) s).pass c 1
  let i := t.get .coreRepIdx c 0 + 1
  if i < t.get .coreRepCount c 0 then (t.put .coreRepIdx c 0 i).setPc c (t.get .coreRepStart c 0)
  else ((t.put .coreStatInreplay c 0 0).put .coreRepIdx c 0 0).setPc c (t.get .coreRepRet c 0)

/-- Continue after the instruction at pc, with no loop to close there (R64, R81). -/
def afterLoop (c pc : Nat) (s : State) : State :=
  if s.on .coreStatInreplay c 0 ∧ pc = (s.get .coreRepStart c 0 + s.get .coreRepLen c 0 + 8191) % 8192 then replayBoundary c s
  else s.setPc c (pc + 1)

/-- Continue after the instruction at pc: loop back from END at no cost, or leave the loop (R79). -/
def seqFrom (c pc : Nat) (s : State) : State :=
  let d := s.get .coreStatLdepth c 0
  if d ≠ 0 ∧ pc = s.get .coreLoopLast c (d - 1) then
    let i := s.get .coreLoopIdx c (d - 1) + 1
    if i < s.get .coreLoopCount c (d - 1) then (s.put .coreLoopIdx c (d - 1) i).setPc c (s.get .coreLoopStart c (d - 1))
    else afterLoop c pc (s.put .coreStatLdepth c 0 (d - 1))
  else afterLoop c pc s

/-- An instruction boundary: a pending CLKSEL = 0 takes effect once the aligner is locked (R99). -/
def clockBoundary (c : Nat) (s : State) : State :=
  if s.on .coreClkPend c 0 ∧ s.on .coreAlign c 0 then (s.put .coreClkPend c 0 0).put .coreStatOnfic c 0 0 else s

/-- The instruction at the program counter retires after `n` issue cycles and the next in order follows. -/
def retire (c n : Nat) (s : State) : State := clockBoundary c (seqFrom c (s.get .corePc c 0) (s.pass c n))

/-- The instruction retires after `n` issue cycles and a jump's target follows. -/
def retireTo (c n target : Nat) (s : State) : State := clockBoundary c ((s.pass c n).setPc c target)

/-- The block since the re-run point is clean no longer (R184). -/
def unclean (c : Nat) (s : State) : State := s.put .spdStatClean c 0 0

/-- The core halts with a code, a cause and an event (R89, R90). -/
def coreHalt (c code cause : Nat) (s : State) : State :=
  let pc := s.get .corePc c 0
  ((((s.put .coreStatState c 0 stHalted).put .coreHaltCode c 0 code).put .coreHaltCause c 0 cause).put .coreHaltPc c 0 pc).chCause
    (chanOf c) 1

/-- The sequencer state R102 resets: every part of it but CORE_CYC and the active bank. -/
def seqFlds : List Fld :=
  [.coreStatState, .coreStatOnfic, .coreStatDbell, .coreStatLdepth, .coreStatInreplay, .corePc, .coreHaltCode,
    .coreHaltCause, .coreHaltPc, .coreG, .coreP, .coreSqf, .coreLoopStart, .coreLoopLast, .coreLoopCount, .coreLoopIdx,
    .coreRepStart, .coreRepLen, .coreRepCount, .coreRepIdx, .coreRepRet, .corePatchArm, .corePatchPd, .corePatchPs,
    .coreGRdy, .coreVRdy, .coreWkind, .coreWobj, .coreClkPend, .coreAlign, .coreStartWait]

/-- What a re-run point saves and a re-run restores (R183): G and P, the loops, the REPLAY, the patch slots, the pc. -/
def rerunFlds : List Fld :=
  [.coreG, .coreP, .coreStatLdepth, .coreStatInreplay, .corePc, .coreLoopStart, .coreLoopLast, .coreLoopCount,
    .coreLoopIdx, .coreRepStart, .coreRepLen, .coreRepCount, .coreRepIdx, .coreRepRet, .corePatchArm, .corePatchPd,
    .corePatchPs]

/-- The entries of the field table that a list of fields names at core c. -/
def fieldsAt (fs : List Fld) (c : Nat) (s : State) : List (Nat × Nat) :=
  s.reg.filter fun e => (fs.any fun f => f.id == keyFld e.1) && keyA e.1 == c

/-- A re-run point: the core saves its sequencer state, the attempt count is 0 and the block is clean (R183). -/
def rerunPoint (c : Nat) (s : State) : State :=
  let t := (s.put .spdStatAttempt c 0 0).put .spdStatClean c 0 1
  { t with rerun := tset t.rerun c (fieldsAt rerunFlds c t) }

/-- Restore what the core's last re-run point saved. -/
def rerunRestore (c : Nat) (s : State) : State :=
  let t := s.clearFlds rerunFlds (· == c)
  { t with reg := (tget [] s.rerun c).foldl (fun r e => tset r e.1 e.2) t.reg }

/-! ## Starting and stopping -/

/-- The matrix array stops: its job ends, both planes clear, RETAINED clears (R133). -/
def mxClear (c : Nat) (s : State) : State :=
  let t := (s.put .mxStatRetained c 0 0).put .mxStatDrainwait c 0 0
  { t with mxJobs := tdel t.mxJobs c, planes := tclear (fun k => k / 2 == c) t.planes }.put .mxDoneAt c 0 0

/-- A spill stops (R155, R631). -/
def vxStop (c : Nat) (s : State) : State :=
  { s with vxJobs := tdel s.vxJobs c }.put .vxDoneAt c 0 0

/-- Every tile-queue entry becomes FREE (R162, R185). -/
def tqFree (c : Nat) (s : State) : State :=
  let t := s.clearFlds [.tqEnt, .tqHead, .tqFreeAt, .tqFullAt] (· == c)
  { t with tiles := tclear (fun k => k / 8 == c) t.tiles }

/-- A FILLING tile-queue entry is discarded (R148, R91). -/
def tqDropFilling (c : Nat) (s : State) : State :=
  (List.range 8).foldl
    (fun t e => if t.get .tqEnt c e = 2 ∧ t.get .coreCyc c 0 < t.get .tqFullAt c e then t.put .tqEnt c e 0 else t) s

end Sys2Proof.Machine
end

