-- ==== Sys2Proof/Machine/Operands.lean ====
section
/-!
DEFINITION. The operand forms: immediate and register sources, the layer fields of the units, busy units, gates, the sources a
WAIT watches, and the special values that RDS reads.
-/
namespace Sys2Proof.Machine

/-- The value of a second operand: IMM32 sign-extended, or a G register (R84, R100). -/
def srcB (c : Nat) (b : SrcB) (s : State) : Word :=
  match b with
  | .imm v => v.signExtend 64
  | .greg n => s.g c n.toNat

/-- The G registers a second operand reads. -/
def srcBRegs : SrcB → List Nat
  | .imm _ => []
  | .greg n => [n.toNat]

/-! ## Layer fields -/

/-- Width of MX field i (R110). -/
def mxWidth (i : Nat) : Nat :=
  match i with
  | 0 => 4 | 1 => 2 | 2 => 6 | 3 => 6 | 4 => 16 | 5 => 19 | 6 => 19 | 7 => 19 | 8 => 19 | 9 => 19 | 10 => 2 | 11 => 1
  | 12 => 1 | 13 => 16 | _ => 0

/-- Width of VX field i (R153). -/
def vxWidth (i : Nat) : Nat :=
  match i with
  | 0 => 16 | 1 => 4 | 2 => 11 | 3 => 19 | 4 => 19 | 5 => 1 | _ => 0

/-- Width of FX field i (R208). -/
def fxWidth (i : Nat) : Nat :=
  match i with
  | 0 => 16 | 1 => 3 | 2 => 2 | 3 => 2 | 4 => 1 | 5 => 2 | 6 => 8 | 7 => 5 | 8 => 16 | 9 => 16 | 10 => 16 | 11 => 16
  | 12 => 40 | 13 => 40 | 14 => 40 | 15 => 40 | 16 => 40 | 17 => 18 | 18 => 19 | _ => 0

/-- Width of SY field i (R262). -/
def syWidth (i : Nat) : Nat :=
  match i with
  | 0 => 16 | 1 => 3 | 2 => 19 | 3 => 16 | _ => 0

/-- Width of SQ field i (R98). -/
def sqWidth (i : Nat) : Nat :=
  match i with
  | 0 => 2 | 1 => 1 | 2 => 24 | 3 => 8 | 4 => 20 | 5 => 40 | 8 => 32 | 9 => 32 | 10 => 32 | 11 => 32 | 12 => 32 | 13 => 32
  | 14 => 32 | 15 => 32 | _ => 0

/-- A matrix layer field. -/
def State.mx (s : State) (c i : Nat) : Nat := s.get .mxF c i
/-- A vector layer field. -/
def State.vx (s : State) (c i : Nat) : Nat := s.get .vxF c i
/-- A Fox layer field. -/
def State.fx (s : State) (c i : Nat) : Nat := s.get .fxF c i
/-- A landing layer field. -/
def State.sy (s : State) (c i : Nat) : Nat := s.get .syF c i
/-- A sequencer field. -/
def State.sq (s : State) (c i : Nat) : Nat := s.get .coreSqf c i

/-! ## Busy units -/

/-- The state of a unit at the core: not busy from a known cycle on, or busy on something that has not happened yet. -/
inductive UnitState where
  | idleAt (cyc : Nat)
  | busy
deriving DecidableEq, Repr

/-- Unit u of core c (1 MX, 2 VX, 3 FX, 4 SY): busy, or the first cycle in which it is seen not busy (R72, R88). -/
def unitState (c u : Nat) (s : State) : UnitState :=
  match u with
  | 1 => if (tget? s.mxJobs c).isSome then .busy else .idleAt (s.get .mxDoneAt c 0)
  | 2 => if (tget? s.vxJobs c).isSome then .busy else .idleAt (s.get .vxDoneAt c 0)
  | 3 => if s.on .fxWait c 0 then .busy else .idleAt (s.get .fxDoneAt c 0)
  | 4 => if s.on .syLeft c 0 then .busy else .idleAt (s.get .syDoneAt c 0)
  | _ => .idleAt 0

/-- The first cycle in which every unit of a list is seen not busy, or none while one is busy on something to come. -/
def unitsIdleAt (c : Nat) (us : List Nat) (s : State) : Option Nat :=
  us.foldl (fun r u => match r, unitState c u s with
    | some n, .idleAt m => some (max n m)
    | _, _ => none) (some 0)

/-- A unit is busy in the current cycle (R72). -/
def unitBusy (c u : Nat) (s : State) : Bool :=
  match unitState c u s with
  | .idleAt m => decide (s.get .coreCyc c 0 < m)
  | .busy => true

/-! ## The tile queue as the core sees it -/

/-- Entries FULL or READ in the current cycle (R149). -/
def tqFullCount (c : Nat) (s : State) : Nat :=
  (below 8 fun e => s.get .tqEnt c e == 3 || (s.get .tqEnt c e == 2 && decide (s.get .tqFullAt c e ≤ s.get .coreCyc c 0))).length

/-- Entries FREE in the current cycle (R149). -/
def tqFreeCount (c : Nat) (s : State) : Nat :=
  (below 8 fun e => s.get .tqEnt c e == 0 && decide (s.get .tqFreeAt c e ≤ s.get .coreCyc c 0)).length

/-- The queue holds no tile: every entry is FREE. -/
def tqEmpty (c : Nat) (s : State) : Bool := (List.range 8).all fun e => s.get .tqEnt c e == 0

/-! ## Gates (R76, R77) -/

/-- What a gate descriptor is: unchecked misuse, which makes the GO UNPREDICTABLE, or a condition that holds or does not. -/
inductive GateVal where
  | misuse
  | is (holds : Bool)
deriving DecidableEq, Repr

/-- A ring is one that core c may name: enabled, and its CORE is c (R221). -/
def ringOf (c ring : Nat) (s : State) : Bool :=
  s.on .foxRingCfgEn (chanOf c) ring && s.get .foxRingCfgCore (chanOf c) ring == c % 160

/-- The ring is an OUT ring. -/
def ringOut (ch ring : Nat) (s : State) : Bool := s.on .foxRingCfgDir ch ring

/-- The ring carries class and link of an output endpoint's route over a link, where OUT_ROOM is always true (R256). -/
def routeOf (c ep : Nat) (s : State) : Nat :=
  s.get .rteRoute (chanOf c) (s.get .rteCtlActive (chanOf c) 0 * 1280 + c % 160 * 8 + ep)

/-- A route is enabled (R253). -/
def routeEn (r : Nat) : Bool := bitsAt r 0 1 == 1
/-- A route is of the SIGNAL class. -/
def routeSignal (r : Nat) : Bool := bitsAt r 1 1 == 1
/-- A FLOW route goes over a link. -/
def routeLink (r : Nat) : Bool := bitsAt r 2 1 == 1 && !routeSignal r

/-- Whether a gate descriptor's condition holds for core c. -/
def gateVal (c d : Nat) (s : State) : GateVal :=
  let ch := chanOf c
  let obj := bitsAt d 20 8
  let n := bitsAt d 0 16
  match bitsAt d 28 4 with
  | 0 => .is true
  | 1 =>
    if !ringOf c obj s ∨ ringOut ch obj s ∨ s.get .foxRingCfgSlots ch obj < n then .misuse
    else .is (decide (n ≤ s.get .ringPubv ch obj))
  | 2 =>
    if !ringOf c obj s ∨ !ringOut ch obj s ∨ s.get .foxRingCfgSlots ch obj < n then .misuse
    else .is (decide (n ≤ s.get .ringFreev ch obj))
  | 3 => if 7 < obj ∨ 64 < n then .misuse else .is (decide (n ≤ (s.fifoAt c obj).length))
  | 4 =>
    if 7 < obj ∨ 64 < n then .misuse
    else .is (routeLink (routeOf c obj s) || decide (n ≤ s.get .epRoom c obj))
  | 5 => if 8 < n then .misuse else .is (decide (n ≤ tqFullCount c s))
  | 6 => if 8 < n then .misuse else .is (decide (n ≤ tqFreeCount c s))
  | 7 => if 15 < obj then .misuse else .is (decide (n ≤ s.get .synCnt c obj))
  | 8 => if obj = 0 ∨ 4 < obj then .misuse else .is (n == 0 || !unitBusy c obj s)
  | _ => .misuse

/-- The gate descriptors a GO's mask names, rising. -/
def gatesOf (mask : BitVec 8) : List Nat := below 8 fun k => mask.getLsbD k

/-- The value of every gate a mask names. -/
def gateVals (c : Nat) (mask : BitVec 8) (s : State) : List (Nat × GateVal) :=
  (gatesOf mask).map fun k => (k, gateVal c (s.sq c (8 + k)) s)

/-! ## WAIT sources (R85) -/

/-- Words that wait in the U16's word ring (R309). -/
def hbqWaiting (ch : Nat) (s : State) : Nat := (s.get .hbqWtail ch 0 + 4096 - s.get .hbqWhead ch 0) % 4096

/-- The queued batch that an exchange holds from the lead core (R319). -/
def heldBatch (ch : Nat) (b : Batch) (s : State) : Bool :=
  let p := s.get .exchStatPhase ch 0
  (p == 2 || p == 3) && b.tag == s.get .exchStatSeamTag ch 0

/-- The batches before the held one: what the lead core is offered (R319). -/
def offered (ch : Nat) (s : State) : List Batch := (tget [] s.batches ch).takeWhile fun b => !heldBatch ch b s

/-- The SVE holds a committed batch for the channel that is not yet taken, and no exchange holds it (R85, R319); on the U16 the
word at WHEAD is the first of a stream and present (R310). -/
def batchReady (ch : Nat) (s : State) : Bool :=
  if s.isU16 then s.get .hbqLeft ch 0 == 0 && hbqWaiting ch s != 0 else !(offered ch s).isEmpty

/-- The masked sources of a WAIT that are true, in SRCMASK order. -/
def waitSeen (c mask : Nat) (s : State) : Nat :=
  let ch := chanOf c
  let src : List Bool :=
    [ (let r := bitsAt (s.sq c 2) 0 8
       ringOf c r s && decide (bitsAt (s.sq c 2) 8 16 ≤ s.get .ringPubv ch r)),
      (List.range 8).any (fun e => (s.sq c 3).testBit e && !(s.fifoAt c e).isEmpty),
      decide (bitsAt (s.sq c 4) 4 16 ≤ s.get .synCnt c (bitsAt (s.sq c 4) 0 4)),
      decide ((s.get .gtc 0 0 % 2 ^ 40 + 2 ^ 40 - s.sq c 5) % 2 ^ 40 < 2 ^ 39),
      (c == leadCore ch && batchReady ch s),
      s.on .coreStatDbell c 0 ]
  (List.range 6).foldl (fun r k => if mask.testBit k && src.getD k false then r + 2 ^ k else r) 0

/-! ## Special values (R70) -/

/-- The value RDS reads at a special index; a reserved index reads zero. -/
def special (c idx : Nat) (s : State) : Nat :=
  if idx = 0x00 then c
  else if idx = 0x01 then chanOf c
  else if idx = 0x02 then islOf c
  else if idx = 0x03 then c % 16
  else if idx = 0x04 then s.get .idGradeIslands 0 0
  else if idx = 0x08 then s.get .coreCyc c 0
  else if idx = 0x09 then s.get .gtc 0 0
  else if idx = 0x0A then
    (if s.get .coreStatLdepth c 0 = 0 then 0 else s.get .coreLoopIdx c (s.get .coreStatLdepth c 0 - 1))
  else if idx = 0x0B then (if s.on .coreStatInreplay c 0 then s.get .coreRepIdx c 0 else 0)
  else if idx = 0x0C then s.get .coreStatDbell c 0
  else if 0x10 ≤ idx ∧ idx ≤ 0x1F then s.get .synCnt c (idx - 0x10)
  else 0

end Sys2Proof.Machine
end

