-- ==== Sys2Proof/Machine/Spd.lean ====
section
/-!
DEFINITION. The scratchpad's banks: masks, check columns, epoch tags, conflicts between ports, and the read and the write of
one bank word (R165 to R182, R188, R189, R194 to R196).
-/
namespace Sys2Proof.Machine

/-- The ports, in their order of precedence (R174). -/
abbrev pMx : Nat := 0
abbrev pVx : Nat := 1
abbrev pFox : Nat := 2
abbrev pChin : Nat := 3

/-- The bank word that holds a scratchpad address (R165): bank × 512 + word in the bank. -/
def wordOf (a : Nat) : Nat := a % 2 ^ 19 / 64

/-- The bank of a bank word. -/
def bankOf (w : Nat) : Nat := w / 512

/-- The mask in force for a port: the current value of its field (R169). -/
def portMask (c port : Nat) (s : State) : Nat :=
  match port with
  | 0 => s.mx c 0x0D
  | 1 => s.vx c 0
  | 2 => s.fx c 0
  | _ => s.sy c 0

/-- A port may access a bank: its mask names the bank, and the bank's group is powered and initialised (R169, R196). -/
def bankOpen (c port bank : Nat) (s : State) : Bool :=
  (portMask c port s).testBit bank && (s.get .spdPwrOn c 0).testBit (bank / 4) &&
    (s.get .spdPwrReady c 0).testBit (bank / 4) && !(s.get .spdInitMask c 0).testBit bank

/-- Every bank of some words is open to a port. -/
def wordsOpen (c port : Nat) (ws : List Nat) (s : State) : Bool := ws.all fun w => bankOpen c port (bankOf w) s

/-- A bank is a W-bank (R194). -/
def isWbank (c bank : Nat) (s : State) : Bool := (s.get .spdKindWbank c 0).testBit bank

/-- A word's tag is stale (R189). -/
def isStale (c w : Nat) (s : State) : Bool := s.get .spdTag c w != s.get .chSpdEpoch (chanOf c) 0

/-- What the check of a read finds. -/
inductive Check where
  | ok | corrected | parity | uncorrectable
deriving DecidableEq, Repr

/-- A bank word as a port reads it: its 64 bytes, whether the access was lost to a conflict, and what the check found. -/
structure WordRd where
  data : List (BitVec 8)
  lost : Bool
  check : Check
deriving DecidableEq, Repr

/-- The number of set bits. -/
def popBits (v : BitVec 512) : Nat := ((List.range 512).filter fun k => v.getLsbD k).length

/-- The parity bits of an A-bank that some data bits flip: bit i covers the data bits j with j mod 8 = i (R181). -/
def parityFlips (v : BitVec 512) : Bool :=
  (List.range 8).any fun i => ((List.range 64).filter fun k => v.getLsbD (8 * k + i)).length % 2 == 1

/-- What the check of a word finds, given the errors the access meets and the stored word's own state. More than three errors
in a W-bank word lie outside the code's guarantee: what is found is free (R178). -/
def checkWord (c w : Nat) (u : Option Upset) (s : State) : Check :=
  let wb := isWbank c (bankOf w) s
  if s.on .spdErr c w then (if wb then .uncorrectable else .parity)
  else
    match u with
    | none => .ok
    | some u =>
      if wb then
        let n := popBits u.flip + u.check.toNat
        if n = 0 then .ok else if n ≤ 2 then .corrected else if n = 3 then .uncorrectable
        else match Config.freeNat s.ctr % 3 with
          | 0 => .ok
          | 1 => .corrected
          | _ => .uncorrectable
      else if parityFlips u.flip || u.check != 0#3 then .parity else .ok

/-- Flip the data bits that read wrong. -/
def flipBytes (bs : List (BitVec 8)) (v : BitVec 512) : List (BitVec 8) :=
  bs.mapIdx fun k b => b ^^^ v.extractLsb' (8 * k) 8

/-- Record a bank conflict on a core (R175, R176): the flag, the event and the pending halt; the first conflict since the flag
was clear is described in SPD_CONF. -/
def noteConflict (c port : Nat) (k : Clash) (s : State) : State :=
  let others := k.others.toNat &&& (15 - 2 ^ port % 16)
  let win := ((List.range 4).find? fun p => p == port || others.testBit p).getD port
  let lostSet := (others ||| 2 ^ port) - 2 ^ win
  let wr : Bool := k.write || (win != port && port == pChin)
  let word := if win = port then k.word.toNat % 512 else k.otherWord.toNat
  let t := if s.on .spdStatConflict c 0 then s
    else
      (((((((s.put .spdStatConflict c 0 1).put .spdConfBank c 0 (bankOf k.word.toNat)).put .spdConfWin c 0 win).put
        .spdConfLost c 0 lostSet).put .spdConfWrite c 0 (if wr then 1 else 0)).put .spdConfWord c 0 word).put .spdConfCyc c 0
          (s.get .coreCyc c 0))
  let conf := t.get .spdConfBank c 0 + t.get .spdConfWin c 0 * 2 ^ 4 + t.get .spdConfLost c 0 * 2 ^ 6 +
    t.get .spdConfWrite c 0 * 2 ^ 10 + t.get .spdConfWord c 0 * 2 ^ 16 + t.get .spdConfCyc c 0 * 2 ^ 32
  (t.raise 0x0401 (chanOf c) [c, conf]).put .spdHaltPend c 0 1

/-- The access of a port to a word meets the clashes of the cycle: whether it is lost, and the state. -/
def meet (c port w : Nat) (a : Access) (s : State) : Bool × State :=
  match a.clashes.find? (fun k => k.word.toNat == w && (k.others.toNat &&& (15 - 2 ^ port % 16)) != 0) with
  | none => (false, s)
  | some k => ((List.range port).any fun p => k.others.toNat.testBit p, noteConflict c port k s)

/-- Count a corrected read; the first in a second raises its event (R178). -/
def noteCorrected (c w : Nat) (s : State) : State :=
  let sec := s.get .gtc 0 0 / 1000000000 + 1
  let t := s.inc .spdCecnt c 0 1
  if s.get .spdCeSec c 0 = sec then t
  else (t.put .spdCeSec c 0 sec).raise 0x0406 (chanOf c) [c, bankOf w, w % 512]

/-- One read of a bank word by a port. A lost read gives ones (R174); a stale word reads zero and is counted, its check not
evaluated (R189). -/
def spdRead (c port w : Nat) (a : Access) (s : State) : WordRd × State :=
  let (gone, s) := meet c port w a s
  if gone then (⟨List.replicate 64 0xFF#8, true, .ok⟩, s)
  else if isStale c w s then (⟨List.replicate 64 0#8, false, .ok⟩, (s.inc .spdStalec c 0 1).tally 0x0407 (chanOf c) c 0 1)
  else
    let u := a.upsets.find? fun u => u.word.toNat == w
    let raw := s.bytes (spdAddr c (w * 64)) 64
    let k := checkWord c w u s
    let seen := match u with
      | some u => if k = .corrected then raw else flipBytes raw u.flip
      | none => raw
    (⟨seen, false, k⟩, if k = .corrected then noteCorrected c w s else if (u.map fun u => decide
      (3 < popBits u.flip + u.check.toNat)).getD false then s.draw else s)

/-- The word stored after a write: new bytes over old ones, the current epoch as tag (R167, R168, R188). -/
def storeWord (c w : Nat) (old : List (BitVec 8)) (new : List (Nat × BitVec 8)) (err : Bool) (s : State) : State :=
  let bs := old.mapIdx fun k b => ((new.reverse.find? fun e => e.1 == k).map Prod.snd).getD b
  ((s.setBytes (spdAddr c (w * 64)) bs).put .spdTag c w (s.get .chSpdEpoch (chanOf c) 0)).put .spdErr c w (if err then 1 else 0)

/-- One write of a bank word by a port, as (byte offset, byte) pairs, and what its merge found. A write of fewer than 64 B
merges: a stale word's other bytes as zero; a word that fails its check is stored with a code that fails every later check
(R168, R180). A lost write is dropped (R174). -/
def spdWrite (c port w : Nat) (new : List (Nat × BitVec 8)) (a : Access) (s : State) : Check × State :=
  let (gone, s) := meet c port w a s
  if gone then (.ok, s)
  else if (List.range 64).all (fun k => new.any fun e => e.1 == k) then
    (.ok, storeWord c w (List.replicate 64 0#8) new false s)
  else if isStale c w s then (.ok, storeWord c w (List.replicate 64 0#8) new false s)
  else
    let u := a.upsets.find? fun u => u.word.toNat == w
    let raw := s.bytes (spdAddr c (w * 64)) 64
    let k := checkWord c w u s
    let seen := match u with
      | some u => if k = .corrected then raw else flipBytes raw u.flip
      | none => raw
    let t := if k = .corrected then noteCorrected c w s else s
    (k, storeWord c w seen new (k == .parity || k == .uncorrectable) t)

/-- A write of a whole word. -/
def fullWord (bs : List (BitVec 8)) : List (Nat × BitVec 8) := bs.mapIdx fun k b => (k, b)

/-- A read or a merge by the FOX port found an error: the event, and whether the word carries POISON (R179, R182). -/
def foxPortError (c w : Nat) (k : Check) (s : State) : Bool × State :=
  match k with
  | .parity => (true, s.raise 0x0404 (chanOf c) [c, bankOf w, w % 512])
  | .uncorrectable => (true, s.raise 0x0405 (chanOf c) [c, bankOf w, w % 512, pFox])
  | _ => (false, s)

/-! ## Bank kinds and power groups (R194, R195, R196) -/

/-- Whether any initialisation runs at the core. -/
def spdInitRuns (c : Nat) (s : State) : Bool := s.on .spdInitMask c 0 || s.on .spdUpMask c 0

/-- Bring SPD_STAT.INIT and SPD_PWR.READY up to date: a group is ready when it is on, up, and none of its banks is being
initialised. -/
def spdReadyUpdate (c : Nat) (s : State) : State :=
  let ok := below 4 fun g => (s.get .spdPwrOn c 0).testBit g && !(s.get .spdUpMask c 0).testBit g &&
    bitsAt (s.get .spdInitMask c 0) (4 * g) 4 == 0
  (s.put .spdPwrReady c 0 (ok.foldl (fun r g => r + 2 ^ g) 0)).put .spdStatInit c 0 (if spdInitRuns c s then 1 else 0)

/-- Set the bank kinds; each powered bank whose kind changes is initialised (R195). -/
def setKinds (c v : Nat) (s : State) : State :=
  let old := s.get .spdKindWbank c 0
  let chg := below 16 fun b => old.testBit b != v.testBit b && (s.get .spdPwrOn c 0).testBit (b / 4) &&
    !(s.get .spdUpMask c 0).testBit (b / 4)
  let t := (s.put .spdKindWbank c 0 v).put .spdInitMask c 0 (chg.foldl (fun r b => r ||| 2 ^ b) (s.get .spdInitMask c 0))
  spdReadyUpdate c t

/-- Set the powered groups: a group that goes on comes up and is then initialised; one that goes off loses its contents. -/
def setGroups (c v : Nat) (s : State) : State :=
  let old := s.get .spdPwrOn c 0
  let t := (List.range 4).foldl (fun (t : State) g =>
    if v.testBit g && !old.testBit g then t.put .spdUpMask c 0 (t.get .spdUpMask c 0 ||| 2 ^ g)
    else if old.testBit g && !v.testBit g then
      ((t.put .spdUpMask c 0 (t.get .spdUpMask c 0 &&& (15 - 2 ^ g))).put .spdInitMask c 0
        (t.get .spdInitMask c 0 &&& (0xFFFF - 0xF * 2 ^ (4 * g)))).wipe (spdAddr c (g * 2 ^ 17)) (spdAddr c (g * 2 ^ 17) + 2 ^ 17)
    else t) s
  spdReadyUpdate c (t.put .spdPwrOn c 0 v)

/-- Give the words lo to lo + n − 1 of a core the current epoch as tag and a valid code. -/
def tagWords (c lo n : Nat) (s : State) : State :=
  let e := s.get .chSpdEpoch (chanOf c) 0
  let hit (f : Fld) (k : Nat) : Bool := decide (key f c lo ≤ k) && decide (k < key f c lo + n)
  let t : State := { s with reg := tclear (fun k => hit .spdTag k || hit .spdErr k) s.reg }
  if e = 0 then t else (List.range n).foldl (fun t k => t.put .spdTag c (lo + k) e) t

/-- A bank is initialised: every word zero, with the current epoch and a valid code; it counts as swept in full (R190,
R195). -/
def initBank (c b : Nat) (s : State) : State :=
  let t := tagWords c (b * 512) 512 (s.wipe (spdAddr c (b * 2 ^ 15)) (spdAddr c (b * 2 ^ 15) + 2 ^ 15))
  spdReadyUpdate c ((t.put .spdInitMask c 0 (t.get .spdInitMask c 0 &&& (0xFFFF - 2 ^ b))).put .spdVisited c b 512)

/-- A sweep pass is complete: every word of every powered bank has been visited (R190). -/
def sweepDone (c : Nat) (s : State) : Bool :=
  (List.range 16).all fun b => !(s.get .spdPwrOn c 0).testBit (b / 4) || decide (512 ≤ s.get .spdVisited c b)

/-- Sweep the whole of every powered bank at once: a forced pass, or the end of one (R191). -/
def forcedSweep (c : Nat) (s : State) : State :=
  let t := (List.range 8192).foldl (fun (t : State) w =>
    if isStale c w t && (t.get .spdPwrOn c 0).testBit (w / 2048) then
      ((t.wipe (spdAddr c (w * 64)) (spdAddr c (w * 64) + 64)).put .spdTag c w (t.get .chSpdEpoch (chanOf c) 0)).put .spdErr c w 0
    else t) s
  ((List.range 16).foldl (fun t b => t.put .spdVisited c b 512) t).put .spdStatSwept c 0 1

/-- The epoch advances: no word has been visited since (R188, R190). -/
def epochAdvanced (c : Nat) (s : State) : State :=
  (((List.range 16).foldl (fun t b => t.put .spdVisited c b 0) s).put .spdStatSwept c 0 0)

end Sys2Proof.Machine
end

