-- ==== Sys2Proof/Machine/Det.lean ====
section
/-!
DEFINITION. Determinism: segments, causes, signatures and the log (R338 to R360).
-/
namespace Sys2Proof.Machine

/-! ## Causes, as DET_LOG numbers them (R356) -/

abbrev cRace : Nat := 0
abbrev cRetry : Nat := 1
abbrev cFic : Nat := 2
abbrev cHostio : Nat := 3
abbrev cClock : Nat := 4
abbrev cRef : Nat := 5
abbrev cPoison : Nat := 6
abbrev cHalt : Nat := 7

/-- A cause occurs: it is set while an interval is open. -/
def detCause (ch bit : Nat) (s : State) : State := if s.on .detOpen ch 0 then s.setBit .detCauses ch 0 bit else s

/-- RETRY_COUNT rises by one (R352). -/
def countRetry (ch : Nat) (s : State) : State := detCause ch cRetry (s.inc .retryCount ch 0 1)

/-- RACE_COUNT rises by one (R353). -/
def countRace (ch : Nat) (s : State) : State := detCause ch cRace ((s.inc .raceCount ch 0 1).tally 0x0902 ch ch 0 1)

/-! ## CRC-64 (R345) -/

/-- One bit of the CRC-64 register, polynomial 0x42F0_E1EB_A9EA_3693. -/
def crc64Bit (r : Nat) : Nat :=
  if r / 2 ^ 63 = 1 then (r * 2 % 2 ^ 64) ^^^ 0x42F0E1EBA9EA3693 else r * 2

/-- Some bits of it. -/
def crc64Bits : Nat → Nat → Nat
  | 0, r => r
  | n + 1, r => crc64Bits n (crc64Bit r)

/-- Bytes into the CRC-64 register, most significant bit first. -/
def crc64 (r : Nat) : List (BitVec 8) → Nat
  | [] => r
  | b :: t => crc64 (crc64Bits 8 (r ^^^ (b.toNat * 2 ^ 56))) t

/-! ## Segments (R344) -/

/-- A channel barrier completed the core's BAR: a segment opens. -/
def openSeg (c : Nat) (s : State) : State :=
  let t := ((s.put .detSegOpen c 0 1).put .detSegStart c 0 (s.get .coreCyc c 0)).put .detSegExt c 0 0
  { t with segRings := tdel t.segRings c }

/-- The core's segment ends: at a BAR arrival it may be closed, else it is open. A segment belongs to the interval in which it
opens. -/
def endSeg (c : Nat) (atBar : Bool) (s : State) : State :=
  if !s.on .detSegOpen c 0 then s
  else
    let t := s.put .detSegOpen c 0 0
    if !s.on .detOpen (chanOf c) 0 then t
    else if atBar && !s.on .detSegExt c 0 then
      let g : Seg := ⟨s.get .coreCyc c 0 - s.get .detSegStart c 0, tget [] s.segRings c⟩
      { t with segs := tset t.segs c (tget [] t.segs c ++ [g]) }
    else t.inc .detSegOpens c 0 1

/-- The core makes an external wait (R343). -/
def extWait (c : Nat) (s : State) : State := if s.on .detSegOpen c 0 then s.put .detSegExt c 0 1 else s

/-- The core waits on a ring, external or not (R343). -/
def ringWait (c r : Nat) (s : State) : State :=
  if s.on .detSegOpen c 0 then { s with segRings := tset s.segRings c (r :: tget [] s.segRings c) } else s

/-- An endpoint of a core is fed over a link: its bit in the active plan's EXT mask (R251, R274). -/
def isExt (c ep : Nat) (s : State) : Bool :=
  (s.get .rteExt (chanOf c) (s.get .rteCtlActive (chanOf c) 0 * 160 + c % 160)).testBit ep

/-- A wait on input endpoint ep is external where the endpoint is (R343). -/
def epWait (c ep : Nat) (s : State) : State := if isExt c ep s then extWait c s else s

/-! ## Intervals (R338, R355 to R357) -/

/-- A segment is closed when no ring it waited on was external in the interval (R343, R344). -/
def segClosed (ch : Nat) (g : Seg) (s : State) : Bool := g.rings.all fun r => !s.on .detRingExt ch r

/-- The lengths of a core's closed segments in the interval. -/
def closedLens (c : Nat) (s : State) : List Nat :=
  ((tget [] s.segs c).filter fun g => segClosed (chanOf c) g s).map fun g => g.len

/-- CSIG of the interval (R345). -/
def csig (ch : Nat) (s : State) : Nat :=
  (s.coresOf ch).foldl (fun r c => crc64 r ((closedLens c s).flatMap (leBytes 4) ++ List.replicate 4 0xFF#8)) 0

/-- Whether any core of the channel runs on the FIC. -/
def anyFic (ch : Nat) (s : State) : Bool := (s.coresOf ch).any fun c => s.on .coreStatOnfic c 0

/-- A host descriptor is active at Fox, or has come to it. -/
def hostActive (ch : Nat) (s : State) : Bool :=
  (s.foxAct.any fun e => e.1 / 64 == ch && e.2.src == 160) || ((tget [] s.foxArr ch).any fun d => d.src == 160)

/-- What holds throughout an interval sets its cause at either end (R356). -/
def levelCauses (ch : Nat) (s : State) : State :=
  let t := if anyFic ch s then detCause ch cFic s else s
  let t := if hostActive ch t then detCause ch cHostio t else t
  if t.on .chCfgLockstep ch 0 && t.on .chCfgRefalign ch 0 then t else detCause ch cClock t

/-- The records of the open interval are dropped. -/
def detDrop (ch : Nat) (s : State) : State :=
  let t := (s.clearFlds [.detSegOpen, .detSegExt, .detSegOpens] (fun c => c / 160 == ch)).clearFlds
    [.detOpen, .detCauses, .detOsig, .detRingExt] (· == ch)
  { t with segs := tclear (fun c => c / 160 == ch) t.segs, segRings := tclear (fun c => c / 160 == ch) t.segRings }

/-- An interval opens for a batch (R338), and sets when the refresh-slot counter restarts (R348). Segments that were running
belong to the interval before. -/
def detStart (ch tag : Nat) (s : State) : State :=
  let t := detDrop ch s
  let t := if s.on .chCfgRefalign ch 0 then
    (t.put .refBase ch 0 ((s.get .gtc 0 0 + 3899) / 3900 * 3900)).put .refRestart ch 0 1
  else t
  levelCauses ch (((((t.put .detOpen ch 0 1).put .detTag ch 0 tag).put .detRetry0 ch 0 (t.get .retryCount ch 0)).put .detRace0
    ch 0 (t.get .raceCount ch 0)).put .detStretch0 ch 0 (t.get .stretchCyclesWhole ch 0))

/-- The level that some causes leave: 0 NONE, 1 D0, 2 D1, 3 D2 (R356). -/
def keptLevel (causes : Nat) : Nat :=
  if causes.testBit cHalt || causes.testBit cPoison then 0
  else if causes.testBit cRace then 1
  else if causes.testBit cRetry || causes.testBit cFic || causes.testBit cHostio || causes.testBit cClock ||
    causes.testBit cRef then 2
  else 3

/-- Saturate at a width. -/
def satAt (w n : Nat) : Nat := min n (2 ^ w - 1)

/-- The record of one core for the interval that ends (DET_CORE). -/
def detCoreEnd (s : State) (c : Nat) : State :=
  let ls := closedLens c s
  let lost := (tget [] s.segs c).length - ls.length
  ((s.put .detCoreDcyc c 0 (satAt 32 (ls.foldl (· + ·) 0))).put .detCoreSegs c 0 (satAt 16 ls.length)).put .detCoreOpen c 0
    (satAt 16 (s.get .detSegOpens c 0 + lost))

/-- The interval ends and its entry is written (R355 to R357). PHASE counts CCLK cycles, which the model does not: it is free
where R350 defines it. -/
def detEnd (ch : Nat) (halt : Bool) (s : State) : State :=
  if !s.on .detOpen ch 0 then s
  else
    let t := (s.coresOf ch).foldl (fun t c => endSeg c false t) s
    let t := if halt then detCause ch cHalt t else t
    let t := levelCauses ch t
    let n := ((t.coresOf ch).map fun c => (closedLens c t).length).foldl (· + ·) 0
    let e := t.get .detLogHeadNext ch 0
    let causes := t.get .detCauses ch 0
    let kept := keptLevel causes
    let hasPhase := t.on .chCfgRefalign ch 0 && n != 0
    let phase := if hasPhase then Config.freeNat t.ctr % 2 ^ 16 else 0xFFFF
    let t := if hasPhase then t.draw else t
    let freq := if t.on .chCfgLockstep ch 0 then t.get .chLfreqEff ch 0 else 3
    let t := (s.coresOf ch).foldl detCoreEnd t
    let t := (((((t.put .detLogTag ch e (t.get .detTag ch 0)).put .detLogKept ch e kept).put .detLogFreq ch e freq).put
      .detLogRef2x ch e (t.get .refHalf ch 0)).put .detLogCauses ch e causes).put .detLogSegs ch e (satAt 16 n)
    let t := ((t.put .detLogPhase ch e phase).put .detLogCsig ch e (csig ch t)).put .detLogOsig ch e (t.get .detOsig ch 0)
    let t := ((t.put .detLogDretry ch e (satAt 16 (t.get .retryCount ch 0 - t.get .detRetry0 ch 0))).put .detLogDrace ch e
      (satAt 16 (t.get .raceCount ch 0 - t.get .detRace0 ch 0))).put .detLogDstretch ch e
        (satAt 32 (t.get .stretchCyclesWhole ch 0 - t.get .detStretch0 ch 0))
    let t := (t.put .detLogHeadNext ch 0 (e + 1)).inc .detLogHeadWritten ch 0 1
    let x := t.get .detCtlExpect ch 0
    let t := if x ≠ 0 ∧ kept < x then (t.raise 0x0901 ch [ch, t.get .detTag ch 0, kept, causes]).chCause ch 4 else t
    detDrop ch t

/-- The fields of the determinism log and the cores' records, which a kill clears (R358). -/
def detLogFlds : List Fld :=
  [.detLogHeadNext, .detLogHeadWritten, .detLogTag, .detLogKept, .detLogFreq, .detLogRef2x, .detLogCauses, .detLogSegs,
    .detLogPhase, .detLogCsig, .detLogOsig, .detLogDretry, .detLogDrace, .detLogDstretch]

/-- A kill clears the log and every record (R358). -/
def detClear (ch : Nat) (s : State) : State :=
  ((detDrop ch s).clearFlds detLogFlds (· == ch)).clearFlds [.detCoreDcyc, .detCoreSegs, .detCoreOpen] (fun c => c / 160 == ch)

end Sys2Proof.Machine
end

