-- ==== Sys2Proof/Machine/Fab.lean ====
section
/-!
DEFINITION. Grants, forwarding and the queues of the links, as far as the other units use them (R395, R412 to R414, R433,
R434).
-/
namespace Sys2Proof.Machine

/-- Link states of R407. -/
abbrev lkDown : Nat := 0
abbrev lkTraining : Nat := 1
abbrev lkIsolated : Nat := 2
abbrev lkAdmitted : Nat := 3
abbrev lkFault : Nat := 4
abbrev lkRetired : Nat := 5

/-- A channel holds a grant with a right for a channel of a chip (R433). -/
def granted (ch chip pch : Nat) (right : Fld) (s : State) : Bool :=
  (List.range 32).any fun e =>
    s.on right ch e && s.get .ownGrantChip ch e == chip && s.get .ownGrantCh ch e == pch

/-- The link that the forwarding table of a channel names for a chip, if any (R413). -/
def fwdLink (ch chip : Nat) (s : State) : Option Nat :=
  let e := s.get .fabFwd ch chip
  if e < 6 then some (ch * 6 + e) else none

/-- A link is ADMITTED and takes routed flits: a LINK_RETIRE in progress stops them (R407, R411). -/
def linkUp (l : Nat) (s : State) : Bool := s.get .lnkStatState l 0 == lkAdmitted && !s.on .lnkRetiring l 0

/-- Queue a flit on a link, in a class of R397. -/
def queueFlit (l cls : Nat) (f : Flit) (s : State) : State :=
  { s with txq := tset s.txq (l * 8 + cls) (tget [] s.txq (l * 8 + cls) ++ [f]) }

/-- This chip's id. -/
def chipId (s : State) : Nat := s.get .fabCtlChipId 0 0

/-- The HOPS an originating chip sets (R413). -/
def hopMax (s : State) : Nat := max 1 (s.get .fabCtlHopmax 0 0)

/-- Pad a payload to 256 bytes with zeros (R394). -/
def payload (bs : List (BitVec 8)) : List (BitVec 8) := (bs ++ List.replicate 256 0#8).take 256

/-- Originate a routed flit from a channel by its forwarding table: whether it left. While VALID is 0 the chip originates none
(R412). -/
def originate (ch cls : Nat) (f : Flit) (s : State) : Bool × State :=
  match fwdLink ch f.dchip s with
  | some l =>
    if s.on .fabCtlValid 0 0 && linkUp l s then
      (true, queueFlit l cls { f with schip := chipId s, sch := ch, hops := hopMax s } s)
    else (false, s)
  | none => (false, s)

/-- Send HOPFAIL to a channel of a chip, by a channel's table, at most one in a microsecond (R414). -/
def sendHopfail (tab dchip dch failChip failCh cause : Nat) (s : State) : State :=
  let us := s.get .gtc 0 0 / 1000 + 1
  if s.get .fabHfTime 0 0 = us then s
  else
    let body := beBytes 2 failChip ++ [BitVec.ofNat 8 (failCh * 32), BitVec.ofNat 8 cause] ++ beBytes 2 (chipId s)
    let f : Flit := { kind := 7, dchip := dchip, dch := dch, payload := payload body }
    let (left, t) := originate tab 0 f s
    if left then (t.inc .fabHopfailTx 0 0 1).put .fabHfTime 0 0 us else t

/-- A routed flit cannot proceed: it is dropped and counted, and an RREQ or a FLOW is answered (R414). -/
def dropRouted (tab cause : Nat) (f : Flit) (s : State) : State :=
  let t := (s.inc .fabFwdDrop 0 0 1).tally 0x0B06 tab tab cause 1
  if f.kind = 3 then
    (originate tab 3 { kind := 5, dchip := f.schip, dch := f.sch, arg := f.arg / 2 ^ 9 * 2 ^ 9, payload := payload [3#8] } t).2
  else if f.kind = 2 then sendHopfail tab f.schip f.sch f.dchip f.dch cause t
  else t

/-- Forward a routed flit that is for another chip, by the table of the channel that owns the arrival link (R413, R414). -/
def forward (tab : Nat) (f : Flit) (s : State) : State :=
  match fwdLink tab f.dchip s with
  | none => dropRouted tab 1 f s
  | some l =>
    if !linkUp l s then dropRouted tab 2 f s
    else if f.hops = 0 then dropRouted tab 3 f s
    else (queueFlit l 1 { f with hops := f.hops - 1 } s).inc .fabFwdFrames 0 0 1

/-- The links used by an enabled route of the channel's active plan (RTE_LINKF.ROUTED). -/
def routedLinks (ch : Nat) (s : State) : Nat :=
  (List.range 1280).foldl (fun r k =>
    let v := s.get .rteRoute ch (s.get .rteCtlActive ch 0 * 1280 + k)
    if routeEn v && routeLink v then r ||| 2 ^ bitsAt v 16 3 else r) 0

/-- Set a DOWN bit of a channel's RTE_LINKF (R277). -/
def setLinkDown (ch i : Nat) (s : State) : State :=
  if s.bit .rteLinkfDown ch 0 i then s
  else ((s.setBit .rteLinkfDown ch 0 i).raise 0x0606 ch [ch, i, routedLinks ch s]).chCause ch 5

end Sys2Proof.Machine
end

