-- ==== Sys2Proof/Machine/Float.lean ====
section
/-!
DEFINITION. The number formats of the matrix array and the vector engine (R116 to R121, R141 to R143), as exact arithmetic
on signed numbers m × 2^e followed by one rounding.
-/
namespace Sys2Proof.Machine

/-- A value of a floating format: NaN, an infinity, or (−1)^neg × m × 2^e, where m = 0 is a signed zero. -/
inductive FVal where
  | nan
  | inf (neg : Bool)
  | fin (neg : Bool) (m : Nat) (e : Int)
deriving DecidableEq, Repr

/-- The canonical quiet NaN of FP32 (R118). -/
def nanBits : Nat := 0x7FC00000

/-- How many bits a number takes. -/
def bitLen (m : Nat) : Nat := if m = 0 then 0 else Nat.log2 m + 1

/-- Shift right, to nearest with ties to even; `sticky` tells that bits below were already lost. -/
def shiftRne (m d : Nat) (sticky : Bool) : Nat :=
  let q := m / 2 ^ d
  let r := m % 2 ^ d
  let half := 2 ^ d / 2
  if d = 0 then m
  else if half < r ∨ (r = half ∧ (sticky ∨ q % 2 = 1)) then q + 1 else q

/-- Decode an FP32 pattern (denormals kept). -/
def decF32 (v : Nat) : FVal :=
  let neg : Bool := v / 2 ^ 31 % 2 == 1
  let ex : Nat := v / 2 ^ 23 % 256
  let fr : Nat := v % 2 ^ 23
  if ex = 255 then (if fr = 0 then .inf neg else .nan)
  else if ex = 0 then .fin neg fr (-149)
  else .fin neg (fr + 2 ^ 23) ((ex : Int) - 150)

/-- The sign bit of a 32-bit pattern. -/
def signBit (neg : Bool) (w : Nat) : Nat := if neg then 2 ^ (w - 1) else 0

/-- Round m × 2^e once to FP32, to nearest even, denormals kept, overflow to infinity (R117, R141). -/
def encFin (neg : Bool) (m : Nat) (e : Int) (sticky : Bool) : Nat :=
  let top := e + bitLen m - 1
  if m = 0 then signBit neg 32
  else if 128 ≤ top then signBit neg 32 + 0x7F800000
  else if top < -151 then signBit neg 32
  else
    let q := max (top - 23) (-149)
    let mant := if q ≤ e then m * 2 ^ (e - q).toNat else shiftRne m (q - e).toNat sticky
    let bits := (q + 149).toNat * 2 ^ 23 + mant
    signBit neg 32 + min bits 0x7F800000

/-- Encode a value as FP32, rounding once. -/
def encF32 : FVal → Nat
  | .nan => nanBits
  | .inf neg => signBit neg 32 + 0x7F800000
  | .fin neg m e => encFin neg m e false

/-- The signed integer a finite value is at a common exponent. -/
def alignInt (neg : Bool) (m : Nat) (e lo : Int) : Int :=
  let n : Int := m * 2 ^ (e - lo).toNat
  if neg then -n else n

/-- The exact sum; an exact zero is −0 only when both are −0 (R118). -/
def fadd : FVal → FVal → FVal
  | .nan, _ => .nan
  | _, .nan => .nan
  | .inf a, .inf b => if a = b then .inf a else .nan
  | .inf a, .fin .. => .inf a
  | .fin .., .inf b => .inf b
  | .fin a m e, .fin b n f =>
    let lo := min e f
    let s := alignInt a m e lo + alignInt b n f lo
    if s = 0 then .fin (a && b && m == 0 && n == 0) 0 0
    else .fin (decide (s < 0)) s.natAbs lo

/-- The exact product. -/
def fmul : FVal → FVal → FVal
  | .nan, _ => .nan
  | _, .nan => .nan
  | .inf a, .inf b => .inf (a != b)
  | .inf a, .fin b n _ => if n = 0 then .nan else .inf (a != b)
  | .fin a m _, .inf b => if m = 0 then .nan else .inf (a != b)
  | .fin a m e, .fin b n f => .fin (a != b) (m * n) (e + f)

/-- Flip the sign. -/
def fneg : FVal → FVal
  | .nan => .nan
  | .inf a => .inf (!a)
  | .fin a m e => .fin (!a) m e

/-- Integer square root by bisection from above, one bit of the root a turn. -/
def isqrtBits : Nat → Nat → Nat → Nat
  | 0, _, r => r
  | k + 1, n, r => let t := r + 2 ^ k; isqrtBits k n (if t * t ≤ n then t else r)

/-- The largest r with r × r ≤ n. -/
def isqrt (n : Nat) : Nat := isqrtBits (bitLen n / 2 + 1) n 0

/-- FP32 division, correctly rounded (R142). -/
def divF32 (x y : FVal) : Nat :=
  match x, y with
  | .nan, _ => nanBits
  | _, .nan => nanBits
  | .inf _, .inf _ => nanBits
  | .inf a, .fin b _ _ => encF32 (.inf (a != b))
  | .fin a _ _, .inf b => encF32 (.fin (a != b) 0 0)
  | .fin a m e, .fin b n f =>
    if n = 0 then (if m = 0 then nanBits else encF32 (.inf (a != b)))
    else
      let k := 64 + bitLen n
      let q := m * 2 ^ k / n
      let r := m * 2 ^ k % n
      encFin (a != b) (q * 2 + (if r = 0 then 0 else 1)) (e - f - k - 1) false

/-- FP32 square root, correctly rounded (R142). -/
def sqrtF32 : FVal → Nat
  | .nan => nanBits
  | .inf a => if a then nanBits else encF32 (.inf false)
  | .fin a m e =>
    if m = 0 then signBit a 32
    else if a then nanBits
    else
      let m1 := if e % 2 = 0 then m else m * 2
      let e1 := if e % 2 = 0 then e else e - 1
      let n := m1 * 2 ^ 64
      let r := isqrt n
      encFin false (r * 2 + (if r * r = n then 0 else 1)) (e1 / 2 - 33) false

/-- Round to p significant bits, to nearest even, as if the exponent range had no lower bound (R143). -/
def roundSig (p m : Nat) (e : Int) : Nat × Int :=
  let d := bitLen m - p
  (shiftRne m d false, e + d)

/-- The exponent of the leading one of m × 2^e. -/
def topExp (m : Nat) (e : Int) : Int := e + bitLen m - 1

/-- The pattern of a finite value already rounded to a format with `mb` fraction bits and a bias, at or above the smallest
normal value. -/
def packNorm (mb : Nat) (bias : Int) (m : Nat) (e : Int) : Nat :=
  let t := topExp m e
  let frac := if (mb : Int) ≤ t - e then m / 2 ^ (t - e - mb).toNat else m * 2 ^ (mb - (t - e)).toNat
  (t + bias).toNat * 2 ^ mb + frac % 2 ^ mb

/-- F32 to BF16 (R143, MODE 0x4). -/
def toBf16 : FVal → Nat
  | .nan => 0x7FC0
  | .inf a => signBit a 16 + 0x7F80
  | .fin a m e =>
    let (n, f) := roundSig 8 m e
    if n = 0 ∨ topExp n f < -126 then signBit a 16
    else if 127 < topExp n f then signBit a 16 + 0x7F80
    else signBit a 16 + packNorm 7 127 n f

/-- F32 to E4M3, and whether it saturated (R143, MODE 0x5). -/
def toE4m3 : FVal → Nat × Bool
  | .nan => (0x7F, false)
  | .inf a => (signBit a 8 + 0x7E, true)
  | .fin a m e =>
    let (n, f) := roundSig 4 m e
    if n = 0 ∨ topExp n f < -6 then (signBit a 8, false)
    else if 8 < topExp n f ∨ (topExp n f = 8 ∧ 14 * 2 ^ 5 < n * 2 ^ f.toNat) then (signBit a 8 + 0x7E, true)
    else (signBit a 8 + packNorm 3 7 n f, false)

/-- F32 to E5M2, and whether a finite input gave an infinity (R143, MODE 0x6). -/
def toE5m2 : FVal → Nat × Bool
  | .nan => (0x7E, false)
  | .inf a => (signBit a 8 + 0x7C, false)
  | .fin a m e =>
    let (n, f) := roundSig 3 m e
    if n = 0 ∨ topExp n f < -14 then (signBit a 8, false)
    else if 15 < topExp n f then (signBit a 8 + 0x7C, true)
    else (signBit a 8 + packNorm 2 15 n f, false)

/-- Decode BF16, denormals flushed (R116). -/
def decBf16 (v : Nat) : FVal :=
  let neg : Bool := v / 2 ^ 15 % 2 == 1
  let ex : Nat := v / 2 ^ 7 % 256
  let fr : Nat := v % 2 ^ 7
  if ex = 255 then (if fr = 0 then .inf neg else .nan)
  else if ex = 0 then .fin neg 0 0
  else .fin neg (fr + 2 ^ 7) ((ex : Int) - 134)

/-- Decode FP8 E4M3, denormals flushed (R116). -/
def decE4m3 (v : Nat) : FVal :=
  let neg : Bool := v / 2 ^ 7 % 2 == 1
  let ex : Nat := v / 2 ^ 3 % 16
  let fr : Nat := v % 2 ^ 3
  if ex = 15 ∧ fr = 7 then .nan
  else if ex = 0 then .fin neg 0 0
  else .fin neg (fr + 2 ^ 3) ((ex : Int) - 10)

/-- Decode FP8 E5M2, denormals flushed (R116). -/
def decE5m2 (v : Nat) : FVal :=
  let neg : Bool := v / 2 ^ 7 % 2 == 1
  let ex : Nat := v / 2 ^ 2 % 32
  let fr : Nat := v % 2 ^ 2
  if ex = 31 then (if fr = 0 then .inf neg else .nan)
  else if ex = 0 then .fin neg 0 0
  else .fin neg (fr + 2 ^ 2) ((ex : Int) - 17)

/-- The integer of a w-bit pattern in two's complement. -/
def toSigned (w v : Nat) : Int := if v % 2 ^ w < 2 ^ (w - 1) then (v % 2 ^ w : Nat) else (v % 2 ^ w : Nat) - 2 ^ w

/-- The w-bit two's complement pattern of an integer, wrapping. -/
def ofSigned (w : Nat) (i : Int) : Nat := (i % 2 ^ w).toNat

/-- An integer as a value. -/
def intVal (i : Int) : FVal := .fin (decide (i < 0)) i.natAbs 0

/-- F32 to I32, to nearest even or toward −∞, saturating; NaN gives 0 (R143, MODE 0x0 and 0x1). -/
def toI32 (floor : Bool) : FVal → Nat
  | .nan => 0
  | .inf a => if a then 0x80000000 else 0x7FFFFFFF
  | .fin a m e =>
    let mag : Nat :=
      if 40 ≤ topExp m e then 2 ^ 40
      else if 0 ≤ e then m * 2 ^ e.toNat
      else if topExp m e < -2 then (if floor && a && m != 0 then 1 else 0)
      else
        let d := (-e).toNat
        if floor then (if a then (m + 2 ^ d - 1) / 2 ^ d else m / 2 ^ d) else shiftRne m d false
    if a then (if 2 ^ 31 ≤ mag then 0x80000000 else ofSigned 32 (-(mag : Int)))
    else if 2 ^ 31 ≤ mag then 0x7FFFFFFF else mag

/-- The order of finite and infinite values as numbers, −0 below +0 (R142, R157): a key that rises with the value. -/
def orderKey : FVal → Nat → Int
  | .nan, _ => -(2 ^ 33)
  | _, bits => if bits / 2 ^ 31 % 2 = 1 then -((bits % 2 ^ 31 : Nat) : Int) - 1 else (bits % 2 ^ 31 : Nat)

/-- Two values are equal as numbers: false with a NaN, and +0 equals −0 (R141). -/
def feq (x y : Nat) : Bool :=
  match decF32 x, decF32 y with
  | .nan, _ => false
  | _, .nan => false
  | _, _ => x == y || (x % 2 ^ 31 == 0 && y % 2 ^ 31 == 0)

/-- x < y as numbers: false with a NaN (R141). -/
def flt (x y : Nat) : Bool :=
  match decF32 x, decF32 y with
  | .nan, _ => false
  | _, .nan => false
  | a, b => !(x % 2 ^ 31 == 0 && y % 2 ^ 31 == 0) && decide (orderKey a x < orderKey b y)

/-- The pattern is a NaN. -/
def isNanBits (x : Nat) : Bool := x % 2 ^ 31 > 0x7F800000
/-- The pattern is an infinity. -/
def isInfBits (x : Nat) : Bool := x % 2 ^ 31 == 0x7F800000

end Sys2Proof.Machine
end

