-- ==== Sys2Proof/Machine/Fox.lean ====
section
/-!
DEFINITION. Fox's own state: descriptors and the words they name, ring slots, reservation and publication, the landing of
words, remote messages, run-ahead commit and cancel (R201 to R245).
-/
namespace Sys2Proof.Machine

abbrev spHbm : Nat := 0
abbrev spSpd : Nat := 1
abbrev spRing : Nat := 2
abbrev spRemote : Nat := 3

/-! ## The words of a descriptor (R203, R204, R219, R240) -/

/-- A run count: 0 is read as 1. -/
def runs (n : Nat) : Nat := if n = 0 then 1 else n

/-- How many words a descriptor moves. -/
def Desc.total (d : Desc) : Nat :=
  if d.isFence then 0
  else match d.kind with
    | 0 => d.n0
    | 1 => d.n0 * runs d.n1 * runs d.n2 * runs d.n3
    | 4 => d.n0 * d.rows.length
    | _ => d.n0 * runs d.n1

/-- A stride or address in bytes, its bits [5:0] taken as zero. -/
def strideOf (v : Nat) : Int := toSigned 40 (v / 64 * 64)

/-- The row, or run, of word w. -/
def Desc.row (d : Desc) (w : Nat) : Nat := w / d.n0

/-- Byte offset of word w on the strided side; `ix` is the index of its row. -/
def Desc.strided (d : Desc) (w ix : Nat) : Int :=
  let r := w / d.n0
  let k : Int := (w % d.n0 * 64 : Nat)
  match d.kind with
  | 0 => (w * 64 : Nat)
  | 1 =>
    let i1 := r % runs d.n1
    let i2 := r / runs d.n1 % runs d.n2
    let i3 := r / runs d.n1 / runs d.n2
    i1 * strideOf d.s1 + i2 * strideOf d.s2 + i3 * strideOf d.s3 + k
  | _ => ix * strideOf d.s1 + k

/-- The strided side is the destination. -/
def Desc.stridesDst (d : Desc) : Bool := d.kind == 3 || (d.kind == 1 && d.sside)

/-- Byte offset of word w at the source and at the destination. -/
def Desc.offs (d : Desc) (w ix : Nat) : Int × Int :=
  let lin : Int := (w * 64 : Nat)
  if d.stridesDst then (lin, d.strided w ix) else (d.strided w ix, lin)

/-- The HBM address of an offset from a base (R204): modulo 2^40. -/
def hbmAt (base : Nat) (off : Int) : Nat := ((((base / 64 * 64 : Nat) : Int) + off) % 2 ^ 40).toNat

/-- The scratchpad address of an offset from a base: modulo 2^19 within the core (R204). -/
def spdAt (base : Nat) (off : Int) : Nat := ((((base % 2 ^ 19 / 64 * 64 : Nat) : Int) + off) % 2 ^ 19).toNat

/-- The core of the channel that an SPD address names (R202). -/
def spdCore (base : Nat) : Nat := bitsAt base 19 8

/-! ## The lists of a channel -/

/-- Descriptors that have arrived and are not accepted. -/
def State.arr (s : State) (ch : Nat) : List Desc := tget [] s.foxArr ch
/-- Set them. -/
def State.setArr (s : State) (ch : Nat) (l : List Desc) : State := { s with foxArr := tsetD [] s.foxArr ch l }
/-- The active descriptor in an entry. -/
def State.act? (s : State) (ch e : Nat) : Option Desc := tget? s.foxAct (ch * 64 + e)
/-- Set an active entry. -/
def State.setAct (s : State) (ch e : Nat) (d : Desc) : State := { s with foxAct := tset s.foxAct (ch * 64 + e) d }
/-- Free an active entry. -/
def State.delAct (s : State) (ch e : Nat) : State := { s with foxAct := tdel s.foxAct (ch * 64 + e) }
/-- The local reads outstanding. -/
def State.reqs (s : State) (ch : Nat) : List Req := tget [] s.foxReqs ch
/-- Set them. -/
def State.setReqs (s : State) (ch : Nat) (l : List Req) : State := { s with foxReqs := tsetD [] s.foxReqs ch l }
/-- The remote messages outstanding. -/
def State.msgs (s : State) (ch : Nat) : List RMsg := tget [] s.foxMsgs ch
/-- Set them. -/
def State.setMsgs (s : State) (ch : Nat) (l : List RMsg) : State := { s with foxMsgs := tsetD [] s.foxMsgs ch l }

/-- The active entries in use, with their descriptors, by entry. -/
def State.entries (s : State) (ch : Nat) : List (Nat × Desc) :=
  (s.foxAct.filter fun e => e.1 / 64 == ch).map fun e => (e.1 % 64, e.2)

/-- Put a descriptor into a list sorted by order of arrival. -/
def insertSeq (x : Nat × Desc) : List (Nat × Desc) → List (Nat × Desc)
  | [] => [x]
  | y :: t => if x.2.seq ≤ y.2.seq then x :: y :: t else y :: insertSeq x t

/-- The active entries in order of arrival. -/
def State.byAge (s : State) (ch : Nat) : List (Nat × Desc) := (s.entries ch).foldr insertSeq []

/-- FOX_STAT: active descriptors, local and remote requests outstanding, and whether any tentative slot exists. -/
def foxStat (ch : Nat) (s : State) : Nat :=
  (s.entries ch).length + (s.reqs ch).length * 2 ^ 8 + (s.msgs ch).length * 2 ^ 20 +
    (if (List.range 256).any fun r => s.on .foxRingPtrTent ch r then 2 ^ 28 else 0)

/-- A descriptor arrives at Fox (R214). -/
def foxArrive (ch : Nat) (d : Desc) (s : State) : State :=
  let n := s.get .foxSeq ch 0
  let room : Bool := (s.arr ch).isEmpty && decide ((s.entries ch).length < 64)
  (s.setArr ch (s.arr ch ++ [{ d with seq := n, atOnce := room }])).inc .foxSeq ch 0 1

/-! ## Rings -/

/-- A ring is enabled and of a direction (false IN, true OUT). -/
def ringIs (ch r : Nat) (out : Bool) (s : State) : Bool := s.on .foxRingCfgEn ch r && (s.on .foxRingCfgDir ch r == out)

/-- Slots of a ring. -/
def ringSlots (ch r : Nat) (s : State) : Nat := s.get .foxRingCfgSlots ch r

/-- The index of a slot's fields. -/
def slotIx (r k : Nat) : Nat := r * 64 + k

/-- Scratchpad address of slot k of a ring (R220). -/
def slotAddr (ch r k : Nat) (s : State) : Nat :=
  (s.get .foxRingCfgBase ch r / 64 * 64 + k * s.get .foxRingCfgSlotWords ch r * 64) % 2 ^ 19

/-- The slot after slot k. -/
def nextSlot (ch r k : Nat) (s : State) : Nat := if k + 1 < ringSlots ch r s then k + 1 else 0

/-- Words of a slot that a descriptor fills: whole rows of a table, else every word (R223, R240). -/
def Desc.slotCap (d : Desc) (sw : Nat) : Nat := if d.kind = 4 then sw / d.n0 * d.n0 else sw

/-- Slots a descriptor fills (R206, R223). -/
def Desc.slotCount (d : Desc) (sw : Nat) : Nat :=
  if d.dspace ≠ spRing then 0
  else if d.total = 0 then (if d.eos ∧ !d.isFence then 1 else 0)
  else (d.total + d.slotCap sw - 1) / d.slotCap sw

/-- Words of the j-th slot of a descriptor. -/
def Desc.slotFill (d : Desc) (sw j : Nat) : Nat := min (d.slotCap sw) (d.total - j * d.slotCap sw)

/-- The batch tag of the tentative slots in a ring. -/
def ringTentTag (ch r : Nat) (s : State) : Option Nat :=
  ((s.entries ch).find? fun e => e.2.tent && e.2.dspace == spRing && e.2.ring == r && !e.2.slots.isEmpty).map fun e => e.2.tag

/-- Reserve the slot at FILL for a descriptor (R222, R223, R241). -/
def reserveSlot (ch e : Nat) (d : Desc) (s : State) : State :=
  let r := d.ring
  let k := s.get .foxRingPtrFill ch r
  let sw := s.get .foxRingCfgSlotWords ch r
  let j := d.slots.length
  let n := d.slotFill sw j
  let x := slotIx r k
  let t := (((((((s.put .ringSlotSt ch x (if d.tent then 2 else 1)).put .ringSlotLanded ch x (if n = 0 then 1 else 0)).put
    .ringSlotWords ch x n).put .ringSlotEos ch x (if d.eos && j + 1 == d.slotCount sw then 1 else 0)).put .ringSlotPoison ch x
      0).put .ringSlotLeft ch x n).put .ringSlotGen ch x (s.get .foxRingPtrGen ch r)).put .foxRingPtrFill ch r (nextSlot ch r k s)
  (if d.tent then t.inc .foxRingPtrTent ch r 1 else t).setAct ch e { d with slots := d.slots ++ [k] }

/-- Reserve slots for one descriptor as room allows, at most n; answers whether it still wants one for lack of room. -/
def reserveFor (ch e : Nat) : Nat → State → Bool × State
  | 0, s => (false, s)
  | n + 1, s =>
    match s.act? ch e with
    | none => (false, s)
    | some d =>
      let r := d.ring
      let sw := s.get .foxRingCfgSlotWords ch r
      if d.slotCount sw ≤ d.slots.length then (false, s)
      else if s.on .foxRingPtrTent ch r && !(d.tent && ringTentTag ch r s == some d.tag) then (false, s)
      else if s.get .ringSlotSt ch (slotIx r (s.get .foxRingPtrFill ch r)) ≠ 0 then (true, s)
      else reserveFor ch e n (reserveSlot ch e d s)

/-- Reserve slots for every descriptor that fills a ring, in order of arrival; one that lacks room holds its ring for itself
(R218, R241). -/
def foxReserve (ch : Nat) (s : State) : State :=
  ((s.byAge ch).foldl (fun (a : List Nat × State) e =>
    if e.2.dspace = spRing ∧ ringIs ch e.2.ring false a.2 ∧ !a.1.contains e.2.ring then
      let (full, t) := reserveFor ch e.1 65 a.2
      (if full then e.2.ring :: a.1 else a.1, t)
    else a) ([], s)).2

/-- Slot k of ring r is published: the descriptor that filled it has it behind itself, which 64 in its list marks. -/
def markPublished (ch r k : Nat) (s : State) : State :=
  (s.entries ch).foldl (fun t x =>
    if x.2.dspace = spRing ∧ x.2.ring = r ∧ x.2.slots.contains k then
      t.setAct ch x.1 { x.2 with slots := x.2.slots.map fun j => if j = k then 64 else j }
    else t) s

/-- A slot filled by rows or by a REMOTE descriptor makes its ring external in the interval (R343). -/
def markExternal (ch r k : Nat) (s : State) : State :=
  let far := (s.entries ch).any fun x => x.2.dspace == spRing && x.2.ring == r && x.2.slots.contains k &&
    (x.2.kind == 4 || x.2.sspace == spRemote)
  if far && s.on .detOpen ch 0 then s.put .detRingExt ch r 1 else s

/-- Publish, from HEAD on, at most n slots that are reserved and landed (R224). -/
def publish (ch r : Nat) : Nat → State → State
  | 0, s => s
  | n + 1, s =>
    let k := s.get .foxRingPtrHead ch r
    if s.get .ringSlotSt ch (slotIx r k) = 1 ∧ s.on .ringSlotLanded ch (slotIx r k) then
      publish ch r n (((((markPublished ch r k (markExternal ch r k s)).put .ringSlotSt ch (slotIx r k) 3).put .foxRingPtrHead ch r (nextSlot ch r k s)).inc
        .foxRingPtrPub ch r 1).inc .ringViewPend ch r 1)
    else s

/-- Publish what can be published in every enabled IN ring. -/
def publishAll (ch : Nat) (s : State) : State :=
  (List.range 256).foldl (fun t r => if ringIs ch r false t then publish ch r 64 t else t) s

/-- Free the drained slots of an OUT ring from TAIL on, at most n (R225). -/
def freeDrained (ch r : Nat) : Nat → State → State
  | 0, s => s
  | n + 1, s =>
    let k := s.get .foxRingPtrTail ch r
    let x := slotIx r k
    if s.get .ringSlotSt ch x = 3 ∧ s.get .ringSlotLeft ch x = 0 then
      let t := ((s.put .ringSlotSt ch x 0).put .foxRingPtrTail ch r (nextSlot ch r k s)).inc .ringViewPend ch r 1
      freeDrained ch r n (t.put .foxRingPtrPub ch r (t.get .foxRingPtrPub ch r - 1))
    else s

/-! ## Landing -/

/-- A FOX-port access of a descriptor to a bank word is one its mask permits: the core's own mask, or HBMASK for a host
descriptor (R207). -/
def foxOpen (c w : Nat) (d : Desc) (s : State) : Bool :=
  s.present c &&
    (if d.src = 160 then
      d.mask.testBit (bankOf w) && (s.get .spdPwrOn c 0).testBit (bankOf w / 4) &&
        (s.get .spdPwrReady c 0).testBit (bankOf w / 4) && !(s.get .spdInitMask c 0).testBit (bankOf w)
    else bankOpen c pFox (bankOf w) s)

/-- Write a word into a scratchpad through the FOX port; a poisoned word is stored with a code that fails every later check
(R233). -/
def foxStore (c w : Nat) (bs : List (BitVec 8)) (poison : Bool) (a : Access) (s : State) : State :=
  let (gone, t) := meet c pFox w a s
  if gone then t else storeWord c w (List.replicate 64 0#8) (fullWord bs) poison t

/-- The core of the channel, as a global core number. -/
def coreIn (ch k : Nat) : Nat := ch * 160 + k

/-- The accesses at the core of a word's destination. -/
def cellsAt (cells : List (BitVec 8 × Access)) (k : Nat) : Access :=
  ((cells.find? fun e => e.1.toNat == k).map Prod.snd).getD ⟨[], []⟩

/-- A word of a descriptor carries POISON: counted, and the first of the descriptor raises event 0x0501 (R233, R245). -/
def notePoison (ch e : Nat) (d : Desc) (addr : Nat) (s : State) : State :=
  let t := s.inc .foxPoisonWords ch 0 1
  if d.poisoned then t else t.raise 0x0501 ch [d.src, e, addr]

/-- Word w of the descriptor in entry e reaches its destination (R217, R223, R233). A word for a slot that a seam discarded is
dropped (R324). A word for a discarded descriptor is
dropped by the caller. An access that the mask does not permit is UNPREDICTABLE. -/
def landWord (ch e : Nat) (d : Desc) (w ix : Nat) (bs : List (BitVec 8)) (poison : Bool)
    (cells : List (BitVec 8 × Access)) (s : State) : State :=
  let (_, doff) := d.offs w ix
  let fin (t : State) : State := t.setAct ch e { d with landed := d.landed + 1, poisoned := d.poisoned || poison }
  if d.dspace = spHbm then
    let a := hbmAt d.da doff
    let t := if poison then notePoison ch e d a s else s
    if 0x900000000 ≤ a then havoc ch t else fin (hbmWrite ch a bs poison t)
  else if d.dspace = spSpd then
    let k := spdCore d.da
    let a := spdAt d.da doff
    let c := coreIn ch k
    let t := if poison then notePoison ch e d a s else s
    if 160 ≤ k ∨ !foxOpen c (wordOf a) d t then havoc ch t
    else fin (foxStore c (wordOf a) bs poison (cellsAt cells k) t)
  else
    let r := d.ring
    let sw := s.get .foxRingCfgSlotWords ch r
    let cap := d.slotCap sw
    let k := d.slots.getD (w / cap) 0
    let a := (slotAddr ch r k s + w % cap * 64) % 2 ^ 19
    let kc := s.get .foxRingCfgCore ch r
    let c := coreIn ch kc
    let t := if poison then (notePoison ch e d a s).put .ringSlotPoison ch (slotIx r k) 1 else s
    if k = 64 then fin s
    else if 160 ≤ kc ∨ !foxOpen c (wordOf a) d t then havoc ch t
    else
      let t := foxStore c (wordOf a) bs poison (cellsAt cells kc) t
      let left := t.get .ringSlotLeft ch (slotIx r k) - 1
      let t := t.put .ringSlotLeft ch (slotIx r k) left
      publish ch r 64 (fin (if left = 0 then t.put .ringSlotLanded ch (slotIx r k) 1 else t))

/-- Every slot a descriptor fills has been published (R217). -/
def slotsPublished (ch : Nat) (d : Desc) (s : State) : Bool :=
  let r := d.ring
  decide (d.dspace ≠ spRing) || d.isFence ||
    (decide (d.slotCount (s.get .foxRingCfgSlotWords ch r) ≤ d.slots.length) &&
      d.slots.all fun k => k == 64)

/-- A descriptor is complete (R206, R209, R217). -/
def descDone (ch : Nat) (d : Desc) (s : State) : Bool :=
  if d.isFence then
    !((s.entries ch).any fun x => x.2.src == d.src && decide (x.2.seq < d.seq))
  else if d.total = 0 then true
  else decide (d.total ≤ d.landed) && slotsPublished ch d s

/-- A descriptor with FENCE may start: every earlier one of its source is complete (R218). -/
def mayStart (ch : Nat) (d : Desc) (s : State) : Bool :=
  !d.fence || !((s.entries ch).any fun x => x.2.src == d.src && decide (x.2.seq < d.seq) && !descDone ch x.2 s)

/-! ## Remote reads -/

/-- Words w to w + n − 1 of a descriptor come back marked POISON: the message failed (R234). -/
def failWords (ch e ix : Nat) (ws : List Nat) (cells : List (BitVec 8 × Access)) (s : State) : State :=
  ws.foldl (fun t w =>
    match t.act? ch e with
    | some d => landWord ch e d w ix (freeWord t) true cells t.draw
    | none => t) s

/-- A remote read fails with a cause (0 refused, 1 timeout, 2 link down): counted, event 0x0502, and every word it would have
brought is POISON (R234). -/
def failMsg (ch : Nat) (m : RMsg) (cause : Nat) (cells : List (BitVec 8 × Access)) (s : State) : State :=
  let t := ((s.setMsgs ch ((s.msgs ch).filter fun x => x.id != m.id)).inc .foxRemoteFail ch 0 1).raise 0x0502 ch
    [m.chip, m.pch, cause, m.tag]
  match (t.entries ch).find? fun x => x.2.seq == m.seq with
  | none => t
  | some (e, _) => failWords ch e m.ix ((List.range m.n).filterMap fun k => if m.got.contains k then none else some (m.w + k)) cells t

/-- Fail every remote read of a channel that a test names. -/
def failMsgs (ch cause : Nat) (p : RMsg → Bool) (s : State) : State :=
  ((s.msgs ch).filter p).foldl (fun t m => failMsg ch m cause [] t) s

/-! ## Run-ahead (R239 to R243) -/

/-- Send a marker for a batch tag to each peer that holds SPEC reads of the batch: 0 COMMIT, 1 CANCEL (R238, R242, R243). -/
def sendMarks (ch tag op : Nat) (s : State) : State :=
  let peers := ((s.msgs ch).filter fun m => m.spec && m.tag == tag).map fun m => (m.chip, m.pch)
  peers.eraseDups.foldl (fun t p =>
    (originate ch 4 { kind := 6, dchip := p.1, dch := p.2, arg := tag, payload := payload [BitVec.ofNat 8 op] } t).2) s

/-- The descriptors of a batch that is not committed. -/
def tentOf (tag : Nat) (d : Desc) : Bool := d.tent && d.tag == tag

/-- Fox commits a batch (R242): TENTATIVE clears on every slot and R224 acts, COMMIT markers go out, and its row streams go on
as ordinary work. -/
def foxCommit (ch tag : Nat) (s : State) : State :=
  let own := (s.entries ch).filter fun x => tentOf tag x.2
  let t := own.foldl (fun (t : State) x =>
    let t := x.2.slots.foldl (fun (t : State) k =>
      (t.put .ringSlotSt ch (slotIx x.2.ring k) 1).put .foxRingPtrTent ch x.2.ring (t.get .foxRingPtrTent ch x.2.ring - 1)) t
    t.setAct ch x.1 { x.2 with tent := false }) s
  let t := t.setArr ch ((t.arr ch).map fun d => if tentOf tag d then { d with tent := false } else d)
  let t := publishAll ch t
  let t := sendMarks ch tag 0 t
  foxReserve ch (t.setMsgs ch ((t.msgs ch).map fun m => if m.tag = tag then { m with spec := false } else m))

/-- The bin of FOX_RA_HIST for a count of discarded slots. -/
def histBin (n : Nat) : Nat := min 7 (Nat.log2 n)

/-- Discard a batch's run-ahead (R243), but for the retry, which is the SVE's: tentative slots become free, generations rise,
CANCEL markers go out, the cancel is counted. Data that lands for it later is dropped. -/
def foxCancel (ch tag : Nat) (s : State) : State :=
  let own := (s.entries ch).filter fun x => tentOf tag x.2
  let waiting := (s.arr ch).any (tentOf tag)
  if own.isEmpty && !waiting then s
  else
    let rings := (own.filter fun x => !x.2.slots.isEmpty).map fun x => x.2.ring
    let n := own.foldl (fun n x => n + x.2.slots.length) 0
    let t := rings.eraseDups.foldl (fun (t : State) r =>
      let mine := (own.filter fun x => x.2.ring == r).flatMap fun x => x.2.slots
      let first := (List.range 64).foldl (fun k _ => if mine.contains k then k else nextSlot ch r k t) (t.get .foxRingPtrHead ch r)
      let t := mine.foldl (fun (t : State) k => ((((t.put .ringSlotSt ch (slotIx r k) 0).put .ringSlotLanded ch (slotIx r k) 0).put
        .ringSlotLeft ch (slotIx r k) 0).put .ringSlotPoison ch (slotIx r k) 0)) t
      ((t.put .foxRingPtrFill ch r first).inc .foxRingPtrGen ch r 1).put .foxRingPtrTent ch r 0) s
    let t := sendMarks ch tag 1 t
    let t := own.foldl (fun t x => t.delAct ch x.1) t
    let t := t.setArr ch ((t.arr ch).filter fun d => !tentOf tag d)
    let t := (t.inc .foxRaCancels ch 0 1).inc .foxRaDiscard ch 0 n
    foxReserve ch (if n = 0 then t else (t.inc .foxRaHist ch (histBin n) 1).tally 0x0503 ch ch (histBin n) 1)

/-- A request's rows of one table arrive as a stream of their own (R239 to R241). -/
def rowDesc (ch tag : Nat) (odd tent : Bool) (tab : Nat) (rows : List Nat) (s : State) : Desc :=
  { seq := 0, src := 161, kind := 4, dspace := spRing, sspace := if s.on .foxRaTabRemote ch tab then spRemote else spHbm,
    ring := s.get .foxRaTabRing ch tab, n0 := s.get .foxRaTabRowWords ch tab, tab := tab, rows := rows, tag := tag, odd := odd,
    tent := tent }

/-- Hand Fox a request's (table, row) pairs, one stream a table in table order; pairs that name a table without VALID are
skipped (R239). -/
def foxRows (ch tag : Nat) (odd tent : Bool) (pairs : List (Nat × Nat)) (s : State) : State :=
  (List.range 32).foldl (fun t tab =>
    let rows := (pairs.filter fun p => p.1 == tab).map Prod.snd
    if rows.isEmpty || !t.on .foxRaTabValid ch tab then t
    else
      let rw := t.get .foxRaTabRowWords ch tab
      let r := t.get .foxRaTabRing ch tab
      if rw = 0 ∨ t.get .foxRingCfgSlotWords ch r < rw ∨ !ringIs ch r false t then havoc ch t
      else foxArrive ch (rowDesc ch tag odd tent tab rows t) t) s

/-! ## Abandoning (R245's collisions, R442) -/

/-- Fox abandons its active descriptors and the arrivals that a test names; words written stay, slots stay as they are,
replies in flight are dropped. -/
def foxAbandon (ch : Nat) (p : Desc → Bool) (s : State) : State :=
  let t : State := { s with foxAct := tclear (fun k => k / 64 == ch) s.foxAct }
  ((t.setArr ch ((t.arr ch).filter fun d => !p d)).setReqs ch []).setMsgs ch []

/-- Cancel every run-ahead of a channel, without a retry. -/
def foxCancelAll (ch : Nat) (s : State) : State :=
  let tags := (((s.entries ch).map Prod.snd ++ s.arr ch).filter fun d => d.tent).map fun d => d.tag
  tags.eraseDups.foldl (fun t tag => foxCancel ch tag t) s

end Sys2Proof.Machine
end

