-- ==== Sys2Proof/Machine/FoxSteps.lean ====
section
/-!
DEFINITION. Fox at work: acceptance, an issue cycle, returning reads, completion, peer service, and the host queue (R210 to
R219, R225, R234 to R238).
-/
namespace Sys2Proof.Machine

/-- The channel's XTS engine holds a key (R419, R431). -/
def hasKey (ch : Nat) (s : State) : Bool :=
  let o := s.get .ownChStatState ch 0
  o == 1 || o == 2 || o == 3

/-- What one issue cycle has used so far: the stack channels taken by local requests, the FOX ports and the islands used, and
the committed entry that issued first. -/
structure Cyc where
  s : State
  banks : List Nat := []
  ports : List Nat := []
  isles : List Nat := []
  led : Option Nat := none
  broken : Bool := false

/-- What a descriptor does in its turn: nothing more in this cycle, or one word and perhaps another. -/
inductive Offer where
  | wait
  | stop (c : Cyc)
  | more (c : Cyc)

/-- The stack channel of an HBM address (R215). -/
def bankHbm (a : Nat) : Nat := a / 64 % 16

/-- A local request into a stack channel may still be issued in the cycle. -/
def bankFree (ch a : Nat) (c : Cyc) : Bool :=
  hasKey ch c.s && !c.banks.contains (bankHbm a) && decide (c.banks.length < 16)

/-- Take a stack channel for a local request of an entry. -/
def takeBank (e a : Nat) (committed : Bool) (c : Cyc) : Cyc :=
  { c with banks := bankHbm a :: c.banks, led := if committed && c.led.isNone then some e else c.led }

/-- The index of the row of word w, where the descriptor has indices and holds the list word (R205). -/
def rowIndex (d : Desc) (w : Nat) : Option Nat :=
  if d.kind = 2 ∨ d.kind = 3 then
    let at' := (d.idx / 4 * 4 + 4 * d.row w) % 2 ^ 19
    match d.cache with
    | some (k, bs) => if k = at' / 64 then some (leNat ((bs.drop (at' % 64)).take 4)) else none
    | none => none
  else some 0

/-- Read the list word that word w needs (R205). -/
def readIndex (ch e : Nat) (d : Desc) (w : Nat) (cells : List (BitVec 8 × Access)) (c : Cyc) : Offer :=
  let k := d.idxCore
  let g := coreIn ch k
  let word := (d.idx / 4 * 4 + 4 * d.row w) % 2 ^ 19 / 64
  if c.ports.contains k then .wait
  else if 160 ≤ k ∨ !foxOpen g word d c.s then .stop { c with s := havoc ch c.s, broken := true }
  else
    let (r, t) := spdRead g pFox word (cellsAt cells k) c.s
    let (_, t) := foxPortError g word r.check t
    .stop { c with s := t.setAct ch e { d with cache := some (word, r.data) }, ports := k :: c.ports }

/-- Whether a word may land in this cycle: one word into each island, and a stack channel free for HBM (R215). -/
def destFree (ch : Nat) (d : Desc) (w ix : Nat) (c : Cyc) : Bool :=
  let (_, o) := d.offs w ix
  if d.dspace = spHbm then bankFree ch (hbmAt d.da o) c
  else
    let k := if d.dspace = spSpd then spdCore d.da else c.s.get .foxRingCfgCore ch d.ring
    !c.isles.contains (k / 16) && !c.ports.contains k

/-- Land a word read from a scratchpad, in the same cycle. -/
def deliver (ch e : Nat) (d : Desc) (w ix : Nat) (bs : List (BitVec 8)) (poison : Bool)
    (cells : List (BitVec 8 × Access)) (c : Cyc) : Offer :=
  let (_, o) := d.offs w ix
  let c := if d.dspace = spHbm then takeBank e (hbmAt d.da o) (!d.tent) c
    else
      let k := if d.dspace = spSpd then spdCore d.da else c.s.get .foxRingCfgCore ch d.ring
      { c with isles := k / 16 :: c.isles, ports := k :: c.ports }
  .more { c with s := landWord ch e { d with issued := w + 1 } w ix bs poison cells c.s }

/-- The base address of a table for a batch (R240, R333). -/
def tableBase (ch : Nat) (d : Desc) (s : State) : Nat :=
  if d.odd && s.on .epochCtlRapar ch 0 then s.get .epochRabaseBase ch d.tab else s.get .foxRaTabBase ch d.tab

/-- The source HBM address of word w, local or at the peer. -/
def sourceAddr (ch : Nat) (d : Desc) (w ix : Nat) (s : State) : Nat :=
  if d.kind = 4 then
    hbmAt (tableBase ch d s) ((d.rows.getD (d.row w) 0 * s.get .foxRaTabStride ch d.tab + w % d.n0 * 64 : Nat) : Int)
  else hbmAt d.sa (d.offs w ix).1

/-- The peer of a remote descriptor or table. -/
def peerOf (ch : Nat) (d : Desc) (s : State) : Nat × Nat :=
  if d.kind = 4 then (s.get .foxRaTabPeer ch d.tab % 2 ^ 15, s.get .foxRaTabPeer ch d.tab / 2 ^ 15) else (d.chip, d.pch)

/-- Words of the remote message that begins at word w (R236): within the run or row, at most 4 KiB, within a 4 KiB block of
the peer address, and within the slots reserved. -/
def msgWords (ch : Nat) (d : Desc) (w a : Nat) (s : State) : Nat :=
  let whole := if d.kind = 0 ∨ (d.kind = 1 ∧ d.sside) then d.total - w else d.n0 - w % d.n0
  let room := if d.dspace = spRing then d.slots.length * d.slotCap (s.get .foxRingCfgSlotWords ch d.ring) - w else whole
  min (min whole room) (64 - a / 64 % 64)

/-- Issue one remote read message (R236), or fail it at once where the peer grants no READ or the first hop is not there
(R414, R434). -/
def sendRead (ch e : Nat) (d : Desc) (w ix : Nat) (cells : List (BitVec 8 × Access)) (c : Cyc) : Offer :=
  let s := c.s
  match (List.range 128).find? fun i => !(s.msgs ch).any fun m => m.id == i with
  | none => .wait
  | some id =>
    let a := sourceAddr ch d w ix s
    let (chip, pch) := peerOf ch d s
    let n := msgWords ch d w a s
    let m : RMsg := ⟨id, d.seq, w, ix, n, [], chip, pch, a, d.tent, d.tag, (fwdLink ch chip s).getD 0⟩
    let t := (s.setAct ch e { d with issued := w + n }).setMsgs ch (s.msgs ch ++ [m])
    let body := beBytes 5 a ++ [BitVec.ofNat 8 (n - 1)] ++ beBytes 2 d.tag
    let f : Flit := { kind := 3, spec := d.tent, dchip := chip, dch := pch, arg := id * 2 ^ 9, payload := payload body }
    if granted ch chip pch .ownGrantRead s then
      let (left, t) := originate ch 4 f t
      .more { c with s := if left then t else failMsg ch m 0 cells t }
    else .more { c with s := failMsg ch m 0 cells t }

/-- The slot of an OUT ring that a drain reads next is published and has words left, and no drain that was accepted earlier
still has words to read (R225). -/
def drainReady (ch : Nat) (d : Desc) (s : State) : Bool :=
  let x := slotIx d.ring (s.get .ringReadSlot ch d.ring)
  s.get .ringSlotSt ch x == 3 && decide (0 < s.get .ringSlotLeft ch x) &&
    !((s.entries ch).any fun y => y.2.sspace == spRing && y.2.ring == d.ring && decide (y.2.seq < d.seq) &&
      decide (y.2.issued < y.2.total))

/-- One word of the active descriptor in entry e, where it can issue in this cycle (R215 to R219, R225). -/
def offer (ch e : Nat) (cells : List (BitVec 8 × Access)) (c : Cyc) : Offer :=
  match c.s.act? ch e with
  | none => .wait
  | some d =>
    let s := c.s
    let w := d.issued
    if c.broken || d.total ≤ w || !mayStart ch d s then .wait
    else if d.dspace = spRing ∧ d.slots.length ≤ w / d.slotCap (s.get .foxRingCfgSlotWords ch d.ring) then .wait
    else
      match rowIndex d w with
      | none => readIndex ch e d w cells c
      | some ix =>
        if d.sspace = spHbm then
          let a := sourceAddr ch d w ix s
          if !bankFree ch a c || 2048 ≤ (s.reqs ch).length then .wait
          else if 0x900000000 ≤ a then .stop { c with s := havoc ch s, broken := true }
          else
            let (bs, bad) := hbmRead ch a s
            let t := (s.setReqs ch (s.reqs ch ++ [⟨d.seq, w, ix, bs, bad⟩])).setAct ch e { d with issued := w + 1 }
            .more (takeBank e a (!d.tent) { c with s := t })
        else if d.sspace = spRemote then sendRead ch e d w ix cells c
        else if !destFree ch d w ix c then .wait
        else if d.sspace = spSpd then
          let k := spdCore d.sa
          let g := coreIn ch k
          let word := wordOf (spdAt d.sa (d.offs w ix).1)
          if c.ports.contains k then .wait
          else if 160 ≤ k ∨ !foxOpen g word d s then .stop { c with s := havoc ch s, broken := true }
          else
            let (r, t) := spdRead g pFox word (cellsAt cells k) s
            let (bad, t) := foxPortError g word r.check t
            deliver ch e d w ix r.data (bad || r.lost) cells { c with s := t, ports := k :: c.ports }
        else if !drainReady ch d s then .wait
        else
          let k := s.get .foxRingCfgCore ch d.ring
          let g := coreIn ch k
          let sl := s.get .ringReadSlot ch d.ring
          let x := slotIx d.ring sl
          let left := s.get .ringSlotLeft ch x
          let word := wordOf (slotAddr ch d.ring sl s + (s.get .ringSlotWords ch x - left) * 64)
          if c.ports.contains k then .wait
          else if 160 ≤ k ∨ !foxOpen g word d s then .stop { c with s := havoc ch s, broken := true }
          else
            let (r, t) := spdRead g pFox word (cellsAt cells k) s
            let (bad, t) := foxPortError g word r.check t
            let t := t.put .ringSlotLeft ch x (left - 1)
            let t := if left = 1 then t.put .ringReadSlot ch d.ring (nextSlot ch d.ring sl t) else t
            deliver ch e d w ix r.data (bad || r.lost) cells { c with s := freeDrained ch d.ring 64 t, ports := k :: c.ports }

/-- A descriptor offers words in its own order until one has to wait, at most n (R215). -/
def offers (ch e : Nat) (cells : List (BitVec 8 × Access)) : Nat → Cyc → Cyc
  | 0, c => c
  | n + 1, c =>
    match offer ch e cells c with
    | .wait => c
    | .stop c => c
    | .more c => offers ch e cells n c

/-- The entries in the rotation of a cycle: after the entry that led the last one (R215). -/
def rotation (ch : Nat) (s : State) : List Nat := (List.range 64).map fun k => (s.get .foxLead ch 0 + 1 + k) % 64

/-- One CCLK cycle of issue: committed entries in rotation, then run-ahead in what they leave (R215). -/
def issueCycle (ch : Nat) (cells : List (BitVec 8 × Access)) (s : State) : State :=
  let tent (t : State) (e : Nat) : Bool := ((t.act? ch e).map fun d => d.tent).getD false
  let one (want : Bool) (c : Cyc) (e : Nat) : Cyc := if tent c.s e == want then offers ch e cells 16 c else c
  let order := (rotation ch s).filter fun e => (s.act? ch e).isSome
  let c := order.foldl (one true) (order.foldl (one false) { s := s })
  let t := match c.led with
    | some e => c.s.put .foxLead ch 0 e
    | none => c.s
  foxReserve ch t

/-- FOX_ISSUE: a CCLK cycle of Fox (R215). -/
def execFoxIssue (ch : Chan) (cells : List (BitVec 8 × Access)) (s : State) : Out :=
  .next (if s.chanRuns ch.val then issueCycle ch.val cells s else s)

/-- FOX_ACCEPT: the oldest arrival takes a free active entry; a core's FX unit is then busy for 9 cycles in LOCKSTEP, and 7 to
13 otherwise (R210, R214). -/
def execFoxAccept (ch : Chan) (s : State) : Out :=
  match s.arr ch.val, (List.range 64).find? fun e => (s.act? ch.val e).isNone with
  | d :: rest, some e =>
    if !s.chanRuns ch.val then .next s
    else
      let t := (s.setArr ch.val rest).setAct ch.val e d
      let c := coreIn ch.val d.src
      let t := if 160 ≤ d.src then t
        else if d.atOnce then t.put .fxWait c 0 0
        else ((t.put .fxWait c 0 0).put .fxDoneAt c 0 (t.get .coreCyc c 0 + 1 + Config.freeNat t.ctr)).draw
      let t := if d.src = 160 then t.put .foxHsqHeadIndex ch.val 0 (t.get .foxHsqHeadIndex ch.val 0 + 1) else t
      .next (publishAll ch.val (foxReserve ch.val t))
  | _, _ => .next s

/-- HBM_READ_RETURN: the data of an outstanding local read reaches Fox and is written to its destination; a word of a
descriptor that is gone is dropped (R216, R217, R243). An uncorrectable line is POISON (R233). -/
def execHbmReadReturn (ch : Chan) (pick : BitVec 11) (ue : Bool) (cells : List (BitVec 8 × Access)) (s : State) : Out :=
  match (s.reqs ch.val)[pick.toNat]? with
  | none => .next s
  | some r =>
    if !s.chanRuns ch.val then .next s
    else
      let t := s.setReqs ch.val ((s.reqs ch.val).eraseIdx pick.toNat)
      match (t.entries ch.val).find? fun x => x.2.seq == r.seq with
      | none => .next t
      | some (e, d) => .next (foxReserve ch.val (landWord ch.val e d r.w r.ix r.data (r.poison || ue) cells t))

/-- DESCRIPTOR_COMPLETE: the oldest complete descriptor leaves its entry; DONE_CTR acts, or the host queue's count (R209,
R211, R212, R217). -/
def execDescriptorComplete (ch : Chan) (s : State) : Out :=
  match (s.byAge ch.val).find? fun x => descDone ch.val x.2 s && slotsPublished ch.val x.2 s with
  | none => .next s
  | some (e, d) =>
    if !s.chanRuns ch.val then .next s
    else
      let t := s.delAct ch.val e
      if d.src = 160 then .next ((t.inc .foxHsqDone ch.val 0 1).chCause ch.val 0)
      else if d.src < 160 ∧ d.done.testBit 4 then
        .next (t.send ch.val (.done (coreIn ch.val d.src) (d.done % 16) (d.sspace == spRemote && !d.isFence)))
      else .next t

/-! ## Peer service (R237, R238) -/

/-- The RDATA flits of a served message (R396): four words to a flit. -/
def rdataFlits (m : PeerRead) : List Flit :=
  let k := (m.words.length + 3) / 4
  (List.range k).map fun i =>
    let ws := (m.words.drop (4 * i)).take 4
    let marks := ws.foldr (fun w r => 2 * r + (if w.2 then 1 else 0)) 0
    { kind := 4, last := i + 1 == k, dchip := m.chip, dch := m.pch, arg := m.id * 2 ^ 9 + i * 2 ^ 5 + marks,
      payload := payload (ws.flatMap Prod.fst) }

/-- Words of one message that a service slot can serve, given the stack channels taken. -/
def serveMsg (ch : Nat) (s : State) : Nat → PeerRead → List Nat → PeerRead × List Nat
  | 0, m, banks => (m, banks)
  | k + 1, m, banks =>
    let a := m.addr + m.words.length * 64
    if m.n ≤ m.words.length ∨ banks.contains (bankHbm a) ∨ 16 ≤ banks.length then (m, banks)
    else serveMsg ch s k { m with words := m.words ++ [hbmRead ch (a % 2 ^ 40) s] } (bankHbm a :: banks)

/-- Serve the messages of one queue, oldest first. -/
def serveQueue (ch : Nat) (spec : Bool) (s : State) : List PeerRead → List Nat → List PeerRead
  | [], _ => []
  | m :: t, banks =>
    if m.spec == spec then
      let (m, banks) := serveMsg ch s 16 m banks
      m :: serveQueue ch spec s t banks
    else m :: serveQueue ch spec s t banks

/-- PEER_SERVICE_SLOT: service slot k serves one word to each stack channel of the SPEC queue in one slot of eight, else of the
ordinary queue (R237); a message whose last word is served is answered. -/
def execPeerServiceSlot (ch : Chan) (s : State) : Out :=
  let c := ch.val
  let k := s.get .foxServK c 0
  let q := tget [] s.foxPeer c
  if !s.chanRuns c || s.get .foxRsvcEff c 0 == 0 then .next s
  else
    let t := s.put .foxServK c 0 (k + 1)
    let spec := k % 8 == 7 && q.any fun m => m.spec
    let q' := serveQueue c spec s q []
    let done := q'.filter fun m => decide (m.n ≤ m.words.length)
    let t := { t with foxPeer := tsetD [] t.foxPeer c (q'.filter fun m => !decide (m.n ≤ m.words.length)) }
    .next (done.foldl (fun t m =>
      let t := (rdataFlits m).foldl (fun t f => (originate c 3 f t).2) t
      if m.spec then t.inc .foxSpecServed c 0 1 else t) t)

/-- REMOTE_READ_TIMEOUT: a message unanswered within FOX_RTIMEOUT fails (R234). -/
def execRemoteReadTimeout (ch : Chan) (msgid : BitVec 7) (s : State) : Out :=
  match (s.msgs ch.val).find? fun m => m.id == msgid.toNat with
  | none => .next s
  | some m => .next (if s.chanRuns ch.val then foxReserve ch.val (failMsg ch.val m 1 [] s) else s)

/-! ## The host submission queue (R203, R212, R213) -/

/-- The descriptor that eight words spell (R203). -/
def hostDesc (ch e : Nat) (s : State) : Desc :=
  let w (k : Nat) : Nat := leNat (s.bytes (hsqAddr ch (e * 64 + k * 8)) 8)
  { seq := 0, src := 160, kind := bitsAt (w 0) 0 3, sspace := bitsAt (w 0) 3 2, dspace := bitsAt (w 0) 5 2,
    sside := (w 0).testBit 7, eos := (w 0).testBit 8, fence := (w 0).testBit 9, ring := bitsAt (w 0) 16 8,
    n0 := bitsAt (w 0) 32 16, n1 := bitsAt (w 0) 48 16, n2 := bitsAt (w 1) 0 16, n3 := bitsAt (w 1) 16 16,
    sa := bitsAt (w 2) 0 40, da := bitsAt (w 3) 0 40, s1 := bitsAt (w 4) 0 40, s2 := bitsAt (w 5) 0 40,
    s3 := bitsAt (w 6) 0 40, idx := bitsAt (w 7) 0 19, idxCore := bitsAt (w 7) 19 8, chip := bitsAt (w 7) 27 15,
    pch := bitsAt (w 7) 42 3, mask := bitsAt (w 7) 48 16 }

/-- A descriptor is one the device need not check: a defined KIND and spaces, and rings that are enabled and of the right
direction (R203). -/
def descLegal (ch : Nat) (d : Desc) (s : State) : Bool :=
  decide (d.kind < 4) && decide (d.dspace < 3) && (d.sspace != spRing || ringIs ch d.ring true s) &&
    (d.dspace != spRing || ringIs ch d.ring false s)

/-- FOX_HSQ_TAIL: host software rings the host queue (R212). -/
def writeHsqTail (ch v : Nat) (s : State) : State := (s.put .foxHsqTailIndex ch 0 v).put .foxHsqWay ch 0 1

/-- The host queue entries that Fox takes from one index up to the tail, at most n (R212). An entry of a CLOSED channel is
dropped and counts as complete (R432); one that names a ring is UNPREDICTABLE (R213). -/
def takeHost (ch : Nat) : Nat → State → State
  | 0, s => s
  | n + 1, s =>
    let k := s.get .foxHsqSeen ch 0
    if k = s.get .foxHsqTailIndex ch 0 then s
    else
      let d := hostDesc ch k s
      let t := s.put .foxHsqSeen ch 0 (k + 1)
      if 2 ≤ s.get .ownCfgHostio ch 0 then
        takeHost ch n (((t.put .foxHsqHeadIndex ch 0 (t.get .foxHsqHeadIndex ch 0 + 1)).inc .foxHsqDone ch 0 1).chCause ch 0)
      else if !descLegal ch d s || d.sspace == spRing || d.dspace == spRing then takeHost ch n (havoc ch t)
      else takeHost ch n (foxArrive ch d t)

/-- FOX_HSQ_TAIL_SEEN: Fox sees a written tail after the crossing and takes the entries up to it (R212). -/
def execFoxHsqTailSeen (ch : Chan) (s : State) : Out :=
  .next (if s.on .foxHsqWay ch.val 0 && s.chanRuns ch.val then takeHost ch.val 64 (s.put .foxHsqWay ch.val 0 0) else s)

/-- FOX_HSQ_TAIL: a write of the tail while the channel is in RUN and the chip is not frozen (R490, R557). -/
def execFoxHsqTail (ch : Chan) (tail : BitVec 6) (s : State) : Out :=
  .next (if s.chWrite ch.val true then writeHsqTail ch.val tail.toNat s else s)

end Sys2Proof.Machine
end

