-- ==== Sys2Proof/Machine/Bar.lean ====
section
/-!
DEFINITION. Barriers: members, arrival, completion, faults, generations, and the part of a fabric barrier that lies on this
chip (R270 to R273, R382 to R384, R405, R437).
-/
namespace Sys2Proof.Machine

/-- The place of a barrier in a core's or channel's fields. -/
def barIx (scope bid : Nat) : Nat := scope * 4 + bid

/-- Core k of a channel is a member of its barriers with an id: the active plan's member mask (R271). -/
def isMember (ch bid k : Nat) (s : State) : Bool :=
  (s.get .rteBarMem ch (s.get .rteCtlActive ch 0 * 20 + bid * 5 + k / 32)).testBit (k % 32) && s.present (coreIn ch k)

/-- The member cores of a channel for an id, as global core numbers. -/
def members (ch bid : Nat) (s : State) : List Nat := ((List.range 160).filter fun k => isMember ch bid k s).map (coreIn ch)

/-- A core waits in a barrier. -/
def waitsBar (c scope bid : Nat) (s : State) : Bool := s.on .barWait c (barIx scope bid)

/-- Every member of a channel has arrived. -/
def chanArrived (ch scope bid : Nat) (s : State) : Bool :=
  !(members ch bid s).isEmpty && (members ch bid s).all fun c => waitsBar c scope bid s

/-- Some member of a channel waits. -/
def chanWaits (ch scope bid : Nat) (s : State) : Bool := (members ch bid s).any fun c => waitsBar c scope bid s

/-- The status a BAR writes (R270): FAULT and its cause. -/
def barStatus (cause : Nat) : Word := if cause = 0 then 0#64 else BitVec.ofNat 64 (1 + 2 * cause)

/-- A core that waits in a barrier completes its BAR with a cause (0 none); its arrival is completed (R270, R273). The BAR that
arrived last completes 40 cycles after it issued in LOCKSTEP at a channel barrier; other waits take a free time. -/
def completeBar (c scope bid cause : Nat) (s : State) : State :=
  let ix := barIx scope bid
  if !s.on .barWait c ix then s
  else
    let t := (s.put .barWait c ix 0).inc .barCount c ix 1
    match tget? t.held c with
    | some (.bar _ _ _ gd) =>
      let exact : Bool := scope == 0 && cause == 0 && s.on .chCfgLockstep (chanOf c) 0 &&
        s.get .barLast (chanOf c) ix == c % 160
      let t := t.resume c
      let t := if exact then t.pass c 40 else t.waited c true
      let t := retire c 1 (t.setG c gd.toNat 1 (barStatus cause))
      if scope = 0 ∧ cause = 0 then openSeg c t else t
    | _ => t

/-- Release every member of a channel that waits. -/
def releaseChan (ch scope bid : Nat) (s : State) : State :=
  ((members ch bid s).foldl (fun t c => completeBar c scope bid 0 t) s).put .barTimer ch (barIx scope bid) 0

/-- The open generation at a channel: the least number of completed arrivals of its members. -/
def openGen (ch scope bid : Nat) (s : State) : Nat :=
  (members ch bid s).foldl (fun n c => min n (s.get .barCount c (barIx scope bid))) (2 ^ 32)

/-- Fault the open generation of a barrier at a channel with a cause: every member that has arrived completes with FAULT, and
a later arrival in the generation completes at once (R273). -/
def faultBar (ch scope bid cause : Nat) (s : State) : State :=
  let ix := barIx scope bid
  if (members ch bid s).isEmpty then s
  else
    let t := (((s.put .barFault ch ix cause).put .barFaultGen ch ix (openGen ch scope bid s)).put .barTimer ch ix 0).inc
      .synBarFaults ch 0 1
    ((members ch bid s).foldl (fun t c => completeBar c scope bid cause t) t).raise 0x0605 ch [ch, scope, bid, cause]

/-- Every core's count of arrivals restarts at 0, and its arrivals are withdrawn (R273, R631). -/
def restartBars (ch : Nat) (s : State) : State :=
  (s.clearFlds [.barCount, .barWait] (fun c => c / 160 == ch)).clearFlds [.barFault, .barFaultGen, .barTimer] (· == ch)

/-! ## Chip barriers (R272, R273) -/

/-- The channels of a chip barrier as a channel names them. -/
def chipSet (ch bid : Nat) (s : State) : List Nat := below 8 fun k => (s.get .synChipbarChans ch bid).testBit k || k == ch

/-- Two channels are bound to one owner (R436). -/
def sameOwner (a b : Nat) (s : State) : Bool :=
  let sa := s.get .ownChStatState a 0
  let sb := s.get .ownChStatState b 0
  (sa == 1 && sb == 1) ||
    (sa == 3 && sb == 3 && (List.range 4).all fun w => s.get .ownChOid a w == s.get .ownChOid b w)

/-- The chip barrier that a channel names may release (R272). -/
def chipReady (ch bid : Nat) (s : State) : Bool :=
  (chipSet ch bid s).all fun k =>
    chanArrived k 1 bid s && s.get .synChipbarChans k bid == s.get .synChipbarChans ch bid && sameOwner ch k s &&
      s.chanRuns k

/-- Chip barriers that name a channel complete elsewhere with FAULT, cause 3, when it halts, is reset or is killed (R273). -/
def faultChipBars (ch : Nat) (s : State) : State :=
  (List.range 4).foldl (fun t bid =>
    let others := below 8 fun k => k != ch && (t.get .synChipbarChans k bid).testBit ch
    if others.any (fun k => chanWaits k 1 bid t) then others.foldl (fun t k => faultBar k 1 bid 3 t) t else t) s

/-! ## Fabric barriers (R382 to R384) -/

/-- The channels of a fabric barrier on this chip. -/
def fbarChans (b : Nat) (s : State) : List Nat := below 8 fun k => (s.get .tunFbarChans b 0).testBit k
/-- Its links toward children, those of its own channels only (R382). -/
def fbarDowns (b : Nat) (s : State) : List Nat :=
  below 48 fun l => (s.get .tunFbarDown b 0).testBit l && (fbarChans b s).contains (l / 6)
/-- This chip is the root. -/
def fbarRoot (b : Nat) (s : State) : Bool := decide (6 ≤ s.get .tunFbarUpl b 0)
/-- Its link toward the root. -/
def fbarUp (b : Nat) (s : State) : Nat := s.get .tunFbarUpch b 0 * 6 + s.get .tunFbarUpl b 0

/-- Send a BARRIER flit (R396): OP, the barrier, the cause, its generation, and T for a RELEASE. -/
def sendBarrier (l op b cause t : Nat) (s : State) : State :=
  if s.get .lnkStatState l 0 = lkAdmitted ∨ s.get .lnkStatState l 0 = lkIsolated then
    let body := beBytes 4 (s.get .fbarGen b 0) ++ beBytes 8 t
    queueFlit l 0 { kind := 9, arg := op * 2 ^ 14 + b * 2 ^ 12 + cause * 2 ^ 10, payload := payload body } s
  else s

/-- The generation of a fabric barrier at this chip ends. -/
def nextFbarGen (b : Nat) (s : State) : State :=
  ((((s.inc .fbarGen b 0 1).clearFlds [.fbarArr] (· == b)).put .fbarSent b 0 0).put .fbarRel b 0 0).put .fbarT b 0 0

/-- Time is LOST or CONTESTED (R383, R380). -/
def timeBad (s : State) : Bool := s.get .tunStatState 0 0 == 3 || s.on .tunStatContested 0 0

/-- Every member of this chip completes, and the generation ends (R383). -/
def releaseFabric (b : Nat) (s : State) : State :=
  nextFbarGen b ((fbarChans b s).foldl (fun t k => releaseChan k 2 b t) s)

/-- A RELEASE for T is here: forward it down, and schedule or complete the members (R383). -/
def gotRelease (b T : Nat) (s : State) : State :=
  let t := (fbarDowns b s).foldl (fun t l => sendBarrier l 1 b 0 T t) s
  if timeBad t then (releaseFabric b t).inc .tunFbarUntimed 0 0 1
  else if T < t.get .gtc 0 0 then
    ((releaseFabric b t).inc .tunFbarLate 0 0 1).raise 0x0A08 8 [b, s.get .fbarGen b 0, t.get .gtc 0 0 - T]
  else (t.put .fbarRel b 0 1).put .fbarT b 0 T

/-- This chip arrives in the current generation once its channels and its children have; the root releases (R383, R437). -/
def tryFabric (b : Nat) (s : State) : State :=
  let cs := fbarChans b s
  let owner : Bool := match cs with
    | [] => false
    | k :: _ => cs.all fun j => sameOwner k j s || j == k
  if !s.on .fbarSent b 0 && owner && cs.all (fun k => chanArrived k 2 b s) &&
      (fbarDowns b s).all (fun l => s.on .fbarArr b l) then
    let t := s.put .fbarSent b 0 1
    if fbarRoot b s then gotRelease b (s.get .gtc 0 0 + s.get .tunFbarLeadNs 0 0) t else sendBarrier (fbarUp b s) 0 b 0 0 t
  else s

/-- The current generation of a fabric barrier is in progress on this chip. -/
def fabricOpen (b : Nat) (s : State) : Bool :=
  (fbarChans b s).any (fun k => chanWaits k 2 b s) || (fbarDowns b s).any (fun l => s.on .fbarArr b l)

/-- A fault of the current generation: FAULT goes out on every tree link but the one it came on, and the members complete with
it (R384). -/
def faultFabric (b cause : Nat) (from' : Option Nat) (s : State) : State :=
  let links := (if fbarRoot b s then [] else [fbarUp b s]) ++ fbarDowns b s
  let t := (links.filter fun l => some l != from').foldl (fun t l => sendBarrier l 2 b cause 0 t) s
  nextFbarGen b ((fbarChans b s).foldl (fun t k => faultBar k 2 b cause t) t)

/-- Fabric barriers of a channel that halts, is reset or is killed fault with cause 3 (R384). -/
def faultFabricsOf (ch : Nat) (s : State) : State :=
  (List.range 4).foldl (fun t b => if (fbarChans b t).contains ch && fabricOpen b t then faultFabric b 3 none t else t) s

/-- A channel stops taking part: its arrivals are withdrawn without a fault of its own, and the others fault (R273, R384). -/
def leaveBars (ch : Nat) (s : State) : State :=
  let t := faultChipBars ch s
  let t := (List.range 4).foldl (fun t b =>
    if (fbarChans b t).contains ch && fabricOpen b t then
      faultFabric b 3 none (t.clearFlds [.barWait] (fun c => c / 160 == ch))
    else t) t
  restartBars ch t

end Sys2Proof.Machine
end

