-- ==== Sys2Proof/Machine/Crypto.lean ====
section
/-!
DEFINITION. The cryptographic functions that the spec names by their standards: the AES-256-GMAC of a USP tag (R288; FIPS 197 and
NIST SP 800-38D) and SHA-384 (R423, R457, R466; FIPS 180-4). Their inner steps are those of the standards (PRESUMED, the log's
entry on them); constants are computed, not listed.
-/
namespace Sys2Proof.Machine

/-! ## AES-256 (FIPS 197) -/

/-- Multiplication by x in GF(2^8). -/
def gfDouble (b : BitVec 8) : BitVec 8 := (b <<< 1) ^^^ (if b.msb then 0x1B#8 else 0#8)

/-- Multiplication in GF(2^8): the low n bits of b, from the least. -/
def gfMulBits : Nat → BitVec 8 → BitVec 8 → BitVec 8
  | 0, _, _ => 0#8
  | n + 1, a, b => (if b.getLsbD 0 then a else 0#8) ^^^ gfMulBits n (gfDouble a) (b >>> 1)

/-- Multiplication in GF(2^8). -/
def gfMul (a b : BitVec 8) : BitVec 8 := gfMulBits 8 a b

/-- The inverse in GF(2^8), 0 of 0: the power 254. -/
def gfInv (a : BitVec 8) : BitVec 8 :=
  let a2 := gfMul a a
  let a3 := gfMul a2 a
  let a6 := gfMul a3 a3
  let a12 := gfMul a6 a6
  let a15 := gfMul a12 a3
  let a30 := gfMul a15 a15
  let a60 := gfMul a30 a30
  let a120 := gfMul a60 a60
  let a126 := gfMul a120 a6
  let a127 := gfMul a126 a
  gfMul a127 a127

/-- SubBytes on one byte. -/
def aesSub (b : BitVec 8) : BitVec 8 :=
  let i := gfInv b
  i ^^^ i.rotateLeft 1 ^^^ i.rotateLeft 2 ^^^ i.rotateLeft 3 ^^^ i.rotateLeft 4 ^^^ 0x63#8

/-- Two strings of bytes, bit by bit exclusive-or. -/
def xorBytes (a b : List (BitVec 8)) : List (BitVec 8) := List.zipWith (· ^^^ ·) a b

/-- x to the power n in GF(2^8). -/
def gfPow2 : Nat → BitVec 8
  | 0 => 1#8
  | n + 1 => gfDouble (gfPow2 n)

/-- Word i of the key schedule from the eight before it, newest first. -/
def keyWord (i : Nat) (ws : List (List (BitVec 8))) : List (BitVec 8) :=
  let last := ws.getD 0 []
  let t :=
    if i % 8 = 0 then xorBytes ((last.drop 1 ++ last.take 1).map aesSub) [gfPow2 (i / 8 - 1), 0#8, 0#8, 0#8]
    else if i % 8 = 4 then last.map aesSub
    else last
  xorBytes (ws.getD 7 []) t

/-- The key schedule with n words more than the key's eight, newest first. -/
def keySchedule (key : List (List (BitVec 8))) : Nat → List (List (BitVec 8))
  | 0 => key.reverse
  | n + 1 =>
    let ws := keySchedule key n
    keyWord (n + 8) ws :: ws

/-- The four-byte words of a string of bytes. -/
def fours : Nat → List (BitVec 8) → List (List (BitVec 8))
  | 0, _ => []
  | n + 1, bs => bs.take 4 :: fours n (bs.drop 4)

/-- ShiftRows: row r of the state, byte r of each column, moves left by r. -/
def shiftRows (b : List (BitVec 8)) : List (BitVec 8) :=
  (List.range 16).map fun k => b.getD (k % 4 + 4 * ((k / 4 + k % 4) % 4)) 0#8

/-- MixColumns. -/
def mixColumns (b : List (BitVec 8)) : List (BitVec 8) :=
  (List.range 16).map fun k =>
    let at' (r : Nat) : BitVec 8 := b.getD (k / 4 * 4 + (k + r) % 4) 0#8
    gfDouble (at' 0) ^^^ (gfDouble (at' 1) ^^^ at' 1) ^^^ at' 2 ^^^ at' 3

/-- The 14 rounds, n of them left, with the round keys still to use. -/
def aesRounds : Nat → List (List (BitVec 8)) → List (BitVec 8) → List (BitVec 8)
  | 0, _, b => b
  | 1, rk, b => xorBytes (shiftRows (b.map aesSub)) (rk.getD 0 [])
  | n + 2, rk, b => aesRounds (n + 1) (rk.drop 1) (xorBytes (mixColumns (shiftRows (b.map aesSub))) (rk.getD 0 []))

/-- The 15 round keys of a 32-byte key. -/
def roundKeys (key : List (BitVec 8)) : List (List (BitVec 8)) :=
  let ws := (keySchedule (fours 8 key) 52).reverse
  (List.range 15).map fun i => ((ws.drop (4 * i)).take 4).flatten

/-- AES-256 of one 16-byte block. -/
def aes256 (key block : List (BitVec 8)) : List (BitVec 8) :=
  let rk := roundKeys key
  aesRounds 14 (rk.drop 1) (xorBytes block (rk.getD 0 []))

/-! ## GMAC (NIST SP 800-38D) -/

/-- Multiplication in GCM's field, n bits of x to go. -/
def ghashMulBits : Nat → BitVec 128 → BitVec 128 → BitVec 128
  | 0, _, _ => 0#128
  | n + 1, x, v =>
    let step := (v >>> 1) ^^^ (if v.getLsbD 0 then BitVec.ofNat 128 (0xE1 * 2 ^ 120) else 0#128)
    (if x.msb then v else 0#128) ^^^ ghashMulBits n (x <<< 1) step

/-- GHASH over blocks of 16 bytes, n of them left. -/
def ghash (h : BitVec 128) : Nat → List (BitVec 8) → BitVec 128 → BitVec 128
  | 0, _, y => y
  | n + 1, bs, y =>
    let block := (bs.take 16 ++ List.replicate 16 0#8).take 16
    ghash h n (bs.drop 16) (ghashMulBits 128 (y ^^^ BitVec.ofNat 128 (beNat block)) h)

/-- The tag of bytes that are authenticated and not encrypted, by a 256-bit key and a 96-bit IV. -/
@[irreducible] def gmac (key iv : Nat) (bs : List (BitVec 8)) : Nat :=
  let k := beBytes 32 key
  let h := BitVec.ofNat 128 (beNat (aes256 k (List.replicate 16 0#8)))
  let pad := bs ++ List.replicate ((16 - bs.length % 16) % 16) 0#8
  let y := ghash h (pad.length / 16 + 1) (pad ++ beBytes 8 (8 * bs.length) ++ beBytes 8 0) 0#128
  (y ^^^ BitVec.ofNat 128 (beNat (aes256 k (beBytes 12 iv ++ beBytes 4 1)))).toNat

/-! ## SHA-384 (FIPS 180-4) -/

/-- The greatest r below 2^n over a base with f r ≤ v, found bit by bit. -/
def rootBits (f : Nat → Nat) (v : Nat) : Nat → Nat → Nat
  | 0, r => r
  | n + 1, r => rootBits f v n (if f (r + 2 ^ n) ≤ v then r + 2 ^ n else r)

/-- The first 80 primes. -/
def shaPrimes : List Nat := (List.range 410).filter fun n => decide (2 ≤ n) && (List.range 21).all fun d => decide (d < 2) || decide (n ≤ d) || n % d != 0

/-- The round constants: the first 64 bits of the fractions of the primes' cube roots. -/
def shaK (p : Nat) : BitVec 64 := BitVec.ofNat 64 (rootBits (fun r => r * r * r) (p * 2 ^ 192) 67 0)

/-- The initial values: the first 64 bits of the fractions of the square roots of the ninth to sixteenth primes. -/
def shaStart : List (BitVec 64) :=
  ((shaPrimes.drop 8).take 8).map fun p => BitVec.ofNat 64 (rootBits (fun r => r * r) (p * 2 ^ 128) 67 0)

/-- The message schedule of a block with n words more than the block's 16, newest first. -/
def shaSchedule (block : List (BitVec 64)) : Nat → List (BitVec 64)
  | 0 => block.reverse
  | n + 1 =>
    let ws := shaSchedule block n
    let a := ws.getD 1 0#64
    let b := ws.getD 14 0#64
    ((a.rotateRight 19 ^^^ a.rotateRight 61 ^^^ (a >>> 6)) + ws.getD 6 0#64 + (b.rotateRight 1 ^^^ b.rotateRight 8 ^^^ (b >>> 7)) +
      ws.getD 15 0#64) :: ws

/-- One round on the working values. -/
def shaRound (v : List (BitVec 64)) (kw : BitVec 64 × BitVec 64) : List (BitVec 64) :=
  match v with
  | [a, b, c, d, e, f, g, h] =>
    let t1 := h + (e.rotateRight 14 ^^^ e.rotateRight 18 ^^^ e.rotateRight 41) + ((e &&& f) ^^^ (~~~e &&& g)) + kw.1 + kw.2
    let t2 := (a.rotateRight 28 ^^^ a.rotateRight 34 ^^^ a.rotateRight 39) + ((a &&& b) ^^^ (a &&& c) ^^^ (b &&& c))
    [t1 + t2, a, b, c, d + t1, e, f, g]
  | _ => v

/-- The compression of one 128-byte block. -/
def shaBlock (ks : List (BitVec 64)) (v : List (BitVec 64)) (bs : List (BitVec 8)) : List (BitVec 64) :=
  let block := (List.range 16).map fun i => BitVec.ofNat 64 (beNat ((bs.drop (8 * i)).take 8))
  List.zipWith (· + ·) v ((ks.zip (shaSchedule block 64).reverse).foldl shaRound v)

/-- The blocks of a padded message, n of them left. -/
def shaBlocks (ks : List (BitVec 64)) : Nat → List (BitVec 8) → List (BitVec 64) → List (BitVec 64)
  | 0, _, v => v
  | n + 1, bs, v => shaBlocks ks n (bs.drop 128) (shaBlock ks v (bs.take 128))

/-- The 48-byte digest of some bytes. -/
@[irreducible] def sha384 (bs : List (BitVec 8)) : List (BitVec 8) :=
  let pad := bs ++ [0x80#8] ++ List.replicate ((239 - bs.length % 128) % 128) 0#8 ++ beBytes 16 (8 * bs.length)
  ((shaBlocks (shaPrimes.map shaK) (pad.length / 128) pad shaStart).flatMap fun w => beBytes 8 w.toNat).take 48

end Sys2Proof.Machine
end

