-- ==== Sys2Proof/Machine/Sve.lean ====
section
/-!
DEFINITION. The Service Engine's own state: requests in flight, replies, tags, windows, commits and the batch stream (R284 to
R307).
-/
namespace Sys2Proof.Machine

/-! ## Counts -/

/-- The GTC in whole microseconds. -/
def nowUs (s : State) : Nat := s.get .gtc 0 0 / 1000

/-- A number read from bytes, most significant first. -/
def beAt (bs : List (BitVec 8)) (i n : Nat) : Nat := beNat ((bs.drop i).take n)

/-- Buffer cells a body takes. -/
def cellsOf (n : Nat) : Nat := (n + 63) / 64

/-- Committed batches of a channel not fully taken. -/
def State.queue (s : State) (ch : Nat) : List Batch := tget [] s.batches ch
/-- Set them; SVE_CH_n.QUEUED follows, saturating. -/
def State.setQueue (s : State) (ch : Nat) (l : List Batch) : State :=
  { s with batches := tsetD [] s.batches ch l }.put .sveChQueued ch 0 (min 255 l.length)

/-- Free buffer cells of a channel. -/
def freeCells (ch n : Nat) (s : State) : State := s.put .sveChHeld ch 0 (s.get .sveChHeld ch 0 - n)

/-- The counter of EPOCH_INFL for an epoch (R334). -/
def inflFld (epoch : Nat) : Fld := if epoch % 2 = 0 then .epochInflEven else .epochInflOdd

/-- The service of a request as its record in the list, by identity. -/
def setRequest (r : Request) (s : State) : State := { s with requests := s.requests.map fun x => if x.id = r.id then r else x }

/-- A request is answered: it is no longer in flight (R297, R334), and its latency is counted (R313). -/
def markAnswered (r : Request) (s : State) : State :=
  let us := (s.get .gtc 0 0 - r.admitted) / 1000
  let t := setRequest { r with answered := true } s
  let t := t.put .sveInflight 0 0 (t.get .sveInflight 0 0 - 1)
  let t := t.put .svcMaxUs r.svc 0 (max us (t.get .svcMaxUs r.svc 0))
  (t.put (inflFld r.epoch) r.ch 0 (t.get (inflFld r.epoch) r.ch 0 - 1)).inc .svcLat r.svc (min 63 (us / 100)) 1

/-! ## Replies (R284, R285, R287, R288) -/

/-- A USP header: TYPE, the TAGGED and FALLBACK flags, the service and the client's ids, SERVED_US, K and BODY_LEN. -/
def uspHeader (ty : Nat) (tagged fallback : Bool) (svc client req us k len : Nat) : List (BitVec 8) :=
  [BitVec.ofNat 8 (0x10 + ty), BitVec.ofNat 8 ((if tagged then 0x80 else 0) + (if fallback then 0x40 else 0))] ++
    beBytes 2 (svc % 2 ^ 12) ++ beBytes 4 (client % 2 ^ 31) ++ beBytes 8 req ++ beBytes 4 (min us (2 ^ 20 - 1)) ++ beBytes 2 k ++
    beBytes 2 len

/-- The IV of a datagram (R288). -/
def uspIv (reply : Bool) (client req : Nat) : Nat := (if reply then 2 ^ 95 else 0) + client % 2 ^ 31 * 2 ^ 64 + req % 2 ^ 64

/-- Send a USP datagram out of the port its request came by, with its tag where it has a key; SVE_PORT.TX counts it. -/
def sendUsp (dest : ReplyTo) (key : Option Nat) (ty : Nat) (fallback : Bool) (svc client req us k : Nat) (body : List (BitVec 8))
    (s : State) : State :=
  let d := uspHeader ty key.isSome fallback svc client req us k body.length ++ body
  let tag := match key with
    | some g => beBytes 16 (gmac g (uspIv true client req) d)
    | none => []
  (s.emit (.datagram dest (d ++ tag))).inc .svePortTx dest.port 0 1

/-- Send an ERROR (R287, R313). -/
def sendError (dest : ReplyTo) (key : Option Nat) (svc client req us code detail : Nat) (s : State) : State :=
  (sendUsp dest key 3 false svc client req us 0 (beBytes 2 code ++ beBytes 2 detail) s).raise 0x0702 8 [svc, code]

/-- Microseconds from a request's admission. -/
def servedUs (r : Request) (s : State) : Nat := (s.get .gtc 0 0 - r.admitted) / 1000

/-- The service's stored fallback (R293). -/
def fallbackBody (svc : Nat) (s : State) : List (BitVec 8) :=
  s.bytes (poolAddr (s.get .sveSvcW1FbCell svc 0 * 64)) (s.get .sveSvcW1FbLen svc 0)

/-- Answer a request with its service's fallback (R297). -/
def sendFallback (r : Request) (s : State) : State :=
  let t := sendUsp r.dest r.key 2 true r.svc r.client r.req (servedUs r s) 0 (fallbackBody r.svc s) s
  (((markAnswered r t).inc .sveSvcW2Fallbacks r.svc 0 1).inc .svcFbN r.svc 0 1).raise 0x0703 r.ch [r.svc, r.ch, (if r.slot.isSome then r.tag else 0x10000), 0]

/-- The tag key of a service (R288, R438): its key slot of its channel, none for slot 0 or an empty slot. -/
def svcKey (svc : Nat) (s : State) : Option Nat :=
  let ch := s.get .sveSvcW0Channel svc 0
  let k := s.get .sveSvcW0Keyslot svc 0
  if k = 0 ∨ !s.bit .ownChStatSkeys ch 0 k then none else some (s.get .ownSkey ch k)

/-! ## Batch tags (R300) -/

/-- The place of a tag among the live ones. -/
def tagIx (ch tag : Nat) : Nat := ch * 65536 + tag % 65536
/-- A tag of a channel is live. -/
def tagLive (ch tag : Nat) (s : State) : Bool := (tget? s.liveTags (tagIx ch tag)).isSome

/-- The first tag from one on that is not live, among n. -/
def freeTag (ch : Nat) (s : State) : Nat → Nat → Option Nat
  | 0, _ => none
  | n + 1, k => if tagLive ch k s then freeTag ch s n ((k + 1) % 65536) else some (k % 65536)

/-- The tag that the channel's next window takes, where one is free. The search never goes further than the live tags reach. -/
def nextTag (ch : Nat) (s : State) : Option Nat :=
  if 65536 ≤ s.get .sveChLive ch 0 then none else freeTag ch s (s.get .sveChLive ch 0 + 1) (s.get .sveChNextTag ch 0)

/-- A tag becomes live. -/
def useTag (ch tag : Nat) (s : State) : State :=
  let t : State := { s with liveTags := tset s.liveTags (tagIx ch tag) ⟨false, false, 0⟩ }
  (t.inc .sveChLive ch 0 1).put .sveChNextTag ch 0 (tag + 1)

/-- Change what is known of a live tag. -/
def setTag (ch tag : Nat) (f : TagSt → TagSt) (s : State) : State :=
  match tget? s.liveTags (tagIx ch tag) with
  | some x => { s with liveTags := tset s.liveTags (tagIx ch tag) (f x) }
  | none => s

/-- Fox holds a tentative slot, a descriptor or a remote message that carries the tag. -/
def foxHolds (ch tag : Nat) (s : State) : Bool :=
  ((s.entries ch).any fun x => x.2.kind == 4 && x.2.tag == tag) || ((s.arr ch).any fun d => d.kind == 4 && d.tag == tag) ||
    ((s.msgs ch).any fun m => m.tag == tag && m.spec)

/-- A live tag has finished and only its grace still runs (R300). -/
def tagDone (ch tag : Nat) (s : State) : Bool :=
  match tget? s.liveTags (tagIx ch tag) with
  | some x => x.closed && x.taken && !foxHolds ch tag s &&
      !(s.requests.any fun r => r.ch == ch && r.tag == tag && !r.answered)
  | none => false

/-- A tag is live no longer; the requests that it named are forgotten. -/
def dropTag (ch tag : Nat) (s : State) : State :=
  let t : State := { s with
    liveTags := tdel s.liveTags (tagIx ch tag), requests := s.requests.filter fun r => !(r.ch == ch && r.tag == tag && r.answered) }
  t.put .sveChLive ch 0 (s.get .sveChLive ch 0 - 1)

/-! ## The batch stream (R303) -/

/-- A 64 B word of bytes, padded with zero. -/
def wordOfBytes (bs : List (BitVec 8)) : BitVec 512 := BitVec.ofNat 512 (leNat (bs.take 64))

/-- The words of a body. -/
def bodyWords : Nat → List (BitVec 8) → List (BitVec 512)
  | 0, _ => []
  | n + 1, bs => wordOfBytes bs :: bodyWords n (bs.drop 64)

/-- A record: its header word and its body, whose words free a buffer cell each when they are taken. -/
def recordWords (r : Request) (slot : Nat) (s : State) : List (BitVec 512 × Bool) :=
  let left := (r.due - s.get .gtc 0 0) / 1000
  let head := leBytes 1 slot ++ leBytes 1 r.dest.port ++ leBytes 2 r.k ++ leBytes 4 r.client ++ leBytes 8 r.req ++
    leBytes 4 (min left (2 ^ 32 - 1)) ++ leBytes 2 r.body.length ++ leBytes 2 r.ncand ++ leBytes 4 r.pairs.length
  (wordOfBytes head, false) :: (bodyWords (cellsOf r.body.length) r.body).map fun w => (w, true)

/-- The rows of some requests that name each of sixteen tables from one on. -/
def rowCounts (rs : List Request) (t0 : Nat) : List (BitVec 8) :=
  (List.range 16).flatMap fun k => leBytes 4 ((rs.flatMap fun r => r.pairs).filter fun p => p.1 == t0 + k).length

/-- The stream of a batch. -/
def streamOf (svc tag openUs flags : Nat) (rs : List Request) (s : State) : List (BitVec 512 × Bool) :=
  let recs := (rs.mapIdx fun k r => (k, r)).flatMap fun x => recordWords x.2 x.1 s
  let n := 3 + recs.length
  let epoch := (rs.map fun r => r.epoch).headD 0
  let head := leBytes 2 tag ++ leBytes 2 svc ++ leBytes 4 epoch ++ leBytes 2 rs.length ++ leBytes 2 0 ++ leBytes 4 n ++
    leBytes 8 (s.get .gtc 0 0) ++ leBytes 4 openUs ++ leBytes 1 flags
  (wordOfBytes head, false) :: (wordOfBytes (rowCounts rs 0), false) :: (wordOfBytes (rowCounts rs 16), false) :: recs

/-! ## Windows, boundaries and commits (R299, R302) -/

/-- The requests of a service's open batch. -/
def openReqs (svc : Nat) (s : State) : List Request :=
  s.requests.filter fun r => r.svc == svc && r.slot.isNone && !r.answered

/-- Length of a service's window and the farthest a SYNC edge moves a boundary, in ns. -/
def windowNs (svc : Nat) (s : State) : Nat := s.get .sveSvcW0WindowUs svc 0 * 1000
/-- L of R299. -/
def syncLim (svc : Nat) (s : State) : Nat := min (windowNs svc s / 4) 128000

/-- A channel in DOZE or DARK begins to wake on a source (R494): not while the chip is frozen (R557) or in STANDBY (R501), nor after
a trip (R511). -/
def wakeChan (ch cause : Nat) (s : State) : State :=
  let st := s.get .chPwrStatState ch 0
  if (st == 2 || st == 3) && !s.frozen && s.get .pwrStatChip 0 0 == 0 && !s.cut then
    (((s.put .chPwrStatWcause ch 0 cause).put .pwrDark ch 0 (st - 2)).put .wakeAt ch 0 (s.get .gtc 0 0)).setPwr ch 4
  else s

/-- A mailbox command in progress completes (R584, R587). -/
def mbxFinish (status detail : Nat) (s : State) : State :=
  if !s.on .mbxStatBusy 0 0 then s
  else
    let t := (((s.put .mbxStatStatus 0 0 status).put .mbxStatDetail 0 0 detail).put .mbxStatCode 0 0 (s.get .mbxCur 0 0)).put
      .mbxStatSeq 0 0 (s.get .mbxSeq 0 0)
    (((t.put .mbxStatBusy 0 0 0).put .mbxStatDone 0 0 1).put .mbxCur 0 0 0).mgCause 0

/-- The command in progress is one, on an object. -/
def mbxIs (code obj : Nat) (s : State) : Bool :=
  s.on .mbxStatBusy 0 0 && s.get .mbxCur 0 0 == code && s.get .mbxCurObj 0 0 == obj

/-- The seam test of EXCH_CFG.MODE for a batch (R318). -/
def seamTest (ch tag epoch : Nat) (s : State) : Bool :=
  match s.get .exchCfgMode ch 0 with
  | 1 => decide ((tag + 65536 - s.get .exchSeamTag ch 0) % 65536 < 32768)
  | 2 => epoch == s.get .exchSeamEpoch ch 0
  | _ => true

/-- The seam batch is committed: PHASE becomes HELD and the hold timer starts (R319). -/
def seamHold (ch tag epoch : Nat) (s : State) : State :=
  if s.get .exchStatPhase ch 0 = 1 ∧ seamTest ch tag epoch s then
    (((s.put .exchStatPhase ch 0 2).put .exchStatSeamTag ch 0 tag).put .exchHeldAt ch 0 (s.get .gtc 0 0)).raise 0x0802 ch
      [ch, tag, epoch]
  else s

/-- Rows that Fox has not been handed as run-ahead go to it as ordinary work (R239). -/
def commitRows (r : Request) (s : State) : State :=
  if r.handed then s else foxRows r.ch r.tag (r.epoch % 2 == 1) false r.pairs s

/-- Commit a service's open batch (R302). -/
def commitBatch (svc tag openUs flags : Nat) (s : State) : State :=
  let rs := openReqs svc s
  match rs with
  | [] => s
  | r0 :: _ =>
    let ch := r0.ch
    let words := streamOf svc tag openUs flags rs s
    let t := (rs.mapIdx fun k r => (k, r)).foldl (fun t x => setRequest { x.2 with slot := some x.1, handed := true } t) s
    let t := rs.foldl (fun t r => commitRows r t) (foxCommit ch tag t)
    let b : Batch := { tag := tag, svc := svc, epoch := r0.epoch, left := words, there := [], begun := false }
    let t := (t.setQueue ch (t.queue ch ++ [b])).inc .sveChBatches ch 0 1
    let t := seamHold ch tag r0.epoch t
    if t.on .chPwrWbatch ch 0 then wakeChan ch 1 t else t

/-- A pending epoch of a service takes effect (R331). -/
def epochTakes (svc : Nat) (s : State) : State :=
  match tget? s.epochPend svc with
  | none => s
  | some e =>
    let t : State := { s with epochPend := tdel s.epochPend svc }
    let t := (t.put .sveSvcW1Epoch svc 0 e).raise 0x0806 8 [svc, s.get .sveSvcW1Epoch svc 0, e, s.get .gtc 0 0]
    if mbxIs 0x07 svc t then mbxFinish 0 0 t else t

/-- The channel a service's W0 names, or 8 where it is not bound. -/
def svcChan (svc : Nat) (s : State) : Nat := if s.on .sveSvcW0Bound svc 0 then s.get .sveSvcW0Channel svc 0 else 8

/-- Write the fields of SVE_SVC_W0, from the word as the register shows it. -/
def putSvc (svc w0 cell len : Nat) (s : State) : State :=
  let t := ((((s.put .sveSvcW0Bound svc 0 1).put .sveSvcW0Channel svc 0 (bitsAt w0 1 3)).put .sveSvcW0TagReq svc 0 (bitsAt w0 4 1)).put
    .sveSvcW0Errq svc 0 (bitsAt w0 5 1)).put .sveSvcW0Sync svc 0 (bitsAt w0 6 2)
  let t := (((t.put .sveSvcW0WindowUs svc 0 (bitsAt w0 8 11)).put .sveSvcW0Maxb svc 0 (bitsAt w0 19 9)).put .sveSvcW0DeadlineUs svc 0
    (bitsAt w0 28 20)).put .sveSvcW0Kdef svc 0 (bitsAt w0 48 9)
  ((t.put .sveSvcW0Keyslot svc 0 (bitsAt w0 57 4)).put .sveSvcW1FbCell svc 0 cell).put .sveSvcW1FbLen svc 0 len

/-- A service is bound to no channel. -/
def unbindSvc (svc : Nat) (s : State) : State :=
  { s with windows := tdel s.windows svc, svcPend := tdel s.svcPend svc, epochPend := tdel s.epochPend svc }.put .sveSvcW0Bound svc 0 0

/-- Settings that wait for a service's boundary take effect (R292). -/
def bindTakes (svc : Nat) (s : State) : State :=
  match tget? s.svcPend svc with
  | none => s
  | some p =>
    let old := svcChan svc s
    let t : State := { s with svcPend := tdel s.svcPend svc }
    let t := if p.unbind then unbindSvc svc t else putSvc svc p.w0 p.cell p.len t
    let t := t.raise 0x0708 8 [svc, old, svcChan svc t]
    if mbxIs 0x0C svc t then mbxFinish 0 0 t else t

/-- A boundary of a service: commit, the next window, and what waited for it (R299, R300, R292, R331). `flags` are FLAGS
[2:0]. -/
def boundary (svc flags : Nat) (s : State) : State :=
  match tget? s.windows svc with
  | none => s
  | some w =>
    let now := s.get .gtc 0 0
    let n := (openReqs svc s).length
    let fl := flags + (if w.cancelled then 8 else 0) + (if w.retried then 16 else 0)
    let ch := s.get .sveSvcW0Channel svc 0
    let t := match w.tag with
      | none => s
      | some tag => setTag ch tag (fun x => { x with closed := true, taken := n == 0, nreq := n })
          (commitBatch svc tag ((now - w.openAt) / 1000) fl s)
    let t : State := { t with windows := tset t.windows svc ⟨now, none, false, false⟩ }
    bindTakes svc (epochTakes svc t)

/-- A boundary falls without an edge (R299), with its flags: the fill, the schedule, or the limit of a hold. -/
def dueFlags (svc : Nat) (s : State) : Option Nat :=
  match tget? s.windows svc with
  | none => none
  | some w =>
    let now := s.get .gtc 0 0
    let sched := w.openAt + windowNs svc s
    let hold := (s.get .sveSvcW0Sync svc 0).testBit 1
    if s.get .sveSvcW0Maxb svc 0 ≤ (openReqs svc s).length then some 1
    else if now < sched then none
    else if !hold then some 0
    else if sched + syncLim svc s ≤ now then some 4
    else none

/-- What a SYNC edge does to a service (R299): a boundary that is due without it, a pull, or the end of a hold. -/
def edgeBoundary (svc : Nat) (s : State) : State :=
  match tget? s.windows svc with
  | none => s
  | some w =>
    let now := s.get .gtc 0 0
    let sched := w.openAt + windowNs svc s
    let sync := s.get .sveSvcW0Sync svc 0
    match dueFlags svc s with
    | some f => boundary svc f s
    | none =>
      if sync.testBit 0 ∧ now < sched ∧ sched ≤ now + syncLim svc s then boundary svc 2 s
      else if sync.testBit 1 ∧ sched ≤ now then boundary svc 4 s
      else s

/-- The services bound to channels that a test names, rising. -/
def boundTo (p : Nat → Bool) (s : State) : List Nat :=
  (s.windows.map Prod.fst).filter fun svc => s.on .sveSvcW0Bound svc 0 && p (s.get .sveSvcW0Channel svc 0)

/-! ## Removal, closing and dropping -/

/-- A request leaves its open batch: its cells are freed and run-ahead is cancelled, and started again once where at least half of
the window remains (R243, R297). -/
def leaveOpen (r : Request) (s : State) : State :=
  let t := freeCells r.ch (cellsOf r.body.length) s
  match tget? t.windows r.svc with
  | none => foxCancel r.ch r.tag t
  | some w =>
    let had := t.get .foxRaCancels r.ch 0
    let t := foxCancel r.ch r.tag t
    if t.get .foxRaCancels r.ch 0 = had then t
    else
      let left := w.openAt + windowNs r.svc t - t.get .gtc 0 0
      let again : Bool := !w.retried && decide (windowNs r.svc t ≤ 2 * left) && t.on .foxCtlRaEn r.ch 0 && t.chanRuns r.ch
      let rs := openReqs r.svc t
      let t : State := { t with windows := tset t.windows r.svc { w with cancelled := true, retried := w.retried || again } }
      let t := rs.foldl (fun t x => setRequest { x with handed := again } t) t
      if again then (rs.foldl (fun t x => foxRows x.ch x.tag (x.epoch % 2 == 1) true x.pairs t) t).inc .foxRaRetries r.ch 0 1 else t

/-- SVE_CH_n.ADMIT clears, with event 0x0705 where it was set (R294). The cause is 0 a halt, 1 a reset, 2 a kill, 3 STANDBY. -/
def closeAdmit (ch cause : Nat) (s : State) : State :=
  if s.on .sveChAdmit ch 0 then ((s.put .sveChAdmit ch 0 0).raise 0x0705 ch [ch, cause]).mgCause 8 else s

/-- Queued batches are discarded: their tags count as taken and their cells are freed (R294). -/
def discardQueue (ch : Nat) (s : State) : State :=
  let q := s.queue ch
  let t := q.foldl (fun t b =>
    freeCells ch ((b.left ++ b.there).filter fun w => w.2).length (setTag ch b.tag (fun x => { x with taken := true }) t)) s
  t.setQueue ch []

/-- No unit of a core is busy. -/
def unitsIdle (c : Nat) (s : State) : Bool := [1, 2, 3, 4].all fun u => !unitBusy c u s

/-- A core stands as the seam rule asks (R320): the lead core waits in BATCH.TAKE, or in WAIT with BATCH masked; another waits, is
gated or naps, is stopped or halted; no unit of it is busy and no bank of it is being initialised. -/
def seamRests (ch c : Nat) (s : State) : Bool :=
  let st := s.coreState c
  let rests := if c = leadCore ch then
      (match tget? s.held c with
        | some (.batchTake ..) => true
        | some (.wait _ mask _) => mask.getLsbD 4
        | _ => false)
    else st != stRunning
  rests && unitsIdle c s && !spdInitRuns c s

/-- NOTREADY (EXCH_STAT): while HELD, the cores that keep the seam rule false, saturating. -/
def notReady (ch : Nat) (s : State) : Nat :=
  if s.get .exchStatPhase ch 0 = 2 then min 255 ((s.coresOf ch).filter fun c => !seamRests ch c s).length else 0

/-- An exchange aborts with a RESULT while ARMED or HELD (R329). -/
def exchAbort (ch result : Nat) (s : State) : State :=
  let p := s.get .exchStatPhase ch 0
  if p = 1 ∨ p = 2 then
    let n := notReady ch s
    let t := ((s.put .exchStatPhase ch 0 0).put .exchStatResult ch 0 result).put .exchStatNotready ch 0 0
    (t.raise 0x0804 ch [ch, result, n]).chCause ch 2
  else s

end Sys2Proof.Machine
end

