-- ==== Sys2Proof/Machine/Halt.lean ====
section
/-!
DEFINITION. A channel halt (R91), and the stopping of a channel's units that halts, resets and forced seams share.
-/
namespace Sys2Proof.Machine

/-- The units of a core stop (R133, R155, R263): the array's planes clear, a filling tile-queue entry is discarded. -/
def stopUnits (c : Nat) (s : State) : State := ((tqDropFilling c (vxStop c (mxClear c s))).put .syLeft c 0 0).put .fxWait c 0 0

/-- A core that is neither STOPPED nor HALTED halts with cause 3 at its next unissued instruction (R91). -/
def haltCore (c : Nat) (s : State) : State :=
  let st := s.coreState c
  if st = stStopped ∨ st = stHalted then s
  else
    let t : State := { s with held := tdel s.held c }
    ((((t.put .coreStatState c 0 stHalted).put .coreHaltCode c 0 0).put .coreHaltCause c 0 3).put .coreHaltPc c 0
      (s.get .corePc c 0)).clearFlds [.coreWkind, .coreWobj, .coreStartWait] (· == c)

/-- Run-ahead of a channel's open batches is cancelled without a retry; their rows are gathered after commit (R239). -/
def dropRunAhead (ch : Nat) (s : State) : State :=
  let t := foxCancelAll ch s
  { t with requests := t.requests.map fun r => if r.ch = ch ∧ r.slot.isNone then { r with handed := false } else r }

/-- The work of a channel's cores in Fox, and its run-ahead, is given up; host descriptors that wait stay. -/
def foxGiveUp (ch : Nat) (s : State) : State := foxAbandon ch (fun d => d.src != 160) (dropRunAhead ch s)

/-- A channel halt (R91): every core stops, its units stop, ADMIT clears, queued batches are discarded, an armed exchange aborts,
and the batch interval ends (R273, R294, R329, R338). -/
def chanHalt (ch : Nat) (s : State) : State :=
  let cs := s.coresOf ch
  let t := cs.foldl (fun t c => stopUnits c (haltCore c (endSeg c false t))) s
  let t := leaveBars ch (foxGiveUp ch t)
  let t := exchAbort ch 5 (discardQueue ch (closeAdmit ch 0 t))
  let t := ((detEnd ch true t).put .bdgStatQcount ch 0 0).flush
  (cs.foldl (fun t c => t.put .spdHaltPend c 0 0) t).chCause ch 1

/-- A halt of the channel is pending at a core, and the core reaches the point where it falls (R176). -/
def haltDue (c : Nat) (s : State) : Bool := s.on .spdHaltPend c 0

end Sys2Proof.Machine
end

