-- ==== Sys2Proof/Machine/Chan.lean ====
section
/-!
DEFINITION. Message channels, sync counters, landing, barriers as instructions, and the arrivals of what travels between cores
(R246 to R273).
-/
namespace Sys2Proof.Machine

/-! ## Gated GOs (R72, R74 to R77) -/

/-- A gate tests something outside the core's own clocked units, so how long a GO waits on it has no fixed length. -/
def outerGate (d : Nat) : Bool :=
  let k := bitsAt d 28 4
  k == 1 || k == 2 || k == 3 || k == 4 || k == 7 || (k == 8 && 3 ≤ bitsAt d 20 8)

/-- The cycles from now on in which a time-driven condition of the core may change: a unit's end, an entry's. -/
def knownCycles (c : Nat) (s : State) : List Nat :=
  let now := s.get .coreCyc c 0
  now :: (([s.get .mxDoneAt c 0, s.get .vxDoneAt c 0, s.get .fxDoneAt c 0, s.get .syDoneAt c 0] ++
    (List.range 8).map (s.get .tqFreeAt c) ++ (List.range 8).map (s.get .tqFullAt c)).filter fun t => decide (now < t))

/-- Every gate holds and the unit is idle in a cycle. -/
def goHolds (c unit : Nat) (mask : BitVec 8) (s : State) (cyc : Nat) : Bool :=
  let t := s.reach c cyc
  !unitBusy c unit t && (gateVals c mask t).all fun g => g.2 == .is true

/-- The least of some numbers. -/
def least : List Nat → Option Nat
  | [] => none
  | n :: t => match least t with
    | none => some n
    | some m => some (min n m)

/-- What the gates of a GO make of its segment (R343): a wait on each ring they name, an external wait for an endpoint that a
link feeds or a counter last raised by a REMOTE descriptor. -/
def gateWaits (c : Nat) (mask : BitVec 8) (s : State) : State :=
  (gatesOf mask).foldl (fun t g =>
    let d := t.sq c (8 + g)
    let o := bitsAt d 20 8
    match bitsAt d 28 4 with
    | 1 => ringWait c o t
    | 2 => ringWait c o t
    | 3 => epWait c o t
    | 7 => if t.on .synRem c o then extWait c t else t
    | _ => t) s

/-- GO of a unit: misuse of a gate is UNPREDICTABLE (R77); while the unit is busy or a gate false the core is GATED (R72, R74);
else the GO issues in the first cycle in which all hold, or the channel halts there where a halt is pending (R176). A GO the core
held on something outside waited a free time. `k` is given the cycle of issue. -/
def go (c : Nat) (i : Instr) (unit : Nat) (mask : BitVec 8) (s : State)
    (k : Nat → State → State) : Out :=
  let was := s.isHeld c
  issue c i s fun t =>
    if (gateVals c mask t).any fun g => g.2 == .misuse then havoc (chanOf c) t
    else
      match least ((knownCycles c t).filter (goHolds c unit mask t)) with
      | none =>
        let bad := (gateVals c mask t).find? fun g => g.2 != .is true
        t.hold c i stGated 1 ((bad.map Prod.fst).getD 0)
      | some n =>
        let ext := was && ((gatesOf mask).any (fun g => outerGate (t.sq c (8 + g))) || 3 ≤ unit)
        let t := gateWaits c mask ((t.waited c ext).reach c n)
        if haltDue c t then chanHalt (chanOf c) t else k (t.get .coreCyc c 0) (retire c 1 t)

/-! ## Message channels -/

/-- The bytes of a V register: 256 B, little-endian lanes (R135). -/
def vBytes (ls : List (BitVec 32)) : List (BitVec 8) := ls.flatMap fun v => leBytes 4 v.toNat

/-- The lanes that some bytes spell. -/
def lanesOf : Nat → List (BitVec 8) → List (BitVec 32)
  | 0, _ => []
  | n + 1, bs => BitVec.ofNat 32 (leNat (bs.take 4)) :: lanesOf n (bs.drop 4)

/-- Word w of a V register (R259). -/
def vWord (ls : List (BitVec 32)) (w : Nat) : BitVec 512 := BitVec.ofNat 512 (leNat (vBytes ((ls.drop (16 * w)).take 16)))

/-- The lanes of a message word. -/
def wordLanes (d : BitVec 512) : List (BitVec 32) := lanesOf 16 (leBytes 64 d.toNat)

/-- Write words into the low words of a V register, keeping its other bytes (R259). -/
def putWords (c v lat : Nat) (ws : List (BitVec 512)) (s : State) : State :=
  s.setV c v lat (ws.flatMap wordLanes ++ (s.v c v).drop (16 * ws.length))

/-- The enabled local FLOW routes of the channel's active plan that name an input endpoint (R249), by core × 8 + endpoint. -/
def feeders (ch k ep : Nat) (s : State) : List Nat :=
  below 1280 fun x =>
    let r := s.get .rteRoute ch (s.get .rteCtlActive ch 0 * 1280 + x)
    routeEn r && !routeSignal r && !routeLink r && bitsAt r 3 8 == k && bitsAt r 11 3 == ep && s.present (coreIn ch (x / 8))

/-- Send back room for words taken from an input FIFO (R248). -/
def freeRoom (c ep n : Nat) (s : State) : State :=
  match feeders (chanOf c) (c % 160) ep s with
  | x :: _ => s.send (chanOf c) (.room (coreIn (chanOf c) (x / 8)) (x % 8) n)
  | [] => s

/-- Push words on a link route (R256, R277, R412, R417, R434): dropped on a DOWN link, filtered at egress without a SEND grant,
dropped on a link that is not ADMITTED, else one FLOW flit. -/
def pushLink (ch r : Nat) (ws : List (BitVec 512)) (s : State) : State :=
  let lnk := bitsAt r 16 3
  let chip := bitsAt r 19 15
  let dch := bitsAt r 34 3
  if s.bit .rteLinkfDown ch 0 lnk then s.inc .rteDrops ch 0 ws.length
  else if !granted ch chip dch .ownGrantSend s then (s.inc .ownFiltTx ch 0 1).tally 0x0C08 ch ch 0 1
  else if !linkUp (ch * 6 + lnk) s then s.inc .rteDrops ch 0 ws.length
  else if !s.on .fabCtlValid 0 0 then s
  else
    let arg := bitsAt r 37 8 * 2 ^ 8 + bitsAt r 45 3 * 2 ^ 5 + (ws.length - 1) * 2 ^ 3
    let f : Flit := { kind := 2, dchip := chip, schip := chipId s, dch := dch, sch := ch, hops := hopMax s, arg := arg }
    queueFlit (ch * 6 + lnk) 2 { f with payload := payload (ws.flatMap fun w => leBytes 64 w.toNat) } s

/-- QPUSH (R255, R260). -/
def execQpush (core : CoreId) (v : BitVec 5) (ep : BitVec 3) (nm1 : BitVec 2) (s : State) : Out :=
  let c := core.val
  let i := Instr.qpush core v ep nm1
  let was := s.isHeld c
  issue c i s fun t =>
    let t := unclean c (t.stallV c [v.toNat])
    let n := nm1.toNat + 1
    let ch := chanOf c
    let r := routeOf c ep.toNat t
    let dk := bitsAt r 3 8
    let de := bitsAt r 11 3
    if !routeEn r || routeSignal r then havoc ch t
    else if routeLink r then
      if 5 < bitsAt r 16 3 then havoc ch t
      else pushLink ch r ((List.range n).map (vWord (t.v c v.toNat))) (retire c 1 t)
    else if 160 ≤ dk || !t.present (coreIn ch dk) || 1 < (feeders ch dk de t).length then havoc ch t
    else if t.get .epRoom c ep.toNat < n then t.hold c i stWaiting 7 ep.toNat
    else
      let t := t.waited c was
      let t := t.put .epRoom c ep.toNat (t.get .epRoom c ep.toNat - n)
      let t := (List.range n).foldl (fun t w => t.send ch (.word (coreIn ch dk) de (vWord (t.v c v.toNat) w) false)) t
      retire c 1 t

/-- A landing of the endpoint runs, so reading its FIFO is UNPREDICTABLE (R257). -/
def landing (c ep : Nat) (s : State) : Bool := s.on .syLeft c 0 && s.get .syEp c 0 == ep

/-- Take n words from an input FIFO into V (R260). -/
def takeWords (c v ep n : Nat) (s : State) : State :=
  let q := s.fifoAt c ep
  freeRoom c ep n ((putWords c v 3 (q.take n) s).setFifo c ep (q.drop n))

/-- QPOP (R260). -/
def execQpop (core : CoreId) (v : BitVec 5) (ep : BitVec 3) (nm1 : BitVec 2) (s : State) : Out :=
  let c := core.val
  let i := Instr.qpop core v ep nm1
  let was := s.isHeld c
  issue c i s fun t =>
    let t := unclean c t
    if landing c ep.toNat t then havoc (chanOf c) t
    else if (t.fifoAt c ep.toNat).length < nm1.toNat + 1 then t.hold c i stWaiting 6 ep.toNat
    else retire c 1 (takeWords c v.toNat ep.toNat (nm1.toNat + 1) (epWait c ep.toNat (t.waited c was)))

/-- QPEEK (R260). -/
def execQpeek (core : CoreId) (v : BitVec 5) (ep : BitVec 3) (nm1 : BitVec 2) (s : State) : Out :=
  let c := core.val
  let i := Instr.qpeek core v ep nm1
  let was := s.isHeld c
  issue c i s fun t =>
    let t := unclean c t
    if landing c ep.toNat t then havoc (chanOf c) t
    else if (t.fifoAt c ep.toNat).length < nm1.toNat + 1 then t.hold c i stWaiting 6 ep.toNat
    else
      let t := epWait c ep.toNat (t.waited c was)
      retire c 1 (putWords c v.toNat 3 ((t.fifoAt c ep.toNat).take (nm1.toNat + 1)) t)

/-- FIRSTOF (R261): a core that had to hold raced. -/
def execFirstof (core : CoreId) (v : BitVec 5) (ea eb : BitVec 3) (gd : BitVec 5) (nm1 : BitVec 2) (s : State) : Out :=
  let c := core.val
  let i := Instr.firstof core v ea eb gd nm1
  let was := s.isHeld c
  issue c i s fun t =>
    let t := unclean c t
    let n := nm1.toNat + 1
    let a : Bool := decide (n ≤ (t.fifoAt c ea.toNat).length)
    let b : Bool := decide (n ≤ (t.fifoAt c eb.toNat).length)
    if !t.on .chCfgAllowRace (chanOf c) 0 || landing c ea.toNat t || landing c eb.toNat t then havoc (chanOf c) t
    else if !a && !b then t.hold c i stWaiting 10 ea.toNat
    else
      let t := epWait c eb.toNat (epWait c ea.toNat (t.waited c was))
      let t := if was then countRace (chanOf c) t else t
      let t := takeWords c v.toNat (if a then ea.toNat else eb.toNat) n t
      retire c 1 (t.setG c gd.toNat 1 (BitVec.ofNat 64 ((if was then 2 else 0) + (if a then 0 else 1))))

/-! ## Sync counters (R264 to R269) -/

/-- An operation on a counter, saturating, with its flag and event; `src` is 0 local, 1 token, 2 Fox (R265, R279). -/
def synOp (c ctr amt : Nat) (sub : Bool) (src : Nat) (s : State) : State :=
  let v := s.get .synCnt c ctr
  let s := if sub || amt == 0 then s else s.put .synRem c ctr 0
  if sub then
    if v < amt then ((s.put .synCnt c ctr 0).setBit .synFlagsSatLo c 0 ctr).raise 0x0602 (chanOf c) [c, ctr, src]
    else s.put .synCnt c ctr (v - amt)
  else if amt = 0 then s
  else if 0xFFFF < v + amt then ((s.put .synCnt c ctr 0xFFFF).setBit .synFlagsSatHi c 0 ctr).raise 0x0601 (chanOf c) [c, ctr, src]
  else s.put .synCnt c ctr (v + amt)

/-- The rank of core k in the channel's active plan. -/
def rankOf (ch k : Nat) (s : State) : Nat := s.get .rteRank ch (s.get .rteCtlActive ch 0 * 160 + k)

/-- The present cores of a channel with a rank. -/
def withRank (ch r : Nat) (s : State) : List Nat := below 160 fun k => rankOf ch k s == r && s.present (coreIn ch k)

/-- CINC and CDEC: on an own counter at once; over a SIGNAL route as a token to the core whose rank the route names (R254,
R255, R266). -/
def counterOp (c : Nat) (i : Instr) (rem : Bool) (ep ctr amt : Nat) (sub : Bool) (s : State) : Out :=
  issue c i s fun t =>
    let t := unclean c t
    let ch := chanOf c
    if !rem then retire c 1 (synOp c ctr amt sub 0 t)
    else
      let r := routeOf c ep t
      if !routeEn r || !routeSignal r then havoc ch t
      else
        match withRank ch (rankOf ch (c % 160) t + bitsAt r 3 8 + 1) t with
        | [k] => retire c 1 (t.send ch (.token (coreIn ch k) ctr amt sub (bitsAt r 16 16) (c % 160)))
        | _ => havoc ch t

/-- CINC (R265, R266). -/
def execCinc (core : CoreId) (rem : Bool) (ep : BitVec 3) (ctr : BitVec 4) (amt : BitVec 16) (s : State) : Out :=
  counterOp core.val (.cinc core rem ep ctr amt) rem ep.toNat ctr.toNat amt.toNat false s

/-- CDEC (R265, R266). -/
def execCdec (core : CoreId) (rem : Bool) (ep : BitVec 3) (ctr : BitVec 4) (amt : BitVec 16) (s : State) : Out :=
  counterOp core.val (.cdec core rem ep ctr amt) rem ep.toNat ctr.toNat amt.toNat true s

/-- CWAIT (R269). -/
def execCwait (core : CoreId) (ctr : BitVec 4) (sub : Bool) (n : BitVec 16) (s : State) : Out :=
  let c := core.val
  let i := Instr.cwait core ctr sub n
  let was := s.isHeld c
  issue c i s fun t =>
    let t := unclean c t
    let v := t.get .synCnt c ctr.toNat
    if v < n.toNat then t.hold c i stWaiting 8 ctr.toNat
    else
      let t := t.waited c was
      let t := if t.on .synRem c ctr.toNat then extWait c t else t
      retire c 1 (if sub then t.put .synCnt c ctr.toNat (v - n.toNat) else t)

/-! ## What arrives at a core -/

/-- Take the oldest crossing that a test names out of a channel's list. -/
def takeFirst (p : Transit → Bool) : List Transit → Option (Transit × List Transit)
  | [] => none
  | x :: t => if p x then some (x, t) else (takeFirst p t).map fun r => (r.1, x :: r.2)

/-- The oldest crossing of a channel that a test names arrives: what it does then. -/
def arrive (ch : Nat) (p : Transit → Bool) (s : State) (k : Transit → State → State) : Out :=
  match takeFirst p (s.transitOf ch) with
  | none => .next s
  | some (x, rest) => .next (if s.chanRuns ch then k x (s.setTransit ch rest) else s)

/-- A word comes into an input FIFO; more than 64 words lie outside what a schedule may send (R246, R257). -/
def intoFifo (c ep : Nat) (d : BitVec 512) (s : State) : State :=
  if 64 ≤ (s.fifoAt c ep).length then havoc (chanOf c) s else s.setFifo c ep (s.fifoAt c ep ++ [d])

/-- WORD_ARRIVAL: the oldest word on its way to an input endpoint is counted there (R250). -/
def execWordArrival (core : CoreId) (ep : BitVec 3) (s : State) : Out :=
  arrive (chanOf core.val) (fun x => match x with
    | .word c e _ _ => c == core.val && e == ep.toNat
    | _ => false) s fun x t => match x with
    | .word c e d _ => intoFifo c e d t
    | _ => t

/-- ROOM_RETURN: freed room reaches the sender (R248). -/
def execRoomReturn (core : CoreId) (ep : BitVec 3) (s : State) : Out :=
  arrive (chanOf core.val) (fun x => match x with
    | .room c e _ => c == core.val && e == ep.toNat
    | _ => false) s fun x t => match x with
    | .room c e n => t.put .epRoom c e (min 64 (t.get .epRoom c e + n))
    | _ => t

/-- COUNTER_TOKEN_ARRIVAL: a sender's oldest token reaches its core and is applied, or dropped outside its route's CMASK (R267,
R268). -/
def execCounterTokenArrival (core : CoreId) (sender : BitVec 8) (s : State) : Out :=
  arrive (chanOf core.val) (fun x => match x with
    | .token c _ _ _ _ k => c == core.val && k == sender.toNat
    | _ => false) s fun x t => match x with
    | .token c ctr amt sub cmask k =>
      if cmask.testBit ctr then synOp c ctr amt sub 1 t
      else (t.setBit .synFlagsMisuse c 0 ctr).raise 0x0603 (chanOf c) [c, ctr, coreIn (chanOf c) k]
    | _ => t

/-- DONE_CTR_INCREMENT: a completed descriptor's increment reaches its core (R211). -/
def execDoneCtrIncrement (core : CoreId) (s : State) : Out :=
  arrive (chanOf core.val) (fun x => match x with
    | .done c _ _ => c == core.val
    | _ => false) s fun x t => match x with
    | .done c ctr remote => (synOp c ctr 1 false 2 t).put .synRem c ctr (if remote then 1 else 0)
    | _ => t

/-- DOORBELL_ARRIVAL: a broadcast doorbell reaches its core (R583). -/
def execDoorbellArrival (core : CoreId) (s : State) : Out :=
  arrive (chanOf core.val) (fun x => match x with
    | .doorbell c => c == core.val
    | _ => false) s fun x t => match x with
    | .doorbell c => t.put .coreStatDbell c 0 1
    | _ => t

/-- RING_VIEW_UPDATE: a publication or a freed slot reaches the core that owns the ring (R228). -/
def execRingViewUpdate (ch : Chan) (ring : BitVec 8) (s : State) : Out :=
  let c := ch.val
  let r := ring.toNat
  if !s.on .ringViewPend c r || !s.chanRuns c then .next s
  else
    let t := s.put .ringViewPend c r (s.get .ringViewPend c r - 1)
    .next (if ringOut c r s then t.inc .ringFreev c r 1 else t.inc .ringPubv c r 1)

/-! ## Landing (R262, R263) -/

/-- GO.SY: start a landing. -/
def execGoSy (core : CoreId) (gmask : BitVec 8) (s : State) : Out :=
  let c := core.val
  go c (.goSy core gmask) 4 gmask s fun g t =>
    let t := unclean c t
    let n := t.sy c 3
    let ep := t.sy c 1
    let exact := n ≤ (t.fifoAt c ep).length
    ((((((t.put .syLeft c 0 n).put .syIdx c 0 0).put .syEp c 0 ep).put .syAddr c 0 (t.sy c 2 / 64 * 64)).put .syExact c 0
      (if exact then 1 else 0)).put .syDoneAt c 0 (if n = 0 then g + 3 else g + 2 + n))

/-- SY_LAND_WORD: one word of the landing leaves its FIFO and is written through the CHIN port (R263). -/
def execSyLandWord (core : CoreId) (acc : Access) (s : State) : Out :=
  let c := core.val
  let ep := s.get .syEp c 0
  match s.fifoAt c ep with
  | [] => .next s
  | d :: rest =>
    if !s.on .syLeft c 0 || !s.chanRuns (chanOf c) then .next s
    else
      let w := wordOf (s.get .syAddr c 0 + 64 * s.get .syIdx c 0)
      if !bankOpen c pChin (bankOf w) s then .next (havoc (chanOf c) s)
      else
        let t := freeRoom c ep 1 (s.setFifo c ep rest)
        let (_, t) := spdWrite c pChin w (fullWord (leBytes 64 d.toNat)) acc t
        let t := (t.put .syLeft c 0 (t.get .syLeft c 0 - 1)).inc .syIdx c 0 1
        if t.on .syLeft c 0 || t.on .syExact c 0 then .next t
        else .next (t.put .syDoneAt c 0 (t.get .coreCyc c 0 + 1 + Config.freeNat t.ctr)).draw

/-! ## Barriers -/

/-- BAR: arrive, and hold until the release or a fault (R270 to R273). -/
def execBar (core : CoreId) (scope bid : BitVec 2) (gd : BitVec 5) (s : State) : Out :=
  let c := core.val
  let i := Instr.bar core scope bid gd
  let ch := chanOf c
  let ix := barIx scope.toNat bid.toNat
  let b := bid.toNat
  issue c i s fun t =>
    let t := unclean c t
    if 3 ≤ scope.toNat || !isMember ch b (c % 160) t then havoc ch t
    else if t.on .barWait c ix then t.hold c i stWaiting 9 b
    else if t.on .barFault ch ix ∧ t.get .barFaultGen ch ix = t.get .barCount c ix then
      retire c 1 ((t.inc .barCount c ix 1).setG c gd.toNat 1 (barStatus (t.get .barFault ch ix)))
    else
      let t := endSeg c true t
      let t := ((t.put .barWait c ix 1).put .barLast ch ix (c % 160)).put .barTimer ch ix (if scope = 0#2 then 0 else 1)
      let t := t.hold c i stWaiting 9 b
      if scope = 2#2 then (below 4 fun k => k == b).foldl (fun t k => tryFabric k t) t else t

/-- CHANNEL_BARRIER_RELEASE: every member of a channel barrier has arrived, and all complete in one generation (R270). -/
def execChannelBarrierRelease (ch : Chan) (bid : BitVec 2) (s : State) : Out :=
  .next (if chanArrived ch.val 0 bid.toNat s && s.chanRuns ch.val then releaseChan ch.val 0 bid.toNat s else s)

/-- CHIP_BARRIER_RELEASE: the chip barrier that a channel takes part in releases every channel of its mask (R272). -/
def execChipBarrierRelease (ch : Chan) (bid : BitVec 2) (s : State) : Out :=
  .next (if chipReady ch.val bid.toNat s then
    (chipSet ch.val bid.toNat s).foldl (fun t k => releaseChan k 1 bid.toNat t) s else s)

/-- BAR_TIMEOUT: the timer of a chip or fabric barrier at a channel reaches SYN_BAR_TIMEOUT (R273, R384). -/
def execBarTimeout (ch : Chan) (scope bid : BitVec 2) (s : State) : Out :=
  let b := bid.toNat
  if !s.on .barTimer ch.val (barIx scope.toNat b) || s.frozen then .next s
  else if scope = 1#2 then .next (faultBar ch.val 1 b 1 s)
  else if scope = 2#2 then
    .next (if (fbarChans b s).contains ch.val then faultFabric b 1 none s else faultBar ch.val 2 b 1 s)
  else .next s

/-- FABRIC_BARRIER_RELEASE: the island copies reach the released count T (R383). -/
def execFabricBarrierRelease (bid : BitVec 2) (s : State) : Out :=
  let b := bid.toNat
  .next (if s.on .fbarRel b 0 && decide (s.get .fbarT b 0 ≤ s.get .gtc 0 0) then releaseFabric b s else s)

/-! ## Rings and Fox as instructions (R208 to R211, R227 to R230) -/

/-- The descriptor that the FX fields form (R208). -/
def fxDesc (c : Nat) (s : State) : Desc :=
  let f := s.fx c
  { seq := 0, src := c % 160, kind := f 1, sspace := f 2, dspace := f 3, sside := f 4 == 1, eos := (f 5).testBit 0,
    fence := (f 5).testBit 1, ring := f 6, done := f 7, n0 := f 8, n1 := f 9, n2 := f 10, n3 := f 11, sa := f 12, da := f 13,
    s1 := f 14, s2 := f 15, s3 := f 16, idx := f 18, idxCore := c % 160, chip := f 17 % 2 ^ 15, pch := f 17 / 2 ^ 15 }

/-- A GO.FX hands something to Fox; the FX unit is busy until its acceptance, for 9 cycles in LOCKSTEP and 7 to 13 otherwise
where an entry is free (R210). -/
def submit (c : Nat) (d : Desc) (g : Nat) (t : State) : State :=
  let lock := t.on .chCfgLockstep (chanOf c) 0
  let n := if lock then 9 else 7 + Config.freeNat t.ctr % 7
  let t := if lock then t else t.draw
  (foxArrive (chanOf c) d ((unclean c t).put .fxWait c 0 1)).put .fxDoneAt c 0 (g + n + 1)

/-- GO.FX with OP SUBMIT (R209). -/
def execGoFxSubmit (core : CoreId) (gmask : BitVec 8) (s : State) : Out :=
  let c := core.val
  go c (.goFxSubmit core gmask) 3 gmask s fun g t =>
    let d := fxDesc c t
    if descLegal (chanOf c) d t then submit c d g t else havoc (chanOf c) t

/-- GO.FX with OP FENCE (R209). -/
def execGoFxFence (core : CoreId) (gmask : BitVec 8) (s : State) : Out :=
  let c := core.val
  go c (.goFxFence core gmask) 3 gmask s fun g t => submit c { seq := 0, src := c % 160, isFence := true, done := t.fx c 7 } g t

/-- RWAIT (R229). The status of a slot that is not published to the core is a free value. -/
def execRwait (core : CoreId) (gd : BitVec 5) (ring : BitVec 8) (n : BitVec 7) (s : State) : Out :=
  let c := core.val
  let i := Instr.rwait core gd ring n
  let r := ring.toNat
  let ch := chanOf c
  let was := s.isHeld c
  issue c i s fun t =>
    let t := unclean c t
    let out := ringOut ch r t
    let view := if out then t.get .ringFreev ch r else t.get .ringPubv ch r
    if !ringOf c r t then havoc ch t
    else if view < n.toNat ∨ ringSlots ch r t < n.toNat then t.hold c i stWaiting 5 r
    else
      let t := ringWait c r (t.waited c was)
      let k := t.get .ringCorePtr ch r
      let x := slotIx r k
      let known := t.get .ringSlotEos ch x * 2 ^ 26 + t.get .ringSlotPoison ch x * 2 ^ 27 + t.get .ringSlotWords ch x * 2 ^ 28
      let stat := if out then 0 else if view = 0 then Config.freeNat t.ctr % 2 ^ 9 * 2 ^ 26 else known
      let t := if !out && view == 0 then t.draw else t
      let t := if !out && view != 0 && t.on .ringSlotPoison ch x then detCause ch cPoison t else t
      retire c 1 (t.setG c gd.toNat 1 (BitVec.ofNat 64 (slotAddr ch r k t + min view 64 * 2 ^ 19 + stat)))

/-- Slots from one on, n of them, round a ring. -/
def slotsFrom (ch r : Nat) (s : State) : Nat → Nat → List Nat
  | _, 0 => []
  | k, n + 1 => k :: slotsFrom ch r s (nextSlot ch r k s) n

/-- RPOP (R230). -/
def execRpop (core : CoreId) (ring : BitVec 8) (n : BitVec 7) (s : State) : Out :=
  let c := core.val
  let r := ring.toNat
  let ch := chanOf c
  issue c (.rpop core ring n) s fun t =>
    let t := unclean c t
    if !ringOf c r t || ringOut ch r t || t.get .ringPubv ch r < n.toNat then havoc ch t
    else
      let ks := slotsFrom ch r t (t.get .ringCorePtr ch r) n.toNat
      let t := if ks.any fun k => t.on .ringSlotPoison ch (slotIx r k) then detCause ch cPoison t else t
      let t := ks.foldl (fun (t : State) k => (((t.put .ringSlotSt ch (slotIx r k) 0).put .ringCorePtr ch r (nextSlot ch r k t)).put
        .foxRingPtrTail ch r (nextSlot ch r k t)).put .foxRingPtrPub ch r (t.get .foxRingPtrPub ch r - 1)) t
      retire c 1 (foxReserve ch (t.put .ringPubv ch r (t.get .ringPubv ch r - n.toNat)))

/-- RPUB (R230). -/
def execRpub (core : CoreId) (ring : BitVec 8) (n : BitVec 7) (eos : Bool) (valid : BitVec 7) (s : State) : Out :=
  let c := core.val
  let r := ring.toNat
  let ch := chanOf c
  issue c (.rpub core ring n eos valid) s fun t =>
    let t := unclean c t
    let sw := t.get .foxRingCfgSlotWords ch r
    if !ringOf c r t || !ringOut ch r t || t.get .ringFreev ch r < n.toNat || sw < valid.toNat then havoc ch t
    else
      let ks := slotsFrom ch r t (t.get .ringCorePtr ch r) n.toNat
      let t := (ks.mapIdx fun j k => (j, k)).foldl (fun (t : State) p =>
        let last : Bool := p.1 + 1 == n.toNat
        let x := slotIx r p.2
        let words := if last && valid != 0#7 then valid.toNat else sw
        (((((((t.put .ringSlotSt ch x 3).put .ringSlotWords ch x words).put .ringSlotLeft ch x words).put .ringSlotEos ch x
          (if last && eos then 1 else 0)).put .ringCorePtr ch r (nextSlot ch r p.2 t)).put .foxRingPtrHead ch r
            (nextSlot ch r p.2 t)).put .foxRingPtrFill ch r (nextSlot ch r p.2 t)).inc .foxRingPtrPub ch r 1) t
      retire c 1 (t.put .ringFreev ch r (t.get .ringFreev ch r - n.toNat))

end Sys2Proof.Machine
end

