-- ==== Sys2Proof/Machine/Rerun.lean ====
section
/-!
DEFINITION. The layer re-run (R183 to R187) and what a VX access does about an error it reads (R179, R182).
-/
namespace Sys2Proof.Machine

/-- 64 lanes whose contents are free. -/
def freeLanes (s : State) : List (BitVec 32) := (List.range 64).map fun l => BitVec.ofNat 32 (Config.freeResult s.ctr l)

/-- V registers whose results are pending past a cycle lose them: their lanes are free, as R186 restores no V register. -/
def dropPending (c d : Nat) (s : State) : State :=
  (below 32 fun n => decide (d < s.get .coreVRdy c n)).foldl (fun t n => (t.putV c n (freeLanes t)).draw) s

/-- The core goes back to its re-run point, where the instruction after it issues in cycle d + 6 (R185). -/
def layerRerun (c d : Nat) (s : State) : State :=
  let t := tqFree c (vxStop c (mxClear c (dropPending c (d + 1) s)))
  let t := rerunRestore c (t.resume c)
  let t := (t.clearFlds [.coreGRdy, .coreVRdy] (· == c)).put .coreCyc c 0 (d + 6)
  countRetry (chanOf c) (t.inc .spdReruns c 0 1)

/-- An A-bank read error of R182 seen in cycle d at a word (R185): whether the instruction that read stops there, and the
state. -/
def arunRule (c w port d : Nat) (s : State) : Bool × State :=
  let ch := chanOf c
  let fail (cause : Nat) (t : State) : State := (t.put .spdStatAerr c 0 1).raise 0x0403 ch [c, bankOf w, w % 512, cause]
  let st := s.coreState c
  let n := s.get .spdStatAttempt c 0
  if s.on .spdStatConflict c 0 then (false, fail 2 s)
  else if st = stStopped ∨ st = stHalted then (true, chanHalt ch (fail 0 s))
  else if !s.on .spdStatClean c 0 then (true, chanHalt ch ((fail 0 s).reach c (d + 2)))
  else if n = 3 then (true, chanHalt ch ((fail 1 s).reach c (d + 2)))
  else (true, layerRerun c d ((s.put .spdStatAttempt c 0 (n + 1)).raise 0x0402 ch [c, bankOf w, w % 512, port, n + 1]))

/-- What a VX-port read or merge does about what its check found (R179, R182): whether the instruction stops, and the state. -/
def vxFound (c w : Nat) (k : Check) (s : State) : Bool × State :=
  match k with
  | .parity => arunRule c w pVx (s.get .coreCyc c 0) s
  | .uncorrectable =>
    (false, detCause (chanOf c) cPoison (((s.put .spdStatUe c 0 1).put .spdHaltPend c 0 1).raise 0x0405 (chanOf c)
      [c, bankOf w, w % 512, pVx]))
  | _ => (false, s)

end Sys2Proof.Machine
end

