-- ==== Sys2Proof/Machine/Vector.lean ====
section
/-!
DEFINITION. Vector arithmetic and conversions (R135 to R143), reductions and TOPK (R156 to R161).
-/
namespace Sys2Proof.Machine

/-- A lane. -/
abbrev Lane := BitVec 32

/-- A lane from a number. -/
def lane (n : Nat) : Lane := BitVec.ofNat 32 n

/-! ## Issue -/

/-- A vector instruction: held while a spill runs (R137); then it stalls for the registers it reads (R136). -/
def vecIssue (c : Nat) (i : Instr) (vs gs : List Nat) (s : State) (k : State → State) : Out :=
  issue c i s fun t =>
    match unitState c 2 t with
    | .busy => t.hold c i stWaiting 3 2
    | .idleAt m => k (((t.reach c m).stallV c vs).stallG c gs)

/-- Operand b of a vector instruction: the lanes of V[VB], or G[VB][31:0] in every lane (R139). -/
def vecB (c : Nat) (vb : BitVec 5) (bs : Bool) (s : State) : List Lane :=
  if bs then List.replicate 64 ((s.g c vb.toNat).setWidth 32) else s.v c vb.toNat

/-- The V and G registers operand b reads. -/
def vecBReads (vb : BitVec 5) (bs : Bool) : List Nat × List Nat := if bs then ([], [vb.toNat]) else ([vb.toNat], [])

/-- Lane-by-lane results of two and of three operands. -/
def lanes2 (f : Lane → Lane → Lane) (a b : List Lane) : List Lane := List.zipWith f a b
/-- Three operands. -/
def lanes3 (f : Lane → Lane → Lane → Lane) (a b c : List Lane) : List Lane :=
  (List.zip a (List.zip b c)).map fun x => f x.1 x.2.1 x.2.2

/-- Some lane is a NaN that none of its inputs is: VX_STAT.NAN is set. -/
def noteNan (c : Nat) (ins : List (List Lane)) (out : List Lane) (s : State) : State :=
  let made := (out.mapIdx fun k v => (k, v)).any fun x =>
    isNanBits x.2.toNat && !(ins.any fun a => isNanBits (a.getD x.1 0#32).toNat)
  if made then s.put .vxStatNan c 0 1 else s

/-- The type of a vector operation: 0 F32, 1 I32, 2 U32. -/
abbrev VT := BitVec 2

/-- An operation of two operands whose type must be one of a list: else the outcome is UNPREDICTABLE (R140). -/
def vecTyped (c : Nat) (i : Instr) (vd va vb : BitVec 5) (ty : VT) (bs : Bool) (types : List Nat) (n lat : Nat)
    (f : Lane → Lane → Lane) (nan : Bool) (s : State) : Out :=
  let r := vecBReads vb bs
  vecIssue c i (va.toNat :: r.1) r.2 s fun t =>
    if !types.contains ty.toNat then havoc (chanOf c) t
    else
      let a := t.v c va.toNat
      let b := vecB c vb bs t
      let out := lanes2 f a b
      let t := if nan then noteNan c [a, b] out t else t
      retire c n (t.setV c vd.toNat lat out)

/-- An operation of one operand, with its types. -/
def vecUnary (c : Nat) (i : Instr) (vd va : BitVec 5) (ty : VT) (types : List Nat) (n lat : Nat) (f : Lane → Lane) (nan : Bool)
    (s : State) : Out :=
  vecIssue c i [va.toNat] [] s fun t =>
    if !types.contains ty.toNat then havoc (chanOf c) t
    else
      let a := t.v c va.toNat
      let out := a.map f
      let t := if nan then noteNan c [a] out t else t
      retire c n (t.setV c vd.toNat lat out)

/-! ## Lane functions -/

/-- An F32 operation on two lanes. -/
def f2 (f : FVal → FVal → FVal) (a b : Lane) : Lane := lane (encF32 (f (decF32 a.toNat) (decF32 b.toNat)))

/-- A truth value of a comparison. -/
def mask32 (b : Bool) : Lane := if b then 0xFFFFFFFF#32 else 0#32

/-- VADD. -/
def laneAdd (ty : VT) (a b : Lane) : Lane := if ty = 0#2 then f2 fadd a b else a + b
/-- VSUB. -/
def laneSub (ty : VT) (a b : Lane) : Lane := if ty = 0#2 then f2 (fun x y => fadd x (fneg y)) a b else a - b
/-- VMUL. -/
def laneMul (ty : VT) (a b : Lane) : Lane := if ty = 0#2 then f2 fmul a b else a * b
/-- VFMA: the exact product and sum, rounded once. -/
def laneFma (ty : VT) (a b c : Lane) : Lane :=
  if ty = 0#2 then lane (encF32 (fadd (fmul (decF32 a.toNat) (decF32 b.toNat)) (decF32 c.toNat))) else a * b + c
/-- a < b in a type. -/
def laneLt (ty : VT) (a b : Lane) : Bool := if ty = 0#2 then flt a.toNat b.toNat else if ty = 1#2 then a.slt b else a.ult b
/-- a = b in a type. -/
def laneEq (ty : VT) (a b : Lane) : Bool := if ty = 0#2 then feq a.toNat b.toNat else a == b
/-- The place of a lane in numerical order, −0 below +0 (R142). -/
def laneKey (ty : VT) (a : Lane) : Int :=
  if ty = 0#2 then orderKey (decF32 a.toNat) a.toNat else if ty = 1#2 then a.toInt else a.toNat
/-- VMIN and VMAX (R142). -/
def laneMin (ty : VT) (a b : Lane) : Lane :=
  if ty = 0#2 && (isNanBits a.toNat || isNanBits b.toNat) then lane nanBits
  else if laneKey ty b < laneKey ty a then b else a
/-- VMAX. -/
def laneMax (ty : VT) (a b : Lane) : Lane :=
  if ty = 0#2 && (isNanBits a.toNat || isNanBits b.toNat) then lane nanBits
  else if laneKey ty a < laneKey ty b then b else a
/-- VABS. -/
def laneAbs (ty : VT) (a : Lane) : Lane :=
  if ty = 0#2 then (if isNanBits a.toNat then lane nanBits else a &&& 0x7FFFFFFF#32) else if a.slt 0#32 then -a else a
/-- VNEG. -/
def laneNeg (ty : VT) (a : Lane) : Lane :=
  if ty = 0#2 then (if isNanBits a.toNat then lane nanBits else a ^^^ 0x80000000#32) else -a
/-- VSCALE: a × 2^b, b a signed lane, one rounding. -/
def laneScale (a b : Lane) : Lane :=
  lane (encF32 (match decF32 a.toNat with
    | .fin neg m e => .fin neg m (e + b.toInt)
    | v => v))

/-- VADD (R140). -/
def execVadd (core : CoreId) (vd va vb : BitVec 5) (ty : VT) (bs : Bool) (s : State) : Out :=
  vecTyped core.val (.vadd core vd va vb ty bs) vd va vb ty bs [0, 1, 2] 1 (if ty = 0#2 then 4 else 2) (laneAdd ty) (ty == 0#2) s

/-- VSUB (R140). -/
def execVsub (core : CoreId) (vd va vb : BitVec 5) (ty : VT) (bs : Bool) (s : State) : Out :=
  vecTyped core.val (.vsub core vd va vb ty bs) vd va vb ty bs [0, 1, 2] 1 (if ty = 0#2 then 4 else 2) (laneSub ty) (ty == 0#2) s

/-- VMUL (R140). -/
def execVmul (core : CoreId) (vd va vb : BitVec 5) (ty : VT) (bs : Bool) (s : State) : Out :=
  vecTyped core.val (.vmul core vd va vb ty bs) vd va vb ty bs [0, 1, 2] 1 (if ty = 0#2 then 4 else 3) (laneMul ty) (ty == 0#2) s

/-- VFMA (R140). -/
def execVfma (core : CoreId) (vd va vb vc : BitVec 5) (ty : VT) (bs : Bool) (s : State) : Out :=
  let c := core.val
  let r := vecBReads vb bs
  vecIssue c (.vfma core vd va vb vc ty bs) (va.toNat :: vc.toNat :: r.1) r.2 s fun t =>
    if ty = 3#2 then havoc (chanOf c) t
    else
      let x := t.v c va.toNat
      let y := vecB c vb bs t
      let z := t.v c vc.toNat
      let out := lanes3 (laneFma ty) x y z
      let t := if ty = 0#2 then noteNan c [x, y, z] out t else t
      retire c 1 (t.setV c vd.toNat (if ty = 0#2 then 4 else 3) out)

/-- VMIN (R140). -/
def execVmin (core : CoreId) (vd va vb : BitVec 5) (ty : VT) (bs : Bool) (s : State) : Out :=
  vecTyped core.val (.vmin core vd va vb ty bs) vd va vb ty bs [0, 1, 2] 1 2 (laneMin ty) false s

/-- VMAX (R140). -/
def execVmax (core : CoreId) (vd va vb : BitVec 5) (ty : VT) (bs : Bool) (s : State) : Out :=
  vecTyped core.val (.vmax core vd va vb ty bs) vd va vb ty bs [0, 1, 2] 1 2 (laneMax ty) false s

/-- VABS (R140). -/
def execVabs (core : CoreId) (vd va : BitVec 5) (ty : VT) (s : State) : Out :=
  vecUnary core.val (.vabs core vd va ty) vd va ty [0, 1] 1 2 (laneAbs ty) false s

/-- VNEG (R140). -/
def execVneg (core : CoreId) (vd va : BitVec 5) (ty : VT) (s : State) : Out :=
  vecUnary core.val (.vneg core vd va ty) vd va ty [0, 1] 1 2 (laneNeg ty) false s

/-- VAND (R140): the type is ignored. -/
def execVand (core : CoreId) (vd va vb : BitVec 5) (bs : Bool) (s : State) : Out :=
  vecTyped core.val (.vand core vd va vb bs) vd va vb 0#2 bs [0] 1 2 (· &&& ·) false s

/-- VOR (R140): the type is ignored. -/
def execVor (core : CoreId) (vd va vb : BitVec 5) (bs : Bool) (s : State) : Out :=
  vecTyped core.val (.vor core vd va vb bs) vd va vb 0#2 bs [0] 1 2 (· ||| ·) false s

/-- VXOR (R140): the type is ignored. -/
def execVxor (core : CoreId) (vd va vb : BitVec 5) (bs : Bool) (s : State) : Out :=
  vecTyped core.val (.vxor core vd va vb bs) vd va vb 0#2 bs [0] 1 2 (· ^^^ ·) false s

/-- VSHL (R140): the type is ignored. -/
def execVshl (core : CoreId) (vd va vb : BitVec 5) (bs : Bool) (s : State) : Out :=
  vecTyped core.val (.vshl core vd va vb bs) vd va vb 0#2 bs [0] 1 2 (fun a b => a <<< (b.toNat % 32)) false s

/-- VSHR (R140): the type is ignored. -/
def execVshr (core : CoreId) (vd va vb : BitVec 5) (bs : Bool) (s : State) : Out :=
  vecTyped core.val (.vshr core vd va vb bs) vd va vb 0#2 bs [0] 1 2 (fun a b => a >>> (b.toNat % 32)) false s

/-- VSAR (R140): the type is ignored. -/
def execVsar (core : CoreId) (vd va vb : BitVec 5) (bs : Bool) (s : State) : Out :=
  vecTyped core.val (.vsar core vd va vb bs) vd va vb 0#2 bs [0] 1 2 (fun a b => a.sshiftRight (b.toNat % 32)) false s

/-- VCMPEQ (R140). -/
def execVcmpeq (core : CoreId) (vd va vb : BitVec 5) (ty : VT) (bs : Bool) (s : State) : Out :=
  vecTyped core.val (.vcmpeq core vd va vb ty bs) vd va vb ty bs [0, 1, 2] 1 2 (fun a b => mask32 (laneEq ty a b)) false s

/-- VCMPLT (R140). -/
def execVcmplt (core : CoreId) (vd va vb : BitVec 5) (ty : VT) (bs : Bool) (s : State) : Out :=
  vecTyped core.val (.vcmplt core vd va vb ty bs) vd va vb ty bs [0, 1, 2] 1 2 (fun a b => mask32 (laneLt ty a b)) false s

/-- VCMPLE (R140). -/
def execVcmple (core : CoreId) (vd va vb : BitVec 5) (ty : VT) (bs : Bool) (s : State) : Out :=
  vecTyped core.val (.vcmple core vd va vb ty bs) vd va vb ty bs [0, 1, 2] 1 2 (fun a b => mask32 (laneLt ty a b || laneEq ty a b)) false s

/-- VSEL (R140): a where c is not zero, else b. -/
def execVsel (core : CoreId) (vd va vb vc : BitVec 5) (bs : Bool) (s : State) : Out :=
  let c := core.val
  let r := vecBReads vb bs
  vecIssue c (.vsel core vd va vb vc bs) (va.toNat :: vc.toNat :: r.1) r.2 s fun t =>
    retire c 1 (t.setV c vd.toNat 2
      (lanes3 (fun a b x => if x = 0#32 then b else a) (t.v c va.toNat) (vecB c vb bs t) (t.v c vc.toNat)))

/-- VMOV (R140). -/
def execVmov (core : CoreId) (vd va : BitVec 5) (s : State) : Out :=
  vecUnary core.val (.vmov core vd va) vd va 0#2 [0] 1 2 id false s

/-- VBCAST (R140): G[VA][31:0] in every lane. -/
def execVbcast (core : CoreId) (vd ga : BitVec 5) (s : State) : Out :=
  let c := core.val
  vecIssue c (.vbcast core vd ga) [] [ga.toNat] s fun t =>
    retire c 1 (t.setV c vd.toNat 2 (List.replicate 64 ((t.g c ga.toNat).setWidth 32)))

/-- VIOTA (R140): lane number plus G[VA][31:0]. -/
def execViota (core : CoreId) (vd ga : BitVec 5) (s : State) : Out :=
  let c := core.val
  vecIssue c (.viota core vd ga) [] [ga.toNat] s fun t =>
    retire c 1 (t.setV c vd.toNat 2 ((List.range 64).map fun l => lane l + (t.g c ga.toNat).setWidth 32))

/-- VDIV (R140). -/
def execVdiv (core : CoreId) (vd va vb : BitVec 5) (ty : VT) (bs : Bool) (s : State) : Out :=
  vecTyped core.val (.vdiv core vd va vb ty bs) vd va vb ty bs [0] 8 14 (fun a b => lane (divF32 (decF32 a.toNat) (decF32 b.toNat))) true s

/-- VSQRT (R140). -/
def execVsqrt (core : CoreId) (vd va : BitVec 5) (ty : VT) (s : State) : Out :=
  vecUnary core.val (.vsqrt core vd va ty) vd va ty [0] 8 14 (fun a => lane (sqrtF32 (decF32 a.toNat))) true s

/-- VSCALE (R140). -/
def execVscale (core : CoreId) (vd va vb : BitVec 5) (ty : VT) (bs : Bool) (s : State) : Out :=
  vecTyped core.val (.vscale core vd va vb ty bs) vd va vb ty bs [0] 1 4 laneScale false s

/-! ## Conversions (R143) -/

/-- The bytes of lanes: 256 B, little-endian (R135). -/
def laneBytes (ls : List Lane) : List (BitVec 8) := ls.flatMap fun v => leBytes 4 v.toNat

/-- n lanes that bytes spell. -/
def bytesLanes : Nat → List (BitVec 8) → List Lane
  | 0, _ => []
  | n + 1, bs => lane (leNat (bs.take 4)) :: bytesLanes n (bs.drop 4)

/-- Element m of size e in part `pos` of a register (R135). -/
def partElem (bs : List (BitVec 8)) (e pos m : Nat) : Nat := leNat ((bs.drop (pos * 64 * e + m * e)).take e)

/-- Write the 64 elements of size e into part `pos` of a register, keeping its other bytes. -/
def putPart (old : List (BitVec 8)) (e pos : Nat) (vs : List Nat) : List (BitVec 8) :=
  let part := vs.flatMap fun v => leBytes e v
  old.take (pos * 64 * e) ++ part ++ old.drop (pos * 64 * e + 64 * e)

/-- Saturate a signed 32-bit value to INT8 (MODE 0xA). -/
def toInt8 (v : Nat) : Nat :=
  let i := toSigned 32 v
  ofSigned 8 (if i < -128 then -128 else if 127 < i then 127 else i)

/-- A narrowing conversion of one element: its pattern, and whether it sets SAT8 or INF8. -/
def narrow (mode v : Nat) : Nat × Bool :=
  match mode with
  | 4 => (toBf16 (decF32 v), false)
  | 5 => toE4m3 (decF32 v)
  | 6 => toE5m2 (decF32 v)
  | _ => (toInt8 v, false)

/-- Element size of a narrowing or widening MODE. -/
def modeSize (mode : Nat) : Nat := if mode = 4 ∨ mode = 7 then 2 else 1

/-- Set SAT8 or INF8 and raise event 0x0302 (R143, R164). -/
def noteFp8 (c mode : Nat) (sat : Bool) (s : State) : State :=
  if !sat then s
  else (if mode = 5 then s.put .vxStatSat8 c 0 1 else s.put .vxStatInf8 c 0 1).raise 0x0302 (chanOf c) [c, s.get .corePc c 0, mode]

/-- VCVT (R143). -/
def execVcvt (core : CoreId) (vd va : BitVec 5) (mode : BitVec 4) (pos : BitVec 2) (s : State) : Out :=
  let c := core.val
  let m := mode.toNat
  vecIssue c (.vcvt core vd va mode pos) [va.toNat] [] s fun t =>
    let a := t.v c va.toNat
    let fin (ls : List Lane) (t : State) : State := retire c 1 (t.setV c vd.toNat 3 ls)
    if 12 ≤ m ∨ (modeSize m = 2 ∧ 2 ≤ pos.toNat) then havoc (chanOf c) t
    else if m < 2 then fin (a.map fun v => lane (toI32 (m == 1) (decF32 v.toNat))) t
    else if m = 2 then fin (a.map fun v => lane (encF32 (intVal v.toInt))) t
    else if m = 3 then fin (a.map fun v => lane (encF32 (intVal v.toNat))) t
    else if m < 7 ∨ m = 10 then
      let rs := a.map fun v => narrow m v.toNat
      let out := putPart (laneBytes (t.v c vd.toNat)) (modeSize m) pos.toNat (rs.map Prod.fst)
      fin (bytesLanes 64 out) (noteFp8 c m (rs.any Prod.snd) t)
    else
      let bs := laneBytes a
      fin ((List.range 64).map fun k =>
        let v := partElem bs (modeSize m) pos.toNat k
        lane (match m with
          | 7 => encF32 (decBf16 v)
          | 8 => encF32 (decE4m3 v)
          | 9 => encF32 (decE5m2 v)
          | _ => ofSigned 32 (toSigned 8 v))) t

/-! ## Reductions (R156 to R159) -/

/-- Pair adjacent values. -/
def pairUp (f : Lane → Lane → Lane) : List Lane → List Lane
  | a :: b :: t => f a b :: pairUp f t
  | l => l

/-- The fixed tree over 64 lanes (R158). -/
def treeSum (ty : VT) (ls : List Lane) : Lane :=
  ((List.range 6).foldl (fun l _ => pairUp (laneAdd ty) l) ls).headD 0#32

/-- VRSUM (R158). -/
def execVrsum (core : CoreId) (gd va : BitVec 5) (ty : VT) (s : State) : Out :=
  let c := core.val
  vecIssue c (.vrsum core gd va ty) [va.toNat] [] s fun t =>
    if ty = 3#2 then havoc (chanOf c) t
    else
      let a := t.v c va.toNat
      let r := treeSum ty a
      let made := ty == 0#2 && isNanBits r.toNat && !(a.any fun v => isNanBits v.toNat)
      let t := if made then t.put .vxStatNan c 0 1 else t
      retire c 1 (t.setG c gd.toNat (if ty = 0#2 then 8 else 4) (r.setWidth 64))

/-- A (key, id) pair of a ranking. -/
abbrev Rank := Lane × Lane

/-- Pair x ranks before pair y (R157). -/
def ranksBefore (ty : VT) (x y : Rank) : Bool :=
  let a := laneKey ty x.1
  let b := laneKey ty y.1
  decide (b < a) || (a == b && x.2.ult y.2)

/-- The lanes with their numbers as ids. -/
def numbered (ls : List Lane) : List Rank := ls.mapIdx fun k v => (v, lane k)

/-- Key and lane number as VRMAX and VRMIN write them (R159). -/
def rankWord (r : Rank) : Word := (r.2.setWidth 64 <<< 32) ||| r.1.setWidth 64

/-- The lane that ranks first, or last. -/
def bestLane (ty : VT) (last : Bool) (ls : List Lane) : Rank :=
  match numbered ls with
  | [] => (0#32, 0#32)
  | r :: t => t.foldl (fun m x => if ranksBefore ty x m != last then x else m) r

/-- VRMAX and VRMIN (R159). -/
def rankOp (c : Nat) (i : Instr) (gd va : BitVec 5) (ty : VT) (last : Bool) (s : State) : Out :=
  vecIssue c i [va.toNat] [] s fun t =>
    if ty = 3#2 then havoc (chanOf c) t
    else retire c 1 (t.setG c gd.toNat 6 (rankWord (bestLane ty last (t.v c va.toNat))))

/-- VRMAX (R159). -/
def execVrmax (core : CoreId) (gd va : BitVec 5) (ty : VT) (s : State) : Out :=
  rankOp core.val (.vrmax core gd va ty) gd va ty false s

/-- VRMIN (R159). -/
def execVrmin (core : CoreId) (gd va : BitVec 5) (ty : VT) (s : State) : Out :=
  rankOp core.val (.vrmin core gd va ty) gd va ty true s

/-! ## TOPK (R160, R161) -/

/-- Insert a pair after every pair that ranks with or before it. -/
def insertRank (ty : VT) (x : Rank) : List Rank → List Rank
  | [] => [x]
  | y :: t => if ranksBefore ty x y then x :: y :: t else y :: insertRank ty x t

/-- Sort pairs by ranking order, keeping the order of equal pairs. -/
def sortRank (ty : VT) (l : List Rank) : List Rank := l.foldl (fun r x => insertRank ty x r) []

/-- The padding pair of a type (R160). -/
def padRank (ty : VT) : Rank :=
  (if ty = 0#2 then 0xFF800000#32 else if ty = 1#2 then 0x80000000#32 else 0#32, 0xFFFFFFFF#32)

/-- The positions 0 to 64 L − 1 of a list of 2 L registers. -/
def readList (c base l : Nat) (s : State) : List Rank :=
  List.zip ((List.range l).flatMap fun k => s.v c (base + k)) ((List.range l).flatMap fun k => s.v c (base + l + k))

/-- Write a list into 2 L registers. -/
def writeList (c base l lat : Nat) (rs : List Rank) (s : State) : State :=
  (List.range l).foldl (fun t k =>
    let part := (rs.drop (64 * k)).take 64
    (t.setV c (base + k) lat (part.map Prod.fst)).setV c (base + l + k) lat (part.map Prod.snd)) s

/-- Two runs of registers overlap. -/
def overlap (a n b m : Nat) : Bool := decide (a < b + m) && decide (b < a + n)

/-- TOPK and TOPK.M: merge candidates into the list at VD (R161). -/
def topkOp (c : Nat) (i : Instr) (vd gd : BitVec 5) (ty : VT) (km1 : BitVec 8) (srcs : List (Nat × Nat)) (n lat : Nat)
    (cand : State → List Rank) (s : State) : Out :=
  let k := km1.toNat + 1
  let l := (k + 63) / 64
  let d := vd.toNat
  let bad := ty == 3#2 || decide (32 < d + 2 * l) ||
    srcs.any fun r => decide (32 < r.1 + r.2) || overlap d (2 * l) r.1 r.2
  let reads := (d, 2 * l) :: srcs
  vecIssue c i (reads.flatMap fun r => (List.range r.2).map (r.1 + ·)) [] s fun t =>
    if bad then havoc (chanOf c) t
    else
      let pool := sortRank ty ((readList c d l t).take k ++ cand t)
      let out := pool.take k ++ List.replicate (64 * l - k) (padRank ty)
      retire c n ((writeList c d l lat out t).setG c gd.toNat lat 0#64)

/-- TOPK (R161). -/
def execTopk (core : CoreId) (vd va vb gd : BitVec 5) (ty : VT) (km1 : BitVec 8) (s : State) : Out :=
  let c := core.val
  let l := (km1.toNat + 64) / 64
  topkOp c (.topk core vd va vb gd ty km1) vd gd ty km1 [(va.toNat, 1), (vb.toNat, 1)] (2 + 2 * l) (6 + 2 * l)
    (fun t => List.zip (t.v c va.toNat) (t.v c vb.toNat)) s

/-- TOPK.M (R161). -/
def execTopkM (core : CoreId) (vd va gd : BitVec 5) (ty : VT) (km1 : BitVec 8) (s : State) : Out :=
  let c := core.val
  let l := (km1.toNat + 64) / 64
  topkOp c (.topkM core vd va gd ty km1) vd gd ty km1 [(va.toNat, 2 * l)] (2 + 4 * l) (6 + 4 * l)
    (fun t => (readList c va.toNat l t).take (km1.toNat + 1)) s

end Sys2Proof.Machine
end

