-- ==== Sys2Proof/Machine/Matrix.lean ====
section
/-!
DEFINITION. The matrix array: the arithmetic of a GO.MX, its fetches, and the draining of its tiles (R105 to R130).
-/
namespace Sys2Proof.Machine

/-! ## Formats (R116 to R123) -/

/-- The accumulator of a format is INT32. -/
def mxInt (fmt : Nat) : Bool := fmt == 4 || fmt == 7
/-- Element size of a format in bytes. -/
def mxElem (fmt : Nat) : Nat := if fmt < 5 then 1 else if fmt = 6 then 4 else 2
/-- Cycles per k-step (R127). -/
def mxStep (fmt : Nat) : Nat := if fmt < 5 then 1 else if fmt = 5 then 2 else if fmt = 6 then 6 else 4
/-- How often the array reads each operand word (R125). -/
def mxPasses (fmt : Nat) : Nat := if fmt = 6 then 3 else if fmt = 7 then 4 else 1

/-- One fused multiply and add into an FP32 accumulator, rounded once (R117). -/
def macF (acc : Nat) (a b : FVal) : Nat := encF32 (fadd (fmul a b) (decF32 acc))

/-- An FP32 denormal pattern. -/
def isDenorm (v : Nat) : Bool := v / 2 ^ 23 % 256 == 0
/-- A pattern is an infinity or a NaN. -/
def isSpecial (v : Nat) : Bool := v / 2 ^ 23 % 256 == 255

/-- The hi part of an FP32 operand (R120, R121). -/
def hiPart (v : Nat) : FVal :=
  if isDenorm v then .fin (v / 2 ^ 31 % 2 == 1) 0 0 else if isNanBits v then .nan else decF32 (v / 2 ^ 16 * 2 ^ 16)

/-- The lo part of an FP32 operand (R120, R121). -/
def loPart (v : Nat) : FVal :=
  if isSpecial v then .fin false 0 0
  else if isDenorm v then .fin (v / 2 ^ 31 % 2 == 1) 0 0
  else decBf16 (toBf16 (fadd (decF32 v) (fneg (decF32 (v / 2 ^ 16 * 2 ^ 16)))))

/-- The factors of each pass of a floating format; none where a pass skips the product (R121). -/
def mxFactors (fmt : Nat) : List (Nat → Nat → Option (FVal × FVal)) :=
  match fmt with
  | 0 => [fun a b => some (decE4m3 a, decE4m3 b)]
  | 1 => [fun a b => some (decE4m3 a, decE5m2 b)]
  | 2 => [fun a b => some (decE5m2 a, decE4m3 b)]
  | 3 => [fun a b => some (decE5m2 a, decE5m2 b)]
  | 5 => [fun a b => some (decBf16 a, decBf16 b)]
  | _ => [fun a b => if isSpecial b then none else some (loPart a, hiPart b),
          fun a b => if isSpecial a then none else some (hiPart a, loPart b),
          fun a b => some (hiPart a, hiPart b)]

/-- An integer operand (R119, R123). -/
def mxIntOf (fmt : Nat) (unsigned : Bool) (v : Nat) : Int :=
  if fmt = 7 then toSigned 16 v else if unsigned then (v : Int) else toSigned 8 v

/-- The element of a cell, from its starting value and the operands of each k-step (R105, R117, R119, R120, R123). -/
def mxCell (fmt sgn acc0 : Nat) (ops : List (Nat × Nat)) : Nat :=
  if mxInt fmt then
    ofSigned 32 (ops.foldl (fun z p =>
      z + mxIntOf fmt (sgn.testBit 0) p.1 * mxIntOf fmt (sgn.testBit 1) p.2) (acc0 : Int))
  else
    (mxFactors fmt).foldl (fun acc f => ops.foldl (fun acc p => match f p.1 p.2 with
      | some (a, b) => macF acc a b
      | none => acc) acc) acc0

/-- Element r of k-step k of a panel (R107, R108). -/
def panelElem (e : Nat) (bs : List (BitVec 8)) (k r : Nat) : Nat := leNat ((bs.drop (k * 32 * e + r * e)).take e)

/-- The 1,024 elements of a tile. -/
def mxTile (fmt sgn depth : Nat) (a b : List (BitVec 8)) (acc0 : List (BitVec 32)) : List (BitVec 32) :=
  (List.range 1024).map fun x =>
    lane (mxCell fmt sgn (acc0.getD x 0#32).toNat
      ((List.range depth).map fun k => (panelElem (mxElem fmt) a k (x / 32), panelElem (mxElem fmt) b k (x % 32))))

/-! ## Fetches -/

/-- The bank words of n bytes from an address (R109). -/
def spanWords (base n : Nat) : List Nat := (List.range ((n + 63) / 64)).map fun k => wordOf (base / 64 * 64 + 64 * k)

/-- What the array's reads have met: the first word with a parity error, and the first that is uncorrectable. -/
structure Fetch where
  s : State
  parity : Option Nat := none
  poison : Option Nat := none

/-- Read some bank words through the MX port (R125, R126). -/
def mxRead (c : Nat) (a : Access) : List Nat → List (BitVec 8) → Fetch → List (BitVec 8) × Fetch
  | [], got, f => (got, f)
  | w :: ws, got, f =>
    let (r, t) := spdRead c pMx w a f.s
    let f : Fetch := { f with s := t }
    let f := match r.check with
      | .parity => { f with parity := f.parity.orElse fun _ => some w }
      | .uncorrectable => { f with poison := f.poison.orElse fun _ => some w }
      | _ => f
    mxRead c a ws (got ++ r.data) f

/-- Read a panel once for each pass; what the last read gave. -/
def mxPanel (c : Nat) (a : Access) (ws : List Nat) : Nat → Fetch → List (BitVec 8) × Fetch
  | 0, f => ([], f)
  | 1, f => mxRead c a ws [] f
  | n + 2, f => mxPanel c a ws (n + 1) (mxRead c a ws [] f).2

/-! ## GO.MX -/

/-- Tile t of a GO, as (i, j) (R106). -/
def tilePlace (c t : Nat) (s : State) : Nat × Nat :=
  let mt := s.mx c 2
  let nt := s.mx c 3
  if s.mx c 0x0B = 0 then (t / nt, t % nt) else (t % mt, t / mt)

/-- A base or stride field, its bits [5:0] taken as zero (R109). -/
def mxBase (c i : Nat) (s : State) : Nat := s.mx c i / 64 * 64

/-- The words of the A and of the B panel of a tile, and of its C tile. -/
def tileWords (c t : Nat) (s : State) : List Nat × List Nat × List Nat :=
  let n := s.mx c 4 * 32 * mxElem (s.mx c 0)
  let (i, j) := tilePlace c t s
  (spanWords (mxBase c 5 s + i * mxBase c 6 s) n, spanWords (mxBase c 7 s + j * mxBase c 8 s) n,
    if s.mx c 0x0A = 1 then spanWords (mxBase c 9 s + t * 4096) 4096 else [])

/-- The combinations of R111, and values R110 calls illegal. -/
def mxIllegal (c : Nat) (s : State) : Bool :=
  let n := s.mx c 2 * s.mx c 3
  let acc := s.mx c 0x0A
  (s.mx c 0x0C == 0 && n != 1) || (acc == 2 && n != 1) || (acc == 2 && !s.on .mxStatRetained c 0) ||
    (acc == 2 && (s.on .mxRetInt c 0 != mxInt (s.mx c 0))) || 8 ≤ s.mx c 0 || 32 < s.mx c 2 || 32 < s.mx c 3 || acc == 3

/-- The starting values of a tile (R114). -/
def mxStart (c : Nat) (cw : List (BitVec 8)) (s : State) : List (BitVec 32) :=
  match s.mx c 0x0A with
  | 1 => bytesLanes 1024 cw
  | 2 => tget [] s.planes (c * 2 + s.get .mxRetPlane c 0)
  | _ => List.replicate 1024 0#32

/-- Compute one tile of a GO, reading its operands. -/
def mxOne (c tag n : Nat) (a : Access) (f : Fetch) (t : Nat) : Tile × Fetch :=
  let s := f.s
  let fmt := s.mx c 0
  let (wa, wb, wc) := tileWords c t s
  let f : Fetch := { f with poison := none }
  let (da, f) := mxPanel c a wa (mxPasses fmt) f
  let (db, f) := mxPanel c a wb (mxPasses fmt) f
  let (dc, f) := mxRead c a wc [] f
  let (i, j) := tilePlace c t s
  let vals := mxTile fmt (s.mx c 1) (s.mx c 4) da db (mxStart c dc s)
  (⟨vals, mxInt fmt, i, j, t, tag, t + 1 == n, f.poison.isSome, (f.poison.getD 0) * 64⟩, f)

/-- Every tile of a GO in order, until a parity error is met. -/
def mxAll (c tag n : Nat) (a : Access) : List Nat → List Tile → Fetch → List Tile × Fetch
  | [], got, f => (got, f)
  | t :: ts, got, f =>
    let (x, f) := mxOne c tag n a f t
    if f.parity.isSome then (got, f) else mxAll c tag n a ts (got ++ [x]) f

/-- GO.MX issued in cycle g: what it computes, and the timing of R128 up to its first drain. A
parity error of R182 is seen in some cycle of the GO's fetches: a free time. -/
def goMxRun (c tag : Nat) (acc : Access) (g : Nat) (t : State) : State :=
  let ch := chanOf c
  let n := t.mx c 2 * t.mx c 3
  let words := (List.range n).flatMap fun k => let (a, b, d) := tileWords c k t; a ++ b ++ d
  if mxIllegal c t then havoc ch t
  else if n = 0 then t.put .mxDoneAt c 0 (g + 3)
  else if !wordsOpen c pMx words t then havoc ch t
  else
    let cont : Bool := t.mx c 0x0A == 2
    let int := mxInt (t.mx c 0)
    let tc := t.mx c 4 * mxStep (t.mx c 0)
    let load : Bool := t.mx c 0x0A == 1
    let rp := if cont then t.get .mxRetPlane c 0 else 0
    let (tiles, f) := mxAll c tag n acc (List.range n) [] { s := t }
    let tiles := if cont && t.on .mxRetPoison c 0 then tiles.map fun x =>
        { x with poison := true, addr := t.get .mxRetAddr c 0 } else tiles
    let u := if tiles.any fun x => x.poison then detCause ch cPoison f.s else f.s
    let u := u.put .mxStatRetained c 0 0
    match f.parity with
    | some w => (arunRule c w pMx (g + 1 + Config.freeNat u.ctr % (8 + n * (tc + 40))) u.draw).2
    | none =>
      let u : State := { u with planes := tclear (fun k => k / 2 == c) u.planes }
      if t.mx c 0x0C = 0 then
        let last := (if load then g + 36 else g + 4) + tc - 1
        let x := tiles.head?
        let u : State := { u with planes := tset u.planes (c * 2 + rp) ((x.map fun x => x.vals).getD []) }
        let u := (u.put .mxRetPoison c 0 (if (x.map fun x => x.poison).getD false then 1 else 0)).put .mxRetAddr c 0
          ((x.map fun x => x.addr).getD 0)
        (((u.put .mxStatRetained c 0 1).put .mxRetPlane c 0 rp).put .mxRetInt c 0 (if int then 1 else 0)).put .mxDoneAt c 0 (last + 1)
      else
        let j : MxJob := ⟨tiles, tc, load, cont, rp, g + 4, g + 4, g + 4, g + 4, g + 3⟩
        { u with mxJobs := tset u.mxJobs c j }

/-- GO.MX (R105 to R115, R126). -/
def execGoMx (core : CoreId) (gmask : BitVec 8) (tag : BitVec 8) (acc : Access) (s : State) : Out :=
  let c := core.val
  go c (.goMx core gmask tag acc) 1 gmask s fun g t => goMxRun c tag.toNat acc g t

/-! ## Drains (R113, R128, R129) -/

/-- The tile-queue entry that the next tile fills, if it is free: the one after the last that is not (R149). -/
def tqTail (c : Nat) (s : State) : Option Nat :=
  let used := (below 8 fun e => s.get .tqEnt c e != 0).length
  if 8 ≤ used then none else some ((s.get .tqHead c 0 + used) % 8)

/-- Flags and event of an emitted tile (R118, R126). -/
def noteTile (c : Nat) (x : Tile) (s : State) : State :=
  let s := if !x.int && x.vals.any fun v => isNanBits v.toNat then s.put .mxStatNan c 0 1 else s
  let s := if !x.int && x.vals.any fun v => isInfBits v.toNat then s.put .mxStatInf c 0 1 else s
  if x.poison then (s.put .mxStatPoison c 0 1).raise 0x0201 (chanOf c) [c, x.t, x.addr] else s

/-- MX_TILE_DRAIN: the next finished tile drains into the tile queue, by the timing rule of R128; with no free entry it waits
(R129). -/
def execMxTileDrain (core : CoreId) (s : State) : Out :=
  let c := core.val
  match tget? s.mxJobs c with
  | none => .next s
  | some j =>
    match j.tiles with
    | [] => .next s
    | x :: rest =>
      if !s.chanRuns (chanOf c) then .next s
      else
        match tqTail c s with
        | none => .next (s.put .mxStatDrainwait c 0 1)
        | some e =>
          let p1 : Bool := if j.cont then j.retPlane == 1 else x.t % 2 == 1
          let free := if p1 then j.plane1 else j.plane0
          let pre := max j.preFree free
          let start := if j.load then max (max (j.prevEnd + 1) free) (pre + 32) else max (j.prevEnd + 1) free
          let last := start + j.tc - 1
          let want := max (last + 1) j.drainFree
          let dr := max want (s.get .tqFreeAt c e)
          let t := (((noteTile c x s).put .mxStatDrainwait c 0 0).inc .mxTiles c 0 1).inc .mxStallc c 0 (dr - want)
          let t : State := { (t.put .tqEnt c e 2).put .tqFullAt c e (dr + 8) with tiles := tset t.tiles (c * 8 + e) x }
          let k : MxJob := { j with
            tiles := rest, preFree := if j.load then pre + 32 else j.preFree, prevEnd := last, drainFree := dr + 8,
            plane0 := if p1 then j.plane0 else dr + 8, plane1 := if p1 then dr + 8 else j.plane1 }
          if rest.isEmpty then .next ({ t with mxJobs := tdel t.mxJobs c }.put .mxDoneAt c 0 (dr + 8))
          else .next { t with mxJobs := tset t.mxJobs c k }

end Sys2Proof.Machine
end

