-- ==== Sys2Proof/Machine/VecMem.lean ====
section
/-!
DEFINITION. Vector loads, stores, gathers and scatters (R144 to R147), VTPOP (R150 to R152), and the tile spill (R153 to R155).
-/
namespace Sys2Proof.Machine

/-! ## VX port words -/

/-- Read bank words one a cycle, oldest first, until an error stops the instruction: whether it stopped, the data by word, and
the state. -/
def vxReads (c : Nat) (a : Access) : List Nat → List (Nat × List (BitVec 8)) → State → Bool × List (Nat × List (BitVec 8)) × State
  | [], got, s => (false, got, s)
  | w :: ws, got, s =>
    let (r, t) := spdRead c pVx w a s
    let (stop, t) := vxFound c w r.check t
    if stop then (true, got, t) else vxReads c a ws (got ++ [(w, r.data)]) (t.pass c 1)

/-- Write bank words one a cycle until an error stops the instruction. -/
def vxWrites (c : Nat) (a : Access) : List (Nat × List (Nat × BitVec 8)) → State → Bool × State
  | [], s => (false, s)
  | (w, bs) :: ws, s =>
    let (k, t) := spdWrite c pVx w bs a s
    let (stop, t) := vxFound c w k t
    if stop then (true, t) else vxWrites c a ws (t.pass c 1)

/-- A vector instruction that reads bank words and forms a register from them: the port words, then the register (R145 to R147). -/
def vxLoad (c vd : Nat) (ws : List Nat) (a : Access) (lat : Nat) (f : List (Nat × List (BitVec 8)) → List Lane) (t : State) : State :=
  if !wordsOpen c pVx ws t then havoc (chanOf c) t
  else
    let (stop, got, t) := vxReads c a ws [] t
    if stop then t else retire c 0 (t.setV c vd lat (f got))

/-- A vector instruction that writes bank words. -/
def vxStore (c : Nat) (ws : List (Nat × List (Nat × BitVec 8))) (a : Access) (t : State) : State :=
  if !wordsOpen c pVx (ws.map Prod.fst) t then havoc (chanOf c) t
  else
    let (stop, t) := vxWrites c a ws t
    if stop then t else retire c 0 t

/-- The base address of a vector memory instruction (R145). -/
def vecBase (c : Nat) (ga : BitVec 5) (off : BitVec 19) (t : State) : Nat := ((t.g c ga.toNat).toNat + off.toNat) % 2 ^ 19

/-- The four bank words of a 256 B access (R145). -/
def rowWords (base : Nat) : List Nat := (List.range 4).map fun k => wordOf (base / 64 * 64 + 64 * k)

/-- VLD (R145). -/
def execVld (core : CoreId) (vd ga : BitVec 5) (off : BitVec 19) (acc : Access) (s : State) : Out :=
  let c := core.val
  vecIssue c (.vld core vd ga off acc) [] [ga.toNat] s fun t =>
    vxLoad c vd.toNat (rowWords (vecBase c ga off t)) acc 3 (fun got => bytesLanes 64 (got.flatMap Prod.snd)) t

/-- VST (R147). -/
def execVst (core : CoreId) (vs ga : BitVec 5) (off : BitVec 19) (acc : Access) (s : State) : Out :=
  let c := core.val
  vecIssue c (.vst core vs ga off acc) [vs.toNat] [ga.toNat] s fun t =>
    let bs := laneBytes (t.v c vs.toNat)
    vxStore c ((rowWords (vecBase c ga off t)).mapIdx fun k w => (w, fullWord ((bs.drop (64 * k)).take 64))) acc t

/-- The 4 B pieces a gather or scatter moves, as (address, lane): one a lane, or two a lane pair (R145). -/
def pieces (c : Nat) (ga vi : BitVec 5) (off : BitVec 19) (pair : Bool) (t : State) : List (Nat × Nat) :=
  let base := vecBase c ga off t
  let ix := t.v c vi.toNat
  if pair then
    (List.range 32).flatMap fun m =>
      let a := (base + (ix.getD (2 * m) 0#32).toNat) % 2 ^ 19 / 8 * 8
      [(a, 2 * m), (a + 4, 2 * m + 1)]
  else (List.range 64).map fun l => ((base + (ix.getD l 0#32).toNat) % 2 ^ 19 / 4 * 4, l)

/-- The distinct bank words of some pieces, in ascending order of the lowest lane that names each (R146). -/
def distinctWords (ps : List (Nat × Nat)) : List Nat := (ps.map fun p => wordOf p.1).eraseDups

/-- The lanes that a gather fills. -/
def gathered (ps : List (Nat × Nat)) (got : List (Nat × List (BitVec 8))) : List Lane :=
  (List.range 64).map fun l =>
    match ps.find? fun p => p.2 == l with
    | some (a, _) => lane (leNat (((((got.find? fun g => g.1 == wordOf a).map Prod.snd).getD []).drop (a % 64)).take 4))
    | none => 0#32

/-- A gather (R146). -/
def gatherOp (c : Nat) (i : Instr) (vd ga vi : BitVec 5) (off : BitVec 19) (pair : Bool) (acc : Access) (s : State) : Out :=
  vecIssue c i [vi.toNat] [ga.toNat] s fun t =>
    let ps := pieces c ga vi off pair t
    vxLoad c vd.toNat (distinctWords ps) acc 5 (gathered ps) t

/-- VGATH.W (R146). -/
def execVgathW (core : CoreId) (vd ga vi : BitVec 5) (off : BitVec 19) (acc : Access) (s : State) : Out :=
  gatherOp core.val (.vgathW core vd ga vi off acc) vd ga vi off false acc s

/-- VGATH.D (R146). -/
def execVgathD (core : CoreId) (vd ga vi : BitVec 5) (off : BitVec 19) (acc : Access) (s : State) : Out :=
  gatherOp core.val (.vgathD core vd ga vi off acc) vd ga vi off true acc s

/-- The bytes that pieces write into one bank word; the highest lane wins (R147). -/
def wordWrites (ps : List (Nat × Nat)) (ls : List Lane) (w : Nat) : List (Nat × BitVec 8) :=
  (ps.filter fun p => wordOf p.1 == w).flatMap fun p =>
    (leBytes 4 (ls.getD p.2 0#32).toNat).mapIdx fun k b => (p.1 % 64 + k, b)

/-- A scatter (R147). -/
def scatterOp (c : Nat) (i : Instr) (vs ga vi : BitVec 5) (off : BitVec 19) (pair : Bool) (acc : Access) (s : State) : Out :=
  vecIssue c i [vi.toNat, vs.toNat] [ga.toNat] s fun t =>
    let ps := pieces c ga vi off pair t
    vxStore c ((distinctWords ps).map fun w => (w, wordWrites ps (t.v c vs.toNat) w)) acc t

/-- VSCAT.W (R147). -/
def execVscatW (core : CoreId) (vs ga vi : BitVec 5) (off : BitVec 19) (acc : Access) (s : State) : Out :=
  scatterOp core.val (.vscatW core vs ga vi off acc) vs ga vi off false acc s

/-- VSCAT.D (R147). -/
def execVscatD (core : CoreId) (vs ga vi : BitVec 5) (off : BitVec 19) (acc : Access) (s : State) : Out :=
  scatterOp core.val (.vscatD core vs ga vi off acc) vs ga vi off true acc s

/-! ## VTPOP -/

/-- The head entry of the tile queue holds a tile: the entry and the tile (R149). -/
def tqHeadTile (c : Nat) (s : State) : Option (Nat × Tile) :=
  let h := s.get .tqHead c 0
  if s.get .tqEnt c h < 2 then none else (tget? s.tiles (c * 8 + h)).map fun t => (h, t)

/-- The metadata that VTPOP writes (R150). -/
def tileMeta (x : Tile) : Word :=
  BitVec.ofNat 64 (x.t + x.i * 2 ^ 10 + x.j * 2 ^ 15 + x.tag * 2 ^ 20 + (if x.last then 2 ^ 28 else 0) +
    (if x.poison then 2 ^ 29 else 0) + (if x.int then 2 ^ 30 else 0))

/-- A POISON tile is read (R151). -/
def notePoisonTile (c : Nat) (x : Tile) (s : State) : State :=
  if x.poison then detCause (chanOf c) cPoison ((s.put .vxStatPoison c 0 1).raise 0x0301 (chanOf c) [c, x.t, x.tag]) else s

/-- Release the head entry: it is free from a cycle on (R148). -/
def releaseHead (c at' : Nat) (s : State) : State :=
  let h := s.get .tqHead c 0
  let t := (((s.put .tqEnt c h 0).put .tqFreeAt c h at').put .tqHead c 0 (h + 1)).inc .tqPops c 0 1
  { t with tiles := tdel t.tiles (c * 8 + h) }

/-- VTPOP (R150 to R152). -/
def execVtpop (core : CoreId) (vd gd : BitVec 5) (rp : BitVec 4) (rel nr : Bool) (s : State) : Out :=
  let c := core.val
  let i := Instr.vtpop core vd gd rp rel nr
  vecIssue c i [] [] s fun t =>
    if nr && !rel then havoc (chanOf c) t
    else
      match tqHeadTile c t with
      | none => (t.put .vxStatTqwait c 0 1).hold c i stWaiting 4 0
      | some (h, x) =>
        let t := (t.reach c (t.get .tqFullAt c h)).put .vxStatTqwait c 0 0
        let t := t.setG c gd.toNat 2 (tileMeta x)
        let t := if nr then t
          else notePoisonTile c x ((t.put .tqEnt c h 3).setV c vd.toNat 2 ((x.vals.drop (64 * rp.toNat)).take 64))
        retire c 1 (if rel then releaseHead c (t.get .coreCyc c 0 + 1) t else t)

/-! ## The spill -/

/-- Output element size of SP_FMT (R154). -/
def spillSize (fmt : Nat) : Nat := match fmt with
  | 0 => 4 | 1 => 2 | _ => 1

/-- GO.VX (R153, R155). -/
def execGoVx (core : CoreId) (gmask : BitVec 8) (s : State) : Out :=
  let c := core.val
  go c (.goVx core gmask) 2 gmask s fun g t =>
    let n := t.vx c 2
    if n = 0 then t.put .vxDoneAt c 0 (g + 3)
    else
      let j : VxJob := ⟨n, 0, t.vx c 1, t.vx c 3 / 64 * 64, t.vx c 4 / 64 * 64, t.vx c 5 == 1, g + 1⟩
      { t with vxJobs := tset t.vxJobs c j }

/-- The element of a spilled tile, converted (R154): its pattern, and whether it saturates or overflows. -/
def spillElem (fmt : Nat) (v : Lane) : Nat × Bool :=
  if fmt = 0 then (v.toNat, false) else narrow (if fmt = 4 then 10 else fmt + 3) v.toNat

/-- The bytes of a spilled tile in address order, and whether any element saturates. -/
def spillBytes (j : VxJob) (x : Tile) : List (BitVec 8) × Bool :=
  let order : List Lane := if j.trans
    then (List.range 32).flatMap fun c => (List.range 32).map fun r => x.vals.getD (32 * r + c) 0#32
    else x.vals
  let es := order.map (spillElem j.fmt)
  (es.flatMap fun e => leBytes (spillSize j.fmt) e.1, es.any Prod.snd)

/-- Write the words of a tile through the VX port. -/
def spillWords (c : Nat) (a : Access) : List (Nat × List (BitVec 8)) → State → State
  | [], s => s
  | (w, bs) :: ws, s => spillWords c a ws (spdWrite c pVx w (fullWord bs) a s).2

/-- SPILL_TILE: the spill in progress takes the head tile, converts it and writes it (R154, R155). -/
def execSpillTile (core : CoreId) (acc : Access) (s : State) : Out :=
  let c := core.val
  match tget? s.vxJobs c, tqHeadTile c s with
  | some j, some (h, x) =>
    if !s.chanRuns (chanOf c) then .next s
    else if (x.int && 1 ≤ j.fmt && decide (j.fmt ≤ 3)) || (!x.int && j.fmt == 4) then .next (havoc (chanOf c) s)
    else
      let start := max j.next (s.get .tqFullAt c h)
      let w := 16 * spillSize j.fmt
      let (bs, sat) := spillBytes j x
      let base := (j.base + j.idx * j.stride) % 2 ^ 19
      let ws := (List.range w).map fun k => (wordOf (base + 64 * k), (bs.drop (64 * k)).take 64)
      if !wordsOpen c pVx (ws.map Prod.fst) s then .next (havoc (chanOf c) s)
      else
        let t := noteFp8 c (j.fmt + 3) sat (notePoisonTile c x s)
        let t := releaseHead c (start + 16) (spillWords c acc ws t)
        if j.left = 1 then .next ({ t with vxJobs := tdel t.vxJobs c }.put .vxDoneAt c 0 (start + 3 + w))
        else .next { t with vxJobs := tset t.vxJobs c { j with left := j.left - 1, idx := j.idx + 1, next := start + w } }
  | _, _ => .next s

end Sys2Proof.Machine
end

