-- ==== Sys2Proof/Machine/Waits.lean ====
section
/-!
DEFINITION. WAIT and WAIT.IDLE (R85 to R88, R183), NAP (R486 to R488), entry into DOZE and DARK (R491), starting and resetting a
core (R102, R103, R631), the scratchpad's own events (R176, R190, R194, R195), and Badger's report (R274 to R276).
-/
namespace Sys2Proof.Machine

/-! ## DOZE and DARK entry (R491) -/

/-- A core that does not keep its channel from DOZE and DARK: STOPPED, HALTED, in NAP or in WAIT. -/
def restsForDoze (c : Nat) (s : State) : Bool :=
  let st := s.coreState c
  st == stStopped || st == stHalted || st == stNap || (st == stWaiting && s.get .coreWkind c 0 == 2)

/-- The conditions of R491 on the channel, but for its lead core's WAIT. -/
def dozeReady (ch : Nat) (s : State) : Bool :=
  let p := s.get .exchStatPhase ch 0
  (s.coresOf ch).all (fun c => (c == leadCore ch || restsForDoze c s) && unitsIdle c s && !spdInitRuns c s) &&
    (s.entries ch).isEmpty && (s.arr ch).isEmpty && (s.queue ch).isEmpty && (s.transitOf ch).isEmpty && (p == 0 || p == 4)

/-- The channel begins to enter DOZE or DARK (R493). -/
def enterDoze (ch : Nat) (dark : Bool) (s : State) : State :=
  (s.put .pwrDark ch 0 (if dark then 1 else 0)).setPwr ch 1

/-- The lead core's WAIT issues with CH_PWR.REQ set: the channel enters the state, or counts a deferral (R491). -/
def dozeTry (ch : Nat) (s : State) : State :=
  let r := s.get .chPwrReq ch 0
  if r = 1 ∨ r = 2 then
    if dozeReady ch s then enterDoze ch (r == 2) s else s.inc .chPwrStatDefer ch 0 1
  else s

/-! ## WAIT -/

/-- What a WAIT makes of its segment (R343). -/
def waitMarks (c mask : Nat) (s : State) : State :=
  let t := if mask.testBit 0 then ringWait c (bitsAt (s.sq c 2) 0 8) s else s
  let ext := mask.testBit 3 || mask.testBit 4 || mask.testBit 5 ||
    (mask.testBit 1 && (List.range 8).any fun e => (s.sq c 3).testBit e && isExt c e s) ||
    (mask.testBit 2 && s.on .synRem c (bitsAt (s.sq c 4) 0 4))
  if ext then extWait c t else t

/-- A WAIT completes: the sources seen go to G[GD], and a masked doorbell that was pending clears (R85). -/
def waitDone (c mask : Nat) (gd : BitVec 5) (s : State) : State :=
  let seen := waitSeen c mask s
  let t := if seen.testBit 5 then s.put .coreStatDbell c 0 0 else s
  retire c 1 ((waitMarks c mask t).setG c gd.toNat 1 (BitVec.ofNat 64 seen))

/-- The core naps: the clock of its core side is gated and its aligner is off (R486). -/
def napCore (c : Nat) (s : State) : State := ((s.pass c 1).put .coreStatState c 0 stNap).put .coreAlign c 0 0

/-- WAIT (R85 to R87, R486, R491). -/
def execWait (core : CoreId) (mask : BitVec 6) (gd : BitVec 5) (s : State) : Out :=
  let c := core.val
  let i := Instr.wait core mask gd
  let was := s.isHeld c
  issue c i s fun t =>
    let t := unclean c t
    if waitSeen c mask.toNat t ≠ 0 then waitDone c mask.toNat gd (t.waited c was)
    else
      let u := t.hold c i stWaiting 2 0
      match unitsIdleAt c [1, 2, 3, 4] t with
      | some m => if t.sq c 0 = 1 then napCore c (u.reach c m)
        else if c = leadCore (chanOf c) ∧ !was then dozeTry (chanOf c) u else u
      | none => if c = leadCore (chanOf c) ∧ !was then dozeTry (chanOf c) u else u

/-- NAP_WAKE: a masked source of the napping core's WAIT is true, and the WAIT completes in the first FIC cycle (R487). -/
def execNapWake (core : CoreId) (s : State) : Out :=
  let c := core.val
  match tget? s.held c with
  | some (.wait _ mask gd) =>
    if s.coreState c = stNap ∧ s.chanRuns (chanOf c) ∧ waitSeen c mask.toNat s ≠ 0 then
      let t := ((s.resume c).put .coreSqf c 1 1).put .coreStatOnfic c 0 1
      .next (waitDone c mask.toNat gd (detCause (chanOf c) cFic t))
    else .next s
  | _ => .next s

/-- ALIGNER_LOCK: the aligner of a core that woke from NAP has relocked (R99, R487). -/
def execAlignerLock (core : CoreId) (s : State) : Out :=
  let c := core.val
  .next (if s.on .coreStatOnfic c 0 && s.chanRuns (chanOf c) && s.coreState c != stNap then s.put .coreAlign c 0 1 else s)

/-- WAIT.IDLE (R88); with every unit named, the tile queue empty and no retained tile, it is a re-run point (R183). -/
def execWaitIdle (core : CoreId) (units : BitVec 4) (s : State) : Out :=
  let c := core.val
  let i := Instr.waitIdle core units
  let was := s.isHeld c
  let us := (List.range 4).filterMap fun k => if units.getLsbD k then some (k + 1) else none
  issue c i s fun t =>
    if haltDue c t then chanHalt (chanOf c) t
    else
      match unitsIdleAt c us t with
      | none => t.hold c i stWaiting 3 ((us.find? fun u => unitBusy c u t).getD 0)
      | some m =>
        let outer := us.any fun u => 3 ≤ u
        let t := retire c 1 ((t.waited c (was && outer)).reach c m)
        if units = 0xF#4 && tqEmpty c t && !t.on .mxStatRetained c 0 then rerunPoint c t else t

/-! ## Starting, stopping and resetting a core -/

/-- Host software's write to a core window takes effect: the island is present (R11), and the window is reached (R490). -/
def coreWindow (c : Nat) (s : State) : Bool := s.present c && s.chWrite (chanOf c) true

/-- A core begins issue at its program counter, or shows WAITING until its banks are initialised (R183, R195). -/
def startCore (c : Nat) (s : State) : State :=
  let t := rerunPoint c s
  if spdInitRuns c t then (t.put .coreStatState c 0 stWaiting).put .coreStartWait c 0 1
  else (t.put .coreStatState c 0 stRunning).put .coreStartWait c 0 0

/-- A core that waits for INIT begins issue once it is clear (R195). -/
def startWaiting (c : Nat) (s : State) : State :=
  if s.on .coreStartWait c 0 && !spdInitRuns c s then (s.put .coreStatState c 0 stRunning).put .coreStartWait c 0 0 else s

/-- CORE_CTL.RUN (R103). -/
def execCoreCtlRun (core : CoreId) (s : State) : Out :=
  let c := core.val
  .next (if coreWindow c s && s.coreState c == stStopped then startCore c s else s)

/-- CORE_CTL.STOP: the core stops at the next instruction boundary; what it holds is left unissued. -/
def execCoreCtlStop (core : CoreId) (s : State) : Out :=
  let c := core.val
  if !coreWindow c s || s.coreState c == stHalted || s.coreState c == stStopped then .next s
  else .next ((({ s with held := tdel s.held c }.put .coreStatState c 0 stStopped).clearFlds
    [.coreWkind, .coreWobj, .coreStartWait] (· == c)))

/-- CORE_CTL.DBELL: the pending doorbell sets (R85). -/
def execCoreCtlDbell (core : CoreId) (s : State) : Out :=
  .next (if coreWindow core.val s then s.put .coreStatDbell core.val 0 1 else s)

/-- The unit fields and status that a core reset returns to their reset values (R631). -/
def unitFlds : List Fld :=
  [.mxF, .vxF, .fxF, .syF, .mxStatDrainwait, .mxStatRetained, .mxStatNan, .mxStatInf, .mxStatPoison, .mxRetPlane, .mxRetInt,
    .mxRetPoison, .mxRetAddr, .mxDoneAt, .vxStatTqwait, .vxStatPoison, .vxStatSat8, .vxStatInf8, .vxStatNan, .vxDoneAt, .syLeft,
    .syIdx, .syEp, .syAddr, .syDoneAt, .syExact, .spdStatConflict, .spdStatAerr, .spdStatUe, .spdStatClean, .spdStatAttempt,
    .barWait, .barCount]

/-- Every V register of a core is zero. -/
def clearV (c : Nat) (s : State) : State := { s with vreg := tclear (fun k => k / 32 == c) s.vreg }

/-- A core reset (R102, R631). -/
def coreReset (c : Nat) (s : State) : State :=
  let t := clearV c (tqFree c (vxStop c (mxClear c (endSeg c false s))))
  let t := (t.clearFlds seqFlds (· == c)).clearFlds unitFlds (· == c)
  { t with held := tdel t.held c, rerun := tdel t.rerun c }

/-- CORE_CTL.CRESET (R102, R104, R631). -/
def execCoreCtlCreset (core : CoreId) (s : State) : Out :=
  let c := core.val
  let st := s.coreState c
  if !coreWindow c s then .next s
  else .next (coreReset c (if st = stStopped ∨ st = stHalted then s else s.raise 0x0104 (chanOf c) [c, st]))

/-! ## The scratchpad's events -/

/-- CONFLICT_HALT_TIMEOUT: the 4,096th cycle after a conflict, with the halt still pending (R176). -/
def execConflictHaltTimeout (core : CoreId) (s : State) : Out :=
  .next (if haltDue core.val s && s.chanRuns (chanOf core.val) then chanHalt (chanOf core.val) s else s)

/-- SWEEPER_VISIT: the sweeper visits the next word of a bank in an idle cycle (R190). -/
def execSweeperVisit (core : CoreId) (bank : BitVec 4) (s : State) : Out :=
  let c := core.val
  let b := bank.toNat
  if !s.present c || !s.chanRuns (chanOf c) || s.coreState c == stNap || !(s.get .spdPwrReady c 0).testBit (b / 4) ||
      (s.get .spdInitMask c 0).testBit b then .next s
  else
    let w := b * 512 + s.get .spdSweepPos c b
    let t := if isStale c w s then storeWord c w (List.replicate 64 0#8) (fullWord (List.replicate 64 0#8)) false s else s
    let t := t.inc .spdSweepPos c b 1
    let t := t.put .spdVisited c b (min 512 (t.get .spdVisited c b + 1))
    .next (if sweepDone c t then t.put .spdStatSwept c 0 1 else t)

/-- BANK_INIT_DONE: the initialisation of a bank is complete (R195). -/
def execBankInitDone (core : CoreId) (bank : BitVec 4) (s : State) : Out :=
  let c := core.val
  if !(s.get .spdInitMask c 0).testBit bank.toNat || !s.chanRuns (chanOf c) then .next s
  else
    let t := initBank c bank.toNat s
    .next (startWaiting c (if sweepDone c t then t.put .spdStatSwept c 0 1 else t))

/-- GROUP_POWER_UP_DONE: a group has come up, and its banks are initialised (R195). -/
def execGroupPowerUpDone (core : CoreId) (group : BitVec 2) (s : State) : Out :=
  let c := core.val
  let g := group.toNat
  if !(s.get .spdUpMask c 0).testBit g || !s.chanRuns (chanOf c) then .next s
  else
    .next (spdReadyUpdate c ((s.put .spdUpMask c 0 (s.get .spdUpMask c 0 - 2 ^ g)).put .spdInitMask c 0
      (s.get .spdInitMask c 0 ||| 0xF * 2 ^ (4 * g))))

/-- SPD_KIND_PWR_WRITE: host software writes SPD_KIND (`pwr` false) or SPD_PWR.ON (R194, R195). -/
def execSpdKindPwrWrite (core : CoreId) (pwr : Bool) (value : BitVec 16) (s : State) : Out :=
  let c := core.val
  let st := s.coreState c
  if !coreWindow c s || !(st == stStopped || st == stHalted) then .next s
  else .next (if pwr then setGroups c (value.toNat % 16) s else setKinds c value.toNat s)

/-! ## Badger -/

/-- The wait of a blocked core is external (R274). -/
def waitExternal (c : Nat) (s : State) : Bool :=
  let gates (mask : BitVec 8) : Bool := (gatesOf mask).any fun g =>
    let d := s.sq c (8 + g)
    bitsAt d 28 4 == 3 && isExt c (bitsAt d 20 8) s
  match tget? s.held c with
  | some (.wait _ mask _) => mask.getLsbD 3 || mask.getLsbD 4 || mask.getLsbD 5 ||
      (mask.getLsbD 1 && (List.range 8).any fun e => (s.sq c 3).testBit e && isExt c e s)
  | some (.qpop _ _ ep _) => isExt c ep.toNat s
  | some (.qpeek _ _ ep _) => isExt c ep.toNat s
  | some (.firstof _ _ ea eb _ _) => isExt c ea.toNat s || isExt c eb.toNat s
  | some (.bar _ scope _ _) => scope != 0#2
  | some (.launch ..) => true
  | some (.batchTake ..) => true
  | some (.respPut ..) => true
  | some (.goMx _ m _ _) => gates m
  | some (.goVx _ m) => gates m
  | some (.goFxSubmit _ m) => gates m
  | some (.goFxFence _ m) => gates m
  | some (.goSy _ m) => gates m
  | _ => false

/-- A core is blocked: GATED, WAITING or in NAP. -/
def blocked (c : Nat) (s : State) : Bool :=
  let st := s.coreState c
  st == stGated || st == stWaiting || st == stNap

/-- Fox holds a committed request issued and not yet answered (R275). -/
def foxBusy (ch : Nat) (s : State) : Bool :=
  (s.entries ch).any fun x => !x.2.tent && ((s.reqs ch).any (fun r => r.seq == x.2.seq) || (s.msgs ch).any (fun m => m.seq == x.2.seq))

/-- Badger's rule lets the quiet count stand (R274). -/
def badgerQuiet (ch : Nat) (s : State) : Bool :=
  let cs := s.coresOf ch
  s.on .bdgCtlEn ch 0 && s.chanRuns ch && cs.all (fun c => s.coreState c != stRunning && unitsIdle c s && !spdInitRuns c s) &&
    cs.any (fun c => blocked c s) && !(cs.any fun c => blocked c s && waitExternal c s) && !foxBusy ch s

/-- Capture a core's wait into BDG_CORE (R276). -/
def badgerCore (ch : Nat) (s : State) (c : Nat) : State :=
  let k := c % 160
  ((((s.put .bdgCoreState ch k (s.coreState c)).put .bdgCoreExt ch k (if blocked c s && waitExternal c s then 1 else 0)).put
    .bdgCoreWkind ch k (s.get .coreWkind c 0)).put .bdgCoreObj ch k (s.get .coreWobj c 0)).put .bdgCorePc ch k (s.get .corePc c 0)

/-- BADGER_REPORT: the quiet count reaches BDG_WINDOW (R274, R276, R278). -/
def execBadgerReport (ch : Chan) (s : State) : Out :=
  let c := ch.val
  if !badgerQuiet c s || s.on .bdgStatDeadlock c 0 then .next s
  else if s.on .rteLinkfDown c 0 then .next (s.put .bdgStatSilent c 0 1)
  else
    let bs := (s.coresOf c).filter fun k => blocked k s
    let first := bs.headD 0
    let t := (s.coresOf c).foldl (badgerCore c) s
    let t := ((t.put .bdgWhen c 0 (s.get .gtc 0 0)).put .bdgStatDeadlock c 0 1).inc .bdgReports c 0 1
    .next (chanHalt c (t.raise 0x0604 c [c, bs.length, first, s.get .coreWkind first 0]))

end Sys2Proof.Machine
end

