-- ==== Sys2Proof/Machine/Service.lean ====
section
/-!
DEFINITION. The Service Engine's commands: frames, the slow path, admission, boundaries, deadlines, the batch stream,
BATCH.TAKE and RESP.PUT (R280 to R307), and the U16's host batch queue (R308 to R312).
-/
namespace Sys2Proof.Machine

/-! ## Frames (R280 to R284) -/

/-- A port's MAC address. -/
def portMac (p : Nat) (s : State) : Nat := s.get .svePortMac p 0
/-- A port's IPv6 global address; 0 disables it. -/
def portIpv6 (p : Nat) (s : State) : Nat := s.get .svePortIpv6Hi p 0 * 2 ^ 64 + s.get .svePortIpv6Lo p 0
/-- A port's IPv6 link-local address, by the modified EUI-64 rule (R281). -/
def portLocal (p : Nat) (s : State) : Nat :=
  let m := portMac p s
  let b := beBytes 6 m
  let flip := match b with
    | x :: t => (x ^^^ 0x02#8) :: t
    | [] => []
  0xFE80 * 2 ^ 112 + beNat (flip.take 3 ++ [0xFF#8, 0xFE#8] ++ flip.drop 3)
/-- An IPv6 address is one of a port's. -/
def isPortV6 (p a : Nat) (s : State) : Bool := a == portLocal p s || (portIpv6 p s != 0 && a == portIpv6 p s)

/-- The Ethernet header of a frame: destination, source, the tag control word if tagged, the type, and what follows. -/
structure Eth where
  dst : Nat
  src : Nat
  tci : Option Nat
  ty : Nat
  rest : List (BitVec 8)
deriving DecidableEq, Repr

/-- Read a frame's Ethernet header. -/
def ethOf (fr : List (BitVec 8)) : Eth :=
  if beAt fr 12 2 = 0x8100 then
    { dst := beAt fr 0 6, src := beAt fr 6 6, tci := some (beAt fr 14 2), ty := beAt fr 16 2, rest := fr.drop 18 }
  else { dst := beAt fr 0 6, src := beAt fr 6 6, tci := none, ty := beAt fr 12 2, rest := fr.drop 14 }

/-- The ones-complement sum of the 16-bit words of some bytes. -/
def onesSum : List (BitVec 8) → Nat
  | a :: b :: t => a.toNat * 256 + b.toNat + onesSum t
  | [a] => a.toNat * 256
  | [] => 0

/-- A ones-complement sum that includes its own checksum is correct. -/
def onesGood (n : Nat) : Bool := n != 0 && n % 65535 == 0

/-- What a UDP datagram of the fast path carries, and where its answer goes (R284). -/
structure Dgram where
  dest : ReplyTo
  data : List (BitVec 8)
deriving DecidableEq, Repr

/-- A UDP datagram within an IP packet, where its length and checksum hold (R281). -/
def udpOf (p : Nat) (v6 : Bool) (src dst : Nat) (u : List (BitVec 8)) (e : Eth) (s : State) : Option Dgram :=
  let n := beAt u 4 2
  let sum := beAt u 6 2
  let w := if v6 then 16 else 4
  let pseudo := onesSum (beBytes w src ++ beBytes w dst) + n + 17
  if n < 8 ∨ u.length < n ∨ beAt u 2 2 ≠ s.get .svePortUdpPort p 0 then none
  else if !(onesGood (pseudo + onesSum (u.take n)) && sum != 0) && !(sum == 0 && !v6) then none
  else
    some { data := (u.take n).drop 8,
           dest := { port := p, mac := e.src, vlan := e.tci, v6 := v6, srcIp := dst, dstIp := src, srcPort := beAt u 2 2,
                     dstPort := beAt u 0 2 } }

/-- The datagram of a frame that the fast path takes (R281, R282). -/
def fastPath (p : Nat) (fr : List (BitVec 8)) (s : State) : Option Dgram :=
  let e := ethOf fr
  let tagOk : Bool := match e.tci with
    | some t => s.on .svePortVtag p 0 && t % 4096 == s.get .svePortVlan p 0
    | none => !s.on .svePortVtag p 0
  if e.dst ≠ portMac p s ∨ !tagOk ∨ !s.on (if p = 0 then .sveCtlEn0 else .sveCtlEn1) 0 0 then none
  else if e.ty = 0x0800 then
    let h := e.rest
    let len := beAt h 2 2
    if beAt h 0 1 = 0x45 ∧ onesGood (onesSum (h.take 20)) ∧ beAt h 6 2 % 2 ^ 14 = 0 ∧ beAt h 9 1 = 17 ∧ 20 ≤ len ∧
        len ≤ h.length ∧ beAt h 16 4 = s.get .svePortIpv4 p 0 ∧ s.on .svePortIpv4 p 0 then
      udpOf p false (beAt h 12 4) (beAt h 16 4) ((h.take len).drop 20) e s
    else none
  else if e.ty = 0x86DD then
    let h := e.rest
    let len := beAt h 4 2
    if beAt h 0 1 / 16 = 6 ∧ beAt h 6 1 = 17 ∧ 40 + len ≤ h.length ∧ isPortV6 p (beAt h 24 16) s then
      udpOf p true (beAt h 8 16) (beAt h 24 16) ((h.drop 40).take len) e s
    else none
  else none

/-- The frame is one that the slow path passes to the firmware (R283). -/
def slowPath (p : Nat) (fr : List (BitVec 8)) (s : State) : Bool :=
  let e := ethOf fr
  let h := e.rest
  if e.ty = 0x0806 then beAt h 6 2 == 1 && s.on .svePortIpv4 p 0 && beAt h 24 4 == s.get .svePortIpv4 p 0
  else if e.ty = 0x0800 then
    beAt h 0 1 == 0x45 && beAt h 9 1 == 1 && beAt h 20 1 == 8 && s.on .svePortIpv4 p 0 && beAt h 16 4 == s.get .svePortIpv4 p 0
  else if e.ty = 0x86DD then
    beAt h 6 1 == 58 && ((beAt h 40 1 == 128 && isPortV6 p (beAt h 24 16) s) ||
      (beAt h 40 1 == 135 && isPortV6 p (beAt h 48 16) s))
  else false

/-! ## Requests (R285 to R289) -/

/-- A request's sections, read in order: the body as the stream delivers it, its pairs, its candidates, or the offset in the body
of the first fault (R286, R289, R303). -/
structure Sections where
  body : List (BitVec 8)
  pairs : List (Nat × Nat)
  cand : Option Nat
deriving DecidableEq, Repr

/-- Reverse the bytes of each 4-byte word. -/
def swapWords : Nat → List (BitVec 8) → List (BitVec 8)
  | 0, _ => []
  | n + 1, bs => (bs.take 4).reverse ++ swapWords n (bs.drop 4)

/-- Read the sections of a body from an offset; n bounds their number. -/
def sectionsOf : Nat → Nat → List (BitVec 8) → Sections → Nat ⊕ Sections
  | 0, _, _, a => .inr a
  | n + 1, off, bs, a =>
    if bs.isEmpty then .inr a
    else
      let ty := beAt bs 0 1
      let arg := beAt bs 1 1
      let len := beAt bs 2 2
      let data := (bs.drop 4).take len
      let head := [BitVec.ofNat 8 ty, BitVec.ofNat 8 arg] ++ leBytes 2 len
      if bs.length < 4 ∨ ty = 0 ∨ 3 < ty ∨ (ty = 2 ∧ a.cand.isSome) then .inl off
      else if ty = 1 ∧ 31 < arg then .inl (off + 1)
      else if (ty ≠ 3 ∧ len % 4 ≠ 0) ∨ bs.length < 4 + len then .inl (off + 2)
      else
        let words := (List.range (len / 4)).map fun k => beAt data (4 * k) 4
        let b : Sections := { body := a.body ++ head ++ (if ty = 3 then data else swapWords (len / 4) data),
                              pairs := a.pairs ++ (if ty = 1 then words.map fun x => (arg, x) else []),
                              cand := if ty = 2 then some (len / 4) else a.cand }
        sectionsOf n (off + 4 + len) (bs.drop (4 + len)) b

/-- What bars a request of a bound service at steps 8 and 9 (R289): the error's code, or nothing. -/
def admitBar (svc cells : Nat) (s : State) : Option Nat :=
  let ch := s.get .sveSvcW0Channel svc 0
  let opens : Bool := match tget? s.windows svc with
    | some w => w.tag.isNone
    | none => true
  if !s.on .sveChAdmit ch 0 then some 5
  else if s.get .sveInflight 0 0 = 65536 ∨ s.get .sveChQuota ch 0 < s.get .sveChHeld ch 0 + cells ∨ (opens ∧ nextTag ch s = none)
  then some 6
  else none

/-- Answer a datagram of a bound service with an error: counted, and not sent with ERRQ (R289). -/
def svcError (dest : ReplyTo) (key : Option Nat) (svc client req code detail : Nat) (s : State) : State :=
  let ch := s.get .sveSvcW0Channel svc 0
  let t := s.inc .sveSvcW3Errors svc 0 1
  let t := if code = 6 then t.raise 0x0706 ch [ch, s.get .sveInflight 0 0, s.get .sveChHeld ch 0] else t
  if s.on .sveSvcW0Errq svc 0 then t else sendError dest key svc client req 0 code detail t

/-- Check a datagram in the order of R289 and act at the first check that fails; a good request waits for admission. -/
def checkDgram (d : Dgram) (s : State) : State :=
  let p := d.data ++ List.replicate 24 0#8
  let n := d.data.length
  let ver := beAt p 0 1 / 16
  let tagged : Bool := decide (128 ≤ beAt p 1 1)
  let svc := beAt p 2 2 % 4096
  let client := beAt p 4 4 % 2 ^ 31
  let req := beAt p 8 8
  let k := beAt p 20 2
  let len := beAt p 22 2
  let key := svcKey svc s
  let good : Bool := match key with
    | some g => tagged && beAt d.data (24 + len) 16 == gmac g (uspIv false client req) (d.data.take (24 + len)) % 2 ^ 128
    | none => false
  let used := if tagged then key else none
  if beAt p 0 1 % 16 ≠ 1 then s
  else if ver ≠ 1 then sendError d.dest none svc client req 0 1 ver s
  else if n ≠ 24 + len + (if tagged then 16 else 0) then sendError d.dest none svc client req 0 2 (if n < 24 then n else 22) s
  else if 8192 < len then sendError d.dest none svc client req 0 3 0 s
  else if !s.on .sveSvcW0Bound svc 0 then sendError d.dest none svc client req 0 4 0 s
  else if (s.on .sveSvcW0TagReq svc 0 && !tagged) || (tagged && !good) then
    (s.inc .sveSvcW3Tagfail svc 0 1).raise 0x0701 (s.get .sveSvcW0Channel svc 0) [svc, d.dest.port, client]
  else if 256 < k then svcError d.dest used svc client req 2 20 s
  else
    match sectionsOf (len + 1) 24 ((d.data.drop 24).take len) ⟨[], [], none⟩ with
    | .inl off => svcError d.dest used svc client req 2 off s
    | .inr a =>
      match admitBar svc (cellsOf len) s with
      | some code => svcError d.dest used svc client req code 0 s
      | none =>
        let r : Request :=
          { id := 0, svc := svc, ch := 0, tag := 0, slot := none, dest := d.dest, client := client, req := req, k := k, body := a.body,
            pairs := a.pairs, ncand := a.cand.getD 0, epoch := 0, admitted := 0, due := beAt p 16 4 % 2 ^ 20, key := used,
            answered := false, handed := false }
        { s with checked := s.checked ++ [r] }

/-- FRAME_RECEIVE: a frame, without its frame check sequence; `fcs` tells that the sequence was good. -/
def execFrameReceive (port : BitVec 1) (frame : List (BitVec 8)) (fcs : Bool) (s : State) : Out :=
  let p := port.toNat
  if !s.sveUp || !s.on .pcsLock p 0 then .next s
  else if !fcs || frame.length < 60 || 9212 < frame.length then .next (s.inc .svePortRxDrop p 0 1)
  else
    match fastPath p frame s with
    | some d => .next (checkDgram d (s.inc .svePortRxOk p 0 1))
    | none =>
      if slowPath p frame s then .next { s.inc .svePortRxSlow p 0 1 with slow := s.slow ++ [⟨p, frame⟩] }
      else .next (s.inc .svePortRxDrop p 0 1)

/-- SLOW_PATH_REPLY: the firmware answers the oldest frame of a port, within 10,000 a second (R283). -/
def execSlowPathReply (port : BitVec 1) (s : State) : Out :=
  let p := port.toNat
  match s.slow.find? fun f => f.port == p with
  | none => .next s
  | some f =>
    if !s.sveUp then .next s
    else
      let t : State := { s with slow := s.slow.erase f }
      let sec := s.get .gtc 0 0 / 1000000000
      let cnt := if s.get .slowSec p 0 = sec then s.get .slowCnt p 0 else 0
      if 10000 ≤ cnt then .next ((t.inc .svePortRxDrop p 0 1).raise 0x0707 8 [p, 1])
      else .next ((((t.put .slowSec p 0 sec).put .slowCnt p 0 (cnt + 1)).emit (.slowReply p f.bytes)).inc .svePortTx p 0 1)

/-! ## Admission (R295) -/

/-- A checked request is admitted to its service's open batch. -/
def admitRequest (r0 : Request) (w : Window) (s : State) : State :=
  let svc := r0.svc
  let ch := s.get .sveSvcW0Channel svc 0
  let now := s.get .gtc 0 0
  let tag := match w.tag with
    | some t => t
    | none => (nextTag ch s).getD 0
  let t := if w.tag.isSome then s else useTag ch tag { s with windows := tset s.windows svc { w with tag := some tag } }
  let d := s.get .sveSvcW0DeadlineUs svc 0
  let d := if r0.due = 0 then d else min r0.due d
  let handed : Bool := t.on .foxCtlRaEn ch 0 && t.chanRuns ch
  let r : Request :=
    { r0 with
      id := t.get .sveSerial 0 0 + 1, ch := ch, tag := tag, k := if r0.k = 0 then t.get .sveSvcW0Kdef svc 0 else r0.k,
      epoch := t.get .sveSvcW1Epoch svc 0, admitted := now, due := (now + 1000 * d + 999) / 1000 * 1000, handed := handed }
  let t : State := { t with requests := t.requests ++ [r] }
  let t := ((t.inc .sveSerial 0 0 1).inc .sveChHeld ch 0 (cellsOf r.body.length)).inc .sveInflight 0 0 1
  let t := (t.inc (inflFld r.epoch) ch 0 1).inc .sveSvcW2Admitted svc 0 1
  if handed then foxRows ch tag (r.epoch % 2 == 1) true r.pairs t else t

/-- REQUEST_ADMIT: the oldest checked request of port 0, else of port 1; steps 5, 8 and 9 of R289 are judged in this cycle. -/
def execRequestAdmit (s : State) : Out :=
  let pick := match s.checked.find? fun r => r.dest.port == 0 with
    | some r => some r
    | none => s.checked.head?
  match pick with
  | none => .next s
  | some r =>
    if !s.sveUp then .next s
    else
      let t : State := { s with checked := s.checked.erase r }
      if !t.on .sveSvcW0Bound r.svc 0 then .next (sendError r.dest r.key r.svc r.client r.req 0 4 0 t)
      else
        match admitBar r.svc (cellsOf r.body.length) t with
        | some code => .next (svcError r.dest r.key r.svc r.client r.req code 0 t)
        | none => .next (admitRequest r ((tget? t.windows r.svc).getD ⟨t.get .gtc 0 0, none, false, false⟩) t)

/-! ## Boundaries, deadlines and tags -/

/-- BATCH_BOUNDARY: a boundary of a service that falls without an edge (R299). -/
def execBatchBoundary (svc : BitVec 12) (s : State) : Out :=
  if !s.sveUp then .next s
  else
    match dueFlags svc.toNat s with
    | some f => .next (boundary svc.toNat f s)
    | none => .next s

/-- The requests whose timers have reached their tick (R296). -/
def dueRequests (s : State) : List Request := s.requests.filter fun r => !r.answered && decide (r.due ≤ s.get .gtc 0 0)

/-- DEADLINE_EXPIRY: one of the timers that have run out expires (R297). -/
def execDeadlineExpiry (pick : BitVec 17) (s : State) : Out :=
  match (dueRequests s)[pick.toNat]? with
  | none => .next s
  | some r =>
    if !s.sveUp then .next s
    else
      let t := sendFallback r s
      .next (if r.slot.isNone then leaveOpen r t else t)

/-- TAG_GRACE_EXPIRY: a finished tag stops being live (R300). -/
def execTagGraceExpiry (ch : Chan) (tag : BitVec 16) (s : State) : Out :=
  .next (if s.sveUp && tagDone ch.val tag.toNat s then dropTag ch.val tag.toNat s else s)

/-! ## The batch stream, BATCH.TAKE and RESP.PUT (R303 to R307) -/

/-- BATCH_STREAM_WORD: the SVE sends the next word of the oldest batch that has one (R305). -/
def execBatchStreamWord (ch : Chan) (s : State) : Out :=
  match (offered ch.val s).find? fun b => !b.left.isEmpty with
  | none => .next s
  | some b =>
    if !s.sveUp || !s.chanRuns ch.val then .next s
    else
      .next (s.setQueue ch.val ((s.queue ch.val).map fun x =>
        if x = b then { b with left := b.left.drop 1, there := b.there ++ b.left.take 1 } else x))

/-- G[GD] of BATCH.TAKE (R305). -/
def takeStatus (left tag : Nat) (first last : Bool) : Word :=
  BitVec.ofNat 64 (left + tag * 2 ^ 32 + (if first then 2 ^ 48 else 0) + (if last then 2 ^ 49 else 0))

/-- A take completes: V and G[GD], and with FIRST a new batch interval (R305, R338). -/
def takeDone (c : Nat) (v gd : BitVec 5) (ws : List (BitVec 512)) (left tag : Nat) (first : Bool) (s : State) : State :=
  let t := extWait c s
  let t := if first then detStart (chanOf c) tag (detEnd (chanOf c) false t) else t
  retire c 1 ((putWords c v.toNat 3 ws t).setG c gd.toNat 1 (takeStatus left tag first (left == 0)))

/-- BATCH.TAKE from the SVE. -/
def takeSve (c : Nat) (i : Instr) (was : Bool) (v gd : BitVec 5) (n : Nat) (t : State) : State :=
  let ch := chanOf c
  match offered ch t with
  | [] => t.hold c i stWaiting 11 0
  | b :: _ =>
    let m := min n (b.left.length + b.there.length)
    if b.there.length < m then t.hold c i stWaiting 11 0
    else
      let ws := b.there.take m
      let left := b.left.length + b.there.length - m
      let t := freeCells ch (ws.filter fun w => w.2).length (t.waited c was)
      let t := if left = 0 then setTag ch b.tag (fun x => { x with taken := true }) (t.setQueue ch ((t.queue ch).erase b))
        else t.setQueue ch ((t.queue ch).map fun x => if x = b then { b with there := b.there.drop m, begun := true } else x)
      takeDone c v gd (ws.map Prod.fst) left b.tag (!b.begun) t

/-- Word w of the U16's word ring. -/
def hbqWord (w : Nat) (s : State) : BitVec 512 := wordOfBytes (s.bytes (hbqWordAddr (w % 2048 * 64)) 64)

/-- BATCH.TAKE from the U16's host batch queue (R310). A stream whose header counts no words has no end the spec gives. -/
def takeHbq (c : Nat) (i : Instr) (was : Bool) (v gd : BitVec 5) (n : Nat) (t : State) : State :=
  let ch := chanOf c
  let head := t.get .hbqWhead ch 0
  let have' := hbqWaiting ch t
  let first : Bool := t.get .hbqLeft ch 0 == 0
  if have' = 0 then t.hold c i stWaiting 11 0
  else
    let w0 := leBytes 64 (hbqWord head t).toNat
    let rest := if first then leNat ((w0.drop 12).take 4) else t.get .hbqLeft ch 0
    let tag := if first then leNat (w0.take 2) else t.get .hbqTag ch 0
    let m := min n rest
    if rest = 0 then havoc ch t
    else if have' < m then t.hold c i stWaiting 11 0
    else
      let t := t.waited c was
      let ws := (List.range m).map fun k => hbqWord (head + k) t
      let t := ((t.put .hbqWhead ch 0 (head + m)).put .hbqLeft ch 0 (rest - m)).put .hbqTag ch 0 tag
      let t := if rest = m then t.inc .hbqBatches ch 0 1 else t
      takeDone c v gd ws (rest - m) tag first t

/-- BATCH.TAKE (R304, R305). -/
def execBatchTake (core : CoreId) (v gd : BitVec 5) (nm1 : BitVec 2) (s : State) : Out :=
  let c := core.val
  let i := Instr.batchTake core v gd nm1
  let was := s.isHeld c
  issue c i s fun t =>
    let t := unclean c t
    if c ≠ leadCore (chanOf c) then havoc (chanOf c) t
    else if t.isU16 then takeHbq c i was v gd (nm1.toNat + 1) t
    else takeSve c i was v gd (nm1.toNat + 1) t

/-- The (key, id) pairs of the top-k list at V (R160). -/
def listPairs (c v k : Nat) (s : State) : List (Nat × Nat) :=
  let l := (k + 63) / 64
  (List.range k).map fun p =>
    (((s.v c (v + p / 64)).getD (p % 64) 0#32).toNat, ((s.v c (v + l + p / 64)).getD (p % 64) 0#32).toNat)

/-- What a RESP.PUT adds to OSIG (R345). -/
def osigBytes (slot k : Nat) (empty : Bool) (ps : List (Nat × Nat)) : List (BitVec 8) :=
  leBytes 1 slot ++ leBytes 2 k ++ [if empty then 1#8 else 0#8] ++ ps.flatMap fun p => leBytes 4 p.1 ++ leBytes 4 p.2

/-- The record of a response in the U16's response ring (R311). -/
def hbqRecord (tag slot : Nat) (empty : Bool) (es : List (Nat × Nat)) : List (BitVec 8) :=
  leBytes 2 tag ++ leBytes 1 slot ++ [if empty then 1#8 else 0#8] ++ leBytes 2 es.length ++ List.replicate 10 0#8 ++
    es.flatMap fun p => leBytes 4 p.2 ++ leBytes 4 p.1

/-- RESP.PUT (R304, R306, R311). -/
def execRespPut (core : CoreId) (v gs : BitVec 5) (km1 : BitVec 8) (empty : Bool) (s : State) : Out :=
  let c := core.val
  let i := Instr.respPut core v gs km1 empty
  let was := s.isHeld c
  let k := km1.toNat + 1
  let l := (k + 63) / 64
  issue c i s fun t =>
    let ch := chanOf c
    let t := unclean c t
    let vs := if empty then [] else (List.range (2 * l)).map (v.toNat + ·)
    if c ≠ leadCore ch ∨ (!empty ∧ 32 < v.toNat + 2 * l) then havoc ch t
    else
      let t := (t.stallG c [gs.toNat]).stallV c vs
      let full : Bool := if t.isU16 then decide (16 ≤ (t.get .hbqRtail ch 0 + 32 - t.get .hbqRhead ch 0) % 32)
        else decide (16 ≤ (tget [] t.resps ch).length)
      if full then t.hold c i stWaiting 11 0
      else
        let t := extWait c (t.waited c was)
        let h := (t.g c gs.toNat).toNat
        let slot := h % 256
        let tag := bitsAt h 8 16
        let ps := if empty then [] else listPairs c v.toNat k t
        let t := if t.on .detOpen ch 0 then t.put .detOsig ch 0 (crc64 (t.get .detOsig ch 0) (osigBytes slot k empty ps)) else t
        let t :=
          if t.isU16 then
            let es := ps.filter fun p => p.2 != 0xFFFFFFFF
            let at' := hbqRespAddr (t.get .hbqRtail ch 0 % 16 * 4096)
            ((t.setBytes at' (hbqRecord tag slot empty es)).inc .hbqRtail ch 0 1).chCause ch 7
          else { t with resps := tset t.resps ch (tget [] t.resps ch ++ [⟨tag, slot, ps, false⟩]) }
        retire c (if empty then 1 else 2 * l) t

/-- RESPONSE_ARRIVAL: the oldest entry on its way reaches the SVE: its response is sent, or it is LATE (R306, R307). -/
def execResponseArrival (ch : Chan) (s : State) : Out :=
  let c := ch.val
  let q := tget [] s.resps c
  match q.find? fun x => !x.arrived with
  | none => .next s
  | some x =>
    if !s.sveUp then .next s
    else
      let drop (t : State) : State := { t with resps := tsetD [] t.resps c (q.erase x) }
      match s.requests.find? fun r => r.ch == c && r.tag == x.tag && r.slot == some x.slot && !r.answered && tagLive c x.tag s with
      | none => .next (((drop s).inc .sveChLate c 0 1).tally 0x0704 c c 0 1)
      | some r =>
        let es := (x.entries.take r.k).filter fun p => p.2 != 0xFFFFFFFF
        let body := beBytes 4 r.epoch ++ es.flatMap fun p => beBytes 4 p.2 ++ beBytes 4 p.1
        let t : State := { s with resps := tset s.resps c (q.map fun y => if y = x then { x with arrived := true } else y) }
        .next (markAnswered r (sendUsp r.dest r.key 2 false r.svc r.client r.req (servedUs r s) es.length body t))

/-- RESPONSE_SENT: a response has left the port, and its entry is free (R306). -/
def execResponseSent (ch : Chan) (s : State) : Out :=
  let q := tget [] s.resps ch.val
  match q.find? fun x => x.arrived with
  | none => .next s
  | some x => .next (if s.sveUp then { s with resps := tsetD [] s.resps ch.val (q.erase x) } else s)

/-! ## The U16's host batch queue (R308 to R312) -/

/-- HBQ_WTAIL: host software makes words present; a new stream wakes a channel in DOZE or DARK (R309, R310). -/
def execHbqWtail (tail : BitVec 12) (s : State) : Out :=
  if !s.isU16 || !s.chWrite 0 false then .next s
  else
    let t := s.put .hbqWtail 0 0 tail.toNat
    if 2048 < hbqWaiting 0 t then .next (havoc 0 t)
    else .next (if batchReady 0 t && t.on .chPwrWbatch 0 0 then wakeChan 0 1 t else t)

/-- HBQ_RHEAD: host software frees response slots (R311). -/
def execHbqRhead (head : BitVec 5) (s : State) : Out :=
  .next (if s.isU16 && s.chWrite 0 false then s.put .hbqRhead 0 0 head.toNat else s)

end Sys2Proof.Machine
end

