-- ==== Sys2Proof/Machine/Exchange.lean ====
section
/-!
DEFINITION. The hitless exchange: the seam, the swap, rings and run-ahead at the swap, forced seams, and the SYNC edge latched
in a seam interval (R314 to R330, R633).
-/
namespace Sys2Proof.Machine

/-- The route plans exchange roles, and every room count becomes 64 (R252). -/
def flipPlan (ch : Nat) (s : State) : State :=
  (s.put .rteCtlActive ch 0 (1 - s.get .rteCtlActive ch 0)).clearFlds [.epRoom] (fun c => c / 160 == ch)

/-! ## Changed rings (R324, R325) -/

/-- The fields of a ring's configuration, with the staged ones. -/
def ringCfgFlds : List (Fld × Fld) :=
  [(.foxRingCfgEn, .exchRingCfgEn), (.foxRingCfgDir, .exchRingCfgDir), (.foxRingCfgCore, .exchRingCfgCore),
    (.foxRingCfgSlots, .exchRingCfgSlots), (.foxRingCfgSlotWords, .exchRingCfgSlotWords), (.foxRingCfgBase, .exchRingCfgBase)]

/-- The fields of a run-ahead table entry, with the staged ones. -/
def raTabFlds : List (Fld × Fld) :=
  [(.foxRaTabValid, .exchRatabValid), (.foxRaTabRemote, .exchRatabRemote), (.foxRaTabRing, .exchRatabRing),
    (.foxRaTabRowWords, .exchRatabRowWords), (.foxRaTabBase, .exchRatabBase), (.foxRaTabStride, .exchRatabStride),
    (.foxRaTabPeer, .exchRatabPeer)]

/-- A place of some fields differs from its staged value. -/
def differs (fs : List (Fld × Fld)) (ch n : Nat) (s : State) : Bool := fs.any fun f => s.get f.1 ch n != s.get f.2 ch n

/-- Adopt the staged values at a place. -/
def adopt (fs : List (Fld × Fld)) (ch n : Nat) (s : State) : State := fs.foldl (fun t f => t.put f.1 ch n (s.get f.2 ch n)) s

/-- A ring is selected in EXCH_RSEL. -/
def ringSel (ch r : Nat) (s : State) : Bool := (s.get .exchRsel ch (r / 32)).testBit (r % 32)

/-- The rings that the swap changes (R324). -/
def changedRings (ch : Nat) (s : State) : List Nat :=
  let tabs := if s.on .exchCfgRatab ch 0 then below 32 fun t => differs raTabFlds ch t s else []
  let named := tabs.flatMap fun t => [s.get .foxRaTabRing ch t, s.get .exchRatabRing ch t]
  below 256 fun r => (ringSel ch r s && differs ringCfgFlds ch r s) || named.contains r || s.bit .foxRings ch 0 r

/-- What a ring holds for its slots and pointers. -/
def ringFlds : List Fld :=
  [.foxRingPtrTail, .foxRingPtrHead, .foxRingPtrFill, .foxRingPtrPub, .foxRingPtrTent, .ringPubv, .ringFreev, .ringCorePtr,
    .ringViewPend, .ringReadSlot]

/-- What a ring holds for each of its slots. -/
def slotFlds : List Fld :=
  [.ringSlotSt, .ringSlotLanded, .ringSlotWords, .ringSlotEos, .ringSlotPoison, .ringSlotLeft, .ringSlotGen]

/-- A ring is emptied: pointers 0, every slot FREE, an OUT ring's slots all free at its core. -/
def ringEmpty (ch r : Nat) (s : State) : State :=
  let t := ringFlds.foldl (fun t f => t.put f ch r 0) s
  let t := slotFlds.foldl (fun t f => (List.range 64).foldl (fun t k => t.put f ch (slotIx r k) 0) t) t
  if ringIs ch r true t then t.put .ringFreev ch r (ringSlots ch r t) else t

/-- A ring is changed (R324): the staged configuration where it is selected, empty, its generation one more; what lands for its
slots is dropped. -/
def changeRing (ch r : Nat) (s : State) : State :=
  let t := if ringSel ch r s then adopt ringCfgFlds ch r s else s
  let t := (ringEmpty ch r t).inc .foxRingPtrGen ch r 1
  (t.entries ch).foldl (fun t x =>
    if x.2.dspace = spRing ∧ x.2.ring = r then t.setAct ch x.1 { x.2 with slots := x.2.slots.map fun _ => 64 } else t) t

/-- The pairs of a request that a table of the channel takes to one of some rings. -/
def pairsIn (ch : Nat) (rings : List Nat) (r : Request) (s : State) : List (Nat × Nat) :=
  r.pairs.filter fun p => s.on .foxRaTabValid ch p.1 && rings.contains (s.get .foxRaTabRing ch p.1)

/-- The requests of a committed batch. -/
def batchRequests (ch : Nat) (b : Batch) (s : State) : List Request :=
  s.requests.filter fun r => r.ch == ch && r.tag == b.tag && r.slot.isSome

/-- Rows in changed rings are given up: a forming batch's run-ahead is cancelled without a retry, and a committed batch's row
streams are dropped, to be gathered again (R325). -/
def dropRows (ch : Nat) (rings : List Nat) (s : State) : State :=
  let forming := ((s.entries ch).filter fun x => x.2.tent && x.2.dspace == spRing && rings.contains x.2.ring).map fun x => x.2.tag
  let t := forming.eraseDups.foldl (fun (t : State) tag =>
    let t := foxCancel ch tag t
    { t with requests := t.requests.map (fun r => if r.ch = ch ∧ r.tag = tag ∧ r.slot.isNone then { r with handed := false } else r),
             windows := t.windows.map fun w => if w.2.tag = some tag ∧ t.get .sveSvcW0Channel w.1 0 = ch then
               (w.1, { w.2 with cancelled := true }) else w }) s
  let gone (d : Desc) : Bool := d.kind == 4 && !d.tent && rings.contains d.ring
  let t := (t.entries ch).foldl (fun t x => if gone x.2 then t.delAct ch x.1 else t) t
  t.setArr ch ((t.arr ch).filter fun d => !gone d)

/-- The rows of the committed batches that lay in changed rings are gathered again at once (R325); `was` is the state before the
swap, whose table took them there. -/
def gatherAgain (ch : Nat) (rings : List Nat) (was s : State) : State :=
  (was.queue ch).foldl (fun t b =>
    let rs := batchRequests ch b was
    let n := rs.foldl (fun n r => n + (pairsIn ch rings r was).length) 0
    if n = 0 then t
    else (rs.foldl (fun t r => foxRows ch b.tag (r.epoch % 2 == 1) false (pairsIn ch rings r was) t) t).raise 0x0807 ch [ch, b.tag, n]) s

/-- The ring configurations and the run-ahead table are adopted (R314, R324, R325). -/
def swapRings (ch : Nat) (s : State) : State :=
  let rings := changedRings ch s
  let t := rings.foldl (fun t r => changeRing ch r t) (dropRows ch rings s)
  let t := if s.on .exchCfgRatab ch 0 then (List.range 32).foldl (fun t k => adopt raTabFlds ch k t) t else t
  gatherAgain ch rings s (t.put .foxRings ch 0 0)

/-! ## The swap (R61, R322, R323, R326, R633) -/

/-- What the swap clears at a core (R61), but for the P registers and the SQ fields. -/
def swapFlds : List Fld :=
  [.coreG, .coreGRdy, .coreStatLdepth, .coreLoopStart, .coreLoopLast, .coreLoopCount, .coreLoopIdx, .coreStatInreplay,
    .coreRepStart, .coreRepLen, .coreRepCount, .coreRepIdx, .coreRepRet, .corePatchArm, .corePatchPd, .corePatchPs, .coreWkind,
    .coreWobj]

/-- The swap at one core: the banks exchange roles, the sequencer restarts, the staged bank kinds and power groups are adopted, and
the core begins issue at instruction 0. -/
def swapCore (ch : Nat) (s : State) (c : Nat) : State :=
  let t : State := { s with held := tdel s.held c }
  let t := (t.clearFlds swapFlds (· == c)).put .coreBank c 0 (1 - s.get .coreBank c 0)
  let t := [2, 3, 4, 5, 8, 9, 10, 11, 12, 13, 14, 15].foldl (fun t i => t.put .coreSqf c i 0) t
  let t := if s.on .exchCfgPcarry ch 0 then t else t.clearFlds [.coreP] (· == c)
  let t := setKinds c (s.get .spdKindNextWbank c 0) (setGroups c (s.get .spdPwrNextOn c 0) t)
  startCore c (t.put .corePc c 0 0)

/-- The swap of a channel, plain or forced. -/
def swap (ch : Nat) (forced : Bool) (s : State) : State :=
  let now := s.get .gtc 0 0
  let t := leaveBars ch (detEnd ch forced s)
  let t := swapRings ch (if s.on .exchCfgRflip ch 0 then flipPlan ch t else t)
  let t := (s.coresOf ch).foldl (swapCore ch) t
  let t := (((t.put .bdgStatQcount ch 0 0).put .exchStatPhase ch 0 4).put .exchStatResult ch 0 (if forced then 2 else 1)).put
    .exchStatNotready ch 0 0
  let t := (t.inc .exchCount ch 0 1).put .exchLastGtc ch 0 now
  (t.raise 0x0803 ch [ch, s.get .exchStatSeamTag ch 0, (now - s.get .exchHeldAt ch 0) / 1000]).chCause ch 2

/-- The seam interval begins (R327). -/
def seamBegins (ch : Nat) (s : State) : State := ((s.put .exchSeam ch 0 1).put .exchSync ch 0 0).put .exchStatSyncdrop ch 0 0

/-- The seam interval runs: until every core of the channel has begun issue (R327). -/
def inSeam (ch : Nat) (s : State) : Bool :=
  s.on .exchSeam ch 0 && (s.get .exchStatPhase ch 0 == 3 || (s.coresOf ch).any fun c => s.on .coreStartWait c 0)

/-- The rule of R320, while HELD. -/
def seamReady (ch : Nat) (s : State) : Bool :=
  (offered ch s).isEmpty && (s.coresOf ch).all (fun c => seamRests ch c s) &&
    !((s.entries ch).any fun x => decide (x.2.src < 160)) &&
    !((s.transitOf ch).any fun x => match x with
      | .word .. => true
      | .token .. => true
      | _ => false)

/-- SEAM_READY: the rule holds, and the swap goes out to the islands (R320). -/
def execSeamReady (ch : Chan) (s : State) : Out :=
  let c := ch.val
  if s.get .exchStatPhase c 0 ≠ 2 || !s.chanRuns c then .next s
  else if seamReady c s then .next (seamBegins c ((s.put .exchStatPhase c 0 3).put .exchStatNotready c 0 0))
  else .next (s.put .exchStatNotready c 0 (notReady c s))

/-- EXCHANGE_SWAP: the islands receive the swap (R322). -/
def execExchangeSwap (ch : Chan) (s : State) : Out :=
  .next (if s.get .exchStatPhase ch.val 0 = 3 ∧ s.chanRuns ch.val then swap ch.val false s else s)

/-! ## The hold timeout and forced seams (R320, R328, R329) -/

/-- The rings that hold a slot reserved by a descriptor of a core, as a mask. -/
def coreRings (ch : Nat) (s : State) : Nat :=
  (s.entries ch).foldl (fun m x =>
    if x.2.src < 160 ∧ x.2.dspace = spRing ∧ x.2.slots.any (· != 64) then m ||| 2 ^ x.2.ring else m) 0

/-- Fox abandons what cores submitted, but no run-ahead (R328). -/
def abandonCores (ch : Nat) (s : State) : State :=
  let mine (d : Desc) : Bool := decide (d.src < 160)
  let gone := ((s.entries ch).filter fun x => mine x.2).map fun x => x.2.seq
  let t := (s.entries ch).foldl (fun t x => if mine x.2 then t.delAct ch x.1 else t) (s.put .foxRings ch 0 (coreRings ch s))
  let t := t.setArr ch ((t.arr ch).filter fun d => !mine d)
  (t.setReqs ch ((t.reqs ch).filter fun r => !gone.contains r.seq)).setMsgs ch ((t.msgs ch).filter fun m => !gone.contains m.seq)

/-- A core stops for a forced seam: its units, tile queue, FIFOs, counters and room (R328). -/
def stopForSeam (c : Nat) (s : State) : State :=
  let t := tqFree c (stopUnits c s)
  let t := (t.clearFlds [.synCnt, .synRem, .synFlagsSatHi, .synFlagsSatLo, .synFlagsMisuse, .epRoom] (· == c))
  { t with fifo := tclear (fun k => k / 8 == c) t.fifo, held := tdel t.held c }

/-- A forced seam (R328). -/
def forcedSeam (ch : Nat) (s : State) : State :=
  let n := notReady ch s
  let cs := s.coresOf ch
  let t := seamBegins ch (cs.foldl (fun t c => stopForSeam c t) s)
  let t := abandonCores ch t
  let t := t.setTransit ch ((t.transitOf ch).filter fun x => match x with
    | .done .. => true
    | .doorbell _ => true
    | _ => false)
  swap ch true (t.raise 0x0805 ch [ch, n])

/-- EXCH_HOLD_TIMEOUT: the hold timer reaches EXCH_TIMEOUT (R320). -/
def execExchHoldTimeout (ch : Chan) (s : State) : Out :=
  let c := ch.val
  let late : Bool := decide (s.get .exchHeldAt c 0 + max 1 (s.get .exchTimeoutUs c 0) * 1000 ≤ s.get .gtc 0 0)
  if s.get .exchStatPhase c 0 ≠ 2 || !late || !s.chanRuns c || seamReady c s then .next s
  else if s.on .exchCfgForce c 0 then .next (forcedSeam c s)
  else .next (exchAbort c 4 s)

/-- LATCHED_SYNC_PRESENT: the first KCLK cycle after a seam interval (R327). -/
def execLatchedSyncPresent (ch : Chan) (s : State) : Out :=
  let c := ch.val
  if !s.on .exchSeam c 0 || inSeam c s || !s.sveUp then .next s
  else
    let t := (s.put .exchSeam c 0 0).put .exchSync c 0 0
    .next (if s.on .exchSync c 0 then (boundTo (· == c) s).foldl (fun t svc => edgeBoundary svc t) t else t)

end Sys2Proof.Machine
end

