-- ==== Sys2Proof/Machine/Tuning.lean ====
section
/-!
DEFINITION. Global time and the Tuning Unit: the counter, its sources, levels, fusion, steering and steps, and LAUNCH (R361 to
R386). Offsets are in 1/256 ns, rates in 2^-32 ns per tick.
-/
namespace Sys2Proof.Machine

/-! ## Signed values -/

/-- The signed value of a field of some width. -/
def sgn (w v : Nat) : Int := if 2 * v < 2 ^ w then v else (v : Int) - 2 ^ w
/-- The bits of a signed value at a width. -/
def unsgn (w : Nat) (i : Int) : Nat := (i % (2 ^ w : Int)).toNat
/-- A signed field. -/
def State.sget (s : State) (f : Fld) (a b : Nat) : Int := sgn f.width (s.get f a b)
/-- Write a signed field. -/
def State.sput (s : State) (f : Fld) (a b : Nat) (v : Int) : State := s.put f a b (unsgn f.width v)
/-- Write a signed 32-bit register; what a value that does not fit shows is free. -/
def putShown (f : Fld) (a : Nat) (v : Int) (s : State) : State :=
  if -(2 ^ 31) ≤ v ∧ v < 2 ^ 31 then s.sput f a 0 v else (s.put f a 0 (Config.freeNat s.ctr)).draw

/-- A quotient whose rounding the spec does not state: either neighbour of the exact value. -/
def quot (n d : Int) (s : State) : Int := if n % d = 0 then n / d else n / d + (Config.freeNat s.ctr % 2 : Nat)

/-! ## The counter -/

/-- The Tuning Unit runs: not from STANDBY's entry until its wake (R363). -/
def tunUp (s : State) : Bool := decide (s.get .pwrStatChip 0 0 < 2)

/-- GTC_TICK: n KCLK cycles, each adding 1 ns and TUN_TRIM × 2^-32 ns (R361). In STANDBY the MGC counts the time instead
(R363). -/
def execGtcTick (n : BitVec 32) (s : State) : Out :=
  if !tunUp s then .next (s.inc .gtcAway 0 0 n.toNat)
  else
    let trim := s.sget .tunTrim 0 0
    let k : Int := n.toNat
    let sum : Int := (s.get .gtc 0 0 * 2 ^ 32 + s.get .gtcFrac 0 0 : Nat) + k * (2 ^ 32 + trim)
    let t := (s.put .gtc 0 0 (sum / 2 ^ 32).toNat).put .gtcFrac 0 0 (sum % 2 ^ 32).toNat
    .next ((t.inc .tunTicks 0 0 n.toNat).sput .tunRun 0 0 (s.sget .tunRun 0 0 + k * (trim - s.sget .tunFest 0 0)))

/-- The GTC in 1/256 ns, with a time within the tick. -/
def gtcFine (sub : BitVec 8) (s : State) : Nat := s.get .gtc 0 0 * 256 + sub.toNat

/-- A requester reads TUN_GTC_LO: the high half is latched for it (R365). -/
def execTunGtcLoRead (mgc wide : Bool) (s : State) : Out :=
  let r := if mgc then 1 else 0
  let g := s.get .gtc 0 0
  let who := if mgc then 9 else 0
  if !mgc && s.on .fnD3 0 0 then .next (s.emit (.readData 0 (2 ^ 32 - 1)))
  else if wide then .next (s.emit (.readData who g))
  else .next ((s.put .gtcLatch r 0 (g / 2 ^ 32)).emit (.readData who (g % 2 ^ 32)))

/-- A requester reads TUN_GTC_HI: the half latched for it (R365). -/
def execTunGtcHiRead (mgc : Bool) (s : State) : Out :=
  if !mgc && s.on .fnD3 0 0 then .next (s.emit (.readData 0 (2 ^ 32 - 1)))
  else .next (s.emit (.readData (if mgc then 9 else 0) (s.get .gtcLatch (if mgc then 1 else 0) 0)))

/-- Change STATE and CONTESTED of TUN_STAT: a change of either sets cause TIME, and a change of STATE raises 0x0A01 (R373,
R581). -/
def setTime (state : Nat) (contested : Bool) (s : State) : State :=
  let old := s.get .tunStatState 0 0
  let c := if contested then 1 else 0
  let t := (s.put .tunStatState 0 0 state).put .tunStatContested 0 0 c
  let t := if old ≠ state then (t.raise 0x0A01 8 [old, state, s.get .tunStatNagree 0 0, s.get .tunStatLevel 0 0]).sensor 103 state else t
  if old ≠ state ∨ s.get .tunStatContested 0 0 ≠ c then t.mgCause 4 else t

/-- A step of S ns: the counts of R376 rise with the GTC; the times that the model keeps in place of a timer rise too. -/
def stepGtc (S cause : Nat) (s : State) : State :=
  let t : State := { s with
    requests := s.requests.map fun r => { r with admitted := r.admitted + S, due := r.due + S }
    windows := s.windows.map fun e => (e.1, { e.2 with openAt := e.2.openAt + S }) }
  let t := (List.range 8).foldl (fun t ch => (t.inc .exchHeldAt ch 0 S).inc .refBase ch 0 S) t
  let t := (List.range 50).foldl (fun t k => t.sput .tunSrcOff k 0 (t.sget .tunSrcOff k 0 - 256 * (S : Int))) t
  ((t.inc .gtc 0 0 S).put .tunStatStepped 0 0 1).raise 0x0A05 8 [S, cause]

/-! ## Sources -/

/-- A sample of a source: its offset and delay (R366 to R368). -/
def takeSample (src : Nat) (off dly : Int) (s : State) : State :=
  let t := putShown .tunSrcDelay src dly (putShown .tunSrcOffset src off s)
  let t := (t.sput .tunSrcOff src 0 off).sput .tunSrcDly src 0 dly
  let t := ((t.sput .tunSrcRun src 0 (s.sget .tunRun 0 0)).put .tunSrcEp src 0 (s.get .tunEpochs 0 0)).put .tunSrcTick src 0
    (s.get .tunTicks 0 0)
  (t.put .tunSrcFresh src 0 1).inc .tunSrcSamples src 0 1

/-- A source's last sample is not stale at the epoch that runs now (the table of sources). -/
def isFresh (src : Nat) (s : State) : Bool :=
  let eps := s.get .tunEpochs 0 0 - s.get .tunSrcEp src 0
  s.on .tunSrcFresh src 0 &&
    (if src = 48 then
      decide (s.get .tunTicks 0 0 - s.get .tunSrcTick 48 0 < 2 * s.get .tunSyncCfgPeriodNs 0 0)
    else if src = 49 then decide (eps < 2 * max 1 (s.get .tunPtmCfgPeriod 0 0))
    else decide (eps < 2))

/-- A beacon's delay lies between 0 and 2,000 ns (R369). -/
def delayGood (src : Nat) (s : State) : Bool :=
  let d := s.sget .tunSrcDly src 0
  decide (0 ≤ d) && decide (d ≤ 512000)

/-- A beacon link is ADMITTED and enabled (R369, R370). -/
def beaconLink (l : Nat) (s : State) : Bool :=
  s.get .lnkStatState l 0 == lkAdmitted && (s.get .tunLnkenEn 0 0).testBit l

/-- A source is eligible (R369). -/
def isEligible (src : Nat) (s : State) : Bool :=
  isFresh src s && !s.on .tunSrcQuar src 0 &&
    (if src < 48 then
      beaconLink src s && s.on .tunSrcUsable src 0 && decide (s.get .tunSrcPlevel src 0 ≤ s.get .tunStatLevel 0 0) &&
        delayGood src s
    else if src = 48 then
      s.on .tunPolSyncEn 0 0 && (s.get .tunStatState 0 0 != 3 || s.get .tunPolForce 0 0 == 48)
    else src == 49 && s.on .tunPolPtmEn 0 0)

/-- A source drops out with a cause (R369): 0 stale, 1 its link left ADMITTED, 2 its delay is out of range. -/
def dropSource (src cause : Nat) (s : State) : State :=
  let t := if s.on .tunSrcElig src 0 then s.raise 0x0A07 8 [src, cause] else s
  (t.put .tunSrcElig src 0 0).put .tunSrcAgree src 0 0

/-- A link leaves ADMITTED: its beacon drops out at once (R369). -/
def dropBeacon (l : Nat) (s : State) : State := (dropSource l 1 s).put .tunSrcFresh l 0 0

/-- Offset of a source carried forward to the epoch (R371). -/
def carried (src : Nat) (s : State) : Int :=
  s.sget .tunSrcOff src 0 - quot (s.sget .tunRun 0 0 - s.sget .tunSrcRun src 0) (2 ^ 24) s

/-- A SYNC_IN rising edge as a time sample (R367). -/
def syncSample (sub : BitVec 8) (s : State) : State :=
  if !tunUp s || !s.on .tunSyncCfgPeriodNs 0 0 then s
  else
    let p : Int := s.get .tunSyncCfgPeriodNs 0 0 * 256
    let r : Int := ((gtcFine sub s : Int) - s.get .tunSyncCfgOffsetNs 0 0 * 256) % p
    let d := if 2 * r ≤ p then -r else p - r
    if p < 4 * d.natAbs then s.inc .tunSrcDiscards 48 0 1 else takeSample 48 (d + s.sget .tunSyncDly 0 0) 0 s

/-- A SYNC_IN edge at the Service Engine: an edge of every service, but for those of a channel in its seam interval, which
latches the first and drops the rest (R327). -/
def syncEdge (s : State) : State :=
  if !s.sveUp then s
  else
    (List.range 8).foldl (fun t ch =>
      if inSeam ch t then
        if t.on .exchSync ch 0 then
          let u := t.inc .exchStatSyncdrop ch 0 1
          u.raise 0x0808 ch [ch, u.get .exchStatSyncdrop ch 0]
        else t.put .exchSync ch 0 1
      else (boundTo (· == ch) t).foldl (fun u svc => edgeBoundary svc u) t) s

/-- SYNC_IN_EDGE: a rising edge, `sub` 1/256 ns into its tick (R367). -/
def execSyncInEdge (sub : BitVec 8) (s : State) : Out := .next (syncEdge (syncSample sub s))

/-- PTM_DIALOGUE: the dialogue of a period (R368). `ok` tells that it yielded a time, `master` is the PTM master time at the
request with the propagation delay taken in, in 1/256 ns, and `sub` the local time of the request within its tick. -/
def execPtmDialogue (ok : Bool) (master : BitVec 72) (sub : BitVec 8) (s : State) : Out :=
  if !tunUp s || decide (s.get .tunEpochs 0 0 < s.get .tunPtmNext 0 0) then .next s
  else
    let t := s.put .tunPtmNext 0 0 (s.get .tunEpochs 0 0 + max 1 (s.get .tunPtmCfgPeriod 0 0))
    .next (if ok then takeSample 49 ((master.toNat : Int) + s.sget .tunPtmOfs 0 0 - gtcFine sub s) 0 t else t)

/-- SYNC_OUT_PULSE: the pulse of a configured count (R385). -/
def execSyncOutPulse (s : State) : Out :=
  let p := s.get .tunSoutCfgPeriodNs 0 0
  let g := s.get .gtc 0 0
  if !tunUp s || p == 0 || s.get .tunStatState 0 0 == 3 || s.get .tunSoutLast 0 0 == g + 1 ||
    ((g : Int) - s.get .tunSoutCfgOffsetNs 0 0) % p != 0 then .next s
  else .next ((s.put .tunSoutLast 0 0 (g + 1)).emit (.syncPulse g))

/-! ## The fusion epoch -/

/-- Insert into a rising list. -/
def insInt (x : Int) : List Int → List Int
  | [] => [x]
  | y :: t => if x ≤ y then x :: y :: t else y :: insInt x t

/-- The values in rising order. -/
def sortInt (l : List Int) : List Int := l.foldr insInt []

/-- The median; of an even number the mean of the middle two, toward −∞ (R371). -/
def median (l : List Int) : Int :=
  let v := sortInt l
  let n := v.length
  if n % 2 = 1 then v.getD (n / 2) 0 else (v.getD (n / 2 - 1) 0 + v.getD (n / 2) 0) / 2

/-- This chip's level (R370). -/
def levelNow (s : State) : Nat :=
  if s.get .tunPolForce 0 0 ≤ 50 ∨ (s.on .tunPolSyncRef 0 0 ∧ s.on .tunSrcAgree 48 0) ∨
    (s.on .tunPolPtmRef 0 0 ∧ s.on .tunSrcAgree 49 0) then 0
  else
    (below 48 fun l => beaconLink l s && s.on .tunSrcUsable l 0 && isFresh l s).foldl
      (fun m l => min m (1 + s.get .tunSrcPlevel l 0)) 63

/-- Quarantines count down; one that ends frees its source (R371, R372). -/
def quarCount (s : State) : State :=
  (List.range 50).foldl (fun t k =>
    if !t.on .tunSrcQuar k 0 then t
    else
      let q := t.get .tunSrcQleft k 0 - 1
      (t.put .tunSrcQleft k 0 q).put .tunSrcQuar k 0 (if q = 0 then 0 else 1)) s

/-- FRESH and ELIG of every source at the epoch (R369). -/
def showSources (s : State) : State :=
  (List.range 50).foldl (fun t k =>
    let e := isEligible k t
    let f := isFresh k t
    let u := if e then t
      else if !f then dropSource k 0 t
      else if k < 48 && !delayGood k t then dropSource k 2 t
      else t.put .tunSrcElig k 0 0
    (u.put .tunSrcFresh k 0 (if f then 1 else 0)).put .tunSrcElig k 0 (if e then 1 else 0)) s

/-- The points of the drift estimate: ticks, and adopted time less ticks. -/
def festPoints (s : State) : List (Int × Int) :=
  (List.range (s.get .tunFestN 0 0)).map fun k => ((s.get .tunFestX k 0 : Int), s.sget .tunFestY k 0)

/-- Record the point of a steered epoch and set TUN_FEST to the slope of the least-squares line (R377). -/
def festRecord (e : Int) (s : State) : State :=
  let x := s.get .tunTicks 0 0
  let y : Int := (s.get .gtc 0 0 * 2 ^ 32 + s.get .gtcFrac 0 0 : Nat) + e * 2 ^ 24 - (x * 2 ^ 32 : Nat)
  let k := s.get .tunFestNext 0 0
  let t := (((s.put .tunFestX k 0 x).sput .tunFestY k 0 y).put .tunFestNext 0 0 (k + 1)).put .tunFestN 0 0
    (min 64 (s.get .tunFestN 0 0 + 1))
  let ps := festPoints t
  let n : Int := ps.length
  let sx := ps.foldl (fun a p => a + p.1) 0
  let sy := ps.foldl (fun a p => a + p.2) 0
  let den := n * ps.foldl (fun a p => a + p.1 * p.1) 0 - sx * sx
  let num := n * ps.foldl (fun a p => a + p.1 * p.2) 0 - sx * sy
  if den = 0 then t else (putShown .tunFest 0 (quot num den t) t).draw

/-- The largest trim. -/
def trimMax : Int := 1073741

/-- Steer on e (R374, R375): the trim, a step out of LOST, and the drift estimate. -/
def steer (e : Int) (s : State) : State :=
  let lost := s.get .tunStatState 0 0 == 3
  let S : Nat := if lost && decide (256 * (s.get .tunPolStepNs 0 0 : Int) < e) then (e / 256).toNat else 0
  let raw := s.sget .tunFest 0 0 + 16 * (e - 256 * S)
  let trim := max (-trimMax) (min trimMax raw)
  let t := (putShown .tunOffset 0 e (s.sput .tunTrim 0 0 trim)).put .tunAge 0 0 0
  let t := t.put .tunStatSlewing 0 0 (if 256000 < e.natAbs ∧ trim ≠ raw then 1 else 0)
  let t := festRecord e t
  if S = 0 then t else stepGtc S 0 t

/-- Run on FEST (R377); the holdover age advances where it does. -/
def runOnFest (ages : Bool) (s : State) : State :=
  let t := (s.put .tunTrim 0 0 (s.get .tunFest 0 0)).put .tunStatSlewing 0 0 0
  if ages then t.inc .tunAge 0 0 65536 else t

/-- The state an epoch ends in (R373): LOST once the age passes 30 s, and until an epoch steers with |e| at most 1,000 ns. -/
def endState (wanted : Nat) (steered : Option Int) (s : State) : Nat :=
  if 30000000000 < s.get .tunAge 0 0 then 3
  else if s.get .tunStatState 0 0 = 3 then
    match steered with
    | some e => if e.natAbs ≤ 256000 then wanted else 3
    | none => 3
  else wanted

/-- Clear CONTESTED, saying by what (R371): 0 a majority, 1 a forced source. -/
def uncontest (cause : Nat) (s : State) : State := if s.on .tunStatContested 0 0 then s.raise 0x0A04 8 [cause] else s

/-- Close an epoch: TUN_STAT shows the age and the state. -/
def closeEpoch (wanted : Nat) (contested : Bool) (steered : Option Int) (s : State) : State :=
  let st := endState wanted steered s
  let ms := min 65535 (s.get .tunAge 0 0 / 1000000)
  setTime st contested (s.put .tunStatAgeMs 0 0 ms)

/-- The epoch of a forced source (R371). -/
def forcedEpoch (f : Nat) (s : State) : State :=
  let t := (uncontest 1 s).put .tunStatForced 0 0 1
  let t := t.put .tunStatNagree 0 0 0
  let t := (List.range 50).foldl (fun t k => t.put .tunSrcAgree k 0 0) t
  if f < 50 ∧ isFresh f t then
    let e := carried f t
    closeEpoch 2 false (some e) (steer e t)
  else closeEpoch 2 false none (runOnFest (f != 50) t)

/-- Quarantine a source (R372). -/
def quarantine (src : Nat) (off m : Int) (s : State) : State :=
  (((s.put .tunSrcQuar src 0 1).put .tunSrcQleft src 0 64).inc .tunQuar 0 0 1).raise 0x0A02 8 [src, unsgn 32 off, unsgn 32 m]

/-- The epoch of the fused sources (R371). -/
def fusedEpoch (s : State) : State :=
  let t := s.put .tunStatForced 0 0 0
  let cand := below 50 fun k => t.on .tunSrcElig k 0
  let offs := cand.map fun k => (k, carried k t)
  let m := median (offs.map Prod.snd)
  let agree := offs.filter fun o => decide ((o.2 - m).natAbs ≤ 2560)
  let t := (List.range 50).foldl (fun u k => u.put .tunSrcAgree k 0 (if agree.any fun o => o.1 == k then 1 else 0)) t
  let t := (t.put .tunStatNagree 0 0 agree.length).draw
  if cand.isEmpty then closeEpoch 2 (t.on .tunStatContested 0 0) none (runOnFest true t)
  else if 2 * agree.length ≤ cand.length then
    let t := if t.on .tunStatContested 0 0 then t
      else t.raise 0x0A03 8 (offs.flatMap fun o => [o.1, unsgn 32 o.2])
    closeEpoch 2 true none (runOnFest true t)
  else
    let t := uncontest 0 t
    let t := (offs.filter fun o => !agree.contains o).foldl (fun u o => quarantine o.1 o.2 m u) t
    let e := median (agree.map Prod.snd)
    closeEpoch (if 3 ≤ agree.length then 0 else if agree.length = 2 then 1 else 2) false (some e) (steer e t)

/-! ## Time policy (R386, R588) -/

/-- The bits of TUN_STAT [31:0]. -/
def tunStatWord (s : State) : Nat :=
  s.get .tunStatState 0 0 + 4 * s.get .tunStatContested 0 0 + 8 * s.get .tunStatForced 0 0 + 16 * s.get .tunStatSlewing 0 0 +
    32 * s.get .tunStatStepped 0 0 + 2 ^ 6 * s.get .tunStatNagree 0 0 + 2 ^ 12 * s.get .tunStatNelig 0 0 +
    2 ^ 18 * s.get .tunStatLevel 0 0

/-- How many argument words each block of TIME_POLICY takes. -/
def policyWords : List Nat := [2, 2, 2, 1, 2, 1, 2, 2]

/-- The first argument word of block k, when `mask` selects the blocks. -/
def policyAt (mask k : Nat) : Nat :=
  1 + ((List.range k).foldl (fun n j => if mask.testBit j then n + policyWords.getD j 0 else n) 0)

/-- One block of a TIME_POLICY applied: whether it took effect (R386). -/
def policyBlock (mask k : Nat) (s : State) : Bool × State :=
  let i := policyAt mask k
  let a := s.get .mbxCopy i 0
  let b := s.get .mbxCopy (i + 1) 0
  let v := a + 2 ^ 32 * b
  match k with
  | 0 =>
    let t := (((s.put .tunPolSyncEn 0 0 (bitsAt v 0 1)).put .tunPolSyncRef 0 0 (bitsAt v 1 1)).put .tunPolPtmEn 0 0
      (bitsAt v 2 1)).put .tunPolPtmRef 0 0 (bitsAt v 3 1)
    (true, (t.put .tunPolForce 0 0 (bitsAt v 8 7)).put .tunPolStepNs 0 0 (bitsAt v 16 32))
  | 1 => (true, s.put .tunLnkenEn 0 0 v)
  | 2 => (true, (s.put .tunSyncCfgPeriodNs 0 0 a).put .tunSyncCfgOffsetNs 0 0 b)
  | 3 => (true, s.put .tunSyncDly 0 0 a)
  | 4 => (true, (s.put .tunSoutCfgPeriodNs 0 0 a).put .tunSoutCfgOffsetNs 0 0 b)
  | 5 => (true, s.put .tunPtmCfgPeriod 0 0 a)
  | 6 => (true, s.put .tunPtmOfs 0 0 v)
  | 7 =>
    if s.get .tunStatState 0 0 = 3 ∧ s.get .gtc 0 0 ≤ v then (true, stepGtc (v - s.get .gtc 0 0) 1 s) else (false, s)
  | _ => (true, s)

/-- A TIME_POLICY that waits is applied at the epoch: the registers it changed, and whether every block took effect. -/
def applyPolicy (s : State) : Bool × State :=
  let mask := s.get .mbxCopy 0 0 % 256
  let (ok, t) := (List.range 8).foldl (fun (r : Bool × State) k =>
    if mask.testBit k then
      let (o, u) := policyBlock mask k r.2
      (r.1 && o, u)
    else r) (true, s)
  (ok, t.raise 0x0A09 8 [mask])

/-- FUSION_EPOCH: the GTC has reached the next multiple of 65,536 (R371). -/
def execFusionEpoch (s : State) : Out :=
  if !tunUp s || decide (s.get .gtc 0 0 / 65536 ≤ s.get .tunEpochAt 0 0) then .next s
  else
    let policy := mbxIs 9 0 s
    let (ok, t) := if policy then applyPolicy s else (true, s)
    let t := (List.range 48).foldl (fun u l => u.put .tunAsymEff l 0 (u.get .tunAsym l 0)) t
    let t := quarCount t
    let t := showSources (t.put .tunStatLevel 0 0 (levelNow t))
    let t := t.put .tunStatNelig 0 0 (below 50 fun k => t.on .tunSrcElig k 0).length
    let f := t.get .tunPolForce 0 0
    let t := if f ≤ 50 then forcedEpoch f t else fusedEpoch t
    let t := (t.inc .tunEpochs 0 0 1).put .tunEpochAt 0 0 (t.get .gtc 0 0 / 65536)
    .next (if policy then mbxFinish (if ok then 0 else 9) 0 (t.put .mbxRsp 0 0 (tunStatWord t)) else t)

/-- The chip leaves STANDBY: the GTC resumes with the time that passed, and the state is LOST (R363). -/
def wakeTime (s : State) : State :=
  setTime 3 (s.on .tunStatContested 0 0) ((s.inc .gtc 0 0 (s.get .gtcAway 0 0)).put .gtcAway 0 0 0)

/-! ## LAUNCH (R379 to R381) -/

/-- The status that LAUNCH writes. -/
def launchStatus (late refused : Bool) (s : State) : Word :=
  let st := s.get .tunStatState 0 0
  BitVec.ofNat 64 ((if late then 1 else 0) + (if refused then 2 else 0) + 4 * st + (if st = 2 then 16 else 0))

/-- LAUNCH completes. -/
def launchDone (c : Nat) (gd : BitVec 5) (late refused : Bool) (s : State) : State :=
  let t := if refused then
    (s.inc .tunLrefused 0 0 1).raise 0x0A06 (chanOf c) [chanOf c, c, s.get .tunStatState 0 0]
  else s
  retire c 1 (t.setG c gd.toNat 1 (launchStatus late refused s))

/-- The target count (R379). -/
def launchTarget (c : Nat) (mode : Bool) (gs : BitVec 5) (m : BitVec 32) (s : State) : Nat :=
  let v := (s.g c gs.toNat).toNat
  let a := max 1 m.toNat
  if mode then (s.get .gtc 0 0 + v + a - 1) / a * a else v

/-- LAUNCH (R380). -/
def execLaunch (core : CoreId) (mode : Bool) (gs gd : BitVec 5) (m : BitVec 32) (s : State) : Out :=
  let c := core.val
  let was := s.isHeld c
  issue c (.launch core mode gs gd m) s fun t =>
    let t := extWait c (unclean c t)
    let now := t.get .gtc 0 0
    if was then
      if t.get .coreLaunchT c 0 ≤ now then launchDone c gd false false (t.waited c true)
      else if timeBad t then launchDone c gd false true (t.waited c true)
      else t.hold c (.launch core mode gs gd m) stWaiting 12 0
    else
      let t := t.stallG c [gs.toNat]
      let T := launchTarget c mode gs m t
      if timeBad t then launchDone c gd false true t
      else if T < now then launchDone c gd true false t
      else if T = now then launchDone c gd false false t
      else (t.put .coreLaunchT c 0 T).hold c (.launch core mode gs gd m) stWaiting 12 0

/-! ## Refresh slots (R348, R349, R237) -/

/-- REFRESH_SLOT: a refresh slot of the stack opens. The pending slot period takes effect, the slot counter's own restart is
done once M is reached, and the service slots restart with a new RSVC (R237). -/
def execRefreshSlot (ch : Chan) (s : State) : Out :=
  let c := ch.val
  if !s.on .chCfgRefalign c 0 || !s.chanRuns c then .next s
  else
    let t := if s.on .refRestart c 0 && decide (s.get .refBase c 0 ≤ s.get .gtc 0 0) then s.put .refRestart c 0 0 else s
    let p := s.get .refPend c 0
    let t := if p ≠ s.get .refHalf c 0 then detCause c cRef (t.put .refHalf c 0 p) else t
    .next ((t.put .foxServK c 0 0).put .foxRsvcEff c 0 (min 4 (s.get .foxCtlRsvc c 0)))

end Sys2Proof.Machine
end

