-- ==== Sys2Proof/Machine/Links.lean ====
section
/-!
DEFINITION. Tlail links: flits on the wire, the receive rule, retry, beacons, link states, admission, retirement, and the
delivery of every kind of flit (R394 to R418, R433 to R435).
-/
namespace Sys2Proof.Machine

/-! ## Flits on the wire (R394) -/

/-- Bytes into a CRC-32C register, least significant bit first. -/
def crc32cBits : Nat → Nat → Nat
  | 0, r => r
  | n + 1, r => crc32cBits n (if r % 2 = 1 then (r / 2) ^^^ 0x82F63B78 else r / 2)

/-- CRC-32C of some bytes. -/
def crc32c (bs : List (BitVec 8)) : Nat :=
  (bs.foldl (fun r b => crc32cBits 8 (r ^^^ b.toNat)) 0xFFFFFFFF) ^^^ 0xFFFFFFFF

/-- The 12 header bytes of a flit. -/
def flitHeader (f : Flit) : List (BitVec 8) :=
  [BitVec.ofNat 8 (f.kind * 16 + (if f.last then 8 else 0) + (if f.spec then 4 else 0))] ++
    beBytes 2 (f.hops * 4096 + f.seq) ++ beBytes 2 ((if f.ackv then 2 ^ 15 else 0) + f.ack) ++ beBytes 2 f.dchip ++
    beBytes 2 f.schip ++ [BitVec.ofNat 8 (f.dch * 32 + f.sch * 4)] ++ beBytes 2 f.arg

/-- The 272 bytes of a flit. -/
def flitBytes (f : Flit) : List (BitVec 8) :=
  let body := flitHeader f ++ payload f.payload
  body ++ beBytes 4 (crc32c body)

/-- Kinds that are numbered and retried (R395). -/
def isSequenced (kind : Nat) : Bool := kind ≠ 0 && kind ≠ 1 && kind ≠ 8

/-! ## Link states (R407, R409, R417) -/

/-- A link the die has. -/
def hasLink (l : Nat) (s : State) : Bool := decide (l < s.get .idGradeLinks 0 0)

/-- The link carries flits. -/
def linkRuns (l : Nat) (s : State) : Bool :=
  s.get .lnkStatState l 0 == lkIsolated || s.get .lnkStatState l 0 == lkAdmitted

/-- Episodes of a link that opened in the last second. -/
def recentEpisodes (l : Nat) (s : State) : Nat :=
  (below 256 fun k => s.on .lnkEpTime l k && decide (s.get .gtc 0 0 < s.get .lnkEpTime l k + 1000000000)).length

/-- Drop what the link would send: its queues and its retry buffer (R417). -/
def dropLinkQueues (l : Nat) (s : State) : State :=
  ({ s with txq := tclear (fun k => k / 8 == l) s.txq, retry := tdel s.retry l }).put .lnkReplay l 0 0

/-- What follows when a link leaves ADMITTED, in the order of R417. -/
def leaveAdmitted (l : Nat) (s : State) : State :=
  let ch := l / 6
  let t := setLinkDown ch (l % 6) (dropLinkQueues l s)
  let t := foxReserve ch (failMsgs ch 2 (fun m => m.link == l) t)
  let t := dropBeacon l t
  (List.range 4).foldl (fun t b =>
    if ((!fbarRoot b t && fbarUp b t == l && (fbarChans b t).contains ch) || (fbarDowns b t).contains l) && fabricOpen b t then
      faultFabric b 2 none t
    else t) t

/-- The link's link-level state as it begins to train (R408, LNK_CERT_DIGEST). -/
def beginTraining (l : Nat) (s : State) : State :=
  let t := s.clearFlds [.lnkStatLadmit, .lnkStatPadmit, .lnkHello, .lnkStatLock, .lnkCertDigest, .lnkMeasDigest, .lnkEpTime,
    .lnkEpNext, .lnkRxEp, .lnkTxEp, .lnkNakPend, .lnkNakDue, .lnkBcnSent, .lnkBcnDue, .lnkAttGot] (· == l)
  let t : State := { t with attest := tclear (fun k => k / 2 == l) t.attest }
  ((dropLinkQueues l t).put .lnkNonce l 0 (Config.freeNat t.ctr)).draw

/-- The link begins to carry coded flits: SEQ and expected start at 0 (R400). -/
def beginIsolated (l : Nat) (s : State) : State :=
  let t := dropLinkQueues l s
  (t.clearFlds [.lnkTxSeq, .lnkExp, .lnkNakPend, .lnkNakDue, .lnkRxEp, .lnkTxEp, .lnkRot] (· == l)).put .lnkStatLock l 0 1

/-- Change a link's state (R407, R409, R417, R418); `why` is FCAUSE, for an exit from TRAINED-ISOLATED or ADMITTED. -/
def setLink (l new why : Nat) (s : State) : State :=
  let old := s.get .lnkStatState l 0
  if old = new then s
  else
    let t := s.put .lnkStatState l 0 new
    let exit : Bool := old == lkAdmitted || (old == lkIsolated && new != lkAdmitted)
    let t := if exit then t.put .lnkStatFcause l 0 why else t
    let t := if old = lkAdmitted then leaveAdmitted l t else t
    let n := recentEpisodes l t
    let t := match new with
      | 0 => (dropLinkQueues l t).put .lnkStatLock l 0 0
      | 1 => beginTraining l t
      | 2 => beginIsolated l t
      | 3 => t.put .lnkEverAdm l 0 1
      | 4 => (dropLinkQueues l t).raise 0x0B03 8 [l, t.get .lnkStatFcause l 0, n]
      | _ => (dropLinkQueues l t).put .lnkStatLock l 0 0
    (t.raise 0x0B01 8 [l, old, new, t.get .lnkStatFcause l 0]).mgCause 5

/-- A link stops for a cause: it goes DOWN from any state but RETIRED (R409). -/
def linkStop (l why : Nat) (s : State) : State := if s.get .lnkStatState l 0 = lkRetired then s else setLink l lkDown why s

/-- The links may train: the Tlail microcode is loaded (R449, R459), and the chip is neither in STANDBY nor tripped (R409, R511). -/
def linksPowered (s : State) : Bool := s.get .msrBootStage 0 0 == 3 && tunUp s && !s.cut && !s.on .tlailBad 0 0

/-- The module in a cage link's cage does not fit it, and stays in low-power mode (R612). -/
def overClass (l : Nat) (s : State) : Bool := cageLinks.contains l && s.on .fpnCageOverclass (cageLinks.findIdx (· == l) / 2) 0

/-- Start training where the link is DOWN and may: EN, a signal, a cable, and a chip that allows it (R407, R409). -/
def linkStart (l : Nat) (s : State) : State :=
  if s.get .lnkStatState l 0 = lkDown ∧ s.on .lnkCfgEn l 0 ∧ s.on .lnkStatSignal l 0 ∧ s.on .lnkStatCable l 0 ∧ linksPowered s ∧ !overClass l s then
    setLink l lkTraining 0 s
  else s

/-- SIGNAL_DETECT: a signal on all four lanes of a link, or the next try of a second later (R407). -/
def execSignalDetect (link : LinkId) (s : State) : Out :=
  .next (if hasLink link.val s then linkStart link.val (s.put .lnkStatSignal link.val 0 1) else s)

/-- TRAINING_COMPLETE: equalisation, deskew and lock are complete, and a HELLO has come (R393, R407). -/
def execTrainingComplete (link : LinkId) (s : State) : Out :=
  .next (if s.get .lnkStatState link.val 0 = lkTraining ∧ s.on .lnkHello link.val 0 then setLink link.val lkIsolated 0 s else s)

/-- TRAINING_TIMEOUT: 500 ms without completion (R407). -/
def execTrainingTimeout (link : LinkId) (s : State) : Out :=
  .next (if s.get .lnkStatState link.val 0 = lkTraining then setLink link.val lkDown 0 s else s)

/-- A link loses its signal (1), its lock (2) or its cable (3) (R409). A link in FAULT goes DOWN too (R411). -/
def linkLost (l cause : Nat) (s : State) : State :=
  let st := s.get .lnkStatState l 0
  let t := match cause with
    | 1 => (s.put .lnkStatSignal l 0 0).put .lnkStatLock l 0 0
    | 2 => s.put .lnkStatLock l 0 0
    | _ => ((s.put .lnkStatCable l 0 0).put .lnkStatSignal l 0 0).put .lnkStatLock l 0 0
  if st = lkIsolated ∨ st = lkAdmitted ∨ (st = lkFault ∧ cause ≠ 2) ∨ (st = lkTraining ∧ cause = 3) then setLink l lkDown cause t
  else t

/-- SIGNAL_LOSS: loss of signal for 1 µs, of lock for 10 µs, or of the cable (R409). -/
def execSignalLoss (link : LinkId) (cause : BitVec 2) (s : State) : Out :=
  .next (if hasLink link.val s && cause != 0#2 && (cause != 3#2 || cageLinks.contains link.val) then linkLost link.val cause.toNat s
    else s)

/-- FAULT_RETRAIN: 100 µs after FAULT (R407). -/
def execFaultRetrain (link : LinkId) (s : State) : Out :=
  .next (if s.get .lnkStatState link.val 0 = lkFault then setLink link.val lkTraining 0 s else s)

/-! ## Retry (R400 to R403) -/

/-- A retry episode opens on this side: counted at the link and at its channel (R402). -/
def countEpisode (l : Nat) (s : State) : State :=
  let k := s.get .lnkEpNext l 0
  let t := ((s.inc .lnkEpisodes l 0 1).put .lnkEpTime l k (s.get .gtc 0 0 + 1)).put .lnkEpNext l 0 (k + 1)
  countRetry (l / 6) (t.tally 0x0B02 8 l 0 1)

/-- A flit that fails its CRC or comes out of sequence: a NAK, once, which opens a receive episode (R400). -/
def nakFlit (l : Nat) (s : State) : State :=
  if s.on .lnkNakPend l 0 then s
  else countEpisode l ((((s.put .lnkNakPend l 0 1).put .lnkNakDue l 0 1).put .lnkRxEp l 0 1).put .lnkRxEpAt l 0 (s.get .gtc 0 0))

/-- Release the retry buffer up to an acknowledged SEQ; the send episode ends with the flit replayed first (R400, R401). -/
def ackFlits (l ack : Nat) (s : State) : State :=
  let q := tget [] s.retry l
  let gone := q.takeWhile fun f => decide ((ack + 4096 - f.seq) % 4096 < 2048)
  if gone.isEmpty then s
  else
    let rest := q.drop gone.length
    let t := ({ s with retry := tsetD [] s.retry l rest }).put .lnkAckAt l 0 (s.get .gtc 0 0)
    let t := t.put .lnkReplay l 0 (min (t.get .lnkReplay l 0) rest.length)
    if t.on .lnkTxEp l 0 && gone.any fun f => f.seq == t.get .lnkTxEpSeq l 0 then t.put .lnkTxEp l 0 0 else t

/-- Replay every unacknowledged flit; a send episode opens unless one is open (R401). With nothing to replay it ends at once. -/
def replay (l : Nat) (s : State) : State :=
  let q := tget [] s.retry l
  let t := (s.put .lnkReplay l 0 q.length).put .lnkAckAt l 0 (s.get .gtc 0 0)
  if t.on .lnkTxEp l 0 then t
  else
    match q with
    | [] => countEpisode l t
    | f :: _ => countEpisode l (((t.put .lnkTxEp l 0 1).put .lnkTxEpSeq l 0 f.seq).put .lnkTxEpAt l 0 (s.get .gtc 0 0))

/-- The receive rule (R400): a good flit of a kind, delivered by `k`. -/
def receive (l : Nat) (h : FlitHdr) (kind : Nat) (k : State → State) (s : State) : State :=
  if !linkRuns l s then s
  else
    let s := s.inc .lnkFecCorr l 0 h.corr.toNat
    let e := s.get .lnkExp l 0
    if isSequenced kind && h.seq.toNat ≠ e then
      if (e + 4096 - h.seq.toNat) % 4096 ≤ 2048 then s else nakFlit l s
    else
      let t := (s.put .lnkNakPend l 0 0).put .lnkRxEp l 0 0
      let t := if isSequenced kind then t.put .lnkExp l 0 (e + 1) else t
      let t := k t
      if h.ackv then ackFlits l h.ack.toNat t else t

/-- A flit that counts as delivered. -/
def delivered (l : Nat) (k : State → State) (s : State) : State := k (s.inc .lnkRxFlits l 0 1)

/-- A routed flit: for this chip, to be forwarded, or discarded on a link that is not ADMITTED (R407, R413). Routed flits for the
channels of a frozen chip are discarded. -/
def routed (l : Nat) (h : FlitHdr) (f : Flit) (mine : State → State) (s : State) : Out :=
  .next (receive l h f.kind (fun t =>
    if t.get .lnkStatState l 0 ≠ lkAdmitted then (t.inc .lnkIsoDrop l 0 1).tally 0x0B08 8 l 0 1
    else delivered l (fun u =>
      if h.dchip.toNat = chipId u then (if u.frozen then u else mine u)
      else forward (l / 6) { f with hops := h.hops.toNat, dchip := h.dchip.toNat, schip := h.schip.toNat, dch := h.dch.val, sch := h.sch.val } u) t) s)

/-- CRC_FAIL: a flit fails its CRC (R400); the codewords that held it may be uncorrectable. -/
def execCrcFail (link : LinkId) (corr : BitVec 16) (uncorr : BitVec 8) (s : State) : Out :=
  let l := link.val
  .next (if linkRuns l s then
    nakFlit l (((s.inc .lnkCrcErr l 0 1).inc .lnkFecCorr l 0 corr.toNat).inc .lnkFecUncorr l 0 uncorr.toNat)
  else s)

/-- IDLE: only its ACK counts (R400). -/
def execIdle (link : LinkId) (h : FlitHdr) (s : State) : Out := .next (receive link.val h 0 id s)

/-- NAK: everything from ACK + 1 on is replayed (R401). -/
def execNak (link : LinkId) (h : FlitHdr) (s : State) : Out :=
  let l := link.val
  .next (if linkRuns l s then replay l (receive l h 1 (delivered l id) s) else s)

/-- ACK_TIMEOUT: 10 µs with flits unacknowledged and no ACK progress (R401). -/
def execAckTimeout (link : LinkId) (s : State) : Out :=
  let l := link.val
  .next (if linkRuns l s && !(tget [] s.retry l).isEmpty && decide (s.get .lnkAckAt l 0 + 10000 ≤ s.get .gtc 0 0) then replay l s
    else s)

/-- EPISODE_LIMIT: an episode has stayed open for 1 ms, or 256 have opened within a second (R403). -/
def execEpisodeLimit (link : LinkId) (s : State) : Out :=
  let l := link.val
  let now := s.get .gtc 0 0
  if !linkRuns l s then .next s
  else if (s.on .lnkRxEp l 0 && decide (s.get .lnkRxEpAt l 0 + 1000000 ≤ now)) ||
      (s.on .lnkTxEp l 0 && decide (s.get .lnkTxEpAt l 0 + 1000000 ≤ now)) then .next (setLink l lkFault 6 s)
  else
    let k := s.get .lnkEpNext l 0
    let oldest := s.get .lnkEpTime l k
    if oldest ≠ 0 ∧ s.get .lnkEpTime l ((k + 255) % 256) ≤ oldest + 1000000000 then .next (setLink l lkFault 7 s)
    else .next s

/-! ## Sending (R397, R404, R408) -/

/-- The payload of a LINKCTL flit. -/
def ctlBody (l echo : Nat) (s : State) : List (BitVec 8) :=
  beBytes 8 (s.get .lnkNonce l 0) ++ beBytes 2 (s.get .fabCtlValid 0 0 * 2 ^ 15 + chipId s) ++ beBytes 1 l ++
    beBytes 2 (s.get .idPartPart 0 0) ++ beBytes 1 (s.get .idPartStep 0 0) ++ List.replicate 2 0#8 ++ beBytes 8 echo

/-- Queue a LINKCTL flit: OP 0 HELLO, 1 ADMIT, 2 RETIRE. -/
def sendCtl (l op : Nat) (s : State) : State :=
  queueFlit l 0 { kind := 11, arg := op * 2 ^ 12, payload := payload (ctlBody l (if op = 1 then s.get .lnkPnonce l 0 else 0) s) } s

/-- HELLO_SEND (R407, R408). -/
def execHelloSend (link : LinkId) (s : State) : Out :=
  let l := link.val
  .next (if linkRuns l s || s.get .lnkStatState l 0 == lkTraining then sendCtl l 0 s else s)

/-- BEACON_SEND: a GTC multiple of 65,536 has come, and a beacon falls due on every link from TRAINED-ISOLATED on (R404). -/
def execBeaconSend (s : State) : Out :=
  let e := s.get .gtc 0 0 / 65536
  if e ≤ s.get .lnkBcnAt 0 0 then .next s
  else .next (((List.range 48).foldl (fun t l => if linkRuns l t then t.put .lnkBcnDue l 0 1 else t) s).put .lnkBcnAt 0 0 e)

/-- This chip's time may be used by its neighbours (R366, R370). -/
def usableTime (s : State) : Bool :=
  let st := s.get .tunStatState 0 0
  s.get .tunStatLevel 0 0 != 63 &&
    (decide (st < 2) || (st == 2 && s.get .tunAge 0 0 == 0 && !s.on .tunStatContested 0 0))

/-- The beacon of a link, sent now (R404). -/
def beaconFlit (l : Nat) (frac : BitVec 8) (s : State) : Flit :=
  { kind := 8, payload := payload (beBytes 8 (gtcFine frac s) ++ beBytes 8 (s.get .lnkPeerTx l 0) ++
    beBytes 8 (s.get .lnkPeerRx l 0) ++
    [BitVec.ofNat 8 (s.get .tunStatLevel 0 0 * 4 + (if usableTime s then 2 else 0)),
      BitVec.ofNat 8 (s.get .lnkBseq l 0 + 1), BitVec.ofNat 8 (s.get .lnkPeerBseq l 0)]) }

/-- Put a flit on the wire: it carries the latest ACK (R397). -/
def wire (l : Nat) (f : Flit) (s : State) : State :=
  let f := { f with ackv := true, ack := (s.get .lnkExp l 0 + 4095) % 4096 }
  (if f.kind = 0 then s else s.inc .lnkTxFlits l 0 1).emit (.flit l (flitBytes f))

/-- The first queue with a flit, of some classes in order. -/
def firstClass (l : Nat) (s : State) (cs : List Nat) : Option Nat := cs.find? fun k => !(tget [] s.txq (l * 8 + k)).isEmpty

/-- The classes in the order in which the next new flit is sought: the rotation is of classes 2 to 4 (R397). -/
def classOrder (l : Nat) (s : State) : List Nat :=
  let r := s.get .lnkRot l 0
  [0, 1, 2 + r % 3, 2 + (r + 1) % 3, 2 + (r + 2) % 3, 5]

/-- Send the next new flit, an IDLE where none may go. -/
def sendNew (l : Nat) (s : State) : State :=
  let idle : Flit := { kind := 0, schip := chipId s }
  let q := tget [] s.retry l
  if 512 ≤ q.length then wire l idle s
  else
    match firstClass l s (classOrder l s) with
    | none => wire l idle s
    | some k =>
      match tget [] s.txq (l * 8 + k) with
      | [] => wire l idle s
      | f :: rest =>
        let local' : Bool := 9 ≤ f.kind
        let f := { f with seq := s.get .lnkTxSeq l 0, schip := if local' then chipId s else f.schip }
        let t : State := { s with txq := tsetD [] s.txq (l * 8 + k) rest, retry := tset s.retry l (q ++ [f]) }
        let t := t.put .lnkTxSeq l 0 (f.seq + 1)
        let t := if q.isEmpty then t.put .lnkAckAt l 0 (s.get .gtc 0 0) else t
        wire l f (if 2 ≤ k ∧ k ≤ 4 then t.put .lnkRot l 0 ((k - 1) % 3) else t)

/-- A LINKCTL of TRAINING, which is neither numbered nor kept; otherwise an IDLE (R407). -/
def sendTraining (l : Nat) (s : State) : State :=
  match tget [] s.txq (l * 8) with
  | f :: rest => wire l { f with schip := chipId s } { s with txq := tsetD [] s.txq (l * 8) rest }
  | [] => wire l { kind := 0, schip := chipId s } s

/-- FLIT_TRANSMIT: one flit period of a link's transmitter (R397); `frac` is the time within the GTC tick at which it leaves. -/
def execFlitTransmit (link : LinkId) (frac : BitVec 8) (s : State) : Out :=
  let l := link.val
  if s.get .lnkStatState l 0 = lkTraining then .next (sendTraining l s)
  else if !linkRuns l s then .next s
  else if s.on .lnkNakDue l 0 then .next (wire l { kind := 1, schip := chipId s } (s.put .lnkNakDue l 0 0))
  else
    let n := s.get .lnkReplay l 0
    let q := tget [] s.retry l
    match (if n = 0 then none else q[q.length - n]?) with
    | some f => .next (wire l f (s.put .lnkReplay l 0 (n - 1)))
    | none =>
      if s.on .lnkBcnDue l 0 then
        let t := wire l { (beaconFlit l frac s) with schip := chipId s } s
        .next (((t.put .lnkBcnDue l 0 0).put .lnkBcnSent l 0 1).put .lnkBseq l 0 (s.get .lnkBseq l 0 + 1))
      else .next (sendNew l s)

/-! ## Routed flits -/

/-- FLOW: words for an input endpoint of a core (R399, R434, R490). -/
def execFlow (link : LinkId) (h : FlitHdr) (core : BitVec 8) (ep : BitVec 3) (words : List (BitVec 512)) (s : State) : Out :=
  let ch := h.dch.val
  let arg := core.toNat * 2 ^ 8 + ep.toNat * 2 ^ 5 + (words.length - 1) * 2 ^ 3
  let f : Flit := { kind := 2, arg := arg, payload := payload (words.flatMap fun w => leBytes 64 w.toNat) }
  routed link.val h f (fun t =>
    if t.get .chPwrStatState ch 0 ≠ 0 then t.inc .chPwrDrops ch 0 1
    else if !granted ch h.schip.toNat h.sch.val .ownGrantRecv t then (t.inc .ownFiltRx ch 0 1).tally 0x0C08 ch ch 1 1
    else if 160 ≤ core.toNat ∨ !t.present (coreIn ch core.toNat) then t
    else words.foldl (fun t w => t.send ch (.word (coreIn ch core.toNat) ep.toNat w true)) t) s

/-- Refuse a remote read (R237, R434, R435): counted, event 0x0504, and an RREF with its cause. -/
def refuse (ch : Nat) (h : FlitHdr) (msgid cause : Nat) (s : State) : State :=
  let t := (s.inc .foxRefused ch 0 1).raise 0x0504 ch [h.schip.toNat, h.sch.val, cause]
  (originate ch 3 { kind := 5, dchip := h.schip.toNat, dch := h.sch.val, arg := msgid * 2 ^ 9, payload := payload [BitVec.ofNat 8 cause] } t).2

/-- RREQ: a remote read joins the queue of the serving channel, or is refused (R237, R434, R435, R490). `full` tells that the
queue, whose size the spec does not give, has no room. -/
def execRreq (link : LinkId) (h : FlitHdr) (msgid : BitVec 7) (spec : Bool) (addr : BitVec 40) (words : BitVec 6) (tag : BitVec 16)
    (full : Bool) (s : State) : Out :=
  let ch := h.dch.val
  let n := words.toNat + 1
  let f : Flit := { kind := 3, spec := spec, arg := msgid.toNat * 2 ^ 9, payload := payload (beBytes 5 addr.toNat ++ [BitVec.ofNat 8 words.toNat] ++ beBytes 2 tag.toNat) }
  routed link.val h f (fun t =>
    let o := t.get .ownChStatState ch 0
    if (o != 1 && o != 3) || t.get .chPwrStatState ch 0 != 0 then refuse ch h msgid.toNat 5 t
    else if !granted ch h.schip.toNat h.sch.val .ownGrantServe t then refuse ch h msgid.toNat 2 t
    else if t.get .foxRsvcEff ch 0 = 0 then refuse ch h msgid.toNat 1 t
    else if full then refuse ch h msgid.toNat 4 t
    else if 0x900000000 < addr.toNat / 64 * 64 + n * 64 then havoc ch t
    else { t with foxPeer := tset t.foxPeer ch (tget [] t.foxPeer ch ++
      [⟨h.schip.toNat, h.sch.val, msgid.toNat, addr.toNat / 64 * 64, n, [], spec, tag.toNat⟩]) }) s

/-- Land some words of a remote message (R217, R234). -/
def landReply (ch : Nat) (m : RMsg) (cells : List (BitVec 8 × Access)) (ws : List (Nat × List (BitVec 8) × Bool)) (s : State) : State :=
  ws.foldl (fun t w =>
    match (t.entries ch).find? fun x => x.2.seq == m.seq with
    | some (e, d) => landWord ch e d (m.w + w.1) m.ix w.2.1 w.2.2 cells t
    | none => t) s

/-- RDATA: words 4 × IDX on of a remote read land at the requester; the last completes the message (R234, R396). -/
def execRdata (link : LinkId) (h : FlitHdr) (msgid : BitVec 7) (idx wpois : BitVec 4) (last : Bool) (words : List (BitVec 512))
    (cells : List (BitVec 8 × Access)) (s : State) : Out :=
  let ch := h.dch.val
  let arg := msgid.toNat * 2 ^ 9 + idx.toNat * 2 ^ 5 + wpois.toNat
  let f : Flit := { kind := 4, last := last, arg := arg, payload := payload (words.flatMap fun w => leBytes 64 w.toNat) }
  routed link.val h f (fun t =>
    match (t.msgs ch).find? fun m => m.id == msgid.toNat with
    | none => t
    | some m =>
      let ks := (List.range 4).filter fun j => decide (4 * idx.toNat + j < m.n) && !m.got.contains (4 * idx.toNat + j)
      let ws := ks.map fun j => (4 * idx.toNat + j, leBytes 64 (words.getD j 0#512).toNat, wpois.getLsbD j)
      let m' := { m with got := m.got ++ ks.map fun j => 4 * idx.toNat + j }
      let t := t.setMsgs ch (if last then (t.msgs ch).filter fun x => x.id != m.id
        else (t.msgs ch).map fun x => if x.id = m.id then m' else x)
      foxReserve ch (landReply ch m cells ws t)) s

/-- RREF: the peer refuses a remote read, which completes with every word POISON (R234). -/
def execRref (link : LinkId) (h : FlitHdr) (msgid : BitVec 7) (cause : BitVec 8) (cells : List (BitVec 8 × Access)) (s : State) : Out :=
  let ch := h.dch.val
  routed link.val h { kind := 5, arg := msgid.toNat * 2 ^ 9, payload := payload [cause] } (fun t =>
    match (t.msgs ch).find? fun m => m.id == msgid.toNat with
    | none => t
    | some m => foxReserve ch (failMsg ch m 0 cells t)) s

/-- COMMIT: the tag's queued SPEC reads of the requester become ordinary (R238, R434). -/
def execCommit (link : LinkId) (h : FlitHdr) (tag : BitVec 16) (s : State) : Out :=
  let ch := h.dch.val
  routed link.val h { kind := 6, arg := tag.toNat, payload := payload [0#8] } (fun t =>
    if granted ch h.schip.toNat h.sch.val .ownGrantServe t then
      { t with foxPeer := tsetD [] t.foxPeer ch ((tget [] t.foxPeer ch).map fun m =>
        if m.chip = h.schip.toNat ∧ m.pch = h.sch.val ∧ m.tag = tag.toNat then { m with spec := false } else m) }
    else t) s

/-- CANCEL: it changes nothing at the peer (R238). -/
def execCancel (link : LinkId) (h : FlitHdr) (tag : BitVec 16) (s : State) : Out :=
  routed link.val h { kind := 6, arg := tag.toNat, payload := payload [1#8] } id s

/-- HOPFAIL: RTE_LINKF.DOWN sets for the enabled link FLOW routes of the active plan to the failed chip (R415). -/
def execHopfail (link : LinkId) (h : FlitHdr) (chip : BitVec 15) (fch : Chan) (cause : BitVec 8) (by' : BitVec 15) (s : State) : Out :=
  let ch := h.dch.val
  let body := beBytes 2 chip.toNat ++ [BitVec.ofNat 8 (fch.val * 32), cause] ++ beBytes 2 by'.toNat
  routed link.val h { kind := 7, payload := payload body } (fun t =>
    let plan := t.get .rteCtlActive ch 0 * 1280
    let t := t.inc .fabHopfailRx 0 0 1
    let hit := below 6 fun i => (List.range 1280).any fun k =>
      let v := t.get .rteRoute ch (plan + k)
      routeEn v && routeLink v && !routeSignal v && bitsAt v 19 15 == chip.toNat && bitsAt v 16 3 == i
    (hit.foldl (fun t i => setLinkDown ch i t) t).raise 0x0B07 ch [ch, chip.toNat, fch.val, cause.toNat, by'.toNat]) s

/-! ## Link-local flits -/

/-- A difference of two 64-bit timestamps, which wrap (R396). -/
def stampDiff (a b : Nat) : Int := sgn 64 ((a + 2 ^ 64 - b % 2 ^ 64) % 2 ^ 64)

/-- BEACON: the peer's level and USABLE bit, and the sample of R366 where it answers this side's latest beacon (R404). -/
def execBeacon (link : LinkId) (h : FlitHdr) (txts peerTx rxts : BitVec 64) (level : BitVec 6) (usable : Bool) (bseq rxseq : BitVec 8)
    (frac : BitVec 8) (s : State) : Out :=
  let l := link.val
  .next (receive l h 8 (delivered l fun t =>
    let now := gtcFine frac t % 2 ^ 64
    let u := ((t.put .lnkPeerBseq l 0 bseq.toNat).put .lnkPeerTx l 0 txts.toNat).put .lnkPeerRx l 0 now
    let u := (u.put .tunSrcPlevel l 0 level.toNat).put .tunSrcUsable l 0 (if usable then 1 else 0)
    if t.on .lnkBcnSent l 0 && t.get .lnkBseq l 0 == rxseq.toNat then
      let t1 := peerTx.toNat
      let t2 := rxts.toNat
      let t3 := txts.toNat
      let off := quot (stampDiff t2 t1 + stampDiff t3 now) 2 u - u.sget .tunAsymEff l 0
      let dly := quot (stampDiff now t1 - stampDiff t3 t2) 2 u
      takeSample l off dly u.draw
    else u) s)

/-- A BARRIER flit acts in the generation it names, and is dropped as stale in any other (R405). -/
def barrierFlit (link : LinkId) (h : FlitHdr) (bid : BitVec 2) (gen : BitVec 32) (k : State → State) (s : State) : Out :=
  let l := link.val
  .next (receive l h 9 (fun t =>
    let g := t.get .fbarGen bid.toNat 0
    if gen.toNat ≠ g then (t.inc .lnkRxDrop l 0 1).raise 0x0B0A 8 [l, bid.toNat, gen.toNat, g]
    else delivered l k t) s)

/-- ARRIVE (R383). -/
def execArrive (link : LinkId) (h : FlitHdr) (bid : BitVec 2) (gen : BitVec 32) (s : State) : Out :=
  barrierFlit link h bid gen (fun t =>
    if (fbarDowns bid.toNat t).contains link.val then tryFabric bid.toNat (t.put .fbarArr bid.toNat link.val 1) else t) s

/-- The link toward the root of a fabric barrier, where this chip takes part and is not the root. -/
def isUpLink (b l : Nat) (s : State) : Bool :=
  !fbarRoot b s && fbarUp b s == l && (fbarChans b s).contains (l / 6)

/-- RELEASE (R383). -/
def execRelease (link : LinkId) (h : FlitHdr) (bid : BitVec 2) (gen : BitVec 32) (count : BitVec 64) (s : State) : Out :=
  barrierFlit link h bid gen (fun t =>
    if isUpLink bid.toNat link.val t then gotRelease bid.toNat count.toNat t else t) s

/-- FAULT (R384). -/
def execFault (link : LinkId) (h : FlitHdr) (bid : BitVec 2) (gen : BitVec 32) (cause : BitVec 2) (s : State) : Out :=
  barrierFlit link h bid gen (fun t =>
    if isUpLink bid.toNat link.val t || (fbarDowns bid.toNat t).contains link.val then
      faultFabric bid.toNat cause.toNat (some link.val) t
    else t) s

/-- Send an SPDM message over a link, in segments of at most 254 bytes (R406). -/
def sendAttest (l dir xid : Nat) : Nat → Nat → List (BitVec 8) → State → State
  | 0, _, _, s => s
  | n + 1, seg, bs, s =>
    let part := bs.take 254
    let last : Bool := decide (bs.length ≤ 254)
    let f : Flit := { kind := 10, last := last, arg := xid * 256 + seg * 16 + dir * 8, payload := payload (beBytes 2 part.length ++ part) }
    let t := queueFlit l 5 f s
    if last then t else sendAttest l dir xid n (seg + 1) (bs.drop 254) t

/-- The next request of an attestation that this chip runs as Requester: GET_VERSION first; what follows is the firmware's. -/
def nextAttest (l : Nat) (first : Bool) (s : State) : State :=
  let xid := Config.freeNat s.ctr % 256
  sendAttest l 0 xid 16 0 (if first then [0x10#8, 0x84#8, 0#8, 0#8] else (Config.freeBytes s.ctr).take 4064) s.draw

/-- ATTEST: a segment of an SPDM message between the two chips' firmware (R406). A whole request waits for its answer; a whole
response lets this chip's own exchange go on. -/
def execAttest (link : LinkId) (h : FlitHdr) (xid : BitVec 8) (seg : BitVec 4) (resp last : Bool) (data : List (BitVec 8)) (s : State) : Out :=
  let l := link.val
  let k := l * 2 + (if resp then 1 else 0)
  .next (receive l h 10 (delivered l fun t =>
    let so := if seg = 0#4 then [] else tget [] t.attest k
    let t : State := { t with attest := tset t.attest k (so ++ data) }
    if !last then t
    else if !resp then (t.put .lnkAttGot l 0 1).put .lnkAttXid l 0 xid.toNat
    else if t.get .lnkAttStatAtt l 0 = 1 then nextAttest l false { t with attest := tdel t.attest k }
    else { t with attest := tdel t.attest k }) s)

/-- A LINKCTL flit: TRAINING takes it as it is, the coded states by the receive rule (R407). -/
def ctlFlit (l : Nat) (h : FlitHdr) (k : State → State) (s : State) : Out :=
  .next (if s.get .lnkStatState l 0 = lkTraining then delivered l k s else receive l h 11 (delivered l k) s)

/-- HELLO: LNK_PEER shows the peer (R408). -/
def execHello (link : LinkId) (h : FlitHdr) (c : LinkCtl) (s : State) : Out :=
  let l := link.val
  ctlFlit l h (fun t =>
    let t := (((((t.put .lnkPeerChip l 0 c.chip.toNat).put .lnkPeerValid l 0 (if c.valid then 1 else 0)).put .lnkPeerPlink l 0
      c.plink.toNat).put .lnkPeerPart l 0 c.part.toNat).put .lnkPeerStep l 0 c.step.toNat).put .lnkPnonce l 0 c.nonce.toNat
    t.put .lnkHello l 0 1) s

/-- A TRAINED-ISOLATED link with both flags is ADMITTED (R408). -/
def tryAdmitted (l : Nat) (s : State) : State :=
  if s.get .lnkStatState l 0 = lkIsolated ∧ s.on .lnkStatLadmit l 0 ∧ s.on .lnkStatPadmit l 0 then setLink l lkAdmitted 0 s else s

/-- ADMIT: the peer's, where it echoes this side's current NONCE (R408). -/
def execPeerAdmit (link : LinkId) (h : FlitHdr) (_c : LinkCtl) (echo : BitVec 64) (s : State) : Out :=
  let l := link.val
  ctlFlit l h (fun t =>
    if echo.toNat = t.get .lnkNonce l 0 then tryAdmitted l (t.put .lnkStatPadmit l 0 1) else t) s

/-- This side sends its ADMIT (R408, R410). -/
def sendAdmit (l : Nat) (s : State) : State := tryAdmitted l ((sendCtl l 1 s).put .lnkStatLadmit l 0 1)

/-- RETIRE: the peer retires the link (R409, R411). -/
def execRetire (link : LinkId) (h : FlitHdr) (_c : LinkCtl) (s : State) : Out :=
  let l := link.val
  ctlFlit l h (fun t => if linkRuns l t then setLink l lkFault 8 t else t) s

/-- RESERVED_FLIT_KIND: discarded and counted (R395). -/
def execReservedFlitKind (link : LinkId) (h : FlitHdr) (s : State) : Out :=
  let l := link.val
  .next (receive l h 0 (fun t => t.inc .lnkRxDrop l 0 1) s)

/-! ## Retirement and attestation (R410, R411) -/

/-- LINK_RETIRE_DONE: the retry buffer has emptied behind the RETIRE, or 100 µs have passed (R411). -/
def execLinkRetireDone (link : LinkId) (s : State) : Out :=
  let l := link.val
  let left := (tget [] s.retry l).length
  if !s.on .lnkRetiring l 0 ||
    (!(left == 0 && (tget [] s.txq (l * 8)).isEmpty) && decide (s.get .gtc 0 0 < s.get .lnkRetireAt l 0 + 100000)) then .next s
  else
    let t := ((setLink l lkRetired 9 s).put .lnkRetiring l 0 0).raise 0x0B09 8 [l, left]
    .next (if mbxIs 0x0B l s then mbxFinish 0 0 (t.put .mbxRsp 0 0 left) else t)

/-- A LINK_ADMIT is refused with a cause (R410, R588). -/
def refuseAdmit (l cause : Nat) (s : State) : State :=
  let t := s.raise 0x0B05 8 [l, cause, s.get .lnkAttStatAtt l 0]
  mbxFinish 6 cause (t.put .mbxRsp 0 0 (t.get .lnkAttStatAtt l 0))

/-- A digest as the register shows it, 64 bits to a word. -/
def putDigest (f : Fld) (l v : Nat) (s : State) : State :=
  (List.range 6).foldl (fun t k => t.put f l k (bitsAt v (64 * k) 64)) s

/-- The digest that twelve argument words spell, from word i on. -/
def argDigest (i : Nat) (s : State) : Nat :=
  (List.range 12).foldl (fun n k => n + s.get .mbxCopy (i + k) 0 * 2 ^ (32 * k)) 0

/-- ATTESTATION_DONE: the exchange of a LINK_ADMIT ends (R410): complete with the peer's two digests, or failed or timed out. -/
def execAttestationDone (link : LinkId) (good : Bool) (cert meas : BitVec 384) (s : State) : Out :=
  let l := link.val
  if !mbxIs 0x0A l s || s.get .lnkAttStatAtt l 0 != 1 then .next s
  else if !good then .next (refuseAdmit l 4 (s.put .lnkAttStatAtt l 0 3))
  else
    let t := putDigest .lnkCertDigest l cert.toNat (putDigest .lnkMeasDigest l meas.toNat s)
    if s.get .mbxMode 0 0 = 2 ∧ ¬(argDigest 1 s = cert.toNat ∧ argDigest 13 s = meas.toNat) then
      .next (refuseAdmit l 5 (t.put .lnkAttStatAtt l 0 4))
    else
      let t := t.put .lnkAttStatAtt l 0 2
      if s.get .mbxMode 0 0 = 2 ∧ s.get .lnkStatState l 0 ≠ lkIsolated then .next (refuseAdmit l 1 t)
      else
        let t := if s.get .mbxMode 0 0 = 2 then sendAdmit l t else t
        .next (mbxFinish 0 0 (t.put .mbxRsp 0 0 2))

end Sys2Proof.Machine
end

