-- ==== Sys2Proof/Machine/HostRegs.lean ====
section
/-!
DEFINITION. Register writes of host software that have a row of their own, at the channels and the fabric, and host access to
HBM (R212, R220, R237, R252, R359, R413, R430 to R432, R438, R491, R494, R581, R583, R590, R591).
-/
namespace Sys2Proof.Machine

/-- A Bool as a bit. -/
def bitOf (b : Bool) : Nat := if b then 1 else 0

/-- Every present core of a channel is STOPPED or HALTED. -/
def coresAtRest (ch : Nat) (s : State) : Bool :=
  (s.coresOf ch).all fun c => s.coreState c == stStopped || s.coreState c == stHalted

/-! ## Doorbells and plans -/

/-- CH_DBELL: the pending doorbell of one or every present core, after the crossing (R583). A channel that is not in RUN has no
crossing to take it. -/
def execChDbell (ch : Chan) (all : Bool) (core : BitVec 8) (s : State) : Out :=
  let c := ch.val
  if !s.chWrite c true then .next s
  else if all then .next ((s.coresOf c).foldl (fun t k => t.send c (.doorbell k)) s)
  else if core.toNat < 160 ∧ s.present (coreIn c core.toNat) then .next (s.send c (.doorbell (coreIn c core.toNat)))
  else .next s

/-- RTE_CTL.FLIP: only while every core of the channel is STOPPED or HALTED (R252). -/
def execRteCtlFlip (ch : Chan) (s : State) : Out :=
  .next (if s.chWrite ch.val true && coresAtRest ch.val s then flipPlan ch.val s else s)

/-! ## Configuration -/

/-- LFREQ as it acts: 3 acts as 2 (CH_CFG). -/
def lfreqOf (v : Nat) : Nat := min 2 v

/-- The LOCKSTEP frequency that CH_CFG and the limits of the loops ask for (R484). -/
def lfreqWanted (ch : Nat) (s : State) : Nat :=
  min (lfreqOf (s.get .chCfgLfreq ch 0)) (min (s.get .capLimL ch 0) (s.get .thLimL ch 0))

/-- The channel PLL relocks to the wanted LOCKSTEP frequency; the channel's clocks stop until it is done (R484). -/
def relock (ch : Nat) (s : State) : State := (s.put .pllRelock ch 0 1).put .chLfreqNext ch 0 (lfreqWanted ch s)

/-- The bytes of two rings' slots overlap at one core. -/
def ringsMeet (ch a b : Nat) (s : State) : Bool :=
  let len (r : Nat) : Nat := s.get .foxRingCfgSlots ch r * s.get .foxRingCfgSlotWords ch r * 64
  let base (r : Nat) : Nat := s.get .foxRingCfgBase ch r / 64 * 64
  let gap (x y : Nat) : Nat := (base y + 2 ^ 19 - base x) % 2 ^ 19
  s.get .foxRingCfgCore ch a == s.get .foxRingCfgCore ch b && (decide (gap a b < len a) || decide (gap b a < len b))

/-- FOX_RING_CFG (R220, R221): a ring is configured while EN is 0; when EN becomes 1 it is empty, and an OUT ring's view rises
to SLOTS after the crossing. -/
def execRingCfgWrite (ch : Chan) (ring : BitVec 8) (en dir : Bool) (core : BitVec 8) (slots words : BitVec 7) (base : BitVec 19)
    (s : State) : Out :=
  let c := ch.val
  let r := ring.toNat
  if !s.chWrite c true then .next s
  else
    let t := ((((s.put .foxRingCfgDir c r (bitOf dir)).put .foxRingCfgCore c r core.toNat).put .foxRingCfgSlots c r
      slots.toNat).put .foxRingCfgSlotWords c r words.toNat).put .foxRingCfgBase c r base.toNat
    if s.on .foxRingCfgEn c r then
      if t = s then .next (s.put .foxRingCfgEn c r (bitOf en)) else .next (havoc c s)
    else if !en then .next t
    else if slots.toNat < 3 ∨ 64 < slots.toNat ∨ words = 0#7 ∨ 64 < words.toNat ∨
        ((List.range 256).any fun q => q != r && t.on .foxRingCfgEn c q && ringsMeet c r q t) then .next (havoc c (t.put .foxRingCfgEn c r 1))
    else
      let u := (ringEmpty c r (t.put .foxRingCfgEn c r 1)).put .foxRingPtrGen c r 0
      .next (if dir then (u.put .ringFreev c r 0).put .ringViewPend c r slots.toNat else u)

/-- FOX_CTL (R237, R239): with REFALIGN = 0 the service slots restart; run-ahead is cancelled when RA_EN clears. -/
def execFoxCtlWrite (ch : Chan) (raEn : Bool) (rsvc : BitVec 3) (s : State) : Out :=
  let c := ch.val
  if !s.chWrite c true then .next s
  else
    let t := (s.put .foxCtlRaEn c 0 (bitOf raEn)).put .foxCtlRsvc c 0 rsvc.toNat
    let t := if s.on .foxCtlRaEn c 0 && !raEn then dropRunAhead c t else t
    .next (if t.on .chCfgRefalign c 0 then t
      else (t.put .foxServK c 0 0).put .foxRsvcEff c 0 (min 4 rsvc.toNat))

/-- Load a service tag key slot, or clear it with the key zero (R438). -/
def loadSkey (ch slot k : Nat) (s : State) : State :=
  let t := s.put .ownSkey ch slot k
  let t := if k = 0 then t.clrBit .ownChStatSkeys ch 0 slot else t.setBit .ownChStatSkeys ch 0 slot
  t.raise 0x0C0A ch [ch, slot]

/-- The key staged for loading. -/
def stagedKey (ch : Nat) (s : State) : Nat :=
  (List.range 4).foldl (fun n w => n + s.get .ownSkeyLoadKey ch w * 2 ^ (64 * w)) 0

/-- OWN_SKEY_LOAD.SLOT of a READY channel (R438). -/
def execOwnSkeyLoad (ch : Chan) (slot : BitVec 4) (s : State) : Out :=
  let c := ch.val
  if !s.mgWrite || s.get .ownChStatState c 0 != 1 then .next s
  else
    let t := if slot = 0#4 then s else loadSkey c slot.toNat (stagedKey c s) s
    .next (t.clearFlds [.ownSkeyLoadKey] (· == c))

/-- FAB_FWD_DATA: eight entries of a channel's forwarding table are read, or written, and CHIP advances (R413). -/
def execFabFwdData (value : Option (BitVec 32)) (s : State) : Out :=
  if !s.mgWrite then .next s
  else
    let ch := s.get .fabFwdAddrCh 0 0
    let a := s.get .fabFwdAddrChip 0 0 / 8 * 8
    let t := match value with
      | some v => (List.range 8).foldl (fun (t : State) e => t.put .fabFwd ch (a + e) (bitsAt v.toNat (4 * e) 3)) s
      | none => s.emit (.readData 0 ((List.range 8).foldl (fun n e => n + s.get .fabFwd ch (a + e) * 2 ^ (4 * e)) 0))
    .next (t.put .fabFwdAddrChip 0 0 (a + 8))

/-! ## Interrupt registers (R581) -/

/-- A function's mask register; a bit that clears while its cause is set sends its message. -/
def writeIrqMask (fn v : Nat) (s : State) : State :=
  let (cf, mf, a, n) := if fn = 0 then (Fld.mbxIrqStatCause, Fld.mbxIrqMask, 0, 11) else (Fld.chIrqStatCause, Fld.chIrqMask, fn - 1, 8)
  let t := s.put mf a 0 v
  (List.range n).foldl (fun t k =>
    if s.bit mf a 0 k && !t.bit mf a 0 k && t.bit cf a 0 k then t.sendMsix fn k else t) t

/-- A function's cause register; a one clears. Every cause has a vector of its own. -/
def clearIrqCause (fn v : Nat) (s : State) : State :=
  let (cf, a, n) := if fn = 0 then (Fld.mbxIrqStatCause, 0, 11) else (Fld.chIrqStatCause, fn - 1, 8)
  (List.range n).foldl (fun t k => if v.testBit k then t.clrBit cf a 0 k else t) s

/-- The function's registers are reached. -/
def fnOpen (fn : Nat) (s : State) : Bool := if fn = 0 then s.mgWrite else s.chWrite (fn - 1) false

/-- IRQ_MASK_WRITE: the mask or the cause register of a function, 0 or 1 + channel. -/
def execIrqMaskWrite (fn : Fin 9) (mask : Bool) (value : BitVec 11) (s : State) : Out :=
  if !fnOpen fn.val s then .next s
  else .next (if mask then writeIrqMask fn.val value.toNat s else clearIrqCause fn.val value.toNat s)

/-- The cause of a vector is set: every cause has a vector of its own. -/
def causeSet (fn vec : Nat) (s : State) : Bool :=
  if fn = 0 then s.bit .mbxIrqStatCause 0 0 vec else s.bit .chIrqStatCause (fn - 1) 0 vec

/-- What waited for the function's return to D0 is sent where its cause is still set (R576). -/
def leaveD3 (fn : Nat) (s : State) : State :=
  (List.range 16).foldl (fun t v =>
    if t.on .msixD3 fn v then
      let u := t.put .msixD3 fn v 0
      if causeSet fn v u then u.sendMsix fn v else u
    else t) s

/-- Send what PBA bits of a function wait for, where nothing masks them (R581). -/
def sendPending (fn : Nat) (s : State) : State :=
  if s.on .fnD3 fn 0 || !s.on .msixEn fn 0 || s.on .msixFmask fn 0 then s
  else (List.range 16).foldl (fun t v =>
    if t.on .msixPba fn v && !t.on .msixVmask fn v then (t.put .msixPba fn v 0).emit (.msix fn v) else t) s

/-- FUNCTION_D_STATE_CHANGE: a function moves between D0 and D3hot (R576); on its return, messages that wait are sent. -/
def execFunctionDStateChange (fn : Fin 9) (d3 : Bool) (s : State) : Out :=
  let t := s.put .fnD3 fn.val 0 (bitOf d3)
  .next (if d3 then t else leaveD3 fn.val t)

/-! ## Channel power (R491, R494, R497) -/

/-- CH_PWR: the request and the wake sources; WAKE, or REQ = RUN, wakes a channel in DOZE or DARK. -/
def execChPwrWrite (ch : Chan) (req : BitVec 2) (hbmoff autorun wbatch wgtc wake : Bool) (s : State) : Out :=
  let c := ch.val
  if !s.chWrite c false then .next s
  else
    let t := ((((s.put .chPwrReq c 0 req.toNat).put .chPwrHbmoff c 0 (bitOf hbmoff)).put .chPwrAutorun c 0 (bitOf autorun)).put
      .chPwrWbatch c 0 (bitOf wbatch)).put .chPwrWgtc c 0 (bitOf wgtc)
    .next (if wake || req == 0#2 || req == 3#2 then wakeChan c 3 t else t)

/-! ## Host access to HBM (R430 to R432, R590, R591) -/

/-- A BAR2 access is refused with a cause: 0 no key, 1 HOSTIO (R431, R432). -/
def bar2Deny (ch cause : Nat) (wr : Bool) (s : State) : State :=
  (s.inc .ownBar2Deny ch 0 1).raise 0x0C07 ch [ch, cause, bitOf wr]

/-- What a BAR2 read answers where it is refused. -/
def allOnes (ch n : Nat) (s : State) : State := s.emit (.readBytes ch (List.replicate n 0xFF#8))

/-- One line of a BAR2 write: `bs` gives the byte of each place written. A partial write of a poisoned line leaves it poisoned
(R430). -/
def bar2Line (ch line : Nat) (bs : Nat → Option (BitVec 8)) (s : State) : State :=
  let (old, bad) := hbmRead ch (line * 64) s
  let new := (List.range 64).map fun k => (bs (line * 64 + k)).getD (old.getD k 0#8)
  if (List.range 64).any fun k => (bs (line * 64 + k)).isSome then
    hbmWrite ch (line * 64) new (bad && (List.range 64).any fun k => (bs (line * 64 + k)).isNone) s
  else s

/-- The lines that n bytes from an address touch. -/
def linesOf (a n : Nat) : List Nat := if n = 0 then [] else (List.range ((a + n - 1) / 64 - a / 64 + 1)).map (a / 64 + ·)

/-- The bytes of a BAR2 read: a line that reads as uncorrectable gives bytes the spec leaves open. -/
def bar2Read (ch a n : Nat) (s : State) : List (BitVec 8) :=
  (List.range n).map fun k =>
    let x := a + k
    let (bs, bad) := hbmRead ch x s
    (if bad then freeWord s else bs).getD (x % 64) 0#8

/-- BAR2_ACCESS: host software reads `len` bytes of a channel's HBM, or writes bytes with their enables (R590, R591). A function
in D3hot does not decode it (R576). -/
def execBar2Access (ch : Chan) (addr : BitVec 36) (len : BitVec 13) (wr : Option (List (Option (BitVec 8)))) (s : State) : Out :=
  let c := ch.val
  let a := addr.toNat
  let n := match wr with
    | some bs => bs.length
    | none => len.toNat
  let isWr := wr.isSome
  let no (t : State) : State := if isWr then t else allOnes c n t
  if s.on .fnD3 (1 + c) 0 then .next s
  else
    let s := detCause c cHostio s
    if s.frozen then .next (no s)
    else if !hasKey c s then .next (no (bar2Deny c 0 isWr s))
    else if (if isWr then 2 else 1) ≤ s.get .ownCfgHostio c 0 then .next (no (bar2Deny c 1 isWr s))
    else if s.get .chPwrStatState c 0 ≠ 0 then .next (no s)
    else if 0x900000000 < a + n then .next (havoc c s)
    else
      match wr with
      | none => .next ((s.emit (.readBytes c (bar2Read c a n s))).draw)
      | some bs =>
        let at' (x : Nat) : Option (BitVec 8) := if x < a then none else (bs[x - a]?).getD none
        .next ((linesOf a n).foldl (fun t l => bar2Line c l at' t) s)

end Sys2Proof.Machine
end

