-- ==== Sys2Proof/Machine/RegMap.lean ====
section
/-!
DEFINITION. The register map (R579): every register of the spec's register tables at its offset, with the place of each field.
A register that a command row of its own writes is read only here; what a table of the spec computes from other state has no
field, and Machine/RegRead.lean reads it.
-/
namespace Sys2Proof.Machine

/-- What a write does to a field of a register (chapter 00's register types). -/
inductive Kind where
  | ro | rw | w1c | rwl | wo
deriving DecidableEq, Repr

/-- A field of a register: where it lives in the state, its lowest bit, and what a write does. -/
structure RegField where
  fld : Fld
  lo : Nat
  kind : Kind
deriving DecidableEq, Repr

/-- One index of a repeated register: its stride, its least and greatest value, and how it counts in a place's two indices. -/
structure RegDim where
  stride : Nat
  lo : Nat
  hi : Nat
  ma : Nat
  mb : Nat
deriving DecidableEq, Repr

/-- A register: its name, its offset in its space, its width in bits, its indices, greatest stride first, and its fields. -/
structure Reg where
  name : String
  base : Nat
  bits : Nat
  dims : List RegDim
  fields : List RegField
deriving DecidableEq, Repr

/-- Registers of function 0, part 1. -/
def mgmtRegs0 : List Reg :=
  [⟨"ID_PART", 0x0, 32, [], [⟨.idPartPart, 16, .ro⟩, ⟨.idPartStep, 8, .ro⟩]⟩,
   ⟨"ID_GRADE", 0x4, 32, [], [⟨.idGradeIslands, 0, .ro⟩, ⟨.idGradeChannels, 4, .ro⟩, ⟨.idGradeLinks, 8, .ro⟩, ⟨.idGradeSve,
     16, .ro⟩]⟩,
   ⟨"ID_SERIAL", 0x8, 64, [], [⟨.idSerial, 0, .ro⟩]⟩,
   ⟨"ID_ISLMAP", 0x20, 32, [⟨4, 0, 7, 1, 0⟩], [⟨.idIslmapPhysEn, 0, .ro⟩]⟩,
   ⟨"ID_SLOT", 0x40, 32, [], [⟨.idSlot, 0, .ro⟩]⟩,
   ⟨"ID_TOPO", 0x100, 32, [⟨4, 0, 47, 1, 0⟩], [⟨.idTopoConn, 0, .ro⟩, ⟨.idTopoPos, 3, .ro⟩, ⟨.idTopoBpair, 8, .ro⟩]⟩,
   ⟨"PWR_CAP", 0x10000, 32, [], [⟨.pwrCapWatts, 0, .rw⟩]⟩,
   ⟨"PWR_STAT", 0x10008, 32, [], [⟨.pwrStatThrottle, 0, .ro⟩, ⟨.pwrStatHalved, 8, .ro⟩, ⟨.pwrStatSensorSuspect, 16, .w1c⟩,
     ⟨.pwrStatCapmiss, 17, .w1c⟩, ⟨.pwrStatWfail, 18, .w1c⟩, ⟨.pwrStatChip, 19, .ro⟩]⟩,
   ⟨"PWR_SUSPECT", 0x10020, 32, [⟨4, 0, 7, 1, 0⟩], [⟨.pwrSuspectIsl, 0, .w1c⟩, ⟨.pwrSuspectUnits, 10, .w1c⟩]⟩,
   ⟨"PWR_TRIP", 0x10040, 32, [], [⟨.pwrTripTripped, 0, .ro⟩, ⟨.pwrTripChipsus, 1, .w1c⟩, ⟨.pwrTripRegion, 8, .ro⟩,
     ⟨.pwrTripTj, 16, .ro⟩]⟩,
   ⟨"PWR_VFLOOR", 0x10060, 32, [⟨4, 0, 7, 1, 0⟩], [⟨.pwrVfloor, 0, .ro⟩]⟩,
   ⟨"PWR_WT_DIR", 0x10100, 32, [⟨4, 0, 5, 1, 0⟩], [⟨.pwrWtDirFirst, 0, .ro⟩, ⟨.pwrWtDirRecords, 8, .ro⟩]⟩,
   ⟨"PWR_WT", 0x11000, 64, [⟨8, 0, 255, 1, 0⟩], [⟨.pwrWt, 0, .ro⟩]⟩,
   ⟨"TUN_STAT", 0x20010, 64, [], [⟨.tunStatState, 0, .ro⟩, ⟨.tunStatContested, 2, .ro⟩, ⟨.tunStatForced, 3, .ro⟩,
     ⟨.tunStatSlewing, 4, .ro⟩, ⟨.tunStatStepped, 5, .w1c⟩, ⟨.tunStatNagree, 6, .ro⟩, ⟨.tunStatNelig, 12, .ro⟩,
     ⟨.tunStatLevel, 18, .ro⟩, ⟨.tunStatAgeMs, 32, .ro⟩]⟩,
   ⟨"TUN_TRIM", 0x20018, 32, [], [⟨.tunTrim, 0, .ro⟩]⟩,
   ⟨"TUN_FEST", 0x2001C, 32, [], [⟨.tunFest, 0, .ro⟩]⟩,
   ⟨"TUN_OFFSET", 0x20020, 32, [], [⟨.tunOffset, 0, .ro⟩]⟩,
   ⟨"TUN_POL", 0x20030, 64, [], [⟨.tunPolSyncEn, 0, .ro⟩, ⟨.tunPolSyncRef, 1, .ro⟩, ⟨.tunPolPtmEn, 2, .ro⟩, ⟨.tunPolPtmRef,
     3, .ro⟩, ⟨.tunPolForce, 8, .ro⟩, ⟨.tunPolStepNs, 16, .ro⟩]⟩,
   ⟨"TUN_LNKEN", 0x20038, 64, [], [⟨.tunLnkenEn, 0, .ro⟩]⟩,
   ⟨"TUN_SYNC_CFG", 0x20040, 64, [], [⟨.tunSyncCfgPeriodNs, 0, .ro⟩, ⟨.tunSyncCfgOffsetNs, 32, .ro⟩]⟩,
   ⟨"TUN_SYNC_DLY", 0x20048, 32, [], [⟨.tunSyncDly, 0, .ro⟩]⟩,
   ⟨"TUN_SOUT_CFG", 0x20050, 64, [], [⟨.tunSoutCfgPeriodNs, 0, .ro⟩, ⟨.tunSoutCfgOffsetNs, 32, .ro⟩]⟩,
   ⟨"TUN_PTM_CFG", 0x20058, 32, [], [⟨.tunPtmCfgPeriod, 0, .ro⟩]⟩,
   ⟨"TUN_PTM_OFS", 0x20060, 64, [], [⟨.tunPtmOfs, 0, .ro⟩]⟩]

/-- Registers of function 0, part 2. -/
def mgmtRegs1 : List Reg :=
  [⟨"TUN_LREFUSED", 0x20080, 64, [], [⟨.tunLrefused, 0, .ro⟩]⟩,
   ⟨"TUN_QUAR", 0x20088, 64, [], [⟨.tunQuar, 0, .ro⟩]⟩,
   ⟨"TUN_FBAR_LATE", 0x20090, 64, [], [⟨.tunFbarLate, 0, .ro⟩]⟩,
   ⟨"TUN_FBAR_UNTIMED", 0x20098, 64, [], [⟨.tunFbarUntimed, 0, .ro⟩]⟩,
   ⟨"TUN_SRC", 0x20100, 64, [⟨16, 0, 50, 1, 0⟩], [⟨.tunSrcOffset, 0, .ro⟩, ⟨.tunSrcPlevel, 32, .ro⟩, ⟨.tunSrcUsable, 38,
     .ro⟩, ⟨.tunSrcFresh, 39, .ro⟩, ⟨.tunSrcElig, 40, .ro⟩, ⟨.tunSrcAgree, 41, .ro⟩, ⟨.tunSrcQuar, 42, .ro⟩, ⟨.tunSrcQleft,
     48, .ro⟩]⟩,
   ⟨"TUN_SRC", 0x20108, 64, [⟨16, 0, 50, 1, 0⟩], [⟨.tunSrcDelay, 0, .ro⟩, ⟨.tunSrcSamples, 32, .ro⟩, ⟨.tunSrcDiscards, 48,
     .ro⟩]⟩,
   ⟨"TUN_FBAR", 0x20500, 64, [⟨8, 0, 3, 1, 0⟩], [⟨.tunFbarChans, 0, .rw⟩, ⟨.tunFbarUpch, 8, .rw⟩, ⟨.tunFbarUpl, 11, .rw⟩,
     ⟨.tunFbarDown, 14, .rw⟩]⟩,
   ⟨"TUN_FBAR_LEAD", 0x20540, 32, [], [⟨.tunFbarLeadNs, 0, .rw⟩]⟩,
   ⟨"TUN_ASYM", 0x20600, 32, [⟨4, 0, 47, 1, 0⟩], [⟨.tunAsym, 0, .rw⟩]⟩,
   ⟨"FAB_CTL", 0x3C000, 32, [], [⟨.fabCtlChipId, 0, .rw⟩, ⟨.fabCtlValid, 15, .rw⟩, ⟨.fabCtlHopmax, 16, .rw⟩]⟩,
   ⟨"FAB_FWD_ADDR", 0x3C008, 32, [], [⟨.fabFwdAddrChip, 0, .rw⟩, ⟨.fabFwdAddrCh, 15, .rw⟩]⟩,
   ⟨"FAB_FWD_FRAMES", 0x3C040, 64, [], [⟨.fabFwdFrames, 0, .ro⟩]⟩,
   ⟨"FAB_FWD_DROP", 0x3C048, 64, [], [⟨.fabFwdDrop, 0, .ro⟩]⟩,
   ⟨"FAB_HOPFAIL_TX", 0x3C050, 64, [], [⟨.fabHopfailTx, 0, .ro⟩]⟩,
   ⟨"FAB_HOPFAIL_RX", 0x3C058, 64, [], [⟨.fabHopfailRx, 0, .ro⟩]⟩,
   ⟨"SVE_CTL", 0x40000, 32, [], [⟨.sveCtlEn0, 0, .rw⟩, ⟨.sveCtlEn1, 1, .rw⟩]⟩,
   ⟨"SVE_INFLIGHT", 0x40008, 32, [], [⟨.sveInflight, 0, .ro⟩]⟩,
   ⟨"SVE_PORT", 0x40100, 64, [⟨128, 0, 1, 1, 0⟩], [⟨.svePortMac, 0, .rw⟩]⟩,
   ⟨"SVE_PORT", 0x40108, 64, [⟨128, 0, 1, 1, 0⟩], [⟨.svePortVlan, 0, .rw⟩, ⟨.svePortVtag, 12, .rw⟩]⟩,
   ⟨"SVE_PORT", 0x40110, 64, [⟨128, 0, 1, 1, 0⟩], [⟨.svePortIpv4, 0, .rw⟩]⟩,
   ⟨"SVE_PORT", 0x40118, 64, [⟨128, 0, 1, 1, 0⟩], [⟨.svePortUdpPort, 0, .rw⟩]⟩,
   ⟨"SVE_PORT_IPV6_HI", 0x40120, 64, [⟨128, 0, 1, 1, 0⟩], [⟨.svePortIpv6Hi, 0, .rw⟩]⟩,
   ⟨"SVE_PORT_IPV6_LO", 0x40128, 64, [⟨128, 0, 1, 1, 0⟩], [⟨.svePortIpv6Lo, 0, .rw⟩]⟩,
   ⟨"SVE_PORT_RX_OK", 0x40140, 64, [⟨128, 0, 1, 1, 0⟩], [⟨.svePortRxOk, 0, .ro⟩]⟩]

/-- Registers of function 0, part 3. -/
def mgmtRegs2 : List Reg :=
  [⟨"SVE_PORT_RX_DROP", 0x40148, 64, [⟨128, 0, 1, 1, 0⟩], [⟨.svePortRxDrop, 0, .ro⟩]⟩,
   ⟨"SVE_PORT_RX_SLOW", 0x40150, 64, [⟨128, 0, 1, 1, 0⟩], [⟨.svePortRxSlow, 0, .ro⟩]⟩,
   ⟨"SVE_PORT_TX", 0x40158, 64, [⟨128, 0, 1, 1, 0⟩], [⟨.svePortTx, 0, .ro⟩]⟩,
   ⟨"SVE_SVC_SEL", 0x41000, 32, [], [⟨.sveSvcSelId, 0, .rw⟩]⟩,
   ⟨"SVE_SVC_W0", 0x41008, 64, [], [⟨.sveSvcW0Bound, 0, .ro⟩, ⟨.sveSvcW0Channel, 1, .ro⟩, ⟨.sveSvcW0TagReq, 4, .ro⟩,
     ⟨.sveSvcW0Errq, 5, .ro⟩, ⟨.sveSvcW0Sync, 6, .ro⟩, ⟨.sveSvcW0WindowUs, 8, .ro⟩, ⟨.sveSvcW0Maxb, 19, .ro⟩,
     ⟨.sveSvcW0DeadlineUs, 28, .ro⟩, ⟨.sveSvcW0Kdef, 48, .ro⟩, ⟨.sveSvcW0Keyslot, 57, .ro⟩]⟩,
   ⟨"SVE_SVC_W1", 0x41010, 64, [], [⟨.sveSvcW1Epoch, 0, .ro⟩, ⟨.sveSvcW1FbCell, 32, .ro⟩, ⟨.sveSvcW1FbLen, 49, .ro⟩]⟩,
   ⟨"SVE_SVC_W2", 0x41018, 64, [], [⟨.sveSvcW2Admitted, 0, .ro⟩, ⟨.sveSvcW2Fallbacks, 32, .ro⟩]⟩,
   ⟨"SVE_SVC_W3", 0x41020, 64, [], [⟨.sveSvcW3Errors, 0, .ro⟩, ⟨.sveSvcW3Tagfail, 32, .ro⟩]⟩,
   ⟨"SVE_FBWIN", 0x42000, 32, [], [⟨.sveFbwinBase, 0, .rw⟩]⟩,
   ⟨"SVE_CH", 0x43000, 32, [⟨64, 0, 7, 1, 0⟩], [⟨.sveChAdmit, 0, .rw⟩]⟩,
   ⟨"SVE_CH", 0x43008, 32, [⟨64, 0, 7, 1, 0⟩], [⟨.sveChQuota, 0, .rw⟩]⟩,
   ⟨"SVE_CH", 0x4300C, 32, [⟨64, 0, 7, 1, 0⟩], [⟨.sveChHeld, 0, .ro⟩]⟩,
   ⟨"SVE_CH", 0x43010, 32, [⟨64, 0, 7, 1, 0⟩], [⟨.sveChNextTag, 0, .ro⟩]⟩,
   ⟨"SVE_CH", 0x43014, 32, [⟨64, 0, 7, 1, 0⟩], [⟨.sveChQueued, 0, .ro⟩]⟩,
   ⟨"SVE_CH", 0x43018, 64, [⟨64, 0, 7, 1, 0⟩], [⟨.sveChBatches, 0, .ro⟩]⟩,
   ⟨"SVE_CH", 0x43020, 64, [⟨64, 0, 7, 1, 0⟩], [⟨.sveChLate, 0, .ro⟩]⟩,
   ⟨"SVE_CH", 0x43028, 32, [⟨64, 0, 7, 1, 0⟩], [⟨.sveChTagGrace, 0, .rw⟩]⟩,
   ⟨"SVE_CH", 0x4302C, 32, [⟨64, 0, 7, 1, 0⟩], [⟨.sveChLive, 0, .ro⟩]⟩,
   ⟨"EVR_STAT", 0x50000, 64, [], [⟨.evrStatMounted, 0, .ro⟩, ⟨.evrStatFlushing, 1, .ro⟩]⟩,
   ⟨"EVR_CUR", 0x50028, 64, [], [⟨.evrCurPos, 0, .rw⟩]⟩,
   ⟨"EVR_WRITTEN", 0x50040, 64, [], [⟨.evrWritten, 0, .ro⟩]⟩,
   ⟨"EVR_LOST", 0x50048, 64, [], [⟨.evrLost, 0, .ro⟩]⟩,
   ⟨"EVR_SUPPRESSED", 0x50050, 64, [], [⟨.evrSuppressed, 0, .ro⟩]⟩,
   ⟨"EVR_BADSECT", 0x50058, 64, [], [⟨.evrBadsect, 0, .ro⟩]⟩]

/-- Registers of function 0, part 4. -/
def mgmtRegs3 : List Reg :=
  [⟨"EVR_TRIG", 0x51000, 64, [⟨128, 0, 31, 1, 0⟩], [⟨.evrTrigCode, 0, .rw⟩, ⟨.evrTrigMask, 16, .rw⟩, ⟨.evrTrigSrc, 32, .rw⟩,
     ⟨.evrTrigN, 41, .rw⟩, ⟨.evrTrigFrz, 46, .rw⟩, ⟨.evrTrigEn, 47, .rw⟩, ⟨.evrTrigMissed, 48, .ro⟩]⟩,
   ⟨"EVR_TRIG_SEL", 0x51008, 32, [⟨128, 0, 31, 1, 0⟩, ⟨4, 0, 15, 0, 1⟩], [⟨.evrTrigSel, 0, .rw⟩]⟩,
   ⟨"EVR_RLIM", 0x54000, 8, [⟨1, 0, 4095, 1, 0⟩], [⟨.evrRlim, 0, .rw⟩]⟩,
   ⟨"FRZ_ARM", 0x60008, 32, [], [⟨.frzArmPin, 0, .ro⟩, ⟨.frzArmTrig, 1, .ro⟩]⟩,
   ⟨"FRZ_STAT", 0x60010, 64, [], [⟨.frzStatFrozen, 0, .ro⟩, ⟨.frzStatSrc, 1, .ro⟩, ⟨.frzStatSlot, 3, .ro⟩, ⟨.frzStatChfrozen,
     16, .ro⟩, ⟨.frzStatRo, 24, .ro⟩, ⟨.frzStatPath, 27, .ro⟩]⟩,
   ⟨"FRZ_GTC", 0x60018, 64, [], [⟨.frzGtc, 0, .ro⟩]⟩,
   ⟨"FRZ_RO_POS", 0x60028, 64, [], [⟨.frzRoPosOffset, 0, .ro⟩]⟩,
   ⟨"FRZ_RO_LEN", 0x60030, 32, [], [⟨.frzRoLenBytes, 0, .ro⟩, ⟨.frzRoLenLast, 17, .ro⟩, ⟨.frzRoLenReady, 18, .ro⟩]⟩,
   ⟨"FRZ_HBM", 0x60400, 64, [⟨128, 0, 7, 1, 0⟩, ⟨16, 0, 7, 0, 1⟩], [⟨.frzHbmBase, 0, .rw⟩, ⟨.frzHbmLen, 40, .rw⟩]⟩,
   ⟨"FRZ_ROWIN", 0x68000, 8, [⟨1, 0, 32767, 1, 0⟩], [⟨.frzRowin, 0, .ro⟩]⟩,
   ⟨"MSR_BOOT", 0x80000, 64, [], [⟨.msrBootStage, 0, .ro⟩, ⟨.msrBootFallback, 3, .ro⟩, ⟨.msrBootSlotb, 4, .ro⟩,
     ⟨.msrBootRcause, 12, .ro⟩, ⟨.msrBootWdcount, 16, .ro⟩, ⟨.msrBootReadyMs, 32, .ro⟩]⟩,
   ⟨"MSR_BOOTSEL", 0x80018, 32, [], [⟨.msrBootselPreferB, 0, .rw⟩]⟩,
   ⟨"MSR_LOCK", 0x80020, 32, [], [⟨.msrLockLocked, 1, .ro⟩]⟩,
   ⟨"MSR_DBG", 0x80028, 32, [], [⟨.msrDbgState, 0, .ro⟩]⟩,
   ⟨"MSR_VAL", 0x80100, 64, [⟨64, 1, 10, 1, 0⟩, ⟨8, 0, 5, 0, 1⟩], [⟨.msrVal, 0, .ro⟩]⟩,
   ⟨"MSR_IMGVER", 0x80400, 64, [⟨8, 0, 5, 1, 0⟩], [⟨.msrImgverVersion, 0, .ro⟩]⟩,
   ⟨"MSR_FW_CMD", 0x80800, 32, [], [⟨.msrFwCmdImage, 0, .rw⟩, ⟨.msrFwCmdSlot, 3, .rw⟩, ⟨.msrFwCmdOffset, 4, .rw⟩]⟩,
   ⟨"MSR_FW_LEN", 0x80804, 32, [], [⟨.msrFwLenBytes, 0, .rw⟩]⟩,
   ⟨"MSR_FW_STAT", 0x80808, 32, [], [⟨.msrFwStatBusy, 0, .ro⟩, ⟨.msrFwStatResult, 1, .ro⟩]⟩,
   ⟨"MSR_FWWIN", 0x88000, 8, [⟨1, 0, 32767, 1, 0⟩], [⟨.msrFwwin, 0, .rw⟩]⟩,
   ⟨"FPN_STAT", 0x90000, 32, [], [⟨.fpnStatLatch, 0, .ro⟩, ⟨.fpnStatAttn, 1, .ro⟩, ⟨.fpnStatDisp, 2, .ro⟩, ⟨.fpnStatPage, 3,
     .ro⟩, ⟨.fpnStatView, 6, .ro⟩, ⟨.fpnStatRmv, 9, .ro⟩]⟩,
   ⟨"FPN_CTL", 0x90010, 32, [], [⟨.fpnCtlRmvAuto, 0, .rw⟩, ⟨.fpnCtlAutoret, 1, .rw⟩, ⟨.fpnCtlDtimeout, 8, .rw⟩,
     ⟨.fpnCtlRmvTmoMs, 16, .rw⟩]⟩,
   ⟨"FPN_LOC", 0x90018, 32, [], [⟨.fpnLocMode, 0, .rw⟩]⟩,
   ⟨"FPN_ALERT", 0x90020, 32, [], [⟨.fpnAlertCause, 0, .w1c⟩, ⟨.fpnAlertEn, 8, .rw⟩]⟩]

/-- Registers of function 0, part 5. -/
def mgmtRegs4 : List Reg :=
  [⟨"FPN_PWR", 0x90030, 64, [], [⟨.fpnPwrVin, 0, .ro⟩, ⟨.fpnPwrIin, 16, .ro⟩, ⟨.fpnPwrVbank, 32, .ro⟩, ⟨.fpnPwrLosses, 48,
     .ro⟩]⟩,
   ⟨"FPN_CAGE", 0x90100, 32, [⟨16, 0, 7, 1, 0⟩], [⟨.fpnCagePresent, 0, .ro⟩, ⟨.fpnCageHighpwr, 1, .ro⟩, ⟨.fpnCageOverclass,
     2, .ro⟩, ⟨.fpnCageAlarm, 3, .w1c⟩, ⟨.fpnCageRreq, 4, .ro⟩, ⟨.fpnCagePwrW, 8, .ro⟩]⟩,
   ⟨"MBX_CMD", 0xA0000, 32, [], [⟨.mbxCmdCode, 0, .rw⟩, ⟨.mbxCmdSeq, 8, .rw⟩]⟩,
   ⟨"MBX_STAT", 0xA0010, 64, [], [⟨.mbxStatBusy, 0, .ro⟩, ⟨.mbxStatDone, 1, .w1c⟩, ⟨.mbxStatReady, 2, .ro⟩, ⟨.mbxStatOverrun,
     3, .w1c⟩, ⟨.mbxStatStatus, 8, .ro⟩, ⟨.mbxStatSeq, 16, .ro⟩, ⟨.mbxStatCode, 24, .ro⟩, ⟨.mbxStatDetail, 32, .ro⟩]⟩,
   ⟨"MBX_ARG", 0xA0100, 32, [⟨4, 0, 63, 1, 0⟩], [⟨.mbxArg, 0, .rw⟩]⟩,
   ⟨"MBX_RSP", 0xA0200, 32, [⟨4, 0, 63, 1, 0⟩], [⟨.mbxRsp, 0, .ro⟩]⟩,
   ⟨"MBX_IRQ_STAT", 0xA1000, 32, [], [⟨.mbxIrqStatCause, 0, .w1c⟩]⟩,
   ⟨"MBX_IRQ_MASK", 0xA1008, 32, [], [⟨.mbxIrqMask, 0, .rw⟩]⟩,
   ⟨"TEL_CH", 0xB0000, 64, [⟨32, 0, 7, 1, 0⟩], [⟨.telChPwrMw, 0, .ro⟩, ⟨.telChRailMv, 32, .ro⟩]⟩,
   ⟨"TEL_CH", 0xB0008, 64, [⟨32, 0, 7, 1, 0⟩], [⟨.telChTj, 0, .ro⟩, ⟨.telChHbmTj, 16, .ro⟩]⟩,
   ⟨"TEL_CHIP", 0xB0200, 64, [], [⟨.telChipPwrMw, 0, .ro⟩, ⟨.telChipTj, 32, .ro⟩]⟩]

/-- Registers of function 0. -/
def mgmtRegs : List Reg := mgmtRegs0 ++ mgmtRegs1 ++ mgmtRegs2 ++ mgmtRegs3 ++ mgmtRegs4

/-- Registers of the block of link 0, part 1. -/
def linkRegs0 : List Reg :=
  [⟨"LNK_CFG", 0x30000, 32, [], [⟨.lnkCfgEn, 0, .rw⟩]⟩,
   ⟨"LNK_STAT", 0x30008, 64, [], [⟨.lnkStatState, 0, .ro⟩, ⟨.lnkStatLadmit, 3, .ro⟩, ⟨.lnkStatPadmit, 4, .ro⟩,
     ⟨.lnkStatCable, 5, .ro⟩, ⟨.lnkStatSignal, 6, .ro⟩, ⟨.lnkStatLock, 7, .ro⟩, ⟨.lnkStatFcause, 8, .ro⟩]⟩,
   ⟨"LNK_PEER", 0x30010, 64, [], [⟨.lnkPeerChip, 0, .ro⟩, ⟨.lnkPeerValid, 15, .ro⟩, ⟨.lnkPeerPlink, 16, .ro⟩, ⟨.lnkPeerPart,
     22, .ro⟩, ⟨.lnkPeerStep, 38, .ro⟩]⟩,
   ⟨"LNK_PNONCE", 0x30018, 64, [], [⟨.lnkPnonce, 0, .ro⟩]⟩,
   ⟨"LNK_TX_FLITS", 0x30040, 64, [], [⟨.lnkTxFlits, 0, .ro⟩]⟩,
   ⟨"LNK_RX_FLITS", 0x30048, 64, [], [⟨.lnkRxFlits, 0, .ro⟩]⟩,
   ⟨"LNK_CRC_ERR", 0x30050, 64, [], [⟨.lnkCrcErr, 0, .ro⟩]⟩,
   ⟨"LNK_FEC_CORR", 0x30058, 64, [], [⟨.lnkFecCorr, 0, .ro⟩]⟩,
   ⟨"LNK_FEC_UNCORR", 0x30060, 64, [], [⟨.lnkFecUncorr, 0, .ro⟩]⟩,
   ⟨"LNK_EPISODES", 0x30068, 64, [], [⟨.lnkEpisodes, 0, .ro⟩]⟩,
   ⟨"LNK_ISO_DROP", 0x30070, 64, [], [⟨.lnkIsoDrop, 0, .ro⟩]⟩,
   ⟨"LNK_RX_DROP", 0x30078, 64, [], [⟨.lnkRxDrop, 0, .ro⟩]⟩,
   ⟨"LNK_ATT_STAT", 0x30100, 32, [], [⟨.lnkAttStatAtt, 0, .ro⟩]⟩,
   ⟨"LNK_CERT_DIGEST", 0x30140, 64, [⟨8, 0, 5, 0, 1⟩], [⟨.lnkCertDigest, 0, .ro⟩]⟩,
   ⟨"LNK_MEAS_DIGEST", 0x30180, 64, [⟨8, 0, 5, 0, 1⟩], [⟨.lnkMeasDigest, 0, .ro⟩]⟩]

/-- Registers of the block of link 0. -/
def linkRegs : List Reg := linkRegs0

/-- Registers of the OWN block of channel 0, part 1. -/
def ownRegs0 : List Reg :=
  [⟨"OWN_CH_STAT", 0x70000, 32, [], [⟨.ownChStatState, 0, .ro⟩, ⟨.ownChStatKeysrc, 3, .ro⟩, ⟨.ownChStatRdkey, 5, .ro⟩,
     ⟨.ownChStatPending, 6, .ro⟩, ⟨.ownChStatSkeys, 16, .ro⟩]⟩,
   ⟨"OWN_CH_OID", 0x70008, 64, [⟨8, 0, 1, 0, 1⟩], [⟨.ownChOid, 0, .ro⟩]⟩,
   ⟨"OWN_CFG", 0x70020, 32, [], [⟨.ownCfgHostio, 0, .rwl⟩, ⟨.ownCfgEvrVisible, 2, .rwl⟩, ⟨.ownCfgSvcTagged, 3, .rwl⟩]⟩,
   ⟨"OWN_GRANT", 0x70100, 64, [⟨8, 0, 31, 0, 1⟩], [⟨.ownGrantChip, 0, .rwl⟩, ⟨.ownGrantCh, 15, .rwl⟩, ⟨.ownGrantSend, 18,
     .rwl⟩, ⟨.ownGrantRecv, 19, .rwl⟩, ⟨.ownGrantRead, 20, .rwl⟩, ⟨.ownGrantServe, 21, .rwl⟩]⟩,
   ⟨"OWN_SKEY_LOAD_KEY", 0x70200, 64, [⟨8, 0, 3, 0, 1⟩], [⟨.ownSkeyLoadKey, 0, .wo⟩]⟩,
   ⟨"OWN_FILT_TX", 0x70300, 64, [], [⟨.ownFiltTx, 0, .ro⟩]⟩,
   ⟨"OWN_FILT_RX", 0x70308, 64, [], [⟨.ownFiltRx, 0, .ro⟩]⟩,
   ⟨"OWN_BAR2_DENY", 0x70310, 64, [], [⟨.ownBar2Deny, 0, .ro⟩]⟩,
   ⟨"OWN_KILLS", 0x70318, 64, [], [⟨.ownKills, 0, .ro⟩]⟩]

/-- Registers of the OWN block of channel 0. -/
def ownRegs : List Reg := ownRegs0

/-- Registers of a channel's BAR0, part 1. -/
def chanRegs0 : List Reg :=
  [⟨"CH_CFG", 0x0, 32, [], [⟨.chCfgLockstep, 0, .rw⟩, ⟨.chCfgLfreq, 1, .rw⟩, ⟨.chCfgAllowRace, 3, .rw⟩, ⟨.chCfgRefalign, 4,
     .rw⟩]⟩,
   ⟨"CH_PWR", 0x200, 32, [], [⟨.chPwrReq, 0, .rw⟩, ⟨.chPwrHbmoff, 2, .rw⟩, ⟨.chPwrAutorun, 3, .rw⟩, ⟨.chPwrWbatch, 4, .rw⟩,
     ⟨.chPwrWgtc, 5, .rw⟩]⟩,
   ⟨"CH_PWR_STAT", 0x208, 64, [], [⟨.chPwrStatState, 0, .ro⟩, ⟨.chPwrStatWcause, 3, .ro⟩, ⟨.chPwrStatWfail, 6, .w1c⟩,
     ⟨.chPwrStatDefer, 16, .ro⟩, ⟨.chPwrStatWakeNs, 32, .ro⟩]⟩,
   ⟨"CH_WAKE_GTC", 0x210, 64, [], [⟨.chWakeGtc, 0, .rw⟩]⟩,
   ⟨"CH_PWR_DROPS", 0x218, 64, [], [⟨.chPwrDrops, 0, .ro⟩]⟩,
   ⟨"CH_FSET", 0x300, 32, [⟨4, 0, 9, 0, 1⟩], [⟨.chFsetFset, 0, .rw⟩, ⟨.chFsetFmin, 16, .rw⟩]⟩,
   ⟨"CH_PCTL", 0x340, 32, [], [⟨.chPctlPcapW, 0, .rw⟩, ⟨.chPctlLmin, 16, .rw⟩]⟩,
   ⟨"CH_CLK_STAT", 0x380, 32, [⟨4, 0, 9, 0, 1⟩], [⟨.chClkStatFeff, 0, .ro⟩, ⟨.chClkStatHalved, 16, .ro⟩,
     ⟨.chClkStatThrottled, 17, .ro⟩, ⟨.chClkStatCapped, 18, .ro⟩]⟩,
   ⟨"CH_SPD_EPOCH", 0x400, 32, [], [⟨.chSpdEpoch, 0, .ro⟩]⟩,
   ⟨"CH_IRQ_STAT", 0x600, 32, [], [⟨.chIrqStatCause, 0, .w1c⟩]⟩,
   ⟨"CH_IRQ_MASK", 0x608, 32, [], [⟨.chIrqMask, 0, .rw⟩]⟩,
   ⟨"FOX_CTL", 0x100000, 32, [], [⟨.foxCtlRaEn, 0, .rw⟩, ⟨.foxCtlRsvc, 1, .rw⟩]⟩,
   ⟨"FOX_RTIMEOUT", 0x100010, 32, [], [⟨.foxRtimeoutUs, 0, .rw⟩]⟩,
   ⟨"FOX_HSQ_TAIL", 0x100018, 32, [], [⟨.foxHsqTailIndex, 0, .rw⟩]⟩,
   ⟨"FOX_HSQ_HEAD", 0x10001C, 32, [], [⟨.foxHsqHeadIndex, 0, .ro⟩]⟩,
   ⟨"FOX_HSQ_DONE", 0x100020, 64, [], [⟨.foxHsqDone, 0, .ro⟩]⟩,
   ⟨"FOX_SPEC_SERVED", 0x100040, 64, [], [⟨.foxSpecServed, 0, .ro⟩]⟩,
   ⟨"FOX_RA_CANCELS", 0x100048, 64, [], [⟨.foxRaCancels, 0, .ro⟩]⟩,
   ⟨"FOX_RA_RETRIES", 0x100050, 64, [], [⟨.foxRaRetries, 0, .ro⟩]⟩,
   ⟨"FOX_RA_DISCARD", 0x100058, 64, [], [⟨.foxRaDiscard, 0, .ro⟩]⟩,
   ⟨"FOX_POISON_WORDS", 0x100060, 64, [], [⟨.foxPoisonWords, 0, .ro⟩]⟩,
   ⟨"FOX_REMOTE_FAIL", 0x100068, 64, [], [⟨.foxRemoteFail, 0, .ro⟩]⟩,
   ⟨"FOX_REFUSED", 0x100070, 64, [], [⟨.foxRefused, 0, .ro⟩]⟩,
   ⟨"FOX_RA_HIST", 0x100080, 64, [⟨8, 0, 7, 0, 1⟩], [⟨.foxRaHist, 0, .ro⟩]⟩]

/-- Registers of a channel's BAR0, part 2. -/
def chanRegs1 : List Reg :=
  [⟨"FOX_RA_TAB", 0x100200, 64, [⟨32, 0, 31, 0, 1⟩], [⟨.foxRaTabValid, 0, .rw⟩, ⟨.foxRaTabRemote, 1, .rw⟩, ⟨.foxRaTabRing, 2,
     .rw⟩, ⟨.foxRaTabRowWords, 10, .rw⟩]⟩,
   ⟨"FOX_RA_TAB", 0x100208, 64, [⟨32, 0, 31, 0, 1⟩], [⟨.foxRaTabBase, 0, .rw⟩]⟩,
   ⟨"FOX_RA_TAB", 0x100210, 64, [⟨32, 0, 31, 0, 1⟩], [⟨.foxRaTabStride, 0, .rw⟩]⟩,
   ⟨"FOX_RA_TAB", 0x100218, 64, [⟨32, 0, 31, 0, 1⟩], [⟨.foxRaTabPeer, 0, .rw⟩]⟩,
   ⟨"FOX_RING_CFG", 0x104000, 64, [⟨16, 0, 255, 0, 1⟩], [⟨.foxRingCfgEn, 0, .rw⟩, ⟨.foxRingCfgDir, 1, .rw⟩, ⟨.foxRingCfgCore,
     2, .rw⟩, ⟨.foxRingCfgSlots, 10, .rw⟩, ⟨.foxRingCfgSlotWords, 17, .rw⟩, ⟨.foxRingCfgBase, 24, .rw⟩]⟩,
   ⟨"FOX_RING_PTR", 0x104008, 64, [⟨16, 0, 255, 0, 1⟩], [⟨.foxRingPtrTail, 0, .ro⟩, ⟨.foxRingPtrHead, 8, .ro⟩,
     ⟨.foxRingPtrFill, 16, .ro⟩, ⟨.foxRingPtrPub, 24, .ro⟩, ⟨.foxRingPtrTent, 32, .ro⟩, ⟨.foxRingPtrGen, 40, .ro⟩]⟩,
   ⟨"RTE_ROUTE", 0x200000, 64, [⟨16384, 0, 1, 0, 1280⟩, ⟨8, 0, 1279, 0, 1⟩], [⟨.rteRoute, 0, .rw⟩]⟩,
   ⟨"RTE_RANK", 0x203000, 32, [⟨16384, 0, 1, 0, 160⟩, ⟨4, 0, 159, 0, 1⟩], [⟨.rteRank, 0, .rw⟩]⟩,
   ⟨"RTE_EXT", 0x203400, 32, [⟨16384, 0, 1, 0, 160⟩, ⟨4, 0, 159, 0, 1⟩], [⟨.rteExt, 0, .rw⟩]⟩,
   ⟨"RTE_BAR_MEM", 0x203800, 32, [⟨16384, 0, 1, 0, 20⟩, ⟨32, 0, 3, 0, 5⟩, ⟨4, 0, 4, 0, 1⟩], [⟨.rteBarMem, 0, .rw⟩]⟩,
   ⟨"RTE_CTL", 0x208000, 32, [], [⟨.rteCtlActive, 0, .ro⟩]⟩,
   ⟨"RTE_LINKF", 0x208008, 32, [], [⟨.rteLinkfDown, 0, .w1c⟩]⟩,
   ⟨"RTE_DROPS", 0x208010, 64, [], [⟨.rteDrops, 0, .ro⟩]⟩,
   ⟨"BDG_CTL", 0x300000, 32, [], [⟨.bdgCtlEn, 0, .rw⟩]⟩,
   ⟨"BDG_WINDOW", 0x300008, 32, [], [⟨.bdgWindowCycles, 0, .rw⟩]⟩,
   ⟨"BDG_STAT", 0x300010, 64, [], [⟨.bdgStatDeadlock, 0, .w1c⟩, ⟨.bdgStatQuiet, 1, .ro⟩, ⟨.bdgStatSilent, 2, .ro⟩,
     ⟨.bdgStatQcount, 32, .ro⟩]⟩,
   ⟨"BDG_WHEN", 0x300018, 64, [], [⟨.bdgWhen, 0, .ro⟩]⟩,
   ⟨"BDG_REPORTS", 0x300020, 64, [], [⟨.bdgReports, 0, .ro⟩]⟩,
   ⟨"BDG_CORE", 0x300100, 32, [⟨4, 0, 159, 0, 1⟩], [⟨.bdgCoreState, 0, .ro⟩, ⟨.bdgCoreExt, 3, .ro⟩, ⟨.bdgCoreWkind, 4, .ro⟩,
     ⟨.bdgCoreObj, 8, .ro⟩, ⟨.bdgCorePc, 16, .ro⟩]⟩,
   ⟨"SYN_BAR_TIMEOUT", 0x300800, 32, [], [⟨.synBarTimeoutUs, 0, .rw⟩]⟩,
   ⟨"SYN_CHIPBAR", 0x300810, 32, [⟨4, 0, 3, 0, 1⟩], [⟨.synChipbarChans, 0, .rw⟩]⟩,
   ⟨"SYN_BAR_FAULTS", 0x300830, 64, [], [⟨.synBarFaults, 0, .ro⟩]⟩,
   ⟨"RETRY_COUNT", 0x400000, 64, [], [⟨.retryCount, 0, .ro⟩]⟩,
   ⟨"RACE_COUNT", 0x400008, 64, [], [⟨.raceCount, 0, .ro⟩]⟩]

/-- Registers of a channel's BAR0, part 3. -/
def chanRegs2 : List Reg :=
  [⟨"STRETCH_CYCLES", 0x400010, 64, [], [⟨.stretchCyclesFrac, 0, .ro⟩, ⟨.stretchCyclesWhole, 4, .ro⟩]⟩,
   ⟨"DET_ISL_STRETCH", 0x400080, 64, [⟨8, 0, 9, 0, 1⟩], [⟨.detIslStretchFrac, 0, .ro⟩, ⟨.detIslStretchWhole, 4, .ro⟩]⟩,
   ⟨"DET_CTL", 0x400100, 32, [], [⟨.detCtlExpect, 0, .rw⟩]⟩,
   ⟨"DET_LOG_HEAD", 0x400140, 64, [], [⟨.detLogHeadNext, 0, .ro⟩, ⟨.detLogHeadWritten, 32, .ro⟩]⟩,
   ⟨"DET_LOG", 0x401000, 64, [⟨32, 0, 63, 0, 1⟩], [⟨.detLogTag, 0, .ro⟩, ⟨.detLogKept, 16, .ro⟩, ⟨.detLogFreq, 18, .ro⟩,
     ⟨.detLogRef2x, 20, .ro⟩, ⟨.detLogCauses, 21, .ro⟩, ⟨.detLogSegs, 32, .ro⟩, ⟨.detLogPhase, 48, .ro⟩]⟩,
   ⟨"DET_LOG", 0x401008, 64, [⟨32, 0, 63, 0, 1⟩], [⟨.detLogCsig, 0, .ro⟩]⟩,
   ⟨"DET_LOG", 0x401010, 64, [⟨32, 0, 63, 0, 1⟩], [⟨.detLogOsig, 0, .ro⟩]⟩,
   ⟨"DET_LOG", 0x401018, 64, [⟨32, 0, 63, 0, 1⟩], [⟨.detLogDretry, 0, .ro⟩, ⟨.detLogDrace, 16, .ro⟩, ⟨.detLogDstretch, 32,
     .ro⟩]⟩,
   ⟨"EXCH_CFG", 0x500000, 32, [], [⟨.exchCfgMode, 0, .rw⟩, ⟨.exchCfgPcarry, 2, .rw⟩, ⟨.exchCfgRflip, 3, .rw⟩, ⟨.exchCfgRatab,
     4, .rw⟩, ⟨.exchCfgForce, 5, .rw⟩]⟩,
   ⟨"EXCH_SEAM", 0x500008, 64, [], [⟨.exchSeamTag, 0, .rw⟩, ⟨.exchSeamEpoch, 32, .rw⟩]⟩,
   ⟨"EXCH_TIMEOUT", 0x500010, 32, [], [⟨.exchTimeoutUs, 0, .rw⟩]⟩,
   ⟨"EXCH_STAT", 0x500018, 64, [], [⟨.exchStatPhase, 0, .ro⟩, ⟨.exchStatResult, 3, .ro⟩, ⟨.exchStatSeamTag, 16, .ro⟩,
     ⟨.exchStatNotready, 32, .ro⟩, ⟨.exchStatSyncdrop, 40, .ro⟩]⟩,
   ⟨"EXCH_COUNT", 0x500020, 64, [], [⟨.exchCount, 0, .ro⟩]⟩,
   ⟨"EXCH_LAST_GTC", 0x500028, 64, [], [⟨.exchLastGtc, 0, .ro⟩]⟩,
   ⟨"EXCH_RSEL", 0x500040, 32, [⟨4, 0, 7, 0, 1⟩], [⟨.exchRsel, 0, .rw⟩]⟩,
   ⟨"EXCH_RATAB", 0x500200, 64, [⟨32, 0, 31, 0, 1⟩], [⟨.exchRatabValid, 0, .rw⟩, ⟨.exchRatabRemote, 1, .rw⟩, ⟨.exchRatabRing,
     2, .rw⟩, ⟨.exchRatabRowWords, 10, .rw⟩]⟩,
   ⟨"EXCH_RATAB", 0x500208, 64, [⟨32, 0, 31, 0, 1⟩], [⟨.exchRatabBase, 0, .rw⟩]⟩,
   ⟨"EXCH_RATAB", 0x500210, 64, [⟨32, 0, 31, 0, 1⟩], [⟨.exchRatabStride, 0, .rw⟩]⟩,
   ⟨"EXCH_RATAB", 0x500218, 64, [⟨32, 0, 31, 0, 1⟩], [⟨.exchRatabPeer, 0, .rw⟩]⟩,
   ⟨"EXCH_RING_CFG", 0x501000, 64, [⟨8, 0, 255, 0, 1⟩], [⟨.exchRingCfgEn, 0, .rw⟩, ⟨.exchRingCfgDir, 1, .rw⟩,
     ⟨.exchRingCfgCore, 2, .rw⟩, ⟨.exchRingCfgSlots, 10, .rw⟩, ⟨.exchRingCfgSlotWords, 17, .rw⟩, ⟨.exchRingCfgBase, 24, .rw⟩]⟩,
   ⟨"EPOCH_CTL", 0x504000, 32, [], [⟨.epochCtlRapar, 0, .rw⟩]⟩,
   ⟨"EPOCH_INFL_EVEN", 0x504008, 32, [], [⟨.epochInflEven, 0, .ro⟩]⟩,
   ⟨"EPOCH_INFL_ODD", 0x504010, 32, [], [⟨.epochInflOdd, 0, .ro⟩]⟩,
   ⟨"EPOCH_RABASE", 0x504100, 64, [⟨8, 0, 31, 0, 1⟩], [⟨.epochRabaseBase, 0, .rw⟩]⟩]

/-- Registers of a channel's BAR0, part 4. -/
def chanRegs3 : List Reg :=
  [⟨"HBQ_WTAIL", 0x600000, 32, [], [⟨.hbqWtail, 0, .rw⟩]⟩,
   ⟨"HBQ_WHEAD", 0x600004, 32, [], [⟨.hbqWhead, 0, .ro⟩]⟩,
   ⟨"HBQ_RTAIL", 0x600008, 32, [], [⟨.hbqRtail, 0, .ro⟩]⟩,
   ⟨"HBQ_RHEAD", 0x60000C, 32, [], [⟨.hbqRhead, 0, .rw⟩]⟩,
   ⟨"HBQ_BATCHES", 0x600010, 64, [], [⟨.hbqBatches, 0, .ro⟩]⟩]

/-- Registers of a channel's BAR0. -/
def chanRegs : List Reg := chanRegs0 ++ chanRegs1 ++ chanRegs2 ++ chanRegs3

/-- Registers of a core window, part 1. -/
def coreRegs0 : List Reg :=
  [⟨"CORE_STAT", 0x20008, 32, [], [⟨.coreStatState, 0, .ro⟩, ⟨.coreStatOnfic, 3, .ro⟩, ⟨.coreStatDbell, 4, .ro⟩,
     ⟨.coreStatLdepth, 5, .ro⟩, ⟨.coreStatInreplay, 8, .ro⟩]⟩,
   ⟨"CORE_PC", 0x20010, 32, [], [⟨.corePc, 0, .rw⟩]⟩,
   ⟨"CORE_HALT", 0x20018, 64, [], [⟨.coreHaltCode, 0, .ro⟩, ⟨.coreHaltCause, 16, .ro⟩, ⟨.coreHaltPc, 32, .ro⟩]⟩,
   ⟨"CORE_CYC", 0x20020, 64, [], [⟨.coreCyc, 0, .ro⟩]⟩,
   ⟨"CORE_G", 0x20100, 64, [⟨8, 0, 31, 0, 1⟩], [⟨.coreG, 0, .rw⟩]⟩,
   ⟨"CORE_P", 0x20200, 64, [⟨8, 0, 63, 0, 1⟩], [⟨.coreP, 0, .rw⟩]⟩,
   ⟨"CORE_SQF", 0x20400, 64, [⟨8, 0, 15, 0, 1⟩], [⟨.coreSqf, 0, .ro⟩]⟩,
   ⟨"MX_F", 0x20800, 64, [⟨8, 0, 13, 0, 1⟩], [⟨.mxF, 0, .ro⟩]⟩,
   ⟨"MX_STAT", 0x20880, 32, [], [⟨.mxStatDrainwait, 1, .ro⟩, ⟨.mxStatRetained, 2, .ro⟩, ⟨.mxStatNan, 8, .w1c⟩, ⟨.mxStatInf,
     9, .w1c⟩, ⟨.mxStatPoison, 10, .w1c⟩]⟩,
   ⟨"MX_TILES", 0x20888, 64, [], [⟨.mxTiles, 0, .ro⟩]⟩,
   ⟨"MX_STALLC", 0x20890, 64, [], [⟨.mxStallc, 0, .ro⟩]⟩,
   ⟨"MX_BIST", 0x20898, 32, [], [⟨.mxBistDone, 0, .ro⟩, ⟨.mxBistPass, 1, .ro⟩, ⟨.mxBistRow, 8, .ro⟩, ⟨.mxBistCol, 16, .ro⟩]⟩,
   ⟨"VX_F", 0x20900, 64, [⟨8, 0, 5, 0, 1⟩], [⟨.vxF, 0, .ro⟩]⟩,
   ⟨"VX_STAT", 0x20980, 32, [], [⟨.vxStatTqwait, 1, .ro⟩, ⟨.vxStatPoison, 8, .w1c⟩, ⟨.vxStatSat8, 9, .w1c⟩, ⟨.vxStatInf8, 10,
     .w1c⟩, ⟨.vxStatNan, 11, .w1c⟩]⟩,
   ⟨"TQ_POPS", 0x20990, 64, [], [⟨.tqPops, 0, .ro⟩]⟩,
   ⟨"SPD_KIND", 0x20A00, 32, [], [⟨.spdKindWbank, 0, .rw⟩]⟩,
   ⟨"SPD_KIND_NEXT", 0x20A04, 32, [], [⟨.spdKindNextWbank, 0, .rw⟩]⟩,
   ⟨"SPD_PWR", 0x20A08, 32, [], [⟨.spdPwrOn, 0, .rw⟩, ⟨.spdPwrReady, 8, .ro⟩]⟩,
   ⟨"SPD_PWR_NEXT", 0x20A0C, 32, [], [⟨.spdPwrNextOn, 0, .rw⟩]⟩,
   ⟨"SPD_STAT", 0x20A10, 32, [], [⟨.spdStatConflict, 0, .w1c⟩, ⟨.spdStatAerr, 1, .w1c⟩, ⟨.spdStatUe, 2, .w1c⟩, ⟨.spdStatInit,
     3, .ro⟩, ⟨.spdStatClean, 4, .ro⟩, ⟨.spdStatAttempt, 5, .ro⟩, ⟨.spdStatSwept, 7, .ro⟩]⟩,
   ⟨"SPD_CONF", 0x20A18, 64, [], [⟨.spdConfBank, 0, .ro⟩, ⟨.spdConfWin, 4, .ro⟩, ⟨.spdConfLost, 6, .ro⟩, ⟨.spdConfWrite, 10,
     .ro⟩, ⟨.spdConfWord, 16, .ro⟩, ⟨.spdConfCyc, 32, .ro⟩]⟩,
   ⟨"SPD_STALEC", 0x20A20, 64, [], [⟨.spdStalec, 0, .ro⟩]⟩,
   ⟨"SPD_CECNT", 0x20A28, 64, [], [⟨.spdCecnt, 0, .ro⟩]⟩,
   ⟨"SPD_RERUNS", 0x20A30, 64, [], [⟨.spdReruns, 0, .ro⟩]⟩]

/-- Registers of a core window, part 2. -/
def coreRegs1 : List Reg :=
  [⟨"SYN_CNT", 0x20B00, 32, [⟨4, 0, 15, 0, 1⟩], [⟨.synCnt, 0, .rw⟩]⟩,
   ⟨"SYN_FLAGS", 0x20B40, 64, [], [⟨.synFlagsSatHi, 0, .w1c⟩, ⟨.synFlagsSatLo, 16, .w1c⟩, ⟨.synFlagsMisuse, 32, .w1c⟩]⟩,
   ⟨"SY_F", 0x20B80, 64, [⟨8, 0, 3, 0, 1⟩], [⟨.syF, 0, .ro⟩]⟩,
   ⟨"DET_CORE", 0x23000, 64, [], [⟨.detCoreDcyc, 0, .ro⟩, ⟨.detCoreSegs, 32, .ro⟩, ⟨.detCoreOpen, 48, .ro⟩]⟩]

/-- Registers of a core window. -/
def coreRegs : List Reg := coreRegs0 ++ coreRegs1

end Sys2Proof.Machine
end

