-- ==== Sys2Proof/Machine/RegRead.lean ====
section
/-!
DEFINITION. Reading a register at an offset: what the trigger slots' capture engine sees (R530), by the map of R579.
-/
namespace Sys2Proof.Machine

/-- The places of an offset among a register's indices: how they count in the two indices of a place, or none. -/
def walkDims : List RegDim → Nat → Nat → Nat → Nat → Option (Nat × Nat × Nat)
  | [], size, rel, a, b => if rel < size then some (a, b, rel) else none
  | d :: ds, size, rel, a, b =>
    let k := rel / d.stride
    if d.lo ≤ k ∧ k ≤ d.hi then walkDims ds size (rel % d.stride) (a + k * d.ma) (b + k * d.mb) else none

/-- Where an offset falls in a register: the two indices, and the byte within. -/
def Reg.at (r : Reg) (off : Nat) : Option (Nat × Nat × Nat) :=
  if off < r.base then none else walkDims r.dims (r.bits / 8) (off - r.base) 0 0

/-- The register of a space that an offset falls in, its indices and the byte within. -/
def findReg (rs : List Reg) (off : Nat) : Option (Reg × Nat × Nat × Nat) :=
  rs.findSome? fun r => (r.at off).map fun x => (r, x)

/-- A register's value from its fields. -/
def fieldsRead (r : Reg) (a b : Nat) (s : State) : Nat :=
  r.fields.foldl (fun n f => n + (if f.kind = .wo then 0 else s.get f.fld a b) * 2 ^ f.lo) 0

/-- TQ_STAT (R161). -/
def tqStat (c : Nat) (s : State) : Nat :=
  (List.range 8).foldl (fun n e => n + s.get .tqEnt c e * 8 ^ e) 0 + tqFullCount c s * 2 ^ 24 + tqFreeCount c s * 2 ^ 28 +
    s.get .tqHead c 0 * 2 ^ 32

/-- Eight counts of 7 bits. -/
def packCounts (f : Nat → Nat) : Nat := (List.range 8).foldl (fun n e => n + min 127 (f e) * 2 ^ (7 * e)) 0

/-- What a register of a core window shows beside its fields. -/
def coreSpecial (name : String) (c v : Nat) (s : State) : Nat :=
  if name = "MX_STAT" then v + bitOf (unitBusy c 1 s)
  else if name = "VX_STAT" then v + bitOf (unitBusy c 2 s)
  else v

/-- A 64-bit word of a core window: banks, V registers and the registers that other state gives, else by the map. -/
def coreWord (c off : Nat) (s : State) : Nat :=
  if off < 0x20000 then
    let act := s.get .coreBank c 0
    leNat (s.bytes (imemAddr c (if off < 0x10000 then act else 1 - act) (off % 0x10000 / 8)) 8)
  else if off = 0x20988 then tqStat c s
  else if off = 0x20C00 then packCounts fun e => (s.fifoAt c e).length
  else if off = 0x20C08 then packCounts fun e => s.get .epRoom c e
  else if 0x21000 ≤ off ∧ off < 0x23000 then
    let k := off - 0x21000
    let v := tget (List.replicate 64 0#32) s.vreg (c * 32 + k / 256)
    let lane (i : Nat) : Nat := (v.getD i 0#32).toNat
    lane (k % 256 / 4) + lane (k % 256 / 4 + 1) * 2 ^ 32
  else
    match findReg coreRegs off with
    | some (r, _, b, _) => coreSpecial r.name c (fieldsRead r c b s)  s
    | none => 0

/-- The 32 bits of a core window at an aligned offset. -/
def coreRead (c off : Nat) (s : State) : Nat :=
  let start := if off < 0x20000 ∨ 0x20C00 ≤ off ∧ off < 0x23000 then off / 8 * 8
    else match findReg coreRegs off with
      | some (_, _, _, k) => off - k
      | none => off / 8 * 8
  coreWord c start s / 2 ^ (8 * (off - start)) % 2 ^ 32

/-- The 32 bits of a register of a space, by the map. -/
def mapRead (rs : List Reg) (put : Nat → Nat → Nat × Nat) (off : Nat) (s : State) : Nat :=
  match findReg rs off with
  | some (r, a, b, k) =>
    let (x, y) := put a b
    if r.bits = 8 then (List.range 4).foldl (fun n i => n + s.get (r.fields.headD ⟨.idSerial, 0, .ro⟩).fld (x + i) y * 256 ^ i) 0
    else fieldsRead r x y s / 2 ^ (8 * k) % 2 ^ 32
  | none => 0

/-- Core k, island by island, of the core windows. -/
def windowCore (off : Nat) : Nat := (off - 0x1000000) / 0x400000 * 16 + (off - 0x1000000) % 0x400000 / 0x40000

/-- A message of MSI-X: the table shows its masks, the PBA its pending bits; addresses and data are the host's own. -/
def msixRead (fn off : Nat) (s : State) : Nat :=
  if off < 0x8000 then
    (if off % 16 = 12 ∧ off / 16 < 16 then s.get .msixVmask fn (off / 16) else s.get .msixTab fn (off / 4))
  else if off = 0x8000 then (List.range 16).foldl (fun n v => n + s.get .msixPba fn v * 2 ^ v) 0
  else 0

/-- The 32 bits of a channel's BAR0 at an aligned offset. -/
def chanRead (ch off : Nat) (s : State) : Nat :=
  if off < 0x100000 ∨ (0x400000 ≤ off ∧ off < 0x500000) then mapRead chanRegs (fun _ b => (ch, b)) off s
  else if 0x600000 ≤ off ∧ off < 0x700000 then
    if !s.isU16 then 0
    else if 0x610000 ≤ off ∧ off < 0x630000 then leNat (s.bytes (hbqWordAddr (off - 0x610000)) 4)
    else if 0x640000 ≤ off ∧ off < 0x650000 then leNat (s.bytes (hbqRespAddr (off - 0x640000)) 4)
    else mapRead chanRegs (fun _ b => (0, b)) off s
  else if 0xF00000 ≤ off ∧ off < 0x1000000 then msixRead (1 + ch) (off - 0xF00000) s
  else if s.get .chPwrStatState ch 0 ≠ 0 then 0
  else if 0x1000000 ≤ off then
    let c := coreIn ch (windowCore off)
    if windowCore off < 160 ∧ s.present c then coreRead c ((off - 0x1000000) % 0x40000) s else 0
  else if 0x101000 ≤ off ∧ off < 0x102000 then leNat (s.bytes (hsqAddr ch (off - 0x101000)) 4)
  else if off / 8 = 0x100008 / 8 then foxStat ch s / 2 ^ (8 * (off % 8)) % 2 ^ 32
  else if off = 0x208008 then mapRead chanRegs (fun _ b => (ch, b)) off s + routedLinks ch s * 2 ^ 8
  else mapRead chanRegs (fun _ b => (ch, b)) off s

/-! ## The recorder's registers (R540, R543, R544, R545) -/

/-- A counter of the recorder: 0 operating seconds, 1 power cycles (R540, R542). -/
def ctrValue (k : Nat) (s : State) : Nat :=
  let n := s.get .ctrB k 0 + (if k = 0 then 60 else 1) * (s.get .ctrC k 0 - s.get .ctrA k 0) + (if k = 0 then s.get .opsS 0 0 else 0)
  min n (if k = 0 then 2 ^ 40 - 1 else 2 ^ 24 - 1)

/-- Bytes of records in SRAM and not yet in NOR. -/
def unwritten (s : State) : Nat := s.evrBuf.foldl (fun n r => n + (r.bytes.length - r.done)) 0

/-- NOR address of a ring sector. -/
def secAddr (p : Nat) : Nat := norAddr (0x2000000 + p * 4096)

/-- The ring sectors that hold records, with their SSEQ. -/
def heldSectors (s : State) : List (Nat × Nat) :=
  s.reg.filterMap fun e => if keyFld e.1 = Fld.evrSecSseq.id ∧ e.2 ≠ 0 then some (keyA e.1, e.2 - 1) else none

/-- A cursor. -/
def cursor (sseq unit : Nat) : Nat := sseq * 2 ^ 12 + unit * 2 ^ 5

/-- The unit after the newest record: where the next one goes, the first unit of the next sector when none is open or it is full. -/
def evrNewest (s : State) : Nat :=
  if s.on .evrSec 0 0 ∧ s.get .evrUnit 0 0 < 128 then cursor (s.get .evrSseq 0 0) (s.get .evrUnit 0 0) else cursor (s.get .evrSseq 0 0 + 1) 1

/-- The oldest readable record: the least SSEQ that EVR_CLEAR has not hidden. -/
def evrOldest (s : State) : Nat :=
  let clr := s.get .evrClear 0 0 - 1
  let ss := (heldSectors s).map Prod.snd |>.filter fun n => decide (clr ≤ n)
  match ss with
  | [] => evrNewest s
  | n :: t => cursor (t.foldl min n) 1

/-- EVR_CUR as it acts: a unit of 0 is 1. -/
def evrCursor (s : State) : Nat :=
  let p := s.get .evrCurPos 0 0
  cursor (bitsAt p 12 32) (max 1 (bitsAt p 5 7))

/-- EVR_CSTAT.GONE. -/
def evrGone (s : State) : Bool := decide (evrCursor s < evrOldest s)
/-- EVR_CSTAT.END. -/
def evrEnd (s : State) : Bool := decide (evrNewest s ≤ evrCursor s)

/-- A byte of the ring with the records still in SRAM at their positions, BUF set in them; their CRC is the one that they take to
NOR. -/
def ringByte (a : Nat) (s : State) : BitVec 8 :=
  match s.evrBuf.find? fun r => decide (r.addr ≤ a) && decide (a < r.addr + r.bytes.length) with
  | some r => let v := r.bytes.getD (a - r.addr) 0#8
    if a = r.addr + 1 then v ||| 0x20#8 else v
  | none => s.byte a

/-- Byte k of the sector of the cursor from the cursor's unit on. -/
def windowByte (k : Nat) (s : State) : BitVec 8 :=
  let p := evrCursor s
  let unit := bitsAt p 5 7
  if evrGone s then 0xFF#8
  else if 4096 ≤ unit * 32 + k then 0x00#8
  else
    match (heldSectors s).find? fun e => e.2 == p / 2 ^ 12 with
    | some (sec, _) => ringByte (secAddr sec + unit * 32 + k) s
    | none => 0xFF#8

/-- The EVR block from + 0x0000 to + 0x003F, as eight 64-bit words. -/
def evrWord (k : Nat) (s : State) : Nat :=
  match k with
  | 0 => s.get .evrStatMounted 0 0 + 2 * s.get .evrStatFlushing 0 0 + 2 ^ 16 * unwritten s
  | 1 => ctrValue 0 s
  | 2 => ctrValue 1 s
  | 3 => evrOldest s
  | 4 => evrNewest s
  | 5 => s.get .evrCurPos 0 0
  | 7 => bitOf (evrGone s) + 2 * bitOf (evrEnd s)
  | _ => 0

/-- The fallback window, the time, the forwarding table and the recorder's registers are read here. -/
def mgmtRead (off : Nat) (s : State) : Nat :=
  if off = 0x20000 then s.get .gtc 0 0 % 2 ^ 32
  else if off = 0x20004 then s.get .gtc 0 0 / 2 ^ 32
  else if 0x30000 ≤ off ∧ off < 0x3C000 then mapRead linkRegs (fun _ b => ((off - 0x30000) / 0x400, b)) (0x30000 + off % 0x400) s
  else if off = 0x3C00C then
    (List.range 8).foldl (fun n e => n + s.get .fabFwd (s.get .fabFwdAddrCh 0 0) (s.get .fabFwdAddrChip 0 0 / 8 * 8 + e) * 2 ^ (4 * e)) 0
  else if 0x41008 ≤ off ∧ off < 0x41028 then mapRead mgmtRegs (fun _ b => (s.get .sveSvcSelId 0 0, b)) off s
  else if 0x48000 ≤ off ∧ off < 0x49000 then leNat (s.bytes (poolAddr (s.get .sveFbwinBase 0 0 * 64 + off - 0x48000)) 4)
  else if 0x50000 ≤ off ∧ off < 0x50040 then evrWord ((off - 0x50000) / 8) s / 2 ^ (8 * (off % 8)) % 2 ^ 32
  else if 0x50100 ≤ off ∧ off < 0x50200 then leNat ((List.range 4).map fun i => windowByte (off - 0x50100 + i) s)
  else if 0x70000 ≤ off ∧ off < 0x72000 then mapRead ownRegs (fun _ b => ((off - 0x70000) / 0x400, b)) (0x70000 + off % 0x400) s
  else if 0xF00000 ≤ off ∧ off < 0x1000000 then msixRead 0 (off - 0xF00000) s
  else mapRead mgmtRegs (fun a b => (a, b)) off s

/-- A read of 32 or 64 bits at a naturally aligned offset of function 0's BAR0. -/
def mgmtValue (off : Nat) (wide : Bool) (s : State) : Nat :=
  mgmtRead off s + if wide then mgmtRead (off + 4) s * 2 ^ 32 else 0

/-- A read of 32 or 64 bits at a naturally aligned offset of a channel's BAR0. -/
def chanValue (ch off : Nat) (wide : Bool) (s : State) : Nat :=
  chanRead ch off s + if wide then chanRead ch (off + 4) s * 2 ^ 32 else 0

end Sys2Proof.Machine
end

