-- ==== Sys2Proof/Machine/Freeze.lean ====
section
/-!
DEFINITION. The freeze wave (R549 to R556).
-/
namespace Sys2Proof.Machine

/-- The freeze wave, from source 1 FREEZE_N, 2 FRZ_CTRL.GO or 3 a trigger slot: every channel freezes (R549, R552). A source that
acts while the chip is frozen has no effect (R551). -/
def freezeWave (src slot : Nat) (s : State) : State :=
  if s.frozen then s
  else
    let t := ((s.put .frzStatFrozen 0 0 1).put .frzStatSrc 0 0 src).put .frzStatSlot 0 0 slot
    let t := (t.put .frzStatChfrozen 0 0 0xFF).put .frzGtc 0 0 (s.get .gtc 0 0)
    let t := (t.put .frzOpsec 0 0 (ctrValue 0 s)).put .frzPcyc 0 0 (ctrValue 1 s)
    let t := (t.put .frzStatRo 0 0 0).clearFlds [.frzCause] (fun _ => true)
    ((t.raise 0x1001 8 [src]).mgCause 6).flush

/-- What is left to send of a channel's section becomes zero where the channel is reset, and is dropped where it is killed (the
collisions of chapter 17). -/
def cutSection (ch : Nat) (killed : Bool) (s : State) : State :=
  if s.get .roOn 0 0 ≠ ch + 1 then s
  else
    let n := s.get .roLast 0 0
    let keep := s.roTail.take (s.roTail.length - n)
    ({ s with roTail := if killed then keep else keep ++ List.replicate n 0#8 } : State).put .roOn 0 0 0

/-- FRZ_CTRL_GO: FRZ_CTRL.GO from function 0 or the MGC firmware always acts. -/
def execFrzCtrlGo (mgc : Bool) (s : State) : Out := .next (if mgc || s.mgWrite then freezeWave 2 0 s else s)

/-- FREEZE_N: the pin held low for some ns; below 20 ns it may act or not. -/
def execFreezeN (ns : BitVec 16) (s : State) : Out :=
  if !s.on .frzArmPin 0 0 then .next s
  else if 20 ≤ ns.toNat then .next (freezeWave 1 0 s)
  else .next ((if Config.freeNat s.ctr % 2 = 1 then freezeWave 1 0 s else s).draw)

end Sys2Proof.Machine
end

