-- ==== Sys2Proof/Machine/Recorder.lean ====
section
/-!
DEFINITION. The Event Recorder: from event to record, triggers and snapshots, summaries, writing to NOR, flushes, the operating-time
and power-cycle counters, reading and clearing (R515 to R547).
-/
namespace Sys2Proof.Machine

/-! ## Records (R518 to R522) -/

/-- A record: VALID, CLASS and CRIT, UNITS, SOURCE, CODE, REPEAT, OPSEC and PCYC, a body padded to whole units, and the CRC. -/
def recordOf (cls : Nat) (crit : Bool) (src code rep ops pcyc : Nat) (body : List (BitVec 8)) : List (BitVec 8) :=
  let units := (16 + body.length + 4 + 31) / 32
  let h := [0xA5#8, BitVec.ofNat 8 (cls + 16 * bitOf crit), BitVec.ofNat 8 units, BitVec.ofNat 8 src] ++ leBytes 2 code ++
    leBytes 2 rep ++ leBytes 5 ops ++ leBytes 3 pcyc
  let x := h ++ body ++ List.replicate (units * 32 - 20 - body.length) 0#8
  x ++ leBytes 4 (crc32c (x.drop 1))

/-- The widths of a code's context fields (R520): that of the register field that a field copies, 16 for a global core number or an
event code, else 32. Event 0x0D24 names a slot, or a code where a third word follows. -/
def ctxWidths (e : Event) : List Nat :=
  match e.code with
  | 0x0101 => [16, 13, 32] | 0x0102 => [16, 13, 16] | 0x0104 => [16, 3]
  | 0x0201 => [16, 32, 32] | 0x0202 => [16, 5, 5, 32]
  | 0x0301 => [16, 32, 32] | 0x0302 => [16, 13, 32]
  | 0x0401 => [16, 64] | 0x0402 => [16, 32, 32, 32, 2] | 0x0403 => [16, 32, 32, 32] | 0x0404 => [16, 32, 32]
  | 0x0405 => [16, 32, 32, 32] | 0x0406 => [16, 32, 32]
  | 0x0601 => [16, 32, 32] | 0x0602 => [16, 32, 32] | 0x0603 => [16, 32, 16] | 0x0604 => [32, 32, 16, 4] | 0x0606 => [32, 32, 6]
  | 0x0706 => [32, 17, 19]
  | 0x0801 => [32, 32, 64] | 0x0802 => [32, 16, 32] | 0x0803 => [32, 16, 32] | 0x0804 => [32, 3, 8] | 0x0808 => [32, 8]
  | 0x0901 => [32, 16, 2, 8]
  | 0x0A01 => [2, 2, 6, 6] | 0x0A06 => [32, 16, 2]
  | 0x0B01 => [32, 3, 3, 4] | 0x0B03 => [32, 4, 32] | 0x0B04 => [32, 1] | 0x0B05 => [32, 32, 3]
  | 0x0C01 => [32, 3, 3] | 0x0C03 => [32, 32, 2]
  | 0x0D01 => [3, 6, 32] | 0x0D05 => [32, 4] | 0x0D06 => [3, 4] | 0x0D0A => [2] | 0x0D24 => if e.ctx.length = 3 then [16, 8, 0] else [32, 64]
  | 0x0E01 => [32, 3, 3, 3] | 0x0E03 => [32, 16, 11] | 0x0E04 => [32, 16] | 0x0E05 => [8, 16] | 0x0E07 => [32, 32, 16]
  | 0x0F01 => [16] | 0x0F05 => [1] | 0x0F06 => [32, 1]
  | 0x1001 => [2] | 0x1003 => [1]
  | _ => []

/-- Pack context fields at bit level: a field that would pass bit 319 is dropped, and every field after it (R520). -/
def packCtx : List Nat → List Nat → Nat → Nat
  | _, [], _ => 0
  | ws, v :: vs, at' =>
    let w := ws.headD 32
    if 320 < at' + w then 0 else v % 2 ^ w * 2 ^ at' + packCtx ws.tail vs (at' + w)

/-- An event record: CONTEXT and DT (R519). -/
def eventRecord (crit : Bool) (e : Event) (rep ops pcyc dt : Nat) : List (BitVec 8) :=
  recordOf 1 crit e.src e.code rep ops pcyc (leBytes 40 (packCtx (ctxWidths e) e.ctx 0) ++ leBytes 4 dt)

/-! ## The ring (R516, R517) -/

/-- Erased ring sectors that verify. -/
def erasedSectors (s : State) : Nat :=
  8184 - (heldSectors s).length - ((List.range 8192).filter fun p => s.on .evrSecBad p 0 && !s.on .evrSecSseq p 0).length

/-- The ring sector after a sector. -/
def ringNext (p : Nat) : Nat := if p < 8 ∨ 8191 ≤ p then 8 else p + 1

/-- The next erased sector from a sector on, within n sectors. -/
def nextErased (s : State) : Nat → Nat → Option Nat
  | 0, _ => none
  | n + 1, p => if !s.on .evrSecSseq p 0 && !s.on .evrSecBad p 0 then some p else nextErased s n (ringNext p)

/-- The ring sector with the lowest SSEQ. -/
def lowestSector (s : State) : Option Nat :=
  ((heldSectors s).foldl (fun m e => match m with
    | none => some e
    | some b => if e.2 < b.2 then some e else some b) none).map Prod.fst

/-- Erase a ring sector. -/
def eraseSector (p : Nat) (s : State) : State :=
  (s.wipe (secAddr p) (secAddr p + 4096)).clearFlds [.evrSecSseq, .evrSecEnd] (· == p)

/-- The header of a sector (R516). -/
def sectorHeader (sseq : Nat) (clear : Bool) : List (BitVec 8) :=
  let h := leBytes 4 0x45565253 ++ leBytes 4 sseq ++ [BitVec.ofNat 8 (bitOf clear)] ++ List.replicate 19 0#8
  h ++ leBytes 4 (crc32c h)

/-- Open the next erased sector; where none is left the one with the lowest SSEQ is erased first. -/
def openSector (clear : Bool) (s : State) : State :=
  let t := if s.on .evrSec 0 0 then s.put .evrSecEnd (s.get .evrSec 0 0) 0 (s.get .evrUnit 0 0) else s
  let from' := ringNext (t.get .evrSec 0 0)
  let (p, t) := match nextErased t 8184 from' with
    | some p => (p, t)
    | none => match lowestSector t with
      | some p => (p, eraseSector p t)
      | none => (from', t)
  let n := t.get .evrSseq 0 0 + 1
  let t := (((t.put .evrSec 0 0 p).put .evrSseq 0 0 n).put .evrUnit 0 0 1).put .evrTorn 0 0 0
  let t := (t.put .evrSecSseq p 0 (n + 1)).setBytes (secAddr p) (sectorHeader n clear)
  if clear then t.put .evrClear 0 0 (n + 1) else t

/-- The NOR address of the next record of some units, and the write point past it (R516, R538). -/
def takePlace (units : Nat) (s : State) : Nat × State :=
  let t := if !s.on .evrSec 0 0 || s.on .evrTorn 0 0 || decide (128 < s.get .evrUnit 0 0 + units) then
    openSector false s else s
  let u := t.get .evrUnit 0 0
  (secAddr (t.get .evrSec 0 0) + u * 32, t.put .evrUnit 0 0 (u + units))

/-- Append a record to the SRAM buffer, at the place it will take in NOR (R535, R545). -/
def appendRec (bs : List (BitVec 8)) (ev : Option Event) (s : State) : State :=
  let (a, t) := takePlace (bs.length / 32) s
  { t with evrBuf := t.evrBuf ++ [⟨a, bs, 0, ev⟩] }

/-- Records dropped at the unwritten limit (R524, R526). -/
def loseRec (s : State) : State := (s.inc .evrLost 0 0 1).inc .evrLostSec 0 0 1

/-- Append where the unwritten limit allows. -/
def appendLimited (bs : List (BitVec 8)) (ev : Option Event) (s : State) : State :=
  if 7168 < unwritten s + bs.length then loseRec s else appendRec bs ev s

/-- The critical path: a record straight to NOR, VALID last; function 0's cause EVR, and a flush (R534, R536, R581). -/
def criticalWrite (e : Event) (s : State) : State :=
  let bs := eventRecord true e 0 (ctrValue 0 s) (ctrValue 1 s) 0
  let (a, t) := takePlace 2 s
  (((t.setBytes a bs).inc .evrWritten 0 0 1).mgCause 2).flush

/-! ## Triggers and snapshots (R529 to R531) -/

/-- A trigger slot matches an event (R529). -/
def slotMatches (k : Nat) (e : Event) (s : State) : Bool :=
  let m := s.get .evrTrigMask k 0
  s.on .evrTrigEn k 0 && (e.code &&& m) == (s.get .evrTrigCode k 0 &&& m) && s.bit .evrTrigSrc k 0 e.src

/-- One entry of a capture: masked, and its value (R530). -/
def captureEntry (sel src : Nat) (s : State) : Bool × Nat :=
  let wide := sel.testBit 31
  let off := bitsAt sel 0 26
  let size := if wide then 8 else 4
  let inChan := sel.testBit 30
  let rel := sel.testBit 29
  let ch := if rel then src else bitsAt sel 26 3
  let far : Bool := off % size != 0 || decide ((if inChan then 2 ^ 26 else 2 ^ 24) < off + size)
  let absent : Bool := decide (0x1000000 ≤ off) && !(decide (windowCore off < 160) && s.present (coreIn ch (windowCore off)))
  if far then (true, 0)
  else if !inChan then (false, mgmtValue off wide s)
  else if (rel && src == 8) || s.get .ownChStatState ch 0 == 4 ||
      (s.get .ownChStatState ch 0 == 3 && !s.on .ownCfgEvrVisible ch 0 && decide (0x100000 ≤ off)) || absent then (true, 0)
  else (false, chanValue ch off wide s)

/-- The snapshot record of a slot (R521). -/
def snapshot (k : Nat) (e : Event) (s : State) : List (BitVec 8) :=
  let n := min 16 (s.get .evrTrigN k 0)
  let sels := (List.range n).map fun j => s.get .evrTrigSel k j
  let got := sels.map fun v => (v, captureEntry v e.src s)
  let mask := (got.mapIdx fun j g => if g.2.1 then 2 ^ j else 0).foldl (· + ·) 0
  let body := [BitVec.ofNat 8 k, BitVec.ofNat 8 n] ++ leBytes 2 mask ++ got.flatMap fun g => leBytes 4 g.1 ++ leBytes 8 g.2.2
  recordOf 2 false e.src e.code 0 (ctrValue 0 s) (ctrValue 1 s) (body ++ List.replicate (204 - body.length) 0#8)

/-- A slot fires: the freeze wave where it is armed, and a snapshot where its bucket holds one (R530, R531). -/
def fireSlot (k : Nat) (e : Event) (s : State) : State :=
  let t := if s.on .evrTrigFrz k 0 && s.on .frzArmTrig 0 0 then freezeWave 3 k s else s
  if !t.on .evrSnapTok k 0 then t.inc .evrTrigMissed k 0 1
  else
    let u := t.put .evrSnapTok k 0 (t.get .evrSnapTok k 0 - 1)
    appendLimited (snapshot k e u) none u

/-! ## From event to record (R523 to R528) -/

/-- The summary-only codes (R527, R547). -/
def summaryCodes : List Nat := [0x0407, 0x0503, 0x0704, 0x0902, 0x0B02, 0x0B06, 0x0B08, 0x0C08, 0x0E09]

/-- The place of a summary-only code's counts. -/
def cntKey (code subject : Nat) : Nat := summaryCodes.findIdx (· == code) * 64 + subject

/-- Add an occurrence to the period's counts: a stale read to its core's, saturating. -/
def addCount (e : Event) (s : State) : State :=
  let subj := e.ctx.getD 0 0
  let n := e.ctx.getD 2 0
  if e.code = 0x0407 then s.put .evrStale subj 0 (min 0xFFFF (s.get .evrStale subj 0 + n))
  else s.inc .evrCnt (cntKey e.code subj) (e.ctx.getD 1 0) n

/-- The newest event record still in SRAM is one of this event that may count a repeat: no byte of it is in NOR (R524, R525). -/
def repeatsLast (e : Event) (s : State) : Option Rec :=
  match (s.evrBuf.filter fun r => r.ev.isSome).getLast? with
  | some r => if r.ev = some e ∧ r.done = 0 ∧ leNat ((r.bytes.drop 6).take 2) < 0xFFFF then some r else none
  | none => none

/-- Count a repeat (R519, R524). -/
def countRepeat (e : Event) (r : Rec) (s : State) : State :=
  let rep := leNat ((r.bytes.drop 6).take 2) + 1
  let ops := leNat ((r.bytes.drop 8).take 5)
  let dt := min (2 ^ 32 - 1) (ctrValue 0 s - ops)
  let new := eventRecord false e rep ops (leNat ((r.bytes.drop 13).take 3)) dt
  { s with evrBuf := s.evrBuf.map fun x => if x.addr = r.addr then { x with bytes := new } else x }

/-- A code's bucket for a source is empty: EVR_RLIM 0 suppresses, 255 is no limit (R526). -/
def suppressed (e : Event) (s : State) : Bool :=
  let lim := s.get .evrRlim (rlimIx e.code) 0
  lim == 0 || (lim != 255 && !s.on .evrTok (rlimIx e.code) e.src)

/-- The rule of R524. -/
def takeEvent (e : Event) (s : State) : State :=
  let t := (List.range 32).foldl (fun t k => if slotMatches k e s then fireSlot k e t else t) s
  if summaryCodes.contains e.code then addCount e t
  else if criticalCodes.contains e.code then criticalWrite e t
  else
    let t := match repeatsLast e t with
      | some r => countRepeat e r t
      | none =>
        let ix := rlimIx e.code
        if suppressed e t then (t.inc .evrSup ix e.src 1).inc .evrSuppressed 0 0 1
        else
          let u := if t.get .evrRlim ix 0 = 255 then t else t.put .evrTok ix e.src (t.get .evrTok ix e.src - 1)
          appendLimited (eventRecord false e 0 (ctrValue 0 u) (ctrValue 1 u) 0) (some e) u
    if e.code = 0x0604 then t.flush else t

/-- Take the first event that waits. -/
def recordFirst (s : State) : State :=
  match s.evq with
  | [] => s
  | e :: es => takeEvent e { s with evq := es }

/-- RECORD_EVENT: once it is mounted, the recorder takes the events in the order it receives them. -/
def execRecordEvent (s : State) : Out := .next (if s.on .evrStatMounted 0 0 then recordFirst s else s)

/-- Take n events. -/
def takeMany : Nat → State → State
  | 0, s => s
  | n + 1, s => takeMany n (recordFirst s)

/-- Take every event that waits now, where the recorder is mounted. -/
def takeAll (s : State) : State := if s.on .evrStatMounted 0 0 then takeMany s.evq.length s else s

/-! ## The counters (R539 to R542) -/

/-- The address of sector q of counter k: 0 and 1 hold records, 2 and 3 the fields. -/
def ctrAddr (k q : Nat) : Nat := secAddr (k * 4 + q)

/-- Erase a sector of a counter. -/
def eraseCtr (k q : Nat) (s : State) : State := s.wipe (ctrAddr k q) (ctrAddr k q + 4096)

/-- Write a base record of counter k by the critical path; a full record sector gives way to the other (R539, R541). -/
def writeBase (k b a f : Nat) (s : State) : State :=
  let full : Bool := decide (128 ≤ s.get .ctrN k 0)
  let old := s.get .ctrSec k 0
  let sec := if full then 1 - old else old
  let n := if full then 0 else s.get .ctrN k 0
  let seq := s.get .ctrSeq k 0 + 1
  let x := [0xA5#8, BitVec.ofNat 8 k, BitVec.ofNat 8 f, BitVec.ofNat 8 a] ++ leBytes 4 seq ++ leBytes 8 b ++ List.replicate 12 0#8
  let t := s.setBytes (ctrAddr k sec + n * 32) (x ++ leBytes 4 (crc32c (x.drop 1)))
  let t := ((((t.put .ctrB k 0 b).put .ctrA k 0 a).put .ctrF k 0 f).put .ctrSeq k 0 seq).put .ctrSec k 0 sec
  let t := t.put .ctrN k 0 (n + 1)
  if full then eraseCtr k old t else t

/-- Program the next bit of counter k's field to 0; at 64 bits the counter rolls over to the other field (R541). -/
def countBit (k : Nat) (s : State) : State :=
  let f := s.get .ctrF k 0
  let c := s.get .ctrC k 0 + 1
  let t := (s.put .ctrC k 0 c).setBytes (ctrAddr k (2 + f)) (leBytes 8 (2 ^ 64 - 2 ^ c))
  if c < 64 then t
  else eraseCtr k (2 + f) ((writeBase k (ctrValue k t) 0 (1 - f) t).put .ctrC k 0 0)

/-- OPSEC_MINUTE: after 60 s the next bit of the operating-time field is programmed (R541). -/
def execOpsecMinute (s : State) : Out :=
  .next (if s.on .evrStatMounted 0 0 && decide (60 ≤ s.get .opsS 0 0) then
    countBit 0 (s.put .opsS 0 0 0)
  else s)

/-- The counter base records of a flush. B of the operating time holds the seconds so far, and their count starts again. -/
def flushBases (s : State) : State :=
  let t := (writeBase 0 (ctrValue 0 s) (s.get .ctrC 0 0) (s.get .ctrF 0 0) s).put .opsS 0 0 0
  writeBase 1 (ctrValue 1 t) (t.get .ctrC 1 0) (t.get .ctrF 1 0) t

/-! ## Writing and flushing (R534 to R537) -/

/-- Program what the buffered records have in one page of NOR. -/
def programPage (page : Nat) (s : State) : State :=
  s.evrBuf.foldl (fun t r =>
    let a := r.addr + r.done
    let n := min (r.addr + r.bytes.length) ((page + 1) * 256) - a
    if a / 256 = page then t.setBytes a ((r.bytes.drop r.done).take n) else t) s

/-- The buffer once a page is programmed: records wholly in NOR leave it and are counted. -/
def pageDone (page : Nat) (s : State) : State :=
  let l := s.evrBuf.map fun r =>
    let a := r.addr + r.done
    if a / 256 = page then { r with done := min r.bytes.length (((page + 1) * 256) - r.addr) } else r
  let out := l.filter fun r => r.done == r.bytes.length
  ({ s with evrBuf := l.filter fun r => r.done != r.bytes.length } : State).inc .evrWritten 0 0 out.length

/-- Program the page of the oldest unwritten byte. -/
def writePage (s : State) : State :=
  match s.evrBuf with
  | [] => s
  | r :: _ => let page := (r.addr + r.done) / 256; pageDone page (programPage page s)

/-- Staged summary records join the buffer while there is room. -/
def takeStaged : Nat → State → State
  | 0, s => s
  | n + 1, s =>
    match s.evrStaged with
    | [] => s
    | bs :: rest => if 7168 < unwritten s + bs.length then s else takeStaged n (appendRec bs none { s with evrStaged := rest })

/-- A flush ends: the base records are written. One for an input loss closes the write path, and where the input has returned the
recorder accepts events again and raises 0x0F02 (the collisions of chapter 16). -/
def flushDone (s : State) : State :=
  let t := (flushBases s).put .evrStatFlushing 0 0 0
  if t.on .evrFlushIn 0 0 && !t.on .inLost 0 0 then
    (t.put .evrFlushIn 0 0 0).raise 0x0F02 8 [(t.get .gtc 0 0 - t.get .inLostAt 0 0) / 1000]
  else t

/-- A sector whose program fails verification is given up: the records not wholly in it move to a new one (R517). -/
def abandonSector (p : Nat) (s : State) : State :=
  let mine (r : Rec) : Bool := (r.addr - secAddr 0) / 4096 == p
  let (keep, move) := (s.evrBuf.filter fun r => !mine r, s.evrBuf.filter mine)
  let t := ((s.put .evrSecBad p 0 1).inc .evrBadsect 0 0 1).raise 0x0D22 8 [p, 1]
  let t : State := { t with evrBuf := [] }
  let t := if t.get .evrSec 0 0 = p then openSector false t else t
  let t := move.foldl (fun t r => appendRec r.bytes r.ev t) t
  { t with evrBuf := keep ++ t.evrBuf }

/-- NOR_PAGE_WRITE: a page is programmed; `fail` tells that it does not verify. Ordinary records wait while at most four erased
sectors are left, and a flush does not (R517, R535, R536). -/
def execNorPageWrite (fail : Bool) (s : State) : Out :=
  if !s.on .evrStatMounted 0 0 then .next s
  else
    match s.evrBuf with
    | [] => .next (if s.on .evrStatFlushing 0 0 then flushDone s else takeStaged s.evrStaged.length s)
    | r :: _ =>
      if !s.on .evrStatFlushing 0 0 && decide (erasedSectors s ≤ 4) then .next s
      else if fail then .next (abandonSector ((r.addr - secAddr 0) / 4096) s)
      else
        let t := writePage s
        if t.on .evrStatFlushing 0 0 then .next (if t.evrBuf.isEmpty then flushDone t else t)
        else .next (takeStaged t.evrStaged.length t)

/-- Write every page that waits. -/
def writeAll : Nat → State → State
  | 0, s => s
  | n + 1, s => if s.evrBuf.isEmpty then s else writeAll n (writePage s)

/-- A whole flush at once. -/
def flushNow (s : State) : State :=
  if s.on .evrStatMounted 0 0 then flushDone (writeAll (3 * s.evrBuf.length) s) else s

/-- SECTOR_ERASE: while fewer than 64 erased sectors lie ahead, the writer erases the ring sector with the lowest SSEQ; `fail` tells
that it does not verify (R517). -/
def execSectorErase (fail : Bool) (s : State) : Out :=
  match lowestSector s with
  | none => .next s
  | some p =>
    if !s.on .evrStatMounted 0 0 || p == s.get .evrSec 0 0 || decide (64 ≤ erasedSectors s) then .next s
    else
      let t := eraseSector p s
      .next (if fail then ((t.put .evrSecBad p 0 1).inc .evrBadsect 0 0 1).raise 0x0D22 8 [p, 0] else t)

/-- RATE_REFILL: at a whole operating second every bucket refills, and lost records are reported (R526, R531). -/
def execRateRefill (s : State) : Out :=
  if !s.on .evrStatMounted 0 0 then .next s
  else
    let t := (s.inc .opsS 0 0 1).clearFlds [.evrTok, .evrSnapTok] (fun _ => true)
    let lims := t.reg.filterMap fun e => if keyFld e.1 = Fld.evrRlim.id then some (keyA e.1, t.get .evrRlim (keyA e.1) 0) else none
    let t := lims.foldl (fun (t : State) l => (List.range 9).foldl (fun (t : State) src => t.put .evrTok l.1 src l.2) t) t
    .next (if t.on .evrLostSec 0 0 then (t.raise 0x0D21 8 [0, t.get .evrLostSec 0 0]).put .evrLostSec 0 0 0 else t)

/-! ## Summaries (R532, R533) -/

/-- A summary record: KIND, SUBJ, START and LEN, then the payload. -/
def summary (kind src code subj start len : Nat) (payload : List (BitVec 8)) (s : State) : List (BitVec 8) :=
  recordOf 3 false src code 0 (ctrValue 0 s) (ctrValue 1 s)
    ([BitVec.ofNat 8 kind, 0#8] ++ leBytes 2 subj ++ leBytes 5 start ++ leBytes 3 len ++ payload)

/-- What LAT says of some services: the fallbacks, the longest time and the bins. -/
def latPayload (svcs : List Nat) (s : State) : List (BitVec 8) :=
  let sum (f : Nat → Nat) : Nat := svcs.foldl (fun n k => n + f k) 0
  leBytes 4 (sum fun k => s.get .svcFbN k 0) ++ leBytes 4 (svcs.foldl (fun n k => max n (s.get .svcMaxUs k 0)) 0) ++
    (List.range 64).flatMap fun b => leBytes 4 (sum fun k => s.get .svcLat k b)

/-- The bound services that answered a request in the period, rising. -/
def latServices (s : State) : List Nat :=
  (List.range 4096).filter fun k => s.on .sveSvcW0Bound k 0 && (List.range 64).any fun b => s.on .svcLat k b

/-- How many counts a CNT record of a code shows, and from which on: every cause of 0x0B06 has one. -/
def cntPlaces (code : Nat) : List Nat :=
  match code with
  | 0x0503 => List.range 8
  | 0x0B06 => List.range 8
  | 0x0C08 => [0, 1]
  | _ => [0]

/-- The CNT records of a period. -/
def cntRecords (start : Nat) (s : State) : List (List (BitVec 8)) :=
  let stale := (List.range 8).filterMap fun ch =>
    if (List.range 160).any fun k => s.on .evrStale (ch * 160 + k) 0 then
      some (summary 3 ch 0x0407 ch start 60 ((List.range 160).flatMap fun k => leBytes 2 (s.get .evrStale (ch * 160 + k) 0)) s)
    else none
  stale ++ summaryCodes.tail.flatMap fun code => (List.range 48).filterMap fun subj =>
    let ps := cntPlaces code
    let v (k : Nat) : Nat := s.get .evrCnt (cntKey code subj) k
    let src := if code = 0x0B02 ∨ code = 0x0B08 then 8 else subj
    if ps.any fun k => v k != 0 then
      some (summary 3 src code subj start 60
        (if code = 0x0B06 then (ps.filter fun k => v k != 0).flatMap fun k => leBytes 4 k ++ leBytes 4 (v k)
          else ps.flatMap fun k => leBytes 4 (v k)) s)
    else none

/-- The triples of SUP: code, source and count. -/
def supTriples (s : State) : List (List (BitVec 8)) :=
  s.reg.filterMap fun e =>
    if keyFld e.1 = Fld.evrSup.id then
      let ix := keyA e.1
      some (leBytes 2 ((ix / 256 + 1) * 256 + ix % 256) ++ [BitVec.ofNat 8 (e.1 % 2 ^ 24), 0#8] ++ leBytes 4 e.2)
    else none

/-- SUP records of at most 59 triples. -/
def supRecords (start : Nat) (s : State) : Nat → List (List (BitVec 8)) → List (List (BitVec 8))
  | 0, _ => []
  | _, [] => []
  | n + 1, ts =>
    let a := ts.take 59
    summary 4 8 0 0 start 60 (leBytes 2 a.length ++ a.flatten) s :: supRecords start s n (ts.drop 59)

/-- The records of a 60 s period: LAT with the services past 255 merged, CNT, SUP. -/
def minuteRecords (start : Nat) (s : State) : List (List (BitVec 8)) :=
  let svcs := latServices s
  let lat := (svcs.take 255).map (fun k => summary 1 8 0 k start 60 (latPayload [k] s) s) ++
    (if 255 < svcs.length then [summary 1 8 0 0xFFFF start 60 (latPayload (svcs.drop 255) s) s] else [])
  let ts := supTriples s
  lat ++ cntRecords start s ++ supRecords start s ts.length ts

/-- The accumulations of a 60 s period start again. -/
def minuteClear (s : State) : State :=
  s.clearFlds [.svcLat, .svcFbN, .svcMaxUs, .evrStale, .evrCnt, .evrSup] (fun _ => true)

/-- SUMMARY_PERIOD_END: the 60 s accumulations are staged. STANDBY's time produces none (R532). -/
def execSummaryPeriodEnd (s : State) : Out :=
  if !s.on .evrStatMounted 0 0 || s.get .pwrStatChip 0 0 == 2 then .next s
  else
    let start := ctrValue 0 s / 60 * 60 - 60
    .next (minuteClear { s with evrStaged := s.evrStaged ++ minuteRecords start s })

/-- The payload of ENV: the hour's extremes of channels 0 to 7, then the chip's. -/
def envPayload (s : State) : List (BitVec 8) :=
  (List.range 9).flatMap fun a =>
    let raw (b : Nat) : Nat := s.get .envExt a b - 1
    let t (b : Nat) : List (BitVec 8) := leBytes 2 (if s.on .envExt a b then raw b + 2 ^ 15 else 0)
    t 0 ++ t 1 ++ t 2 ++ leBytes 2 (raw 3) ++ leBytes 2 (raw 4) ++ leBytes 2 (raw 5 / 1000)

/-- HOURLY_PERIOD_END: an ENV record is staged. -/
def execHourlyPeriodEnd (s : State) : Out :=
  if !s.on .evrStatMounted 0 0 || s.get .pwrStatChip 0 0 == 2 then .next s
  else
    let start := ctrValue 0 s / 3600 * 3600 - 3600
    .next (({ s with evrStaged := s.evrStaged ++ [summary 2 8 0 0 start 3600 (envPayload s ++ List.replicate 20 0#8) s] } : State).clearFlds
      [.envExt] (fun _ => true))

/-- STANDBY: the summaries of the part-period are lost, and counted (the collisions of chapter 16). -/
def loseSummaries (s : State) : State :=
  let n := (minuteRecords 0 s).length
  (minuteClear s).put .evrLostStb 0 0 n |>.clearFlds [.envExt] (fun _ => true)

/-! ## Mounting (R538) and losing power -/

/-- The mount: a cold one counts a power cycle; records lost with the input are reported, and the cursor is at the oldest record.
What the ring holds stands in the fields and bytes that a loss of power leaves. -/
def mountRecorder (cold : Bool) (s : State) : State :=
  let t := ((s.put .evrStatMounted 0 0 1).put .evrStatFlushing 0 0 0).put .evrFlushIn 0 0 0
  let t := if cold then countBit 1 (t.put .opsS 0 0 0) else t
  let t := if t.on .evrTorn 0 0 then t.raise 0x0D23 8 [0, t.get .evrSec 0 0] else t
  let t := if t.on .evrLostIn 0 0 then (t.raise 0x0D21 8 [1, t.get .evrLostIn 0 0]).put .evrLostIn 0 0 0 else t
  t.put .evrCurPos 0 0 (evrOldest t)

/-- The recorder loses its power: what is in SRAM is lost, and counted; the write point is the first empty unit (R537, R538, R613). -/
def recorderOff (s : State) : State :=
  let n := s.evrBuf.length + s.evrStaged.length + (minuteRecords 0 s).length
  let here := s.evrBuf.filter fun r => (r.addr - secAddr 0) / 4096 == s.get .evrSec 0 0
  let t := match here with
    | r :: _ => (s.put .evrUnit 0 0 ((r.addr - secAddr 0) % 4096 / 32)).put .evrTorn 0 0 (if r.done = 0 then 0 else 1)
    | [] => s
  let t : State := { t with evrBuf := [], evrStaged := [], evq := [] }
  (((minuteClear t).clearFlds [.envExt] (fun _ => true)).inc .evrLostIn 0 0 n).put .evrStatMounted 0 0 0

/-! ## Reading, clearing and configuring (R529, R544, R546) -/

/-- The unit after the last record of a sector. -/
def sectorEnd (p : Nat) (s : State) : Nat := if p = s.get .evrSec 0 0 then 128 else s.get .evrSecEnd p 0

/-- The cursor n units on: past a sector's last record it is at unit 1 of the next SSEQ. -/
def moveCursor (n : Nat) (s : State) : State :=
  let p := evrCursor s
  let u := bitsAt p 5 7 + n
  let top := match (heldSectors s).find? fun e => e.2 == p / 2 ^ 12 with
    | some (sec, _) => sectorEnd sec s
    | none => 128
  s.put .evrCurPos 0 0 (if top ≤ u then cursor (p / 2 ^ 12 + 1) 1 else cursor (p / 2 ^ 12) u)

/-- EVR_ADV (R544). -/
def execEvrAdv (bytes : BitVec 16) (s : State) : Out :=
  if !s.mgWrite then .next s
  else if bytes ≠ 0#16 then .next (moveCursor (bytes.toNat / 32) s)
  else if evrEnd s then .next s
  else
    let n := (windowByte 2 s).toNat
    .next (moveCursor (if windowByte 0 s = 0xA5#8 ∧ 1 ≤ n ∧ n ≤ 16 then n else 1) s)

/-- EVR_CLEAR's effect: a flush, a CLEAR sector, and event 0x0D20 into it by the critical path (R546). -/
def clearRecorder (requester : Nat) (s : State) : State :=
  let t := openSector true (flushNow s)
  takeEvent ⟨0x0D20, 8, [requester, t.get .evrSseq 0 0]⟩ t

/-- Write a trigger slot's register: a change raises 0x0D24. -/
def trigWrite (off v : Nat) (wide : Bool) (s : State) : State :=
  let k := (off - 0x1000) / 0x80
  let r := off % 0x80
  let head (lo hi : Bool) (t : State) : State :=
    let t := if lo then (t.put .evrTrigCode k 0 (bitsAt v 0 16)).put .evrTrigMask k 0 (bitsAt v 16 16) else t
    let w := if lo then bitsAt v 32 32 else v
    if hi then
      ((((t.put .evrTrigSrc k 0 (bitsAt w 0 9)).put .evrTrigN k 0 (bitsAt w 9 5)).put .evrTrigFrz k 0 (bitsAt w 14 1)).put
        .evrTrigEn k 0 (bitsAt w 15 1))
    else t
  let t := if r = 0 then head true wide s
    else if r = 4 then head false true s
    else if 8 ≤ r ∧ r < 0x48 then
      let u := s.put .evrTrigSel k ((r - 8) / 4) (v % 2 ^ 32)
      if wide ∧ r + 4 < 0x48 then u.put .evrTrigSel k ((r - 8) / 4 + 1) (v / 2 ^ 32) else u
    else s
  if t = s then s else t.raise 0x0D24 8 [k, v]

/-- Write rate limits: every one that changes raises 0x0D24; those of critical codes ignore writes (R528). -/
def rlimWrite (off v : Nat) (wide : Bool) (s : State) : State :=
  (List.range (if wide then 8 else 4)).foldl (fun (t : State) i =>
    let ix := off - 0x4000 + i
    let new := bitsAt v (8 * i) 8
    let code := (ix / 256 + 1) * 256 + ix % 256
    if criticalCodes.contains code || t.get .evrRlim ix 0 == new then t
    else (t.put .evrRlim ix 0 new).raise 0x0D24 8 [code, new, 0]) s

/-- EVR_CONFIG_WRITE: a 32- or 64-bit write at an offset of the EVR block's trigger slots or rate limits (R529, R526). One that is not
naturally aligned is dropped (R29). -/
def execEvrConfigWrite (off : BitVec 15) (wide : Bool) (value : BitVec 64) (s : State) : Out :=
  let o := off.toNat
  if !s.mgWrite || o % (if wide then 8 else 4) != 0 then .next s
  else if 0x1000 ≤ o ∧ o < 0x2000 then .next (trigWrite o value.toNat wide s)
  else if 0x4000 ≤ o ∧ o < 0x5000 then .next (rlimWrite o value.toNat wide s)
  else .next s

end Sys2Proof.Machine
end

