-- ==== Sys2Proof/Machine/Owners.lean ====
section
/-!
DEFINITION. Owners: the ownership states, the kill wave and the kill sequence, a channel's reset of dynamic state, the owner
messages and binding (R419 to R448, R480).
-/
namespace Sys2Proof.Machine

/-! ## Ownership states and keys -/

abbrev owUnassigned : Nat := 0
abbrev owReady : Nat := 1
abbrev owBinding : Nat := 2
abbrev owOwned : Nat := 3
abbrev owKilling : Nat := 4
abbrev owUnavailable : Nat := 5

/-- A channel's ownership state. -/
def State.owner (s : State) (ch : Nat) : Nat := s.get .ownChStatState ch 0

/-- A channel changes its ownership state (R419, R581). -/
def setOwner (ch st : Nat) (s : State) : State :=
  let old := s.owner ch
  if old = st then s
  else (((s.put .ownChStatState ch 0 st).raise 0x0C01 ch [ch, old, st]).mgCause 9).chCause ch 6

/-- The Vault draws a key from its DRBG and loads it: 1 ephemeral, 3 generated (R420, R427). -/
def drawKey (ch src : Nat) (s : State) : State :=
  ((s.put .xtsKey ch 0 (4 * s.ctr + 2)).put .ownChStatKeysrc ch 0 src).draw

/-- The Vault zeroises a channel's keys (R422, R442). -/
def zeroiseKeys (ch : Nat) (s : State) : State :=
  s.clearFlds [.xtsKey, .rdKey, .ownSkey, .ownChStatKeysrc, .ownChStatRdkey, .ownChStatSkeys] (· == ch)

/-- The OID shown for a channel, byte 0 least. -/
def ownOid (ch : Nat) (s : State) : Nat := s.get .ownChOid ch 0 + s.get .ownChOid ch 1 * 2 ^ 64

/-- Set it. -/
def putOid (ch oid : Nat) (s : State) : State := (s.put .ownChOid ch 0 (oid % 2 ^ 64)).put .ownChOid ch 1 (oid / 2 ^ 64)

/-- OWN_CH_STAT as it reads. -/
def ownStat (ch : Nat) (s : State) : Nat :=
  s.owner ch + s.get .ownChStatKeysrc ch 0 * 2 ^ 3 + s.get .ownChStatRdkey ch 0 * 2 ^ 5 + s.get .ownChStatPending ch 0 * 2 ^ 6 +
    s.get .ownChStatSkeys ch 0 * 2 ^ 16

/-! ## The dynamic state of a channel (R480) -/

/-- Every ring is emptied and its generation rises by one. -/
def ringsReset (ch : Nat) (s : State) : State :=
  (List.range 256).foldl (fun t r =>
    let u := t.inc .foxRingPtrGen ch r 1
    if ringIs ch r true u then u.put .ringFreev ch r (ringSlots ch r u) else u)
    ((s.clearFlds ringFlds (· == ch)).clearFlds slotFlds (· == ch))

/-- Sync counters, their flags and room counts of a channel's cores. -/
def countFlds : List Fld := [.synCnt, .synRem, .synFlagsSatHi, .synFlagsSatLo, .synFlagsMisuse, .epRoom]

/-- FIFOs, crossings, counters, flags and room counts return to reset. -/
def countsReset (ch : Nat) (s : State) : State :=
  let t := (s.clearFlds countFlds (fun c => c / 160 == ch)).setTransit ch []
  { t with fifo := tclear (fun k => k / 8 / 160 == ch) t.fifo }

/-- Badger's quiet count and BDG_STAT. -/
def bdgFlds : List Fld := [.bdgStatDeadlock, .bdgStatQuiet, .bdgStatSilent, .bdgStatQcount]

/-- Every present core of a channel is reset; a pending halt ends (R176, R631). -/
def coresReset (ch : Nat) (s : State) : State :=
  ((s.coresOf ch).foldl (fun t c => coreReset c t) s).clearFlds [.spdHaltPend] (fun c => c / 160 == ch)

/-- The dynamic state of a channel is reset (R480). -/
def channelReset (ch : Nat) (s : State) : State :=
  let t := exchAbort ch 5 (detDrop ch s)
  let t := discardQueue ch (closeAdmit ch 1 t)
  let t := foxAbandon ch (fun _ => true) (dropRunAhead ch (leaveBars ch t))
  let t := countsReset ch (coresReset ch (ringsReset ch t))
  t.clearFlds bdgFlds (· == ch)

/-! ## The kill wave (R442) -/

/-- A request in flight is answered SERVICE_DOWN, untagged (the collisions of chapter 08). -/
def killReply (r : Request) (s : State) : State :=
  markAnswered r (sendError r.dest none r.svc r.client r.req (servedUs r s) 5 0 s)

/-- A service of a killed channel is unbound at once; its fallback cells are to be zeroed (R446). A mailbox command that waits for
its boundary completes: the service is unbound. -/
def killService (svc : Nat) (s : State) : State :=
  let old := svcChan svc s
  let opened := openReqs svc s
  let t := (s.requests.filter fun r => r.svc == svc && !r.answered).foldl (fun t r => killReply r t) s
  let t := opened.foldl (fun t r => freeCells r.ch (cellsOf r.body.length) t) t
  let t := match (tget? t.windows svc).bind Window.tag with
    | some tag => setTag old tag (fun x => { x with closed := true, taken := true }) t
    | none => t
  let t := ((t.put .svcZero svc 0 1).put .svcZeroCell svc 0 (s.get .sveSvcW1FbCell svc 0)).put .svcZeroLen svc 0
    (s.get .sveSvcW1FbLen svc 0)
  let t := (unbindSvc svc t).raise 0x0708 8 [svc, old, 8]
  if mbxIs 0x0C svc t || mbxIs 0x07 svc t then mbxFinish 5 0 t else t

/-- Every service bound to a channel, and its queue, is killed. -/
def killServices (ch : Nat) (s : State) : State :=
  discardQueue ch ((boundTo (· == ch) s).foldl (fun t svc => killService svc t) s)

/-- The scratchpad epoch advances by one on every core (R188). -/
def advanceEpoch (ch : Nat) (s : State) : State :=
  (s.coresOf ch).foldl (fun t c => epochAdvanced c t) (s.inc .chSpdEpoch ch 0 1)

/-- Before the epoch of a channel in RUN advances, each core without a whole pass since the last advance makes a forced one (R191);
the cycles that it takes, at most 512, are free. -/
def forcedPasses (ch : Nat) (s : State) : State :=
  (s.coresOf ch).foldl (fun t c =>
    if t.on .spdStatSwept c 0 then t
    else (forcedSweep c (t.raise 0x0408 ch [ch, Config.freeNat t.ctr % 513])).draw) s

/-- The channel is frozen (R571). -/
def chanFrozen (ch : Nat) (s : State) : Bool := s.bit .frzStatChfrozen 0 0 ch

/-- The cores' state that DARK loses, the words of the scratchpad with it (R489, R191): reset values, and words that the next wake
initialises. -/
def darkLoss (ch : Nat) (s : State) : State :=
  let t := countsReset ch (coresReset ch s)
  (t.coresOf ch).foldl (fun t c => t.wipe (spdAddr c 0) (spdAddr c 0 + 2 ^ 19)) t

/-- The scratchpad at a kill: its epoch advances, after a forced pass where one is due (R191). A frozen channel makes the pass at
its reset; a channel that is not in RUN loses every word and passes to DARK. -/
def killEpoch (ch : Nat) (s : State) : State :=
  if chanFrozen ch s then
    advanceEpoch ch ((s.coresOf ch).foldl (fun t c => if t.on .spdStatSwept c 0 then t else t.put .killPass c 0 1) s)
  else if s.get .chPwrStatState ch 0 = 0 then advanceEpoch ch (forcedPasses ch s)
  else
    let t := darkLoss ch ((advanceEpoch ch s).put .pwrDark ch 0 1)
    if t.get .chPwrStatState ch 0 = 2 then t.setPwr ch 3 else t

/-- What the wave does to the units of a channel that is not frozen: the halt, the exchange, barriers, Fox and the services. -/
def killUnits (ch : Nat) (s : State) : State :=
  let t := exchAbort ch 6 (closeAdmit ch 2 (detDrop ch s))
  let t := if s.get .chPwrStatState ch 0 = 0 then chanHalt ch t else leaveBars ch t
  let t := killServices ch (foxAbandon ch (fun _ => true) (dropRunAhead ch t))
  let t : State := { t with foxPeer := tdel t.foxPeer ch }
  ((t.put .foxHsqHeadIndex ch 0 (t.get .foxHsqTailIndex ch 0)).put .foxHsqSeen ch 0 (t.get .foxHsqTailIndex ch 0)).put .foxHsqWay
    ch 0 0

/-- The kill wave (R442), with its source: 0 host, 1 owner, 2 bind, 3 release. `next` is what follows the kill. A kill of a KILLING
channel joins the running one. -/
def killWave (ch source next : Nat) (s : State) : State :=
  if s.owner ch = owKilling then s
  else
    let t := (setOwner ch owKilling (zeroiseKeys ch s)).raise 0x0C05 ch [ch, source]
    let t := ((t.put .killThen ch 0 next).put .killAt ch 0 (s.get .gtc 0 0)).put .killDue ch 0 (bitOf (chanFrozen ch s))
    let t := killEpoch ch t
    if chanFrozen ch t then (cutSection ch true t).put .frzCause ch 0 2 else killUnits ch t

/-! ## The kill sequence (R443 to R446) -/

/-- The fields of the EXCH and EPOCH blocks, of both plans, of Fox's tables and of the chapter's RWL registers, which a kill
returns to their reset values. -/
def killFlds : List Fld :=
  [.exchCfgMode, .exchCfgPcarry, .exchCfgRflip, .exchCfgRatab, .exchCfgForce, .exchSeamTag, .exchSeamEpoch, .exchTimeoutUs,
    .exchStatPhase, .exchStatResult, .exchStatSeamTag, .exchStatNotready, .exchStatSyncdrop, .exchCount, .exchLastGtc, .exchRsel,
    .exchRatabValid, .exchRatabRemote, .exchRatabRing, .exchRatabRowWords, .exchRatabBase, .exchRatabStride, .exchRatabPeer,
    .exchRingCfgEn, .exchRingCfgDir, .exchRingCfgCore, .exchRingCfgSlots, .exchRingCfgSlotWords, .exchRingCfgBase, .exchSeam,
    .exchSync, .epochCtlRapar, .epochRabaseBase, .rteRank, .rteExt, .rteRoute, .rteBarMem, .rteCtlActive, .rteLinkfDown,
    .synChipbarChans, .bdgStatQcount, .foxCtlRaEn, .foxRaTabValid, .foxRaTabRemote, .foxRaTabRing, .foxRaTabRowWords,
    .foxRaTabBase, .foxRaTabStride, .foxRaTabPeer, .foxRingCfgEn, .foxRingCfgDir, .foxRingCfgCore, .foxRingCfgSlots,
    .foxRingCfgSlotWords, .foxRingCfgBase, .foxRings, .ownChOid, .ownCfgHostio, .ownCfgEvrVisible, .ownCfgSvcTagged, .ownGrantChip,
    .ownGrantCh, .ownGrantSend, .ownGrantRecv, .ownGrantRead, .ownGrantServe, .ownSkeyLoadKey]

/-- The fields of SPD_KIND and SPD_PWR, with their staged copies, at a core (R198): reset values, and the banks that this re-kinds
or powers up are initialised. -/
def killBanks (c : Nat) (s : State) : State :=
  let t := s.clearFlds [.spdKindNextWbank, .spdPwrNextOn] (· == c)
  setKinds c (resetAt .spdKindWbank c 0) (setGroups c (resetAt .spdPwrOn c 0) t)

/-- The core work of a kill: both instruction banks zeroed, and a core reset (R443). -/
def killCores (ch : Nat) (s : State) : State :=
  (s.coresOf ch).foldl (fun t c => coreReset c (t.wipe (imemAddr c 0 0) (imemAddr c 0 0 + 2 ^ 17))) s

/-- The kill sequence is complete: the registers and the core work, which waits for the next wake where the channel is not in RUN;
the key and the state that follow; the mailbox command that asked for it (R443, R588). -/
def killDone (ch : Nat) (s : State) : State :=
  let running : Bool := s.get .chPwrStatState ch 0 == 0
  let t := countsReset ch (detClear ch (ringsReset ch s))
  let t := t.clearFlds killFlds (· == ch)
  let t := (t.coresOf ch).foldl (fun t c => killBanks c t) t
  let t := if running then killCores ch t else t.put .ownChStatPending ch 0 1
  let us := (t.get .gtc 0 0 - t.get .killAt ch 0) / 1000
  let t := (t.inc .ownKills ch 0 1).raise 0x0C06 ch [ch, us]
  let next := s.get .killThen ch 0
  let t := if next = 2 then setOwner ch owUnassigned t
    else if next = 1 then
      let oid := (List.range 4).foldl (fun n w => n + s.get .mbxCopy (2 + w) 0 * 2 ^ (32 * w)) 0
      let tmo := max 1 (min 600 (bitsAt (s.get .mbxCopy 1 0) 0 10))
      let u := putOid ch oid (setOwner ch owBinding (drawKey ch 1 t))
      ((u.put .bindTmo ch 0 tmo).put .bindAt ch 0 (s.get .gtc 0 0)).raise 0x0C02 ch [ch, oid % 2 ^ 32, tmo]
    else setOwner ch owReady (drawKey ch 1 t)
  let t := t.clearFlds [.killThen, .killAt, .killDue] (· == ch)
  if mbxIs 0x04 ch t then mbxFinish 0 0 (t.put .mbxRsp 0 0 us)
  else if mbxIs 0x02 ch t then mbxFinish 0 0 (t.put .mbxRsp 0 0 (ownStat ch t))
  else if mbxIs 0x03 ch t then mbxFinish 0 0 t
  else t

/-- KILL_SEQUENCE_COMPLETE: the units have finished their kill work (R443). A frozen channel finishes it after its reset. -/
def execKillSequenceComplete (ch : Chan) (s : State) : Out :=
  .next (if s.owner ch.val = owKilling ∧ !chanFrozen ch.val s then killDone ch.val s else s)

/-- FALLBACK_CELLS_ZEROED: the cells of a killed service are zeroed and return to the pool (R446). -/
def execFallbackCellsZeroed (svc : BitVec 12) (s : State) : Out :=
  let k := svc.toNat
  if !s.on .svcZero k 0 then .next s
  else
    let a := poolAddr (s.get .svcZeroCell k 0 * 64)
    .next ((s.wipe a (a + cellsOf (s.get .svcZeroLen k 0) * 64)).clearFlds [.svcZero, .svcZeroCell, .svcZeroLen] (· == k))

/-- BINDING_TIMEOUT: no OBIND came in time (R427). -/
def execBindingTimeout (ch : Chan) (s : State) : Out :=
  let c := ch.val
  if s.owner c ≠ owBinding ∨ s.get .gtc 0 0 < s.get .bindAt c 0 + s.get .bindTmo c 0 * 1000000000 then .next s
  else .next (((setOwner c owReady (drawKey c 1 (putOid c 0 s))).raise 0x0C04 c [c, Config.freeNat s.ctr]).draw)

/-! ## Owner messages (R424, R425, R472) -/

/-- The prime of P-384, and the constant b of its equation (PRESUMED: FIPS 186-5; the spec names the curve). -/
def p384 : Nat := 2 ^ 384 - 2 ^ 128 - 2 ^ 96 + 2 ^ 32 - 1
/-- See `p384`. -/
def p384b : Nat :=
  0xb3312fa7e23ee7e4988e056be3f82d19181d9c6efe8141120314088f5013875ac656398d8a2ed19d2a85c8edd3ec2aef

/-- Some bytes spell a valid point of P-384, uncompressed: 0x04, x and y, each 48 bytes, the most significant first. -/
def pointValid (bs : List (BitVec 8)) : Bool :=
  let x := beNat ((bs.drop 1).take 48)
  let y := beNat ((bs.drop 49).take 48)
  bs.length == 97 && bs.headD 0#8 == 4#8 && decide (x < p384) && decide (y < p384) &&
    y * y % p384 == (x * x * x + (p384 - 3) * x + p384b) % p384

/-- Reply to an owner message in its session. -/
def ownReply (ses sel op ch status : Nat) (data : List (BitVec 8)) (s : State) : State :=
  let via : SpdmVia := if s.on .sesVia ses 0 then .mctp else .doe
  s.emit (.spdm via (.vendor ses sel op ch status data))

/-- An owner message: an SPDM error outside a session, status 2 for another selector, else by the message (R472). -/
def ownMsg (ses sel op ch : Nat) (s : State) (k : State → State) : Out :=
  if 8 ≤ ses ∨ s.get .sesState ses 0 ≠ 3 then .next (s.emit (.spdm .doe (.error .unexpectedRequest)))
  else if sel ≠ 1 then .next (ownReply ses sel op ch 2 [] s)
  else .next (k s)

/-- A message of a channel's owner: 1 where the session's OID is not the channel's, 3 in a state other than OWNED, 2 where it is
malformed; else it acts, and its reply is status 0. -/
def asOwner (ses op ch : Nat) (good : Bool) (k : State → State) (s : State) : State :=
  let st := s.owner ch
  let no (status : Nat) : State := ownReply ses 1 op ch status [] s
  if 8 ≤ ch ∨ (st ≠ owOwned ∧ st ≠ owKilling) ∨ ownOid ch s ≠ s.get .sesOid ses 0 then no 1
  else if st ≠ owOwned then no 3
  else if !good then no 2
  else ownReply ses 1 op ch 0 [] (k s)

/-- The policy byte of OBIND and OPOLICY. -/
def putPolicy (ch v : Nat) (s : State) : State :=
  ((s.put .ownCfgHostio ch 0 (bitsAt v 0 2)).put .ownCfgEvrVisible ch 0 (bitsAt v 2 1)).put .ownCfgSvcTagged ch 0 (bitsAt v 3 1)

/-- The read-out key of a message, where one follows. -/
def putRdKey (ch rk : Nat) (bs : List (BitVec 8)) (s : State) : State :=
  if rk = 1 then (s.put .rdKey ch 0 (beNat bs)).put .ownChStatRdkey ch 0 1 else s

/-- Entry e of the grant list from the low 32 bits of OWN_GRANT. -/
def putGrant (ch e v : Nat) (s : State) : State :=
  (((((s.put .ownGrantChip ch e (bitsAt v 0 15)).put .ownGrantCh ch e (bitsAt v 15 3)).put .ownGrantSend ch e (bitsAt v 18 1)).put
    .ownGrantRecv ch e (bitsAt v 19 1)).put .ownGrantRead ch e (bitsAt v 20 1)).put .ownGrantServe ch e (bitsAt v 21 1)

/-- The fields of a grant. -/
def grantFlds : List Fld := [.ownGrantChip, .ownGrantCh, .ownGrantSend, .ownGrantRecv, .ownGrantRead, .ownGrantServe]

/-- A byte of a message body, or 0 past its end. -/
def byteAt (bs : List (BitVec 8)) (i : Nat) : Nat := (bs.getD i 0#8).toNat

/-- The read-out key at the end of a message is as long as RK says, and valid (R425). -/
def rdGood (rk : Nat) (bs : List (BitVec 8)) : Bool := (rk == 0 && bs.isEmpty) || (rk == 1 && pointValid bs)

/-- OBIND is well formed (R425): KSRC and RK 0 or 1, HOSTIO below 3, its length, unequal key halves, a valid read-out key. -/
def obindGood (body : List (BitVec 8)) : Bool :=
  let ks := byteAt body 0
  let rest := body.drop 3
  let key := if ks = 0 then rest.take 64 else []
  decide (3 ≤ body.length) && decide (ks < 2) && decide (byteAt body 1 % 4 < 3) &&
    (ks != 0 || (key.length == 64 && key.take 32 != key.drop 32)) && rdGood (byteAt body 2) (rest.drop key.length)

/-- The Vault accepts an OBIND (R427). -/
def bindOwner (ch oid : Nat) (body : List (BitVec 8)) (s : State) : State :=
  let gen : Bool := byteAt body 0 == 1
  let key := (body.drop 3).take 64
  let rest := body.drop (if gen then 3 else 67)
  let t := if gen then drawKey ch 3 s
    else (s.put .xtsKey ch 0 (4 * leNat key + 3)).put .ownChStatKeysrc ch 0 2
  let t := putRdKey ch (byteAt body 2) rest (putPolicy ch (byteAt body 1) (putOid ch oid t))
  let t := t.clearFlds (grantFlds ++ [.ownSkey, .ownChStatSkeys]) (· == ch)
  (setOwner ch owOwned t).raise 0x0C03 ch [ch, oid % 2 ^ 32, if gen then 3 else 2]

/-- OBIND (R424 to R428). -/
def execObind (ses : BitVec 4) (sel : BitVec 16) (ch : BitVec 8) (body : List (BitVec 8)) (s : State) : Out :=
  let c := ch.toNat
  ownMsg ses.toNat sel.toNat 1 c s fun t =>
    let oid := t.get .sesOid ses.toNat 0
    let no (status : Nat) : State := (ownReply ses.toNat 1 1 c status [] t).raise 0x0C04 c [c, status]
    if 8 ≤ c then ownReply ses.toNat 1 1 c 1 [] t
    else if t.owner c ≠ owBinding then no 3
    else if ownOid c t ≠ oid then no 4
    else if !obindGood body then no 2
    else ownReply ses.toNat 1 1 c 0 [] (bindOwner c oid body t)

/-- OGRANT replaces the grant list (R433). -/
def execOgrant (ses : BitVec 4) (sel : BitVec 16) (ch : BitVec 8) (body : List (BitVec 8)) (s : State) : Out :=
  let c := ch.toNat
  let n := byteAt body 0
  ownMsg ses.toNat sel.toNat 2 c s (asOwner ses.toNat 2 c (decide (n ≤ 32) && body.length == 1 + 4 * n) fun t =>
    ((List.range n).foldl (fun t e => putGrant c e (leNat ((body.drop (1 + 4 * e)).take 4)) t)
      (t.clearFlds grantFlds (· == c))).raise 0x0C09 c [c, 0])

/-- OSKEY loads or clears a service tag key slot (R438). -/
def execOskey (ses : BitVec 4) (sel : BitVec 16) (ch : BitVec 8) (body : List (BitVec 8)) (s : State) : Out :=
  let c := ch.toNat
  let slot := byteAt body 0
  ownMsg ses.toNat sel.toNat 3 c s (asOwner ses.toNat 3 c (decide (1 ≤ slot) && decide (slot ≤ 15) && body.length == 33) fun t =>
    loadSkey c slot (beNat (body.drop 1)) t)

/-- A bound service meets the test of R439. -/
def taggedGood (svc : Nat) (s : State) : Bool :=
  s.on .sveSvcW0TagReq svc 0 && s.get .sveSvcW0Keyslot svc 0 != 0 &&
    s.bit .ownChStatSkeys (s.get .sveSvcW0Channel svc 0) 0 (s.get .sveSvcW0Keyslot svc 0)

/-- OPOLICY replaces the policy, and the read-out key where one follows; a service that SVC_TAGGED does not allow is unbound at its
next boundary (R424, R439). -/
def execOpolicy (ses : BitVec 4) (sel : BitVec 16) (ch : BitVec 8) (body : List (BitVec 8)) (s : State) : Out :=
  let c := ch.toNat
  let rk := byteAt body 1
  let good : Bool := decide (2 ≤ body.length) && decide (byteAt body 0 % 4 < 3) && rdGood rk (body.drop 2)
  ownMsg ses.toNat sel.toNat 4 c s (asOwner ses.toNat 4 c good fun t =>
    let u := (putRdKey c rk (body.drop 2) (putPolicy c (byteAt body 0) t)).raise 0x0C09 c [c, 1]
    let u := if rk = 1 then u.raise 0x0C09 c [c, 2] else u
    if t.on .ownCfgSvcTagged c 0 || !u.on .ownCfgSvcTagged c 0 then u
    else (boundTo (· == c) u).foldl (fun (v : State) svc =>
      if taggedGood svc v then v else { v with svcPend := tset v.svcPend svc ⟨true, 0, 0, 0⟩ }) u)

/-- OEND: OWNER_KILL by the owner (R442). A kill that runs already is joined. -/
def execOend (ses : BitVec 4) (sel : BitVec 16) (ch : BitVec 8) (body : List (BitVec 8)) (s : State) : Out :=
  let c := ch.toNat
  ownMsg ses.toNat sel.toNat 5 c s fun t =>
    let st := t.owner c
    if 8 ≤ c ∨ (st ≠ owOwned ∧ st ≠ owKilling) ∨ ownOid c t ≠ t.get .sesOid ses.toNat 0 then ownReply ses.toNat 1 5 c 1 [] t
    else if !body.isEmpty then ownReply ses.toNat 1 5 c 2 [] t
    else ownReply ses.toNat 1 5 c 0 [] (killWave c 1 0 t)

/-- OSTAT: OWN_CH_STAT, OWN_CH_OID and the filter counters (R424). -/
def execOstat (ses : BitVec 4) (sel : BitVec 16) (ch : BitVec 8) (body : List (BitVec 8)) (s : State) : Out :=
  let c := ch.toNat
  ownMsg ses.toNat sel.toNat 6 c s fun t =>
    let st := t.owner c
    if 8 ≤ c ∨ (st ≠ owOwned ∧ st ≠ owKilling) ∨ ownOid c t ≠ t.get .sesOid ses.toNat 0 then ownReply ses.toNat 1 6 c 1 [] t
    else if !body.isEmpty then ownReply ses.toNat 1 6 c 2 [] t
    else ownReply ses.toNat 1 6 c 0 (leBytes 4 (ownStat c t) ++ leBytes 16 (ownOid c t) ++ leBytes 8 (t.get .ownFiltTx c 0) ++
      leBytes 8 (t.get .ownFiltRx c 0)) t

end Sys2Proof.Machine
end

