-- ==== Sys2Proof/Machine/Power.lean ====
section
/-!
DEFINITION. Power states, clocks and thermal control: DOZE, DARK and STANDBY, the wake tables' ends, the throttle and cap loops,
batch marks, droop and the trip (R482 to R514).
-/
namespace Sys2Proof.Machine

/-! ## Frequencies (R482 to R484) -/

/-- A setpoint within its range. -/
def clampMhz (v : Nat) : Nat := max 800 (min 1650 v)
/-- The setpoint of island i. -/
def fset (ch i : Nat) (s : State) : Nat := clampMhz (s.get .chFsetFset ch i)
/-- The floor of the cap loop at island i. -/
def fmin (ch i : Nat) (s : State) : Nat := min (clampMhz (s.get .chFsetFmin ch i)) (fset ch i s)
/-- The MHz of a LOCKSTEP frequency. -/
def lockMhz (f : Nat) : Nat := if f = 0 then 1200 else if f = 1 then 1400 else 1500

/-- The effective frequency of island i before the halving. -/
def feffWhole (ch i : Nat) (s : State) : Nat :=
  if s.on .chCfgLockstep ch 0 then lockMhz (s.get .chLfreqEff ch 0)
  else min (fset ch i s) (min (s.get .capLim ch i) (s.get .thLim ch i))

/-- The halving acts on a channel. -/
def isHalved (ch : Nat) (s : State) : Bool := s.bit .pwrStatHalved 0 0 ch

/-- CH_CLK_STAT of every island shows what is in force; a change in a free-running channel sets CLOCK (R482, R510). -/
def showClocks (ch : Nat) (s : State) : State :=
  (List.range 10).foldl (fun (t : State) i =>
    let runs : Bool := t.get .chPwrStatState ch 0 == 0
    let w := feffWhole ch i t
    let f := if !runs then 0 else if isHalved ch t then w / 2 else w
    let lock := t.on .chCfgLockstep ch 0
    let th : Bool := if lock then decide (t.get .thLimL ch 0 < min (lfreqOf (t.get .chCfgLfreq ch 0)) (t.get .capLimL ch 0 + 1))
      else decide (t.get .thLim ch i < fset ch i t) && decide (t.get .thLim ch i ≤ t.get .capLim ch i)
    let cap : Bool := if lock then decide (t.get .capLimL ch 0 < min (lfreqOf (t.get .chCfgLfreq ch 0)) (t.get .thLimL ch 0 + 1))
      else decide (t.get .capLim ch i < fset ch i t) && decide (t.get .capLim ch i ≤ t.get .thLim ch i)
    let t := if f ≠ t.get .chClkStatFeff ch i ∧ !lock then detCause ch cClock t else t
    (((t.put .chClkStatFeff ch i f).put .chClkStatHalved ch i (bitOf (isHalved ch t))).put .chClkStatThrottled ch i (bitOf th)).put
      .chClkStatCapped ch i (bitOf cap)) s

/-- The LOCKSTEP frequency moves where the limits ask for another: by a relock in RUN, at once where no clock runs (R484). -/
def moveLockstep (ch : Nat) (s : State) : State :=
  if !s.on .chCfgLockstep ch 0 || lfreqWanted ch s == s.get .chLfreqEff ch 0 then s
  else if s.get .chPwrStatState ch 0 = 0 then relock ch s else s.put .chLfreqEff ch 0 (lfreqWanted ch s)

/-- PLL_RELOCK_DONE: the clocks of the channel start again at the new frequency; with REFALIGN = 0 the service slots restart
(R237, R484). -/
def execPllRelockDone (ch : Chan) (s : State) : Out :=
  let c := ch.val
  if !s.on .pllRelock c 0 then .next s
  else
    let t := (s.put .pllRelock c 0 0).put .chLfreqEff c 0 (s.get .chLfreqNext c 0)
    let t := if t.on .chCfgRefalign c 0 then t
      else (t.put .foxServK c 0 0).put .foxRsvcEff c 0 (min 4 (t.get .foxCtlRsvc c 0))
    .next (showClocks c t)

/-- CH_CFG (R359): a write that changes CH_CFG [4:0] takes effect only with the cores at rest and no core's descriptor active. -/
def execChCfgWrite (ch : Chan) (value : BitVec 32) (s : State) : Out :=
  let c := ch.val
  let v := value.toNat
  let old := s.get .chCfgLockstep c 0 + 2 * s.get .chCfgLfreq c 0 + 8 * s.get .chCfgAllowRace c 0 + 16 * s.get .chCfgRefalign c 0
  if !s.chWrite c false || v % 32 == old then .next s
  else if !coresAtRest c s || (s.entries c).any fun x => decide (x.2.src < 160) then .next (s.raise 0x0903 c [c, v])
  else
    let t := (((s.put .chCfgLockstep c 0 (bitsAt v 0 1)).put .chCfgLfreq c 0 (bitsAt v 1 2)).put .chCfgAllowRace c 0
      (bitsAt v 3 1)).put .chCfgRefalign c 0 (bitsAt v 4 1)
    let f := lfreqWanted c t
    if t.on .chCfgLockstep c 0 && (!s.on .chCfgLockstep c 0 || f != t.get .chLfreqEff c 0) then
      .next (showClocks c (if t.get .chPwrStatState c 0 = 0 then relock c t else t.put .chLfreqEff c 0 f))
    else .next (showClocks c t)

/-! ## Status of the safety actions (R508, R581) -/

/-- Change PWR_STAT or PWR_TRIP: a change of a bit sets cause THERMAL. -/
def thermal (f : Fld) (v : Nat) (s : State) : State :=
  if s.get f 0 0 = v then s else (s.put f 0 0 v).mgCause 3

/-- Set or clear bit ch of a field of PWR_STAT. -/
def thermalBit (f : Fld) (ch : Nat) (on : Bool) (s : State) : State :=
  let t := if on then s.setBit f 0 0 ch else s.clrBit f 0 0 ch
  if t.get f 0 0 = s.get f 0 0 then s else t.mgCause 3

/-- THROTTLE of a channel sets or clears, with event 0x0E03; its FEFF is island 0's. -/
def setThrottle (ch : Nat) (on : Bool) (s : State) : State :=
  let t := (thermalBit .pwrStatThrottle ch on s).raise 0x0E03 ch [ch, s.get .telChTj ch 0, s.get .chClkStatFeff ch 0]
  if on then t.alert 0 else t

/-- The halving of a channel's clocks is applied or removed, with event 0x0E04 (R508). It acts inside a batch when it is applied,
and when it is removed without a mark (R510). -/
def setHalving (ch : Nat) (on mark : Bool) (s : State) : State :=
  let t := (thermalBit .pwrStatHalved ch on s).raise 0x0E04 ch [ch, s.get .telChTj ch 0]
  let t := if on then t.alert 0 else t
  showClocks ch (if mark then t else detCause ch cClock t)

/-! ## What the hour's summary and the platform controller see (R533, R621) -/

/-- Note a value among the hour's greatest (the even places, and the HBM's and the power's), for channel a or the chip. -/
def noteMax (a b v : Nat) (s : State) : State := s.put .envExt a b (max (v + 1) (s.get .envExt a b))
/-- Note a value among the hour's least. -/
def noteMin (a b v : Nat) (s : State) : State :=
  s.put .envExt a b (if s.on .envExt a b then min (v + 1) (s.get .envExt a b) else v + 1)

/-- A temperature in 1/16 °C of a register, above the least it can show. -/
def warmth (v : Nat) : Nat := (v + 2 ^ 15) % 2 ^ 16

/-- PLDM sensor 101: normal, throttle, halved, tripped. -/
def thermalSensor (s : State) : Nat :=
  if s.on .pwrTripTripped 0 0 then 3 else if s.on .pwrStatHalved 0 0 then 2 else if s.on .pwrStatThrottle 0 0 then 1 else 0

/-- How many of the thresholds 98, 105 and 115 °C a Tj has reached. -/
def reached (v : Nat) : Nat := ([98, 105, 115].filter fun d => decide ((d + 2048) * 16 ≤ warmth v)).length

/-- The thermal sensors of R621: the numeric ones by the thresholds reached, and sensor 101. -/
def thermalSensors (s : State) : List (Nat × Nat) :=
  (1, reached (s.get .telChipTj 0 0)) :: (List.range 8).map (fun ch => (2 + ch, reached (s.get .telChTj ch 0))) ++
    [(101, thermalSensor s)]

/-- Tell the platform's receiver of every thermal sensor that differs from before. -/
def tellThermal (was s : State) : State :=
  ((thermalSensors was).zip (thermalSensors s)).foldl (fun t p => if p.1 = p.2 then t else t.sensor p.2.1 p.2.2) s

/-! ## Thermal sensing (R507, R349) -/

/-- A temperature of a register in 1/16 °C. -/
def temp (v : Nat) : Int := sgn 16 (v % 2 ^ 16)

/-- A sensor counts: its self-check passes and it reads within −40 to 150 °C. -/
def sensorGood (r : Reading) : Bool := r.ok && decide (-640 ≤ temp r.value.toNat) && decide (temp r.value.toNat ≤ 2400)

/-- The fused reading of a pair: the hotter of those that count, or 105 °C. -/
def fused (a b : Reading) : Int :=
  match sensorGood a, sensorGood b with
  | true, true => max (temp a.value.toNat) (temp b.value.toNat)
  | true, false => temp a.value.toNat
  | false, true => temp b.value.toNat
  | false, false => 1680

/-- The region that events and PWR_TRIP name: both chip-unit pairs, 0xF8 and 0xF9 here, are 0xFF. -/
def regionName (r : Nat) : Nat := if 0xF8 ≤ r then 0xFF else r

/-- Mark a region's pair suspect: a region that was not raises its event (R507). -/
def suspect (r : Nat) (a b : Reading) (s : State) : State :=
  let (f, n, k) := if 0xF8 ≤ r then (Fld.pwrTripChipsus, 0, 0) else if 0xF0 ≤ r then (Fld.pwrSuspectUnits, r - 0xF0, 0)
    else (Fld.pwrSuspectIsl, r / 16, r % 16)
  let t := thermal .pwrStatSensorSuspect 1 (s.setBit f n 0 k)
  let t := if s.on .pwrStatSensorSuspect 0 0 then t else t.alert 4
  if s.bit f n 0 k then t else t.raise 0x0E06 (if r < 0x80 then r / 16 else 8) [regionName r, a.value.toNat, b.value.toNat]

/-- One pair is sampled. -/
def samplePair (r : Nat) (a b : Reading) (s : State) : State :=
  let now := s.get .gtc 0 0
  let wide : Bool := sensorGood a && sensorGood b && decide (128 < (temp a.value.toNat - temp b.value.toNat).natAbs)
  let t := s.put .regTemp r 0 (fused a b + 32768).toNat
  let since := s.get .susAt r 0
  let t := t.put .susAt r 0 (if !wide then 0 else if since = 0 then now + 1 else since)
  if !sensorGood a || !sensorGood b || (wide && since != 0 && decide (since + 1000000000 ≤ now + 1)) then suspect r a b t else t

/-- The hottest fused reading of the regions a test names. -/
def hottest (p : Nat → Bool) (s : State) : Option Int :=
  (below 256 fun r => p r && s.on .regTemp r 0).foldl (fun m r =>
    let v : Int := (s.get .regTemp r 0 : Int) - 32768
    some (match m with
      | none => v
      | some u => max u v)) none

/-- A region of a channel. -/
def regionOf (ch r : Nat) : Bool := (r / 16 == ch && decide (r % 16 < 10)) || r == 0xF0 + ch

/-- A timer that runs while a condition holds. -/
def coolTimer (f : Fld) (ch : Nat) (cool : Bool) (s : State) : State :=
  s.put f ch 0 (if !cool then 0 else if s.on f ch 0 then s.get f ch 0 else s.get .gtc 0 0 + 1)

/-- It has run for 10 ms. -/
def cooled (f : Fld) (ch : Nat) (s : State) : Bool :=
  s.on f ch 0 && decide (s.get f ch 0 + 10000000 ≤ s.get .gtc 0 0 + 1)

/-- Every free-running island of a channel lowers a limit by 50 MHz, down to its floor. -/
def lowerLimit (f : Fld) (ch : Nat) (floor : Nat → Nat) (s : State) : State :=
  (List.range 10).foldl (fun t i => t.put f ch i (max (floor i) (min (s.get f ch i) (feffWhole ch i s) - 50))) s

/-- Every limit rises by 50 MHz. -/
def raiseLimit (f : Fld) (ch : Nat) (s : State) : State :=
  (List.range 10).foldl (fun t i => t.put f ch i (min 1650 (s.get f ch i + 50))) s

/-- The thermal limit of a LOCKSTEP channel lowers by one step. -/
def lowerThermalL (ch : Nat) (s : State) : State :=
  s.put .thLimL ch 0 (min (s.get .thLimL ch 0) (s.get .chLfreqEff ch 0) - 1)

/-- The thermal limit binds no longer. -/
def thermalFree (ch : Nat) (s : State) : Bool :=
  if s.on .chCfgLockstep ch 0 then
    decide (min (lfreqOf (s.get .chCfgLfreq ch 0)) (s.get .capLimL ch 0) ≤ s.get .thLimL ch 0)
  else (List.range 10).all fun i => decide (min (fset ch i s) (s.get .capLim ch i) ≤ s.get .thLim ch i)

/-- THROTTLE clears once the limit does not bind, and the limit is gone. -/
def throttleEnds (ch : Nat) (s : State) : State :=
  if thermalFree ch s then
    setThrottle ch false ((s.clearFlds [.thLim] (· == ch)).put .thLimL ch 0 2)
  else s

/-- The thresholds of R508 at a channel with a Tj in 1/16 °C. -/
def thresholds (ch : Nat) (tj : Int) (s : State) : State :=
  let t := coolTimer .hvCoolAt ch (decide (tj ≤ 1600)) (coolTimer .thCoolAt ch (decide (tj ≤ 1488)) s)
  let t := if tj < 1568 ∨ t.bit .pwrStatThrottle 0 0 ch then t
    else
      let u := setThrottle ch true t
      if !u.on .chCfgLockstep ch 0 then showClocks ch (lowerLimit .thLim ch (fun _ => 800) u)
      else if u.get .chPwrStatState ch 0 = 0 then u
      else moveLockstep ch (lowerThermalL ch u)
  if 1680 ≤ tj then (if isHalved ch t then t else setHalving ch true false t)
  else if isHalved ch t && cooled .hvCoolAt ch t && (!t.on .chCfgLockstep ch 0 || t.get .chPwrStatState ch 0 != 0) then
    setHalving ch false false t
  else t

/-- The temperature of a channel's stack: above 85 °C it asks for the halved slot period, below 80 °C for the full one (R349). -/
def sampleHbm (ch v : Nat) (s : State) : State :=
  let t := noteMax ch 2 (warmth v) (s.put .telChHbmTj ch 0 v)
  if 1360 < temp v then t.put .refPend ch 0 1 else if temp v < 1280 then t.put .refPend ch 0 0 else t

/-- THERMAL_SAMPLE: every 10 µs the pairs are fused, suspect pairs flagged, and the thresholds applied (R507, R508). -/
def execThermalSample (pairs : List (BitVec 8 × Reading × Reading)) (hbm : List (Chan × BitVec 16)) (s : State) : Out :=
  let t := pairs.foldl (fun t p => samplePair p.1.toNat p.2.1 p.2.2 t) s
  let t := hbm.foldl (fun t p => sampleHbm p.1.val p.2.toNat t) t
  let t := (List.range 8).foldl (fun (t : State) ch =>
    match hottest (regionOf ch) t with
    | some tj =>
      let v := unsgn 16 tj
      thresholds ch tj (noteMin ch 1 (warmth v) (noteMax ch 0 (warmth v) (t.put .telChTj ch 0 v)))
    | none => t) t
  let t := match hottest (fun _ => true) t with
    | some tj =>
      let v := unsgn 16 tj
      noteMin 8 1 (warmth v) (noteMax 8 0 (warmth v) (t.put .telChipTj 0 0 v))
    | none => t
  .next (tellThermal s t)

/-- THROTTLE_LOOP: every 100 µs the limit of a hot free-running channel lowers, and that of a cooled one rises (R508). -/
def execThrottleLoop (s : State) : Out :=
  .next (tellThermal s ((List.range 8).foldl (fun (t : State) ch =>
    if !t.bit .pwrStatThrottle 0 0 ch || t.on .chCfgLockstep ch 0 then t
    else if 1568 ≤ temp (t.get .telChTj ch 0) then showClocks ch (lowerLimit .thLim ch (fun _ => 800) t)
    else if cooled .thCoolAt ch t then showClocks ch (throttleEnds ch (raiseLimit .thLim ch t))
    else t) s))

/-! ## The power cap (R506) -/

/-- A power is above a cap, which 0 means there is none of. -/
def overCap (mw watts : Nat) : Bool := watts != 0 && decide (watts * 1000 < mw)
/-- A power is below 95 % of a cap. -/
def underCap (mw watts : Nat) : Bool := watts == 0 || decide (mw * 100 < watts * 1000 * 95)

/-- The channel stands at the floor of the cap loop. -/
def atFloor (ch : Nat) (s : State) : Bool :=
  if s.on .chCfgLockstep ch 0 then decide (s.get .chLfreqEff ch 0 ≤ lfreqOf (s.get .chPctlLmin ch 0))
  else (List.range 10).all fun i => decide (feffWhole ch i s ≤ fmin ch i s)

/-- CAPMISS is set; where it was not, event 0x0E07 is raised. -/
def capMiss (who mw cap : Nat) (s : State) : State :=
  if s.on .pwrStatCapmiss 0 0 then s else (thermal .pwrStatCapmiss 1 s).raise 0x0E07 who [who, mw, cap]

/-- One channel at the cap loop. -/
def capStep (ch mw chip : Nat) (s : State) : State :=
  let cap := s.get .chPctlPcapW ch 0
  let chipCap := s.get .pwrCapWatts 0 0
  let above : Bool := overCap mw cap || overCap chip chipCap
  let t := coolTimer .capCoolAt ch (underCap mw cap && underCap chip chipCap) s
  let lock := t.on .chCfgLockstep ch 0
  if above then
    let miss : Bool := overCap mw cap && atFloor ch t
    let t := if lock then t.put .capPend ch 0 1
      else showClocks ch (lowerLimit .capLim ch (fun i => fmin ch i t) t)
    if miss then capMiss ch mw cap t else t
  else if cooled .capCoolAt ch t then
    if lock then t.put .capPend ch 0 2 else showClocks ch (raiseLimit .capLim ch t)
  else t.put .capPend ch 0 0

/-- CAP_LOOP: every 100 µs the powers of the channels and of the chip over the last 100 µs, in mW, are compared with their caps. -/
def execCapLoop (power : List (BitVec 32)) (chip : BitVec 32) (s : State) : Out :=
  let t := ((power.take 8).mapIdx fun ch p => (ch, p)).foldl (fun (t : State) x =>
    noteMax x.1 5 x.2.toNat (t.put .telChPwrMw x.1 0 x.2.toNat)) (noteMax 8 5 chip.toNat (s.put .telChipPwrMw 0 0 chip.toNat))
  let run := below 8 fun ch => t.get .chPwrStatState ch 0 == 0
  let low : Bool := overCap chip.toNat (t.get .pwrCapWatts 0 0) && run.all fun ch => atFloor ch t
  let t := run.foldl (fun t ch => capStep ch (t.get .telChPwrMw ch 0) chip.toNat t) t
  .next (if low then capMiss 8 chip.toNat (t.get .pwrCapWatts 0 0) t else t)

/-! ## Batch marks (R509) -/

/-- A batch mark stands at the channel: the lead core waits in a BATCH.TAKE that will begin a batch, and the first four conditions
of R491 hold. -/
def atMark (ch : Nat) (s : State) : Bool :=
  let c := leadCore ch
  s.on .chCfgLockstep ch 0 && s.chanRuns ch &&
    (match tget? s.held c with
      | some (.batchTake ..) => s.coreState c == stWaiting
      | _ => false) &&
    (s.coresOf ch).all (fun k => (k == c || restsForDoze k s) && unitsIdle k s) && (s.entries ch).isEmpty && (s.queue ch).isEmpty

/-- The thermal step of a mark. -/
def markThermal (ch : Nat) (s : State) : State :=
  if !s.bit .pwrStatThrottle 0 0 ch then s
  else if 1568 ≤ temp (s.get .telChTj ch 0) then lowerThermalL ch s
  else if cooled .thCoolAt ch s then throttleEnds ch (s.put .thLimL ch 0 (min 2 (s.get .thLimL ch 0 + 1)))
  else s

/-- The cap step of a mark. -/
def markCap (ch : Nat) (s : State) : State :=
  let lmin := lfreqOf (s.get .chPctlLmin ch 0)
  let t := match s.get .capPend ch 0 with
    | 1 => s.put .capLimL ch 0 (max (min lmin (s.get .chLfreqEff ch 0)) (min (s.get .capLimL ch 0) (s.get .chLfreqEff ch 0) - 1))
    | 2 => s.put .capLimL ch 0 (min 2 (s.get .capLimL ch 0 + 1))
    | _ => s
  t.put .capPend ch 0 0

/-- BATCH_MARK: at a mark a pending change takes one step, and the PLL relocks while the next batch's first word is withheld
(R506, R508, R509). A mark acts once for each batch. -/
def execBatchMark (ch : Chan) (s : State) : Out :=
  let c := ch.val
  let n := s.get .sveChBatches c 0 + 1
  if !atMark c s || s.get .markAt c 0 == n then .next s
  else
    let t := markCap c (markThermal c (s.put .markAt c 0 n))
    let t := if isHalved c t && cooled .hvCoolAt c t && decide (temp (t.get .telChTj c 0) < 1680) then setHalving c false true t else t
    .next (tellThermal s (showClocks c (moveLockstep c t)))

/-! ## Droop and voltage (R503 to R505, R354) -/

/-- The domains whose clock a channel's droop detectors stretch: CCLK alone, with every island, in LOCKSTEP. -/
def droopDomain (ch d : Nat) (s : State) : Bool := if s.on .chCfgLockstep ch 0 then d == 10 else decide (d ≤ 10)

/-- DROOP_DETECT: the supply is more than 5 % low, and each period grows by 1 to 8 sixteenths. -/
def execDroopDetect (ch : Chan) (domain : BitVec 4) (sixteenths : BitVec 4) (s : State) : Out :=
  let m := sixteenths.toNat
  .next (if s.get .chPwrStatState ch.val 0 = 0 ∧ droopDomain ch.val domain.toNat s ∧ 1 ≤ m ∧ m ≤ 8 then
    s.put .droop ch.val domain.toNat m
  else s)

/-- Add to a count of sixteenths, kept as a whole and a fraction. -/
def addStretch (fw ff : Fld) (a b n : Nat) (s : State) : State :=
  let v := s.get ff a b + n
  (s.put ff a b (v % 16)).inc fw a b (v / 16)

/-- DROOP_RECOVER: the supply has recovered after a number of stretched periods, which are accumulated (R354). -/
def execDroopRecover (ch : Chan) (domain : BitVec 4) (periods : BitVec 32) (s : State) : Out :=
  let c := ch.val
  let d := domain.toNat
  if !s.on .droop c d then .next s
  else
    let n := s.get .droop c d * periods.toNat * (if isHalved c s then 2 else 1)
    let t := (s.put .droop c d 0).tally 0x0E09 c c 0 n
    .next (if d = 10 then addStretch .stretchCyclesWhole .stretchCyclesFrac c 0 n t
      else addStretch .detIslStretchWhole .detIslStretchFrac c d n t)

/-- ADAPTIVE_VOLTAGE: the rail moves to what the monitors accept, from 620 to 880 mV and never below the floor (R505). -/
def execAdaptiveVoltage (ch : Chan) (mv : BitVec 10) (s : State) : Out :=
  let v := max (s.get .pwrVfloor ch.val 0) (max 620 (min 880 mv.toNat))
  .next (noteMin ch.val 4 v (noteMax ch.val 3 v (s.put .telChRailMv ch.val 0 v)))

/-! ## DOZE and DARK (R489 to R497) -/

/-- CH_PWR_STAT [31:0]. -/
def chPwrWord (ch : Nat) (s : State) : Nat :=
  s.get .chPwrStatState ch 0 + 8 * s.get .chPwrStatWcause ch 0 + 64 * s.get .chPwrStatWfail ch 0 +
    2 ^ 16 * s.get .chPwrStatDefer ch 0

/-- A mailbox command on the power state of a channel completes. -/
def mbxPower (ch : Nat) (s : State) : State :=
  if mbxIs 0x08 ch s then mbxFinish 0 0 (s.put .mbxRsp 0 0 (chPwrWord ch s))
  else if mbxIs 0x02 ch s ∧ s.owner ch = owReady then mbxFinish 0 0 (s.put .mbxRsp 0 0 (ownStat ch s))
  else s

/-- The stack is powered off at this entry: HBMOFF of the POWER_SET in progress, else of CH_PWR (R493). -/
def entryHbmOff (ch : Nat) (s : State) : Bool :=
  s.on .pwrDark ch 0 && (if mbxIs 0x08 ch s then (s.get .mbxCopy 0 0).testBit 13 else s.on .chPwrHbmoff ch 0)

/-- A channel enters the state it was entering: DARK loses what R489 says, and the stack where it goes off. A batch that came
meanwhile wakes it at once. -/
def dozeDone (ch : Nat) (s : State) : State :=
  let dark := s.on .pwrDark ch 0
  let off := entryHbmOff ch s
  let t := if dark then darkLoss ch s else s
  let t := if off then (hbmLost ch t).put .hbmOff ch 0 1 else t
  let t := mbxPower ch (showClocks ch (t.setPwr ch (if dark then 3 else 2)))
  if t.on .chPwrWbatch ch 0 && !(t.queue ch).isEmpty then wakeChan ch 1 t else t

/-- DOZE_ENTRY_DONE (R493). -/
def execDozeEntryDone (ch : Chan) (s : State) : Out :=
  .next (if s.get .chPwrStatState ch.val 0 = 1 ∧ !chanFrozen ch.val s then dozeDone ch.val s else s)

/-- GTC_WAKE_MATCH (R494). WGTC clears when the match fires. -/
def execGtcWakeMatch (ch : Chan) (s : State) : Out :=
  let c := ch.val
  let st := s.get .chPwrStatState c 0
  .next (if s.on .chPwrWgtc c 0 && decide (s.get .chWakeGtc c 0 ≤ s.get .gtc 0 0) && (st == 2 || st == 3) && !s.frozen &&
      tunUp s && !s.cut then
    wakeChan c 2 (s.put .chPwrWgtc c 0 0)
  else s)

/-- Every bank of every powered group of a core is initialised, as at power-up (R195, R198). -/
def initCore (c : Nat) (s : State) : State :=
  let t := (s.put .spdInitMask c 0 0).put .spdUpMask c 0 0
  let t := (List.range 16).foldl (fun t b => if (t.get .spdPwrOn c 0).testBit (b / 4) then initBank c b t else t) t
  (spdReadyUpdate c t).put .spdStatSwept c 0 1

/-- A wake from DARK (R489, R495, R496): the scratchpad, the rings, the pending work of a kill, then the cores. -/
def darkWake (ch : Nat) (s : State) : State :=
  let pend := s.on .ownChStatPending ch 0
  let t := (s.coresOf ch).foldl (fun t c => initCore c t) (ringsReset ch s)
  let t := if pend then (killCores ch t).put .ownChStatPending ch 0 0 else t
  if s.on .chPwrAutorun ch 0 && !pend then (s.coresOf ch).foldl (fun t c => startCore c t) t else t

/-- The wake table of a channel completes (R495). -/
def wakeDone (ch : Nat) (s : State) : State :=
  let t := if s.on .pwrDark ch 0 then darkWake ch s else s
  let t := (t.put .hbmOff ch 0 0).put .pwrDark ch 0 0
  let t := if t.on .chCfgLockstep ch 0 then t.put .chLfreqEff ch 0 (lfreqWanted ch t) else t
  let t := (t.put .chPwrStatWakeNs ch 0 (t.get .gtc 0 0 - t.get .wakeAt ch 0)).setPwr ch 0
  mbxPower ch (showClocks ch t)

/-- CHANNEL_WAKE_DONE (R495). -/
def execChannelWakeDone (ch : Chan) (s : State) : Out :=
  .next (if s.get .chPwrStatState ch.val 0 = 4 ∧ !chanFrozen ch.val s then wakeDone ch.val s else s)

/-- A mailbox command that waits for a wake completes without it, with a status that the spec does not give. -/
def mbxWakeFails (ch : Nat) (s : State) : State :=
  if mbxIs 0x08 ch s || mbxIs 0x02 ch s then (mbxFinish (Config.freeNat s.ctr % 10) 0 s).draw else s

/-- WAKE_FAILURE: a step of the wake table is not complete when its delay ends (R499). Target 8 is the chip. -/
def execWakeFailure (target : Fin 9) (step : BitVec 8) (s : State) : Out :=
  let c := target.val
  if c = 8 then
    .next (if s.get .pwrStatChip 0 0 = 3 then
      mbxWakeFails 8 ((thermal .pwrStatWfail 1 (s.put .pwrStatChip 0 0 2)).raise 0x0E02 8
        [8, if s.on .stbHbmoff 0 0 then 5 else 4, step.toNat])
    else s)
  else if s.get .chPwrStatState c 0 ≠ 4 ∨ chanFrozen c s then .next s
  else
    let dark := s.on .pwrDark c 0
    let table := if !dark then 1 else if s.on .hbmOff c 0 then 3 else 2
    let t := (s.put .chPwrStatWfail c 0 1).setPwr c (if dark then 3 else 2)
    .next (mbxWakeFails c (t.raise 0x0E02 c [c, table, step.toNat]))

/-! ## STANDBY (R500 to R502) -/

/-- PWR_STAT. -/
def pwrWord (s : State) : Nat :=
  s.get .pwrStatThrottle 0 0 + 2 ^ 8 * s.get .pwrStatHalved 0 0 + 2 ^ 16 * s.get .pwrStatSensorSuspect 0 0 +
    2 ^ 17 * s.get .pwrStatCapmiss 0 0 + 2 ^ 18 * s.get .pwrStatWfail 0 0 + 2 ^ 19 * s.get .pwrStatChip 0 0

/-- The fields of the host-written configuration that a channel loses in STANDBY (R489's list, R502). -/
def configFlds : List Fld :=
  [.exchCfgMode, .exchCfgPcarry, .exchCfgRflip, .exchCfgRatab, .exchCfgForce, .exchSeamTag, .exchSeamEpoch, .exchTimeoutUs,
    .exchStatPhase, .exchStatResult, .exchStatSeamTag, .exchStatNotready, .exchStatSyncdrop, .exchCount, .exchLastGtc, .exchRsel,
    .exchRatabValid, .exchRatabRemote, .exchRatabRing, .exchRatabRowWords, .exchRatabBase, .exchRatabStride, .exchRatabPeer,
    .exchRingCfgEn, .exchRingCfgDir, .exchRingCfgCore, .exchRingCfgSlots, .exchRingCfgSlotWords, .exchRingCfgBase, .exchSeam,
    .exchSync, .epochCtlRapar, .epochRabaseBase, .rteRank, .rteExt, .rteRoute, .rteBarMem, .rteCtlActive, .rteLinkfDown,
    .synChipbarChans, .synBarTimeoutUs, .bdgCtlEn, .bdgWindowCycles, .bdgStatQcount, .foxCtlRaEn, .foxCtlRsvc, .foxRtimeoutUs,
    .foxRaTabValid, .foxRaTabRemote, .foxRaTabRing, .foxRaTabRowWords, .foxRaTabBase, .foxRaTabStride, .foxRaTabPeer,
    .foxRingCfgEn, .foxRingCfgDir, .foxRingCfgCore, .foxRingCfgSlots, .foxRingCfgSlotWords, .foxRingCfgBase, .foxRings,
    .chCfgLockstep, .chCfgLfreq, .chCfgAllowRace, .chCfgRefalign, .chLfreqEff, .chLfreqNext, .pllRelock, .ownGrantChip,
    .ownGrantCh, .ownGrantSend, .ownGrantRecv, .ownGrantRead, .ownGrantServe]

/-- What a channel loses with its power and its configuration: the cores, the banks, the rings and the fields above. -/
def configLoss (ch : Nat) (s : State) : State :=
  let t := (ringsReset ch (darkLoss ch s)).clearFlds configFlds (· == ch)
  (t.coresOf ch).foldl (fun t c =>
    (t.wipe (imemAddr c 0 0) (imemAddr c 0 0 + 2 ^ 17)).clearFlds
      [.spdKindWbank, .spdKindNextWbank, .spdPwrOn, .spdPwrNextOn, .coreBank] (· == c)) t

/-- Every request in flight is abandoned without a reply; windows open anew with their services still bound (R500, R572). -/
def abandonRequests (s : State) : State :=
  let t := (List.range 8).foldl (fun (t : State) ch => ((t.setQueue ch []).put .sveChHeld ch 0 0).put .sveChLive ch 0 0) s
  let now := s.get .gtc 0 0
  let t : State := { t with
    requests := [], checked := [], liveTags := [], resps := [], slow := []
    windows := t.windows.map fun w => (w.1, ⟨now, none, false, false⟩) }
  (t.put .sveInflight 0 0 0).clearFlds [.epochInflEven, .epochInflOdd] (fun _ => true)

/-- POWER_SET to STANDBY is refused with a busy status (R500). -/
def standbyBusy (s : State) : Bool :=
  s.on .sveInflight 0 0 || (List.range 8).any fun ch => s.get .chPwrStatState ch 0 == 0 && !coresAtRest ch s

/-- STANDBY's entry begins: admission closes, requests are abandoned under FORCE, and the channels in RUN halt; the recorder's flush
follows (R500). -/
def enterStandby (force off : Bool) (s : State) : State :=
  let t := (List.range 8).foldl (fun t ch => closeAdmit ch 3 t) s
  let t := if force then abandonRequests t else t
  let t := (List.range 8).foldl (fun (t : State) ch => if t.get .chPwrStatState ch 0 = 0 then chanHalt ch t else t) t
  (((t.flush.put .pwrStatChip 0 0 1).put .stbForce 0 0 (bitOf force)).put .stbHbmoff 0 0 (bitOf off)).put .stbAt 0 0 (s.get .gtc 0 0)

/-- One channel loses its power for STANDBY. -/
def standbyChan (s : State) (ch : Nat) : State :=
  let t := configLoss ch (foxAbandon ch (fun _ => true) (detDrop ch s))
  let t := if s.on .stbHbmoff 0 0 then (hbmLost ch t).put .hbmOff ch 0 1 else t
  (t.put .pwrDark ch 0 1).setPwr ch 3

/-- Event 0x0E08: STANDBY entered or left, with the ms that it took. -/
def standbyEvent (s : State) : State :=
  s.raise 0x0E08 8 [s.get .stbHbmoff 0 0, s.get .stbForce 0 0, (s.get .gtc 0 0 + s.get .gtcAway 0 0 - s.get .stbAt 0 0) / 1000000]

/-- STANDBY_ENTRY_DONE: links DOWN, stacks in self-refresh or off, rails removed (R500). -/
def execStandbyEntryDone (s : State) : Out :=
  if s.get .pwrStatChip 0 0 ≠ 1 then .next s
  else
    let t := (List.range 48).foldl (fun t l => linkStop l 5 t) s
    let t := (List.range 8).foldl standbyChan t
    let t := (loseSummaries (flushNow (takeAll (standbyEvent t)))).put .pwrStatChip 0 0 2
    .next (if mbxIs 0x08 8 t then mbxFinish 0 0 (t.put .mbxRsp 0 0 (pwrWord t)) else t)

/-- STANDBY_WAKE_DONE: the chip wake table completes (R363, R502): time goes on, links train, every channel is in DARK. -/
def execStandbyWakeDone (s : State) : Out :=
  if s.get .pwrStatChip 0 0 ≠ 3 then .next s
  else
    let t := standbyEvent (wakeTime (s.put .pwrStatChip 0 0 0))
    let t := (t.raise 0x0D21 8 [2, t.get .evrLostStb 0 0]).put .evrLostStb 0 0 0
    let t := (List.range 48).foldl (fun t l => linkStart l t) t
    .next (if mbxIs 0x08 8 t then mbxFinish 0 0 (t.put .mbxRsp 0 0 (pwrWord t)) else t)

/-! ## The trip (R511) -/

/-- A channel loses its compute power at a trip; in a frozen channel its read-out goes with it. -/
def tripChan (s : State) (ch : Nat) : State :=
  let t := if s.get .chPwrStatState ch 0 = 0 ∧ !chanFrozen ch s then chanHalt ch s else leaveBars ch (exchAbort ch 5 s)
  let t := darkLoss ch (foxAbandon ch (fun _ => true) (detDrop ch t))
  let t := if chanFrozen ch s && !s.on .frzCause ch 0 then t.put .frzCause ch 0 4 else t
  mbxWakeFails ch ((t.put .pwrDark ch 0 1).setPwr ch 3)

/-- THERMAL_TRIP: a region's fused reading is at or above 115 °C. -/
def execThermalTrip (region : BitVec 8) (s : State) : Out :=
  let r := region.toNat
  let tj : Int := (s.get .regTemp r 0 : Int) - 32768
  if s.on .pwrTripTripped 0 0 || !s.on .regTemp r 0 || decide (tj < 1840) then .next s
  else
    let t := (List.range 8).foldl tripChan s
    let t := (thermal .pwrTripTripped 1 ((t.put .pwrTripRegion 0 0 (regionName r)).put .pwrTripTj 0 0 (unsgn 16 tj))).alert 1
    let t := (List.range 48).foldl (fun (t : State) l => (linkStop l (Config.freeNat t.ctr % 16) t).draw) t
    .next (tellThermal s (t.raise 0x0E05 8 [regionName r, unsgn 16 tj]))

end Sys2Proof.Machine
end

