-- ==== Sys2Proof/Machine/Mailbox.lean ====
section
/-!
DEFINITION. The mailbox (R584 to R589) and its commands. A command stands for its
arguments, MBX_CMD and GO written together.
-/
namespace Sys2Proof.Machine

/-! ## Acceptance (R451, R557, R584 to R587) -/

/-- The commands that a frozen chip accepts (R557). -/
def frozenCodes : List Nat := [0x01, 0x04, 0x09, 0x0A, 0x0B, 0x0D, 0x0E]

/-- The mailbox takes a command: it copies CODE, SEQ and the arguments, sets BUSY and clears DONE (R584). -/
def mbxTake (code obj seq : Nat) (args : List Nat) (s : State) : State :=
  let t := (args.mapIdx fun i v => (i, v)).foldl (fun (t : State) x => (t.put .mbxArg x.1 0 x.2).put .mbxCopy x.1 0 x.2) s
  let t := ((t.put .mbxCmdCode 0 0 code).put .mbxCmdSeq 0 0 seq).put .mbxCur 0 0 code
  (((t.put .mbxCurObj 0 0 obj).put .mbxSeq 0 0 seq).put .mbxStatBusy 0 0 1).put .mbxStatDone 0 0 0

/-- A mailbox command on an object: dropped in D3hot (R576), an overrun while another runs (R585), not ready before READY (R451),
busy where a frozen chip refuses it (R557); else it acts. -/
def command (code obj seq : Nat) (args : List Nat) (s : State) (k : State → State) : Out :=
  if !s.mgWrite then .next s
  else if s.on .mbxStatBusy 0 0 then .next (s.put .mbxStatOverrun 0 0 1)
  else
    let t := mbxTake code obj seq args s
    if t.get .msrBootStage 0 0 ≠ 3 then .next (mbxFinish 1 0 t)
    else if t.frozen && !frozenCodes.contains code then .next (mbxFinish 2 0 t)
    else .next (k t)

/-- Response words from word 0 on. -/
def respond (ws : List Nat) (s : State) : State :=
  (ws.mapIdx fun i v => (i, v)).foldl (fun (t : State) x => t.put .mbxRsp x.1 0 x.2) s

/-- MAILBOX_OVERRUN: GO while BUSY is dropped and sets OVERRUN (R585). -/
def execMailboxOverrun (seq code : BitVec 8) (s : State) : Out :=
  .next (if s.mgWrite && s.on .mbxStatBusy 0 0 then
    ((s.put .mbxCmdCode 0 0 code.toNat).put .mbxCmdSeq 0 0 seq.toNat).put .mbxStatOverrun 0 0 1
  else s)

/-- UNKNOWN_COMMAND: a CODE that the table does not list (R587). -/
def execUnknownCommand (seq code : BitVec 8) (s : State) : Out :=
  if 1 ≤ code.toNat ∧ code.toNat ≤ 0x0E then .next s
  else if !s.mgWrite then .next s
  else if s.on .mbxStatBusy 0 0 then .next (s.put .mbxStatOverrun 0 0 1)
  else
    let t := mbxTake code.toNat 0 seq.toNat [] s
    .next (mbxFinish (if t.get .msrBootStage 0 0 ≠ 3 then 1 else 3) 0 t)

/-! ## Identity -/

/-- MSR_BOOT [31:0]. -/
def bootWord (s : State) : Nat :=
  s.get .msrBootStage 0 0 + 8 * s.get .msrBootFallback 0 0 + 16 * s.get .msrBootSlotb 0 0 + 2 ^ 12 * s.get .msrBootRcause 0 0 +
    2 ^ 16 * s.get .msrBootWdcount 0 0

/-- FAB_CTL. -/
def fabWord (s : State) : Nat :=
  s.get .fabCtlChipId 0 0 + 2 ^ 15 * s.get .fabCtlValid 0 0 + 2 ^ 16 * s.get .fabCtlHopmax 0 0

/-- The words that IDENTIFY answers (R588). -/
def identity (s : State) : List Nat :=
  [2 ^ 16 * s.get .idPartPart 0 0 + 2 ^ 8 * s.get .idPartStep 0 0,
    s.get .idGradeIslands 0 0 + 2 ^ 4 * s.get .idGradeChannels 0 0 + 2 ^ 8 * s.get .idGradeLinks 0 0 + 2 ^ 16 * s.get .idGradeSve 0 0,
    s.get .idSerial 0 0 % 2 ^ 32, s.get .idSerial 0 0 / 2 ^ 32, bootWord s] ++
    (List.range 6).map (fun k => s.get .msrImgverVersion k 0) ++
    [fabWord s, (List.range 8).foldl (fun n ch => n + s.owner ch * 16 ^ ch) 0, 1]

/-- IDENTIFY. -/
def execIdentify (seq : BitVec 8) (s : State) : Out :=
  command 0x01 0 seq.toNat [] s fun t => mbxFinish 0 0 (respond (identity t) t)

/-! ## Owners (R420, R426, R442, R445) -/

/-- A channel that the die has. -/
def chanExists (ch : Nat) (s : State) : Bool := decide (ch ≤ s.get .idGradeChannels 0 0)

/-- A command that names a channel: BAD_ARG where the die has none, busy while it is KILLING (R445, R587). -/
def onChan (ch : Nat) (k : State → State) (s : State) : State :=
  if !chanExists ch s then mbxFinish 4 0 s
  else if s.owner ch = owKilling then mbxFinish 2 0 s
  else k s

/-- Channels can be woken now: the chip is in RUN and has not tripped (R501, R511). -/
def canWake (s : State) : Bool := s.get .pwrStatChip 0 0 == 0 && !s.cut

/-- CHANNEL_ASSIGN: an UNASSIGNED channel becomes READY under an ephemeral key, and is woken (R420, R452). -/
def execChannelAssign (seq : BitVec 8) (ch : Chan) (s : State) : Out :=
  let c := ch.val
  command 0x02 c seq.toNat [c] s (onChan c fun t =>
    let st := t.get .chPwrStatState c 0
    if t.owner c ≠ owUnassigned then mbxFinish 5 0 (respond [ownStat c t] t)
    else if st ≠ 0 ∧ !canWake t then mbxFinish 2 0 t
    else
      let u := setOwner c owReady (drawKey c 1 t)
      if st = 0 then mbxFinish 0 0 (respond [ownStat c u] u) else wakeChan c 4 u)

/-- CHANNEL_ASSIGN with RELEASE (R420). -/
def execChannelRelease (seq : BitVec 8) (ch : Chan) (s : State) : Out :=
  let c := ch.val
  command 0x02 c seq.toNat [c + 256] s (onChan c fun t =>
    if t.owner c = owUnassigned ∨ t.owner c = owUnavailable then mbxFinish 5 0 (respond [ownStat c t] t)
    else killWave c 3 2 t)

/-- OWNER_BIND (R426). -/
def execOwnerBind (seq : BitVec 8) (ch : Chan) (timeout : BitVec 10) (oid : BitVec 128) (s : State) : Out :=
  let c := ch.val
  let args := [c, timeout.toNat] ++ (List.range 4).map fun w => bitsAt oid.toNat (32 * w) 32
  command 0x03 c seq.toNat args s (onChan c fun t =>
    if t.owner c ≠ owReady then mbxFinish 5 0 t else killWave c 2 1 t)

/-- OWNER_KILL (R442): of a KILLING channel it waits for the running kill. -/
def execOwnerKill (seq : BitVec 8) (ch : Chan) (s : State) : Out :=
  let c := ch.val
  command 0x04 c seq.toNat [c] s fun t =>
    if !chanExists c t then mbxFinish 4 0 t
    else if t.owner c = owUnassigned ∨ t.owner c = owUnavailable then mbxFinish 5 0 t
    else killWave c 0 0 t

/-! ## Exchanges and epochs (R317, R329, R331) -/

/-- EXCH_CFG and EXCH_SEAM as event 0x0801 shows them. -/
def exchCfgWord (ch : Nat) (s : State) : Nat :=
  s.get .exchCfgMode ch 0 + 4 * s.get .exchCfgPcarry ch 0 + 8 * s.get .exchCfgRflip ch 0 + 16 * s.get .exchCfgRatab ch 0 +
    32 * s.get .exchCfgForce ch 0
/-- EXCH_STAT [31:0]. -/
def exchStatWord (ch : Nat) (s : State) : Nat :=
  s.get .exchStatPhase ch 0 + 8 * s.get .exchStatResult ch 0 + 2 ^ 16 * s.get .exchStatSeamTag ch 0

/-- EXCHANGE_ARM (R317). -/
def execExchangeArm (seq : BitVec 8) (ch : Chan) (s : State) : Out :=
  let c := ch.val
  command 0x05 c seq.toNat [c] s (onChan c fun t =>
    let p := t.get .exchStatPhase c 0
    if t.owner c ≠ owReady ∧ t.owner c ≠ owOwned then mbxFinish 5 0 t
    else if p = 1 ∨ p = 2 ∨ p = 3 ∨ t.get .chPwrStatState c 0 ≠ 0 then mbxFinish 2 0 t
    else mbxFinish 0 0 ((t.put .exchStatPhase c 0 1).raise 0x0801 c
      [c, exchCfgWord c t, t.get .exchSeamTag c 0 + 2 ^ 32 * t.get .exchSeamEpoch c 0]))

/-- EXCHANGE_ABORT (R329). -/
def execExchangeAbort (seq : BitVec 8) (ch : Chan) (s : State) : Out :=
  let c := ch.val
  command 0x06 c seq.toNat [c] s (onChan c fun t =>
    let p := t.get .exchStatPhase c 0
    let u := exchAbort c 3 t
    mbxFinish (if p = 1 ∨ p = 2 then 0 else 8) 0 (respond [exchStatWord c u] u))

/-- EPOCH_FLIP (R331): it completes when the flip takes effect. -/
def execEpochFlip (seq : BitVec 8) (svc : BitVec 12) (epoch : BitVec 32) (s : State) : Out :=
  let k := svc.toNat
  command 0x07 k seq.toNat [k, epoch.toNat] s fun t =>
    if !t.on .idGradeSve 0 0 then mbxFinish 4 0 t
    else if !t.on .sveSvcW0Bound k 0 then mbxFinish 5 0 t
    else { t with epochPend := tset t.epochPend k epoch.toNat }

/-! ## Power (R492 to R502) -/

/-- POWER_SET's first argument word. -/
def powerArg (scope st : Nat) (force off : Bool) : Nat := scope + 2 ^ 8 * st + 2 ^ 12 * bitOf force + 2 ^ 13 * bitOf off

/-- A channel may enter DOZE or DARK at once: every core rests, and the other conditions of R491 hold. -/
def mayDoze (ch : Nat) (s : State) : Bool := (s.coresOf ch).all (fun c => restsForDoze c s) && dozeReady ch s

/-- POWER_SET of a channel to DOZE or DARK (R492). -/
def powerDown (ch : Nat) (dark force : Bool) (t : State) : State :=
  let st := t.get .chPwrStatState ch 0
  let done (u : State) : State := mbxFinish 0 0 (respond [chPwrWord ch u] u)
  let busy : State := mbxFinish 2 0 (respond [chPwrWord ch t] t)
  if st = 1 ∨ st = 4 then busy
  else if (st = 2 ∧ !dark) ∨ (st = 3 ∧ dark) then done t
  else if dark && force then enterDoze ch true (channelReset ch t)
  else if st = 3 ∨ !mayDoze ch t then busy
  else enterDoze ch dark t

/-- POWER_SET naming DOZE, DARK or STANDBY: DOZE and DARK are a channel's, STANDBY the chip's (R588). -/
def execPowerSet (seq : BitVec 8) (scope : BitVec 4) (state : BitVec 2) (force hbmoff : Bool) (s : State) : Out :=
  let c := scope.toNat
  command 0x08 c seq.toNat [powerArg c state.toNat force hbmoff] s fun t =>
    if 8 ≤ c ∨ state = 0#2 ∨ state = 3#2 then mbxFinish 4 0 t
    else onChan c (powerDown c (state == 2#2) force) t

/-- The chip leaves STANDBY (R501, R502). -/
def chipRun (t : State) : State :=
  let p := t.get .pwrStatChip 0 0
  if p = 2 then (t.put .pwrStatChip 0 0 3).put .stbAt 0 0 (t.get .gtc 0 0 + t.get .gtcAway 0 0)
  else mbxFinish (if p = 0 then 0 else 2) 0 (respond [pwrWord t] t)

/-- POWER_SET naming RUN for a channel: it wakes where it dozes (R494), and the command completes with the wake. -/
def execPowerSetRun (seq : BitVec 8) (scope : BitVec 4) (force hbmoff : Bool) (s : State) : Out :=
  let c := scope.toNat
  command 0x08 c seq.toNat [powerArg c 0 force hbmoff] s fun t =>
    if 8 < c then mbxFinish 4 0 t
    else if c = 8 then chipRun t
    else onChan c (fun t =>
      let st := t.get .chPwrStatState c 0
      if st = 0 then mbxFinish 0 0 (respond [chPwrWord c t] t)
      else if st = 4 then t
      else if st = 1 ∨ !canWake t then mbxFinish 2 0 (respond [chPwrWord c t] t)
      else wakeChan c 4 t) t

/-- POWER_SET naming STANDBY (R500). -/
def execPowerSetStandby (seq : BitVec 8) (scope : BitVec 4) (force hbmoff : Bool) (s : State) : Out :=
  let c := scope.toNat
  command 0x08 c seq.toNat [powerArg c 3 force hbmoff] s fun t =>
    let p := t.get .pwrStatChip 0 0
    let armed := (List.range 8).any fun ch => let x := t.get .exchStatPhase ch 0; x == 1 || x == 2 || x == 3
    if c ≠ 8 then mbxFinish 4 0 t
    else if p = 2 then mbxFinish 0 0 (respond [pwrWord t] t)
    else if p ≠ 0 ∨ (!force && (standbyBusy t || armed)) then mbxFinish 2 0 (respond [pwrWord t] t)
    else enterStandby force hbmoff t

/-- POWER_SET naming RUN for the chip (R501, R502). -/
def execPowerSetChipRun (seq : BitVec 8) (force hbmoff : Bool) (s : State) : Out :=
  command 0x08 8 seq.toNat [powerArg 8 0 force hbmoff] s chipRun

/-! ## Time and links -/

/-- TIME_POLICY: applied at the next epoch (R386). No epoch runs in STANDBY, which refuses it. -/
def execTimePolicy (seq : BitVec 8) (mask : BitVec 32) (words : List (BitVec 32)) (s : State) : Out :=
  command 0x09 0 seq.toNat (mask.toNat :: (words.take 63).map BitVec.toNat) s fun t =>
    if tunUp t then t else mbxFinish 2 0 (respond [tunStatWord t] t)

/-- The cause that refuses a LINK_ADMIT of a link in a mode other than RESTORE (R410, R588). -/
def admitCause (l : Nat) (s : State) : Option Nat :=
  if s.get .lnkStatState l 0 ≠ lkIsolated then some 1
  else if !s.on .fabCtlValid 0 0 then some 2
  else if s.on .lnkPeerValid l 0 && s.get .lnkPeerChip l 0 == chipId s then some 3
  else none

/-- A LINK_ADMIT in a mode that talks to the peer. -/
def admitLink (l mode : Nat) (k : State → State) (s : State) : State :=
  if !hasLink l s then mbxFinish 4 0 s
  else
    let t := s.put .mbxMode 0 0 mode
    match admitCause l t with
    | some c => refuseAdmit l c t
    | none => k t

/-- LINK_ADMIT, mode ADMIT (R410). -/
def execLinkAdmit (seq : BitVec 8) (link : BitVec 6) (s : State) : Out :=
  let l := link.toNat
  command 0x0A l seq.toNat [l] s (admitLink l 0 fun t => mbxFinish 0 0 (respond [t.get .lnkAttStatAtt l 0] (sendAdmit l t)))

/-- LINK_ADMIT, mode ATTEST (R406, R410). -/
def execLinkAdmitAttest (seq : BitVec 8) (link : BitVec 6) (s : State) : Out :=
  let l := link.toNat
  command 0x0A l seq.toNat [l + 2 ^ 8] s (admitLink l 1 fun t => nextAttest l true (t.put .lnkAttStatAtt l 0 1))

/-- LINK_ADMIT, mode ATTEST_MATCH, with the two digests expected (R410). -/
def execLinkAdmitAttestMatch (seq : BitVec 8) (link : BitVec 6) (cert meas : BitVec 384) (s : State) : Out :=
  let l := link.toNat
  let ws (v : BitVec 384) : List Nat := (List.range 12).map fun k => bitsAt v.toNat (32 * k) 32
  command 0x0A l seq.toNat ((l + 2 ^ 9) :: (ws cert ++ ws meas)) s
    (admitLink l 2 fun t => nextAttest l true (t.put .lnkAttStatAtt l 0 1))

/-- LINK_ADMIT, mode RESTORE: a RETIRED link goes DOWN and trains where it may (R410). -/
def execLinkAdmitRestore (seq : BitVec 8) (link : BitVec 6) (s : State) : Out :=
  let l := link.toNat
  command 0x0A l seq.toNat [l + 3 * 2 ^ 8] s fun t =>
    if !hasLink l t then mbxFinish 4 0 t
    else
      let t := t.put .mbxMode 0 0 3
      if t.get .lnkStatState l 0 ≠ lkRetired then refuseAdmit l 6 t
      else mbxFinish 0 0 (respond [t.get .lnkAttStatAtt l 0] (linkStart l (setLink l lkDown 9 t)))

/-- A link that carries flits begins its retirement: RETIRE is sent, and routed traffic stops (R411). -/
def beginRetire (l : Nat) (s : State) : State := ((sendCtl l 2 s).put .lnkRetiring l 0 1).put .lnkRetireAt l 0 (s.get .gtc 0 0)

/-- LINK_RETIRE (R411). -/
def execLinkRetire (seq : BitVec 8) (link : BitVec 6) (s : State) : Out :=
  let l := link.toNat
  command 0x0B l seq.toNat [l] s fun t =>
    if !hasLink l t then mbxFinish 4 0 t
    else if !linkRuns l t then mbxFinish 5 0 (respond [(tget [] t.retry l).length] t)
    else beginRetire l t

/-! ## Services (R290 to R292, R439) -/

/-- SVE_SVC_W0 from the argument words of SERVICE_BIND. -/
def bindW0 (w0 w1 w2 : Nat) : Nat :=
  1 + 2 * bitsAt w0 12 3 + 2 ^ 4 * bitsAt w0 17 1 + 2 ^ 5 * bitsAt w0 18 1 + 2 ^ 6 * bitsAt w0 19 2 + 2 ^ 8 * bitsAt w1 0 11 +
    2 ^ 19 * bitsAt w1 11 9 + 2 ^ 28 * bitsAt w2 0 20 + 2 ^ 48 * bitsAt w1 20 9 + 2 ^ 57 * bitsAt w0 21 4

/-- The fields of a binding lie in their legal ranges (R291). -/
def bindLegal (w0 cell len : Nat) : Bool :=
  let win := bitsAt w0 8 11
  let maxb := bitsAt w0 19 9
  let kdef := bitsAt w0 48 9
  decide (20 ≤ win) && decide (win ≤ 2000) && decide (1 ≤ maxb) && decide (maxb ≤ 256) && decide (1 ≤ bitsAt w0 28 20) &&
    decide (1 ≤ kdef) && decide (kdef ≤ 256) && decide (len ≤ 4096) && decide (cell + cellsOf len ≤ 131072)

/-- The test of R439 for a binding to a channel. -/
def bindTagged (ch w0 : Nat) (s : State) : Bool :=
  s.owner ch != owOwned || !s.on .ownCfgSvcTagged ch 0 ||
    (bitsAt w0 4 1 == 1 && bitsAt w0 57 4 != 0 && s.bit .ownChStatSkeys ch 0 (bitsAt w0 57 4))

/-- A service is bound for the first time (R290, R299). -/
def firstBind (svc w0 cell len epoch : Nat) (s : State) : State :=
  let t := (putSvc svc w0 cell len s).put .sveSvcW1Epoch svc 0 epoch
  let t : State := { t with windows := tset t.windows svc ⟨s.get .gtc 0 0, none, false, false⟩ }
  t.raise 0x0708 8 [svc, 8, bitsAt w0 1 3]

/-- SERVICE_BIND: a first bind at once, a rebind at the service's next boundary (R290, R292, R439). Fields out of their ranges are
UNPREDICTABLE for the channel (R291). -/
def execServiceBind (seq : BitVec 8) (w0 w1 w2 w3 w4 w5 : BitVec 32) (s : State) : Out :=
  let svc := bitsAt w0.toNat 0 12
  let ch := bitsAt w0.toNat 12 3
  let v := bindW0 w0.toNat w1.toNat w2.toNat
  let cell := bitsAt w3.toNat 0 17
  let len := bitsAt w4.toNat 0 13
  command 0x0C svc seq.toNat ([w0, w1, w2, w3, w4, w5].map BitVec.toNat) s fun t =>
    if !t.on .idGradeSve 0 0 then mbxFinish 4 0 t
    else onChan ch (fun t =>
      if t.owner ch ≠ owReady ∧ t.owner ch ≠ owOwned then mbxFinish 5 0 t
      else if !bindTagged ch v t then mbxFinish 6 1 t
      else
        let t := if bindLegal v cell len then t else havoc ch t
        if t.on .sveSvcW0Bound svc 0 then { t with svcPend := tset t.svcPend svc ⟨false, v, cell, len⟩ }
        else mbxFinish 0 0 (firstBind svc v cell len w5.toNat t)) t

/-- SERVICE_BIND with UNBIND (R292). -/
def execServiceUnbind (seq : BitVec 8) (w0 : BitVec 32) (s : State) : Out :=
  let svc := bitsAt w0.toNat 0 12
  command 0x0C svc seq.toNat [w0.toNat] s fun t =>
    if !t.on .idGradeSve 0 0 then mbxFinish 4 0 t
    else if !t.on .sveSvcW0Bound svc 0 then mbxFinish 5 0 t
    else { t with svcPend := tset t.svcPend svc ⟨true, 0, 0, 0⟩ }

/-! ## The recorder (R546) -/

/-- EVR_CLEAR from host software. -/
def execEvrClear (seq : BitVec 8) (s : State) : Out :=
  command 0x0D 0 seq.toNat [] s fun t =>
    let u := clearRecorder 0 t
    mbxFinish 0 0 (respond [u.get .evrSseq 0 0] u)

/-! ## Freeze arming (R550) -/

/-- FREEZE_ARM: each change raises event 0x1002, whose context shows PIN and TRIG. -/
def execFreezeArm (seq : BitVec 8) (pin trig : Bool) (s : State) : Out :=
  let v := bitOf pin + 2 * bitOf trig
  command 0x0E 0 seq.toNat [v] s fun t =>
    let u := (t.put .frzArmPin 0 0 (bitOf pin)).put .frzArmTrig 0 0 (bitOf trig)
    let u := if t.get .frzArmPin 0 0 ≠ bitOf pin ∨ t.get .frzArmTrig 0 0 ≠ bitOf trig then u.raise 0x1002 8 [v] else u
    mbxFinish 0 0 u

end Sys2Proof.Machine
end

