-- ==== Sys2Proof/Machine/Readout.lean ====
section
/-!
DEFINITION. The read-out of a frozen chip: the image, its sections and items, the two paths (R557 to R573).
-/
namespace Sys2Proof.Machine

/-! ## The image (R565 to R570) -/

/-- Exactly n bytes of an item that the spec leaves open. -/
def openBytes (draw item core n : Nat) : List (BitVec 8) := (Config.imageBytes draw item core ++ List.replicate n 0#8).take n

/-- Some bytes as exactly n: cut, or padded with zero. -/
def padTo (n : Nat) (bs : List (BitVec 8)) : List (BitVec 8) := (bs ++ List.replicate n 0#8).take n

/-- The image header (R565). -/
def imageHeader (s : State) : List (BitVec 8) :=
  let h := leBytes 4 0x4F524C55 ++ leBytes 2 1 ++ leBytes 2 (s.get .idPartPart 0 0) ++ leBytes 8 (s.get .idSerial 0 0) ++
    leBytes 8 (s.get .frzGtc 0 0) ++ leBytes 5 (s.get .frzOpsec 0 0) ++ leBytes 3 (s.get .frzPcyc 0 0) ++
    [BitVec.ofNat 8 (s.get .frzStatSrc 0 0),
      BitVec.ofNat 8 (if s.get .frzStatSrc 0 0 = 3 then s.get .frzStatSlot 0 0 else 0xFF),
      BitVec.ofNat 8 (s.get .idGradeIslands 0 0), 0#8] ++ leBytes 2 (s.get .fabCtlChipId 0 0)
  let h := padTo 60 h
  h ++ leBytes 4 (crc32c h)

/-- A section's header (R566). -/
def sectionHeader (ty form ch cause owner len oid : Nat) : List (BitVec 8) :=
  let h := padTo 28 ([ty, form, ch, cause, owner].map (BitVec.ofNat 8) ++ List.replicate 3 0#8 ++ leBytes 8 len ++ leBytes 4 oid)
  h ++ leBytes 4 (crc32c h)

/-- The form of a channel's section and the cause of a stub (R567). -/
def sectionForm (ch : Nat) (s : State) : Nat × Nat :=
  let why := s.get .frzCause ch 0
  if why ≠ 0 then (2, why)
  else if !chanFrozen ch s then (2, 3)
  else if s.owner ch = owKilling then (2, 2)
  else if s.owner ch = owUnavailable then (2, 5)
  else if s.owner ch = owBinding then (2, 6)
  else if s.owner ch ≠ owOwned then (0, 0)
  else if s.on .ownChStatRdkey ch 0 then (1, 0) else (2, 1)

/-- An item (R568). -/
def item (id core gtc : Nat) (data : List (BitVec 8)) : List (BitVec 8) :=
  leBytes 2 id ++ leBytes 2 core ++ leBytes 4 data.length ++ leBytes 8 gtc ++ data

/-- The words of an input FIFO, then zero. -/
def fifoImage (c e : Nat) (s : State) : List (BitVec 8) :=
  padTo 4096 ((s.fifoAt c e).flatMap fun w => leBytes 64 w.toNat)

/-- An entry of the tile queue; one that is FREE reads zero. -/
def tileImage (c e : Nat) (s : State) : List (BitVec 8) :=
  padTo 4096 (if s.get .tqEnt c e = 0 then [] else
    match tget? s.tiles (c * 8 + e) with
    | some x => x.vals.flatMap fun v => leBytes 4 v.toNat
    | none => [])

/-- A word of a scratchpad as the image shows it: stale words and words of a group without power read zero (R561). -/
def spdImage (c w : Nat) (s : State) : List (BitVec 8) :=
  if isStale c w s || !(s.get .spdPwrOn c 0).testBit (w / 512 / 4) then List.replicate 64 0#8
  else s.bytes (spdAddr c (w * 64)) 64

/-- An item of one core. What is not laid out in R568 is open. -/
def coreItem (draw id c : Nat) (s : State) : List (BitVec 8) :=
  let k := c % 160
  let act := s.get .coreBank c 0
  let data := match id with
    | 2 => s.bytes (imemAddr c act 0) 65536 ++ s.bytes (imemAddr c (1 - act) 0) 65536
    | 3 => (List.range 32).flatMap fun r =>
        (tget (List.replicate 64 0#32) s.vreg (c * 32 + r)).flatMap fun v => leBytes 4 v.toNat
    | 4 => (List.range 2).flatMap fun p => padTo 4096 ((tget [] s.planes (c * 2 + p)).flatMap fun v => leBytes 4 v.toNat)
    | 5 => (List.range 8).flatMap fun e => tileImage c e s
    | 6 => (List.range 8).flatMap fun e => fifoImage c e s
    | 7 => (List.range 8192).flatMap fun w => spdImage c w s
    | _ => openBytes draw id c 4096
  item id k (s.get .frzGtc 0 0 + Config.freeNat (draw + c) % 2048) data

/-- A crossing record: the sender owns what crosses (R559, R568). Units and padding cycles are open. -/
def crossRecord (draw c : Nat) (x : Transit) : List (BitVec 8) :=
  let data := match x with
    | .word _ _ d _ => leBytes 64 d.toNat
    | _ => openBytes draw 0x113 c 64
  leBytes 2 2 ++ openBytes draw 0x213 c 4 ++ [1#8, 0#8] ++ openBytes draw 0x313 c 2 ++ padTo 6 [] ++ data

/-- The range r of FRZ_HBM for a channel, where it is read: a key held, 64 B aligned, and within the stack (R570). -/
def hbmItem (ch r : Nat) (s : State) : List (BitVec 8) :=
  let base := s.get .frzHbmBase ch r
  let len := min 16384 (s.get .frzHbmLen ch r) * 4096
  if len = 0 ∨ !hasKey ch s ∨ base % 64 ≠ 0 ∨ 0x900000000 < base + len then []
  else item 0x20 0xFFFF 0 (leBytes 8 base ++ (List.range (len / 64)).flatMap fun l => (hbmRead ch (base + l * 64) s).1)

/-- The items of a channel's section (R568). In DARK those of state that DARK loses are left out (R561). -/
def channelItems (ch : Nat) (s : State) : List (BitVec 8) :=
  let draw := s.ctr
  let ids := if s.get .chPwrStatState ch 0 = 3 then [2] else [1, 2, 3, 4, 5, 6, 7]
  let cross := (s.transitOf ch).flatMap fun x => crossRecord draw ch x
  let reqs := (s.requests.filter fun r => r.ch == ch && !r.answered).flatMap fun r => openBytes draw 0x14 r.id 32
  let words := (s.queue ch).flatMap fun b => (b.there ++ b.left).flatMap fun w => leBytes 64 w.1.toNat
  (ids.flatMap fun id => (s.coresOf ch).flatMap fun c => coreItem draw id c s) ++
    item 0x10 0xFFFF 0 (openBytes draw 0x10 ch 16384) ++
    item 0x11 0xFFFF 0 ((List.range 8192).flatMap fun k => leBytes 4 (mapRead chanRegs (fun _ b => (ch, b)) (0x200000 + 4 * k) s)) ++
    item 0x12 0xFFFF 0 (openBytes draw 0x12 ch 32768) ++
    (if cross.isEmpty then [] else item 0x13 0xFFFF 0 cross) ++ (if reqs.isEmpty then [] else item 0x14 0xFFFF 0 reqs) ++
    (if words.isEmpty then [] else item 0x15 0xFFFF 0 words) ++ (List.range 8).flatMap fun r => hbmItem ch r s

/-- A plain body: the items and their CRC. -/
def plainBody (items : List (BitVec 8)) : List (BitVec 8) := items ++ leBytes 4 (crc32c items)

/-- The length of an encrypted body: the public key, the plaintext and a tag for each chunk of 32 KiB (R569). -/
def sealedLength (n : Nat) : Nat := 97 + n + (n + 32767) / 32768 * 16

/-- The bytes of a channel's section, and its form. -/
def channelSection (ch : Nat) (s : State) : Nat × List (BitVec 8) :=
  let (form, cause) := sectionForm ch s
  let oid := if s.owner ch = owOwned then ownOid ch s % 2 ^ 32 else 0
  let body := match form with
    | 0 => plainBody (channelItems ch s)
    | 1 => openBytes s.ctr 0x1FF ch (sealedLength (plainBody (channelItems ch s)).length)
    | _ => []
  (form, sectionHeader 2 form ch cause (s.owner ch) body.length oid ++ body)

/-- The chip section (R567, R568). -/
def chipSection (s : State) : List (BitVec 8) :=
  let body := plainBody (item 0x30 0xFFFF 0 (openBytes s.ctr 0x30 0 16384))
  sectionHeader 1 0 0xFF 0 0 body.length 0 ++ body

/-! ## The stream (R562 to R564) -/

/-- A CRC-32C state over more bytes. -/
def crcMore (r : Nat) (bs : List (BitVec 8)) : Nat := bs.foldl (fun r b => crc32cBits 8 (r ^^^ b.toNat)) r

/-- The next section joins the stream; each section streamed raises 0x1004 with its form. The END section covers every byte before
its body. -/
def nextSection (s : State) : State :=
  let k := s.get .roNext 0 0
  if k = 0 then
    ({ s with roTail := s.roTail ++ chipSection s } : State).draw.put .roNext 0 0 1 |>.raise 0x1004 8 [0xFF, 0]
  else if k ≤ 8 then
    let (form, bs) := channelSection (k - 1) s
    let t := ({ s with roTail := s.roTail ++ bs } : State).draw.put .roNext 0 0 (k + 1)
    ((t.put .roOn 0 0 k).put .roLast 0 0 bs.length).raise 0x1004 (k - 1) [k - 1, form]
  else if k = 9 then
    let h := sectionHeader 4 0 0xFF 0 0 12 0
    let n := s.get .roSent 0 0 + s.roTail.length + 44
    let crc := crcMore (s.get .roCrc 0 0) (s.roTail ++ h) ^^^ 0xFFFFFFFF
    (({ s with roTail := s.roTail ++ h ++ leBytes 8 n ++ leBytes 4 crc } : State).put .roNext 0 0 10).put .roOn 0 0 0
  else s

/-- Make sections until n bytes wait, or the image ends. -/
def makeBytes (n : Nat) : Nat → State → State
  | 0, s => s
  | k + 1, s => if n ≤ s.roTail.length ∨ s.get .roNext 0 0 = 10 then s else makeBytes n k (nextSection s)

/-- The read-out ends: 2 complete, 3 cut off (R564). -/
def readoutEnds (how : Nat) (s : State) : State :=
  if s.get .frzStatRo 0 0 ≠ 1 then s
  else
    let t := (s.put .frzStatRo 0 0 how).raise 0x1005 8 [how - 2, s.get .roSent 0 0]
    ({ t with roTail := [] } : State).mgCause 6

/-- The next bytes of the stream, at most n. -/
def streamBytes (n : Nat) (s : State) : List (BitVec 8) × State :=
  let t := makeBytes n 12 s
  let bs := t.roTail.take n
  let t : State := { t with roTail := t.roTail.drop n }
  (bs, ((t.put .roCrc 0 0 (crcMore (t.get .roCrc 0 0) bs)).inc .roSent 0 0 bs.length).put .roLast 0 0
    (min (t.get .roLast 0 0) t.roTail.length))

/-- The whole image has been sent. -/
def streamOver (s : State) : Bool := s.roTail.isEmpty && s.get .roNext 0 0 == 10

/-- A read-out starts on a path: 0 the management function, 1 JTAG. It is dropped where the chip is not frozen or one runs. -/
def startReadout (path : Nat) (s : State) : State :=
  if !s.frozen || s.get .frzStatRo 0 0 == 1 then s
  else
    let t := (((s.put .frzStatRo 0 0 1).put .frzStatPath 0 0 path).raise 0x1003 8 [path]).put .roNext 0 0 0
    let t := (((t.put .roCrc 0 0 0xFFFFFFFF).put .roSent 0 0 0).put .roOn 0 0 0).put .roLast 0 0 0
    let t := (((t.put .frzRoPosOffset 0 0 0).put .frzRoLenBytes 0 0 0).put .frzRoLenLast 0 0 0).put .frzRoLenReady 0 0 0
    { t with roTail := imageHeader t }

/-- READOUT_START: FRZ_RO_CTL.START. -/
def execReadoutStart (s : State) : Out := .next (if s.mgWrite then startReadout 0 s else s)

/-- The read-out runs on the management function. -/
def onWindow (s : State) : Bool := s.get .frzStatRo 0 0 == 1 && s.get .frzStatPath 0 0 == 0

/-- READOUT_NEXT: the window moves on by 32 KiB, and is not valid until its bytes are there. -/
def execReadoutNext (s : State) : Out :=
  .next (if s.mgWrite && onWindow s && s.on .frzRoLenReady 0 0 && !s.on .frzRoLenLast 0 0 then
    (s.inc .frzRoPosOffset 0 0 32768).put .frzRoLenReady 0 0 0
  else s)

/-- READOUT_WINDOW_READY: the next 32 KiB of the stream stand in the window. -/
def execReadoutWindowReady (s : State) : Out :=
  if !onWindow s || s.on .frzRoLenReady 0 0 then .next s
  else
    let (bs, t) := streamBytes 32768 s
    let t := ((bs.mapIdx fun i v => (i, v)).foldl (fun (t : State) x => t.put .frzRowin x.1 0 x.2.toNat)
      (t.clearFlds [.frzRowin] (fun _ => true)))
    let t := ((t.put .frzRoLenBytes 0 0 bs.length).put .frzRoLenLast 0 0 (bitOf (streamOver t))).put .frzRoLenReady 0 0 1
    .next (if streamOver t then readoutEnds 2 t else t)

/-- READOUT_STOP: FRZ_RO_CTL.STOP. -/
def execReadoutStop (s : State) : Out := .next (if s.mgWrite then readoutEnds 3 s else s)

/-- RDOUT: loading the JTAG instruction starts the read-out on JTAG. -/
def execRdout (s : State) : Out := .next (startReadout 1 s)

/-- RDOUT_CAPTURE_DR: the next 4 stream bytes, and bit 32 while bytes remain. -/
def execRdoutCaptureDr (s : State) : Out :=
  if s.get .frzStatRo 0 0 ≠ 1 ∨ s.get .frzStatPath 0 0 ≠ 1 then .next (s.emit (.jtag 0))
  else
    let (bs, t) := streamBytes 4 s
    let t := t.emit (.jtag (leNat bs + 2 ^ 32 * bitOf (!streamOver t)))
    .next (if streamOver t then readoutEnds 2 t else t)

/-! ## Leaving the frozen set (R571, R572) -/

/-- The last channel has left the frozen set: FROZEN clears, and the SVE restarts with nothing in flight (R572). -/
def thaw (s : State) : State :=
  let t := (List.range 8).foldl (fun t ch => closeAdmit ch 1 t) (s.put .frzStatFrozen 0 0 0)
  readoutEnds 3 (abandonRequests t)

/-- A channel leaves the frozen set. -/
def leaveFrozen (ch : Nat) (s : State) : State :=
  let t := cutSection ch false (s.clrBit .frzStatChfrozen 0 0 ch)
  let t := if t.get .frzStatRo 0 0 = 1 ∧ ch + 1 < t.get .roNext 0 0 then t
    else if t.on .frzCause ch 0 then t else t.put .frzCause ch 0 3
  if t.get .frzStatChfrozen 0 0 = 0 then thaw t else t

end Sys2Proof.Machine
end

