-- ==== Sys2Proof/Machine/Boot.lean ====
section
/-!
DEFINITION. Start-up, images and measurements, the watchdog and recovery, and the resets (R449 to R466, R476 to R480, R618).
-/
namespace Sys2Proof.Machine

/-! ## Images in NOR (R453, R454) -/

/-- Where a slot of an image kind lies in the flash, and its size: 0 stage 1, 1 board configuration, 2 stage 2, 3 HBM, 4 SVE and 5
Tlail microcode. -/
def slotPlace (kind : Nat) (b : Bool) : Nat × Nat :=
  match kind with
  | 0 => (if b then 0x200000 else 0x100000, 0x100000)
  | 1 => (if b then 0x30000 else 0x20000, 0x10000)
  | 2 => (if b then 0x800000 else 0x400000, 0x400000)
  | 3 => (if b then 0xD00000 else 0xC00000, 0x100000)
  | 4 => (if b then 0x1200000 else 0x1000000, 0x200000)
  | _ => (if b then 0xF00000 else 0xE00000, 0x100000)

/-- A little-endian number of a slot's header. -/
def headerNat (kind : Nat) (b : Bool) (off n : Nat) (s : State) : Nat := leNat (s.bytes (norAddr ((slotPlace kind b).1 + off)) n)

/-- VERSION of a slot. -/
def slotVersion (kind : Nat) (b : Bool) (s : State) : Nat := headerNat kind b 8 4 s
/-- LENGTH of a slot's body. -/
def slotLength (kind : Nat) (b : Bool) (s : State) : Nat := headerNat kind b 12 4 s
/-- The body of a slot. -/
def slotBody (kind : Nat) (b : Bool) (s : State) : List (BitVec 8) :=
  s.bytes (norAddr ((slotPlace kind b).1 + 64)) (slotLength kind b s)

/-- Why a slot is not valid, if it is not: 0 magic or kind, 1 CRC, 2 length. -/
def slotFault (kind : Nat) (b : Bool) (s : State) : Option Nat :=
  if headerNat kind b 0 4 s ≠ 0x554C494D ∨ headerNat kind b 4 1 s ≠ kind then some 0
  else if (slotPlace kind b).2 < 64 + slotLength kind b s then some 2
  else if crc32c (slotBody kind b s) ≠ headerNat kind b 16 4 s then some 1
  else none

/-- The slot of an image that its loader takes, and the state with the events of the slots rejected: where both are valid the other
than last time under fallback, slot B where it is preferred, else the higher VERSION, A for equal ones (R454, R461). -/
def chooseSlot (kind : Nat) (s : State) : Option Bool × State :=
  match slotFault kind false s, slotFault kind true s with
  | none, none =>
    (some (if s.on .msrBootFallback 0 0 then !s.bit .msrBootSlotb 0 0 kind
      else s.bit .msrBootselPreferB 0 0 kind || decide (slotVersion kind false s < slotVersion kind true s)), s)
  | none, some c => (some false, s.raise 0x0D02 8 [kind, 1, c])
  | some c, none => (some true, s.raise 0x0D02 8 [kind, 0, c])
  | some a, some b => (none, (s.raise 0x0D02 8 [kind, 0, a]).raise 0x0D02 8 [kind, 1, b])

/-- An image is taken from a slot: SLOTB and MSR_IMGVER show it. -/
def takeImage (kind : Nat) (b : Bool) (s : State) : State :=
  let t := if b then s.setBit .msrBootSlotb 0 0 kind else s.clrBit .msrBootSlotb 0 0 kind
  t.put .msrImgverVersion kind 0 (slotVersion kind b s)

/-! ## Measurements (R457 to R460) -/

/-- Show a digest at an index. -/
def putMeasure (i : Nat) (d : List (BitVec 8)) (s : State) : State :=
  (List.range 6).foldl (fun (t : State) w => t.put .msrVal i w (leNat ((d.drop (8 * w)).take 8))) s

/-- Measure what an index covers: a locked one drops the write, with event 0x0D03. -/
def measure (i writer : Nat) (body : List (BitVec 8)) (s : State) : State :=
  if s.bit .msrLockLocked 0 0 (i - 1) then s.raise 0x0D03 8 [i, writer]
  else (putMeasure i (sha384 body) s).setBit .msrLockLocked 0 0 (i - 1)

/-- Form index 10 from the debug state record. -/
def formDebug (s : State) : State :=
  putMeasure 10 (sha384 (BitVec.ofNat 8 (s.get .msrDbgState 0 0) :: List.replicate 15 0#8)) s

/-- Set a bit of the debug state record; a change reforms index 10 and raises 0x0D0A. -/
def setDebug (bit : Nat) (s : State) : State :=
  let t := s.setBit .msrDbgState 0 0 bit
  if s.bit .msrDbgState 0 0 bit then s else (formDebug t).raise 0x0D0A 8 [t.get .msrDbgState 0 0]

/-! ## Boot stages (R449) -/

/-- STAGE changes, with event 0x0D01 for the stages 1 to 3; the ms since the start are open. -/
def reachStage (k : Nat) (s : State) : State :=
  let ms := Config.freeNat s.ctr % 2 ^ 32
  let t := ((s.put .msrBootStage 0 0 k).sensor 102 k).draw
  let t := if k = 3 then t.put .msrBootReadyMs 0 0 ms else t
  t.raise 0x0D01 8 [k, t.get .msrBootSlotb 0 0, ms]

/-- The ROM enters recovery: cause 0 no valid stage 1, 1 the watchdog (R462). -/
def enterRecovery (cause : Nat) (s : State) : State :=
  (((s.put .msrBootStage 0 0 6).sensor 102 6).raise 0x0D04 8 [cause, 0]).mgCause 1

/-- A unit's microcode: chosen, loaded and measured; where it does not load, its index stays zero with event 0x0D02 (R458, R459). -/
def loadMicrocode (kind index : Nat) (env : BootEnv) (failed : State → State) (s : State) : State :=
  let (slot, t) := chooseSlot kind s
  match slot with
  | none => failed t
  | some b =>
    if env.loadFail.toNat.testBit kind then failed (t.raise 0x0D02 8 [kind, bitOf b, 3])
    else measure index 2 (slotBody kind b t) (takeImage kind b t)

/-- Every channel becomes UNAVAILABLE. -/
def allUnavailable (s : State) : State := (List.range 8).foldl (fun t ch => setOwner ch owUnavailable t) s

/-- The self-test of every core's array: a failure is shown in MX_BIST, and its channel is UNAVAILABLE (R132). -/
def selfTest (env : BootEnv) (s : State) : State :=
  let t := (((List.range 1280).filter s.present).foldl (fun (t : State) c => (t.put .mxBistDone c 0 1).put .mxBistPass c 0 1) s)
  env.bist.foldl (fun (t : State) f =>
    let c := f.1.val
    if !t.present c then t
    else
      let u := ((t.put .mxBistPass c 0 0).put .mxBistRow c 0 f.2.1.toNat).put .mxBistCol c 0 f.2.2.1.toNat
      setOwner (chanOf c) owUnavailable (u.raise 0x0202 (chanOf c) [c, f.2.1.toNat, f.2.2.1.toNat, f.2.2.2.toNat])) t

/-- ID_TOPO: where each link leaves the module (R609, R610). -/
def showTopo (s : State) : State :=
  (List.range 48).foldl (fun (t : State) l =>
    if cageLinks.contains l then
      let i := cageLinks.findIdx (· == l)
      (t.put .idTopoConn l 0 (i / 2 + 1)).put .idTopoPos l 0 (i % 2)
    else (t.put .idTopoPos l 0 (backplaneIx l % 2)).put .idTopoBpair l 0 (backplaneIx l / 2 + 1)) s

/-- The wake tables as they are loaded. -/
def showTables (bs : List (BitVec 8)) (s : State) : State :=
  let t := (List.range 6).foldl (fun (t : State) k =>
    (t.put .pwrWtDirFirst k 0 (byteAt bs (2 * k))).put .pwrWtDirRecords k 0 (byteAt bs (2 * k + 1))) s
  (List.range 256).foldl (fun (t : State) e => t.put .pwrWt e 0 (leNat ((bs.drop (12 + 8 * e)).take 8))) t

/-- The leaf of the stored chain, by the lengths of its three DER certificates (R465, R466). -/
def storedLeaf (s : State) : List (BitVec 8) :=
  let a := norAddr 0x10000
  let len (p : Nat) : Nat := 4 + beNat (s.bytes (p + 2) 2)
  let c0 := a + 52
  let c1 := c0 + len c0
  let c2 := c1 + len c1
  s.bytes c2 (len c2)

/-- Stage 1 compares the stored leaf with the fused digest (R466). -/
def checkChain (s : State) : State :=
  let leaf := storedLeaf s
  if sha384 leaf = Config.leafDigest then s.put .chainEmpty 0 0 0
  else (s.put .chainEmpty 0 0 1).raise 0x0D08 8 [leaf.length]

/-- Stage 2 sets the chip id that the board configuration holds (R450). -/
def boardChip (board : List (BitVec 8)) (s : State) : State :=
  match Config.boardChipId board with
  | some id => (s.put .fabCtlChipId 0 0 id).put .fabCtlValid 0 0 1
  | none => s

/-- Steps 8 to 12, run by stage 2: stacks, channels, SVE and link microcode, tables and READY; links train once STAGE is READY. -/
def stageTwo (board stage2 : List (BitVec 8)) (env : BootEnv) (s : State) : State :=
  let t := boardChip board s
  let t := loadMicrocode 3 6 env allUnavailable t
  let t := selfTest env (t)
  let t := if t.on .idGradeSve 0 0 then loadMicrocode 4 7 env (fun u => u.put .sveBad 0 0 1) t else t
  let t := loadMicrocode 5 8 env (fun u => u.put .tlailBad 0 0 1) t
  let tables := Config.tableBytes board stage2
  let t := formDebug (measure 9 2 tables (showTables tables t))
  let t := (reachStage 3 ((t.put .mbxStatReady 0 0 1).put .msrBootWdcount 0 0 0)).mgCause 1
  (List.range 48).foldl (fun t l => linkStart l t) t

/-- Steps 5 to 12 under a stage 1 that has been measured; `reach` is the stage at which the firmware stops serving, 3 none. Where
stage 2 has no valid slot, stage 1 has nothing to run. -/
def stageOne (cold : Bool) (reach : Nat) (env : BootEnv) (s : State) : State :=
  let t := checkChain (reachStage 1 s)
  if reach < 2 then t
  else
    let t := mountRecorder cold t
    let (bslot, t) := chooseSlot 1 t
    let board := match bslot with
      | some b => slotBody 1 b t
      | none => []
    let t := match bslot with
      | some b => measure 5 1 board (takeImage 1 b t)
      | none => t
    let (slot, t) := chooseSlot 2 t
    match slot with
    | none => t
    | some b =>
      let body := slotBody 2 b t
      let t := reachStage 2 (measure 4 1 body (takeImage 2 b t))
      if reach < 3 then t else stageTwo board body env t

/-- The ROM, from index 1 on (R449 steps 2 to 4, R461 to R463). -/
def romBoot (cold : Bool) (reach : Nat) (env : BootEnv) (s : State) : State :=
  let t := measure 1 0 Config.romBytes s
  if cold && env.fuseErr then (t.put .msrBootStage 0 0 7).sensor 102 7
  else
    let t := showTopo (formDebug (measure 2 0 Config.fuseBytes t))
    let wd := t.get .msrBootWdcount 0 0
    if 6 ≤ wd then enterRecovery 1 t
    else
      let t := if 3 ≤ wd then t.put .msrBootFallback 0 0 1 else t
      let (slot, t) := chooseSlot 0 t
      match slot with
      | none => enterRecovery 0 t
      | some b =>
        if reach = 0 then t else stageOne cold reach env (measure 3 0 (slotBody 0 b t) (takeImage 0 b t))

/-! ## What a reset leaves (R480's table) -/

/-- Fields that every reset keeps: fuses and pins, and what the recorder has in NOR. -/
def keptFlds : List Fld :=
  [.idPartPart, .idPartStep, .idGradeIslands, .idGradeChannels, .idGradeLinks, .idGradeSve, .idIslmapPhysEn, .idSerial, .idSlot, .gaPins,
    .pwrVfloor, .fpnStatLatch, .fpnCagePresent, .lnkStatCable, .lnkStatSignal, .fpnCageHighpwr, .fpnCageOverclass, .fpnCagePwrW, .fpnPwrVin, .fpnPwrIin, .fpnPwrVbank, .modOn, .inLost,
    .inLostAt, .evrSec, .evrSseq, .evrUnit, .evrSecSseq, .evrSecBad, .evrClear, .evrSecEnd, .evrTorn, .evrLostIn, .ctrB, .ctrA,
    .ctrF, .ctrC, .ctrSeq, .ctrSec, .ctrN]

/-- What a warm reset keeps beside them. -/
def warmFlds : List Fld :=
  [.msrBootselPreferB, .msrDbgState, .msrBootWdcount, .msrBootSlotb, .gtc, .gtcFrac, .gtcAway, .opsS, .evrWritten, .evrLost,
    .evrSuppressed, .evrBadsect, .msixEn, .msixFmask, .msixVmask, .msixPba, .msixTab, .msixD3, .fnD3, .hbmGen]

/-- The state with the fields named kept, and the memories at addresses that a test accepts; every other field is at its reset value. -/
def resetTo (keep : List Fld) (mem : Nat → Bool) (s : State) : State :=
  { State.reset with
    reg := s.reg.filter fun e => keep.any fun f => f.id == keyFld e.1
    mem := s.mem.filter fun e => mem e.1
    out := s.out, ctr := s.ctr, pending := s.pending }

/-- Cold: the flash alone keeps its contents; the stacks' are undefined. -/
def coldState (s : State) : State :=
  (List.range 8).foldl (fun t ch => hbmLost ch t) (resetTo keptFlds (fun a => decide (2 ^ 47 ≤ a)) s)

/-- Warm: the flash, and the stacks' ciphertext. Events raised by the reset itself stay on their way to the recorder. -/
def warmState (s : State) : State :=
  { resetTo (keptFlds ++ warmFlds) (fun a => decide (a < 2 ^ 43) || decide (2 ^ 47 ≤ a)) s with
    hbmKey := s.hbmKey, hbmBad := s.hbmBad, evq := s.evq, evrBuf := s.evrBuf, evrStaged := s.evrStaged }

/-! ## Sessions end (R471, R478) -/

/-- A session is forgotten; one that was open raises 0x0D07: its transport, id and OID bytes 0 to 3. -/
def endSession (k : Nat) (s : State) : State :=
  let t := s.clearFlds [.sesState, .sesVia, .sesOid, .sesAsk] (· == k)
  if s.get .sesState k 0 = 3 then t.raise 0x0D07 8 [s.get .sesVia k 0, k, s.get .sesOid k 0 % 2 ^ 32] else t

/-- Every session that a test names ends. -/
def endSessions (p : Nat → Bool) (s : State) : State :=
  (below 8 fun k => s.on .sesState k 0 && p k).foldl (fun t k => endSession k t) s

/-! ## The resets (R476 to R478, R618) -/

/-- A cold reset: RCAUSE 1 input power, 2 MOD_RST_N. -/
def coldReset (cause : Nat) (env : BootEnv) (s : State) : State :=
  romBoot true 3 env (((coldState (recorderOff s)).put .msrBootRcause 0 0 cause).put .modOn 0 0 1)

/-- INPUT_POWER_GOOD: the input of a module without power has stayed within 48 to 57 V; the readings are those of FPN_PWR. -/
def execInputPowerGood (vin iin vbank : BitVec 16) (env : BootEnv) (s : State) : Out :=
  if s.get .modOn 0 0 == 1 || decide (vin.toNat < 48000) || decide (57000 < vin.toNat) then .next s
  else
    let t := ((s.put .fpnPwrVin 0 0 vin.toNat).put .fpnPwrIin 0 0 iin.toNat).put .fpnPwrVbank 0 0 vbank.toNat
    .next (coldReset 1 env (t.put .inLost 0 0 0))

/-- MOD_RST_N: held low for some ms; at 10 ms it removes every rail, and on its release the module starts cold. -/
def execModRstN (ms : BitVec 16) (env : BootEnv) (s : State) : Out :=
  .next (if s.on .modOn 0 0 ∧ 10 ≤ ms.toNat then coldReset 2 env s else s)

/-- A warm reset (R477), with its RCAUSE: 3 by register, 4 the watchdog, 5 the MGC firmware. -/
def warmResetBy (cause reach : Nat) (env : BootEnv) (s : State) : State :=
  let t := flushNow (takeAll s)
  let t := (List.range 8).foldl (fun (t : State) ch =>
    if t.owner ch = owUnassigned ∨ t.owner ch = owUnavailable then t
    else (killWave ch (Config.freeNat t.ctr % 4) 2 t).draw) t
  let t := mbxFinish 7 0 (readoutEnds 3 (endSessions (fun _ => true) t))
  let t := (warmState (t.raise 0x0D05 8 [1, cause])).put .msrBootRcause 0 0 cause
  romBoot false reach env t

/-- The die runs: the module has power, and the ROM did not stop at a fuse error. -/
def dieRuns (s : State) : Bool := s.on .modOn 0 0 && s.get .msrBootStage 0 0 != 7

/-- WARM_RESET: MSR_RST written by function 0 (0) or the MGC (1) with KEY 0x57 and WARM, or the MGC firmware's own request (2). -/
def execWarmReset (who : Fin 3) (key : BitVec 8) (warm : Bool) (env : BootEnv) (s : State) : Out :=
  if !dieRuns s || (who == 0 && !s.mgWrite) || (who != 2 && (key != 0x57#8 || !warm)) then .next s
  else .next (warmResetBy (if who = 2 then 5 else 3) 3 env s)

/-- WATCHDOG_EXPIRY: `reach` is the stage at which the firmware stops serving again after the reset, 3 none (R461). -/
def execWatchdogExpiry (reach : Fin 4) (env : BootEnv) (s : State) : Out :=
  if !dieRuns s then .next s
  else
    let n := min 15 (s.get .msrBootWdcount 0 0 + 1)
    .next (warmResetBy 4 reach.val env ((s.put .msrBootWdcount 0 0 n).raise 0x0D06 8 [s.get .msrBootStage 0 0, n]))

/-- RECOVERY_GO: the ROM measures the loader in the window into index 3, sets bit 1 of the debug state, and runs it as stage 1 (R462). -/
def execRecoveryGo (env : BootEnv) (s : State) : Out :=
  if !s.mgWrite || s.get .msrBootStage 0 0 != 6 then .next s
  else
    let n := s.get .msrFwLenBytes 0 0
    let loader := (List.range (min 32768 n)).map fun i => BitVec.ofNat 8 (s.get .msrFwwin i 0)
    let t := (setDebug 1 (measure 3 0 loader s)).raise 0x0D04 8 [2, n]
    .next (stageOne (s.get .msrBootRcause 0 0 < 3) 3 env t)

/-- The PCIe state of a function returns to reset. -/
def pcieReset (fn : Nat) (s : State) : State :=
  s.clearFlds [.msixEn, .msixFmask, .msixVmask, .msixPba, .msixTab, .msixD3, .fnD3] (· == fn)

/-- Sessions over DOE end; no DOE exchange lasts longer than its command. -/
def doeReset (s : State) : State := endSessions (fun k => !s.on .sesVia k 0) s

/-- PERST: the PCIe state of all nine functions. -/
def execPerst (s : State) : Out := .next (doeReset ((List.range 9).foldl (fun t fn => pcieReset fn t) s))

/-! ## Channel resets (R480, R571) -/

/-- The work that a kill of a frozen channel left to its reset: the forced passes that were due, and the units (R191, R442). -/
def lateKill (ch : Nat) (s : State) : State :=
  let due := (s.coresOf ch).filter fun c => s.on .killPass c 0
  let t := due.foldl (fun (t : State) c =>
    (forcedSweep c ((t.put .killPass c 0 0).raise 0x0408 ch [ch, Config.freeNat t.ctr % 513])).draw) s
  if t.on .killDue ch 0 then killUnits ch (t.put .killDue ch 0 0) else t

/-- A channel reset: refused for a channel that is KILLING and not frozen (R445); a frozen one leaves the frozen set. -/
def resetChannel (ch : Nat) (s : State) : State :=
  if chanFrozen ch s then leaveFrozen ch (channelReset ch (lateKill ch (s.clrBit .frzStatChfrozen 0 0 ch)))
  else if s.owner ch = owKilling then s
  else channelReset ch s

/-- CH_RST.RESET. -/
def execChRst (ch : Chan) (s : State) : Out :=
  let c := ch.val
  .next (if s.on .fnD3 (1 + c) 0 || decide (2 ≤ s.get .pwrStatChip 0 0) then s else resetChannel c s)

/-- FLR: function 0's PCIe state and DOE, or a channel function's PCIe state and a channel reset. -/
def execFlr (fn : Fin 9) (s : State) : Out :=
  let t := pcieReset fn.val s
  .next (if fn.val = 0 then doeReset t else resetChannel (fn.val - 1) t)

/-! ## Programming images (R456) -/

/-- The loader took this slot of an image at this boot. -/
def slotInUse (kind : Nat) (b : Bool) (s : State) : Bool :=
  s.bit .msrBootSlotb 0 0 kind == b && (List.range 6).any fun i => s.bit .msrLockLocked 0 0 i && [2, 4, 3, 5, 6, 7].getD kind 0 == i

/-- FW_PROGRAM: MSR_FW_CMD with GO. A command while one runs is dropped. -/
def execFwProgram (image : BitVec 3) (slot : Bool) (offset : BitVec 12) (s : State) : Out :=
  let k := image.toNat
  let len := s.get .msrFwLenBytes 0 0
  if !s.mgWrite then .next s
  else
    let t := ((s.put .msrFwCmdImage 0 0 k).put .msrFwCmdSlot 0 0 (bitOf slot)).put .msrFwCmdOffset 0 0 offset.toNat
    if t.on .msrFwStatBusy 0 0 then .next t
    else if 6 ≤ k ∨ len = 0 ∨ 32768 < len ∨ (slotPlace k slot).2 < offset.toNat * 4096 + len ∨ slotInUse k slot t then
      .next (t.put .msrFwStatResult 0 0 4)
    else
      let u := ((t.put .fwJobImage 0 0 k).put .fwJobSlot 0 0 (bitOf slot)).put .fwJobOffset 0 0 offset.toNat
      .next ((u.put .fwJobLen 0 0 len).put .msrFwStatBusy 0 0 1)

/-- FW_PROGRAM_DONE: the range is erased, programmed from the window and read back; `result` is 0 done, 1 erase, 2 program or 3
verify failed, which leaves bytes that are open. -/
def execFwProgramDone (result : Fin 4) (s : State) : Out :=
  if !s.on .msrFwStatBusy 0 0 then .next s
  else
    let k := s.get .fwJobImage 0 0
    let b := s.on .fwJobSlot 0 0
    let len := s.get .fwJobLen 0 0
    let off := s.get .fwJobOffset 0 0 * 4096
    let a := norAddr ((slotPlace k b).1 + off)
    let span := (len + 4095) / 4096 * 4096
    let window := (List.range len).map fun i => BitVec.ofNat 8 (s.get .msrFwwin i 0)
    let body := if result.val = 0 then window ++ List.replicate (span - len) 0xFF#8 else openBytes s.ctr 0x400 k span
    let t := (((s.setBytes a body).draw).put .msrFwStatBusy 0 0 0).put .msrFwStatResult 0 0 result.val
    let whole : Bool := result.val == 0 && (slotFault k b t).isNone && decide (64 + slotLength k b t ≤ off + len)
    .next ((if whole then t.raise 0x0D09 8 [k, bitOf b, slotVersion k b t] else t).mgCause 10)

/-! ## The debug state (R460, R619) -/

/-- JTAG instructions that leave the debug state record alone. -/
def quietJtag : List Nat := [0x00, 0x01, 0x02, 0x30, 0xFF]

/-- JTAG_DEBUG_INSTRUCTION: any other instruction sets bit 0, and the kill wave runs on every channel that is OWNED or BINDING. -/
def execJtagDebugInstruction (op : BitVec 8) (s : State) : Out :=
  if quietJtag.contains op.toNat || s.bit .msrDbgState 0 0 0 then .next s
  else
    .next ((List.range 8).foldl (fun (t : State) ch =>
      if t.owner ch = owOwned ∨ t.owner ch = owBinding then (killWave ch (Config.freeNat t.ctr % 4) 0 t).draw else t) (setDebug 0 s))

end Sys2Proof.Machine
end

