-- ==== Sys2Proof/Machine/Control.lean ====
section
/-!
DEFINITION. The control instructions but for the waits (R79 to R84, R89 to R94), and CFG (R95, R96).
-/
namespace Sys2Proof.Machine

/-- NOP (R93). -/
def execNop (core : CoreId) (extra : BitVec 16) (s : State) : Out :=
  issue core.val (.nop core extra) s fun t => retire core.val (1 + extra.toNat) t

/-- Whether an instruction address lies in a block of the REPLAY that is active, round the end of instruction memory. -/
def inBlock (c pc : Nat) (s : State) : Bool :=
  decide ((pc + 8192 - s.get .coreRepStart c 0) % 8192 < s.get .coreRepLen c 0)

/-- Whether an address lies in the body of the active loop at a depth. -/
def inLoop (c d pc : Nat) (s : State) : Bool :=
  decide (s.get .coreLoopStart c d ≤ pc) && decide (pc ≤ s.get .coreLoopLast c d)

/-- The active loops whose body holds the program counter: those that enclose the instruction there. -/
def encloses (c : Nat) (s : State) : List Nat := below (s.get .coreStatLdepth c 0) fun d => inLoop c d (s.get .corePc c 0) s

/-- The instruction at the program counter stands at the END of a loop that encloses it, where no JMP, LOOP or REPLAY may
(R80). -/
def atLoopEnd (c : Nat) (s : State) : Bool := (encloses c s).any fun d => s.get .coreLoopLast c d == s.get .corePc c 0

/-- The condition of a JMP on a signed value (R94). -/
def jmpCond (cond : Nat) (v : Word) : Bool :=
  match cond with
  | 0 => true
  | 1 => v == 0#64
  | 2 => v != 0#64
  | 3 => v.slt 0#64
  | 4 => !v.slt 0#64
  | 5 => (0#64).slt v
  | _ => !(0#64).slt v

/-- JMP (R94, R80, R83). -/
def execJmp (core : CoreId) (cond : BitVec 4) (gs : BitVec 5) (target : BitVec 13) (s : State) : Out :=
  let c := core.val
  issue c (.jmp core cond gs target) s fun t =>
    let t := t.stallG c [gs.toNat]
    if 7 ≤ cond.toNat || atLoopEnd c t then havoc (chanOf c) t
    else if !jmpCond cond.toNat (t.g c gs.toNat) then retire c 1 t
    else if (encloses c t).any (fun d => !inLoop c d target.toNat t) ||
        (t.on .coreStatInreplay c 0 && !inBlock c target.toNat t) then havoc (chanOf c) t
    else retireTo c 2 target.toNat t

/-- A count: an immediate, or the low 32 bits of a G register. -/
def countOf (c : Nat) (src : Bool) (gs : BitVec 5) (imm : Nat) (s : State) : Nat :=
  if src then (s.g c gs.toNat).toNat % 2 ^ 32 else imm

/-- LOOP (R79, R80, R83). -/
def execLoop (core : CoreId) (src : Bool) (gs : BitVec 5) (count : BitVec 16) (last : BitVec 13) (s : State) : Out :=
  let c := core.val
  issue c (.loop core src gs count last) s fun t =>
    let t := t.stallG c (if src then [gs.toNat] else [])
    let pc := t.get .corePc c 0
    let d := t.get .coreStatLdepth c 0
    let n := countOf c src gs count.toNat t
    let off (a : Nat) : Nat := (a + 8192 - t.get .coreRepStart c 0) % 8192
    let outside := t.on .coreStatInreplay c 0 &&
      (t.get .coreRepLen c 0 ≤ off last.toNat || decide (off last.toNat ≤ off pc))
    if last.toNat < pc + 1 || 4 ≤ d || atLoopEnd c t || outside ||
        (encloses c t).any (fun k => decide (t.get .coreLoopLast c k ≤ last.toNat)) then havoc (chanOf c) t
    else if n = 0 then clockBoundary c (afterLoop c last.toNat (t.pass c 2))
    else
      let t := (((t.put .coreLoopStart c d (pc + 1)).put .coreLoopLast c d last.toNat).put .coreLoopCount c d n).put .coreLoopIdx c d 0
      retireTo c 1 (pc + 1) (t.put .coreStatLdepth c 0 (d + 1))

/-- REPLAY (R81, R83). -/
def execReplay (core : CoreId) (src : Bool) (gs : BitVec 5) (start len : BitVec 13) (count : BitVec 20) (s : State) : Out :=
  let c := core.val
  issue c (.replay core src gs start len count) s fun t =>
    let t := t.stallG c (if src then [gs.toNat] else [])
    let n := countOf c src gs count.toNat t
    if t.on .coreStatInreplay c 0 || atLoopEnd c t then havoc (chanOf c) t
    else if n = 0 ∨ len = 0#13 then retire c 1 t
    else
      let t := (((((t.put .coreRepStart c 0 start.toNat).put .coreRepLen c 0 len.toNat).put .coreRepCount c 0 n).put .coreRepIdx c 0
        0).put .coreRepRet c 0 (t.get .corePc c 0 + 1)).put .coreStatInreplay c 0 1
      retireTo c 2 start.toNat t

/-- PATCH.SET (R84). -/
def execPatchSet (core : CoreId) (pd : BitVec 6) (src : SrcB) (s : State) : Out :=
  let c := core.val
  issue c (.patchSet core pd src) s fun t =>
    let t := t.stallG c (srcBRegs src)
    retire c 1 (t.setP c pd.toNat (srcB c src t))

/-- PATCH.ADD (R84). -/
def execPatchAdd (core : CoreId) (pd : BitVec 6) (src : SrcB) (s : State) : Out :=
  let c := core.val
  issue c (.patchAdd core pd src) s fun t =>
    let t := t.stallG c (srcBRegs src)
    retire c 1 (t.setP c pd.toNat (t.p c pd.toNat + srcB c src t))

/-- PATCH.ARM (R84). -/
def execPatchArm (core : CoreId) (pd ps : BitVec 6) (slot : BitVec 3) (s : State) : Out :=
  let c := core.val
  issue c (.patchArm core pd ps slot) s fun t =>
    retire c 1 (((t.put .corePatchArm c slot.toNat 1).put .corePatchPd c slot.toNat pd.toNat).put .corePatchPs c slot.toNat ps.toNat)

/-- PATCH.CLR (R84). -/
def execPatchClr (core : CoreId) (s : State) : Out :=
  let c := core.val
  issue c (.patchClr core) s fun t => retire c 1 ((List.range 8).foldl (fun t k => t.put .corePatchArm c k 0) t)

/-- HALT (R89). -/
def execHalt (core : CoreId) (code : BitVec 16) (s : State) : Out :=
  let c := core.val
  issue c (.halt core code) s fun t =>
    let t := endSeg c false (coreHalt c code.toNat 1 (t.pass c 1))
    t.raise 0x0102 (chanOf c) [c, t.get .corePc c 0, code.toNat]

/-- A reserved major opcode reaches issue and halts the core (R90); the reserved minor opcodes and reserved operations of the
defined families are not checked (R93). -/
def execReservedOpcode (core : CoreId) (major minor : BitVec 6) (s : State) : Out :=
  let c := core.val
  issue c (.reservedOpcode core major minor) s fun t =>
    if 0x0B ≤ major.toNat then
      let t := endSeg c false (coreHalt c 0 2 (t.pass c 1))
      t.raise 0x0101 (chanOf c) [c, t.get .corePc c 0, major.toNat]
    else havoc (chanOf c) t

/-! ## CFG -/

/-- The layer fields of a unit, and the width of field i, 0 where the unit does not define it. -/
def unitFields (u : Nat) : Option (Fld × (Nat → Nat)) :=
  match u with
  | 1 => some (.mxF, mxWidth)
  | 2 => some (.vxF, vxWidth)
  | 3 => some (.fxF, fxWidth)
  | 4 => some (.syF, syWidth)
  | 5 => some (.coreSqf, sqWidth)
  | _ => none

/-- A value is one the unit's table calls illegal (R98, R110, R153, R208). A ring's direction is checked at its GO. -/
def cfgIllegal (c u i v : Nat) (s : State) : Bool :=
  match u, i with
  | 1, 0x00 => decide (8 ≤ v)
  | 1, 0x02 => decide (32 < v)
  | 1, 0x03 => decide (32 < v)
  | 1, 0x0A => decide (3 ≤ v)
  | 2, 0x01 => decide (5 ≤ v)
  | 2, 0x02 => decide (1024 < v)
  | 3, 0x01 => decide (4 ≤ v)
  | 3, 0x03 => decide (3 ≤ v)
  | 3, 0x06 => !s.on .foxRingCfgEn (chanOf c) v
  | 5, 0x00 => decide (2 ≤ v)
  | _, _ => false

/-- The value a CFG writes (R95). -/
def cfgValue (c : Nat) (src : CfgSrc) (s : State) : Option Word :=
  match src with
  | .imm v => some (v.setWidth 64)
  | .preg p off => some (s.p c p.toNat + off.signExtend 64)
  | .greg g off => some (s.g c g.toNat + off.signExtend 64)
  | .reserved => none

/-- The G registers a CFG reads. -/
def cfgReads : CfgSrc → List Nat
  | .greg g _ => [g.toNat]
  | _ => []

/-- A write of CLKSEL (R99, R488): to the FIC at the next instruction boundary; from it once the aligner is locked. -/
def setClk (c v : Nat) (s : State) : State :=
  if v = 1 then detCause (chanOf c) cFic ((s.put .coreClkPend c 0 0).put .coreStatOnfic c 0 1)
  else if s.on .coreStatOnfic c 0 then s.put .coreClkPend c 0 1
  else s

/-- CFG (R95, R96, R73). -/
def execCfg (core : CoreId) (unit : BitVec 4) (fld : BitVec 8) (src : CfgSrc) (s : State) : Out :=
  let c := core.val
  let u := unit.toNat
  let i := fld.toNat
  issue c (.cfg core unit fld src) s fun t =>
    let t := t.stallG c (cfgReads src)
    match unitFields u, cfgValue c src t with
    | some (f, w), some v =>
      let x := v.toNat % 2 ^ w i
      if w i = 0 || cfgIllegal c u i x t || (u != 5 && unitBusy c u t) then havoc (chanOf c) t
      else
        let t := t.put f c i x
        retire c 1 (if u = 5 ∧ i = 1 then setClk c x t else t)
    | _, _ => havoc (chanOf c) t

end Sys2Proof.Machine
end

