-- ==== Sys2Proof/Machine/Panel.lean ====
section
/-!
DEFINITION. The front panel, the cages, and the module's input power with its hold-up (R594 to R616, R627).
-/
namespace Sys2Proof.Machine

/-- The MGC firmware runs: stage 1, stage 2 or READY (R595). -/
def firmwareRuns (s : State) : Bool :=
  let k := s.get .msrBootStage 0 0
  s.on .modOn 0 0 && (k == 1 || k == 2 || k == 3)

/-! ## Removal (R596 to R599, R602) -/

/-- The removal state changes; sensor 100 tells of it (R597, R621). -/
def setRmv (v : Nat) (s : State) : State := if s.get .fpnStatRmv 0 0 = v then s else (s.put .fpnStatRmv 0 0 v).sensor 100 v

/-- A removal event, 0x0F03 a request or 0x0F04 a cancel, with its source: cause PANEL is set (R581, R627). -/
def panelEvent (code src : Nat) (s : State) : State := (s.raise code 8 [src]).mgCause 7

/-- A request on the module: from NONE or DENIED it is taken, and the display turns to the Removal page (R596, R604). -/
def requestModule (src : Nat) (s : State) : State :=
  let v := s.get .fpnStatRmv 0 0
  if v ≠ 0 ∧ v ≠ 4 then s
  else
    let t := (setRmv (if s.on .fpnCtlRmvAuto 0 0 then 2 else 1) s).put .rmvStep 0 0 0
    let t := ((t.put .fpnStatDisp 0 0 1).put .fpnStatPage 0 0 5).put .fpnStatView 0 0 0
    (panelEvent 0x0F03 src t).alert 3

/-- A cancel on the module returns its removal state to NONE, and undoes nothing else (R597). -/
def cancelModule (src : Nat) (s : State) : State := if s.on .fpnStatRmv 0 0 then panelEvent 0x0F04 src (setRmv 0 s) else s

/-- FPN_RMV.REQ. -/
def execFpnRmvReq (s : State) : Out := .next (if s.mgWrite then requestModule 0 s else s)

/-- FPN_RMV.SAFE: dropped but in REQUESTED. -/
def execFpnRmvSafe (s : State) : Out := .next (if s.mgWrite && s.get .fpnStatRmv 0 0 == 1 then setRmv 3 s else s)

/-- FPN_RMV.DENY: dropped but in REQUESTED. -/
def execFpnRmvDeny (s : State) : Out :=
  .next (if s.mgWrite && s.get .fpnStatRmv 0 0 == 1 then panelEvent 0x0F04 0 (setRmv 4 s) else s)

/-- FPN_RMV.CANCEL. -/
def execFpnRmvCancel (s : State) : Out := .next (if s.mgWrite then cancelModule 0 s else s)

/-- DENIED_TIMEOUT: 10 s after DENIED. -/
def execDeniedTimeout (s : State) : Out := .next (if s.get .fpnStatRmv 0 0 = 4 then setRmv 0 s else s)

/-- The cage whose view the display shows, if any: the object of ATTN is that cage, else the module (R596). -/
def shownCage (s : State) : Option Nat :=
  if s.on .fpnStatDisp 0 0 && s.get .fpnStatPage 0 0 == 2 && s.on .fpnStatView 0 0 then some (s.get .fpnStatView 0 0 - 1) else none

/-- The links of an OSFP cage (R610). -/
def linksOf (cage : Nat) : List Nat := (cageLinks.drop (2 * cage)).take 2

/-- A link that is ADMITTED or TRAINED-ISOLATED, and is not retiring, begins its retirement. -/
def retireLink (l : Nat) (s : State) : State := if linkRuns l s && !s.on .lnkRetiring l 0 then beginRetire l s else s

/-- A request on a cage (R602). -/
def requestCage (cage : Nat) (s : State) : State :=
  let t := (panelEvent 0x0F03 (2 + cage) (s.put .fpnCageRreq cage 0 1)).alert 3
  if t.on .fpnCtlAutoret 0 0 then (linksOf cage).foldl (fun t l => retireLink l t) t else t

/-- ATTN_PRESS: pressed and released within 1 s (R595, R596). -/
def execAttnPress (s : State) : Out :=
  .next (if !firmwareRuns s then s
    else match shownCage s with
      | some k => requestCage k s
      | none => requestModule 1 s)

/-- ATTN_HOLD: held for 5 s (R595, R597, R602). -/
def execAttnHold (s : State) : Out :=
  .next (if !firmwareRuns s then s
    else match shownCage s with
      | some k => if s.on .fpnCageRreq k 0 then panelEvent 0x0F04 (2 + k) (s.put .fpnCageRreq k 0 0) else s
      | none => cancelModule 1 s)

/-- A firmware command may run: no mailbox command does (R586). -/
def mailboxIdle (s : State) : Bool := !s.on .mbxStatBusy 0 0

/-- One step of the drain rule, none where it has to wait: for the requests in flight or the time limit, for a link's retirement, for
a channel's entry to DARK, or for the mailbox (R598). -/
def drainStep (timedOut : Bool) (s : State) : Option State :=
  let k := s.get .rmvStep 0 0
  let on (t : State) : State := t.put .rmvStep 0 0 (k + 1)
  if s.get .fpnStatRmv 0 0 ≠ 2 then none
  else if k = 0 then some (on ((List.range 8).foldl (fun (t : State) ch => t.put .sveChAdmit ch 0 0) s))
  else if k = 1 then (if timedOut || !s.on .sveInflight 0 0 then some (on s) else none)
  else if k < 50 then
    let l := k - 2
    if s.on .lnkRetiring l 0 then none
    else if !linkRuns l s then some (on s)
    else if mailboxIdle s then some (retireLink l s)
    else none
  else if k < 58 then
    let ch := k - 50
    let st := s.get .chPwrStatState ch 0
    if s.owner ch = owUnassigned ∨ s.owner ch = owUnavailable ∨ st = 3 then some (on s)
    else if st = 1 ∨ st = 4 ∨ !mailboxIdle s ∨ s.frozen then none
    else some (enterDoze ch true (channelReset ch s))
  else some (setRmv 3 s)

/-- The drain rule goes on as far as it can. -/
def drainOn (timedOut : Bool) : Nat → State → State
  | 0, s => s
  | n + 1, s =>
    match drainStep timedOut s with
    | some t => drainOn timedOut n t
    | none => s

/-- REMOVAL_DRAIN: in DRAINING the firmware takes the rule's next steps, up to one that waits; `timedOut` tells that
FPN_CTL.RMV_TMO_MS has passed (R598). -/
def execRemovalDrain (timedOut : Bool) (s : State) : Out := .next (if firmwareRuns s then drainOn timedOut 120 s else s)

/-! ## The display (R604) -/

/-- PAGE_TOUCH: the next page or view, or the display on at Identity. -/
def execPageTouch (s : State) : Out :=
  let p := s.get .fpnStatPage 0 0
  let v := s.get .fpnStatView 0 0
  .next (if !firmwareRuns s then s
    else if !s.on .fpnStatDisp 0 0 then ((s.put .fpnStatDisp 0 0 1).put .fpnStatPage 0 0 0).put .fpnStatView 0 0 0
    else if p = 2 ∧ v < 6 then s.put .fpnStatView 0 0 (v + 1)
    else (s.put .fpnStatPage 0 0 (if p = 5 then 0 else p + 1)).put .fpnStatView 0 0 0)

/-- PAGE_HOLD: the display off. -/
def execPageHold (s : State) : Out := .next (if firmwareRuns s then s.put .fpnStatDisp 0 0 0 else s)

/-- DISPLAY_TIMEOUT: 10 × DTIMEOUT s after the last touch, unless the removal state keeps the display on. -/
def execDisplayTimeout (s : State) : Out :=
  let v := s.get .fpnStatRmv 0 0
  .next (if firmwareRuns s && s.on .fpnCtlDtimeout 0 0 && (v == 0 || v == 4) then s.put .fpnStatDisp 0 0 0 else s)

/-! ## Latch and cages (R600, R601, R612) -/

/-- LATCH_CHANGE: the ejector latch opens or closes. -/
def execLatchChange (closed : Bool) (s : State) : Out :=
  let v := bitOf closed
  if s.get .fpnStatLatch 0 0 = v then .next s
  else
    let t := s.put .fpnStatLatch 0 0 v
    .next (if firmwareRuns s then (t.raise 0x0F05 8 [v]).mgCause 7 else t)

/-- The W that a cage supports. -/
def cageWatts (cage : Nat) : Nat := if cage < 6 then 15 else 12

/-- The firmware reads a module's power class: one that fits the cage goes to high-power mode, and one that does not stays in low-power
mode with OVERCLASS and event 0x0F07 (R612). -/
def readClass (cage watts : Nat) (s : State) : State :=
  let fits := decide (watts ≤ cageWatts cage)
  let t := ((s.put .fpnCagePwrW cage 0 watts).put .fpnCageHighpwr cage 0 (bitOf fits)).put .fpnCageOverclass cage 0 (bitOf !fits)
  if fits then t else t.raise 0x0F07 8 [cage, 0]

/-- What a cage shows once its module is gone. -/
def emptyCage (cage : Nat) (s : State) : State :=
  (((s.put .fpnCagePresent cage 0 0).put .fpnCageHighpwr cage 0 0).put .fpnCageOverclass cage 0 0).put .fpnCagePwrW cage 0 0

/-- OSFP_CAGE_CHANGE: a module or cable goes into a cage, with its power class, or out of it. -/
def execOsfpCageChange (cage : Fin 6) (present : Bool) (pwr : BitVec 8) (s : State) : Out :=
  let k := cage.val
  if s.get .fpnCagePresent k 0 = bitOf present then .next s
  else if !firmwareRuns s then .next (s.put .fpnCagePresent k 0 (bitOf present))
  else
    let t := if present then readClass k pwr.toNat (s.put .fpnCagePresent k 0 1) else emptyCage k s
    .next ((linksOf k).foldl (fun (t : State) l =>
      if present then linkStart l ((t.put .lnkStatCable l 0 1).raise 0x0B04 8 [l, 1])
      else linkLost l 3 (t.raise 0x0B04 8 [l, 0])) t)

/-- QSFP_CAGE_CHANGE: a module or cable goes into an Ethernet port's cage, with its power class, or out of it. -/
def execQsfpCageChange (port : BitVec 1) (present : Bool) (pwr : BitVec 8) (s : State) : Out :=
  let p := port.toNat
  let k := 6 + p
  if s.get .fpnCagePresent k 0 = bitOf present then .next s
  else
    let t := if present then s.put .fpnCagePresent k 0 1 else (emptyCage k s).put .pcsLock p 0 0
    if !firmwareRuns s then .next t
    else
      let t := t.raise 0x0F06 8 [p, bitOf present]
      .next (if present then readClass k pwr.toNat t else t)

/-- PCS_LOCK_CHANGE: a port's PCS gains or loses lock; it gains it on a module in high-power mode alone (R601, R612). -/
def execPcsLockChange (port : BitVec 1) (lock : Bool) (s : State) : Out :=
  let p := port.toNat
  .next (if lock then (if s.on .fpnCageHighpwr (6 + p) 0 then s.put .pcsLock p 0 1 else s) else s.put .pcsLock p 0 0)

/-- CAGE_ALARM: alarm or warning flags of a cage's module, or a power class read from it (R612). -/
def execCageAlarm (cage : Fin 8) (flags : BitVec 8) (pwr : Option (BitVec 8)) (s : State) : Out :=
  let k := cage.val
  if !firmwareRuns s || !s.on .fpnCagePresent k 0 then .next s
  else
    let t := match pwr with
      | some w => readClass k w.toNat s
      | none => s
    .next (if flags = 0#8 then t else ((t.put .fpnCageAlarm k 0 1).raise 0x0F07 8 [k, flags.toNat]).alert 5)

/-! ## Input power (R613 to R616) -/

/-- INPUT_LOSS: PRSNT2_N high for 100 µs, or the input below 44 V for 10 µs. Event 0x0F01 and a flush; the flush accepts no other
event, and a read-out stops (R536, R614). -/
def execInputLoss (presence : Bool) (mv : BitVec 16) (s : State) : Out :=
  if s.get .modOn 0 0 == 0 || s.on .inLost 0 0 || (!presence && decide (44000 ≤ mv.toNat)) then .next s
  else
    let t := (((s.put .fpnPwrVin 0 0 mv.toNat).put .inLost 0 0 1).put .inLostAt 0 0 (s.get .gtc 0 0)).inc .fpnPwrLosses 0 0 1
    let t := takeAll ((t.raise 0x0F01 8 [mv.toNat]).alert 2)
    .next (readoutEnds 3 (t.flush.put .evrFlushIn 0 0 1))

/-- Compute power is removed as by a trip, without its event; records that no flush has written yet are lost (R613, R615). -/
def bankLow (s : State) : State :=
  let t := if s.on .evrStatFlushing 0 0 then (recorderOff s).put .evrStatFlushing 0 0 0 else s
  let t := (List.range 8).foldl tripChan (t.put .compOff 0 0 1)
  (List.range 48).foldl (fun (t : State) l => (linkStop l (Config.freeNat t.ctr % 16) t).draw) (t.put .fpnPwrVbank 0 0 38000)

/-- BANK_LOW: the hold-up bank falls to 38 V. -/
def execBankLow (s : State) : Out := .next (if s.on .inLost 0 0 && !s.on .compOff 0 0 && s.on .modOn 0 0 then bankLow s else s)

/-- BANK_EXHAUSTED: the bank falls to 33 V, and the module has no power. -/
def execBankExhausted (s : State) : Out :=
  if !s.on .inLost 0 0 || !s.on .modOn 0 0 then .next s
  else
    let t := if s.on .compOff 0 0 then s else bankLow s
    .next (((recorderOff t).put .fpnPwrVbank 0 0 33000).put .modOn 0 0 0)

/-- INPUT_RESTORE: the input returns to 48 V or above with PRSNT2_N low. With the bank above 38 V service runs on; else the module
waits for the bank to discharge, and starts cold (R616). -/
def execInputRestore (mv : BitVec 16) (env : BootEnv) (s : State) : Out :=
  if !s.on .inLost 0 0 || decide (mv.toNat < 48000) then .next s
  else
    let t := (s.put .inLost 0 0 0).put .fpnPwrVin 0 0 mv.toNat
    if t.on .compOff 0 0 || !t.on .modOn 0 0 then .next (coldReset 1 env t)
    else if t.on .evrStatFlushing 0 0 then .next t
    else .next ((t.put .evrFlushIn 0 0 0).raise 0x0F02 8 [(t.get .gtc 0 0 - t.get .inLostAt 0 0) / 1000])

end Sys2Proof.Machine
end

