-- ==== Sys2Proof/Machine/Mgmt.lean ====
section
/-!
DEFINITION. SPDM and its transports, MCTP control, PLDM, and the alert response (R464 to R475, R620, R621).
-/
namespace Sys2Proof.Machine

/-! ## SPDM (R467 to R472) -/

/-- Answer an SPDM request on the transport that brought it: over a link, in ATTEST segments with the request's XID, whose bytes the
spec leaves to SPDM (R475). -/
def spdmReply (via : SpdmVia) (r : SpdmReply) (s : State) : State :=
  let t := s.emit (.spdm via r)
  match via with
  | .tlail l =>
    let k := l.val
    let t : State := { t with attest := tdel t.attest (k * 2) }
    let t := t.put .lnkAttGot k 0 0
    (sendAttest k 1 (t.get .lnkAttXid k 0) 16 0 ((Config.freeBytes t.ctr).take 4064) t).draw
  | _ => t

/-- An SPDM request comes: the firmware answers it, and over a link only one that ATTEST flits have brought whole. -/
def spdmRequest (via : SpdmVia) (s : State) (k : State → State) : Out :=
  match via with
  | .tlail l => .next (if firmwareRuns s && s.on .lnkAttGot l.val 0 then k s else s)
  | _ => .next (if firmwareRuns s then k s else s)

/-- A request of the session rows, which Tlail does not carry (R467). -/
def sessionRequest (via : SpdmVia) (s : State) (k : State → State) : Out :=
  spdmRequest via s fun t =>
    match via with
    | .tlail _ => spdmReply via (.error .unsupportedRequest) t
    | _ => k t

/-- A signature by the identity key, which the spec does not let anyone compute. -/
def signature (s : State) : List (BitVec 8) := (Config.freeBytes s.ctr ++ List.replicate 96 0#8).take 96

/-- GET_VERSION: 1.2 alone. -/
def execGetVersion (via : SpdmVia) (s : State) : Out := spdmRequest via s (spdmReply via (.version 0x12))

/-- The capabilities reported (R468). -/
def spdmCaps : List String :=
  ["CERT_CAP", "CHAL_CAP", "MEAS_CAP", "ENCRYPT_CAP", "MAC_CAP", "MUT_AUTH_CAP", "KEY_EX_CAP", "ENCAP_CAP", "HBEAT_CAP", "KEY_UPD_CAP"]

/-- GET_CAPABILITIES. -/
def execGetCapabilities (via : SpdmVia) (s : State) : Out := spdmRequest via s (spdmReply via (.capabilities spdmCaps 16 8192 8192))

/-- NEGOTIATE_ALGORITHMS: the device's one set, or the error for no common algorithm (R469). -/
def execNegotiateAlgorithms (via : SpdmVia) (offer : AlgOffer) (s : State) : Out :=
  let all : Bool := offer.measSpec && offer.measHash && offer.asym && offer.hash && offer.dhe && offer.aead && offer.reqAsym &&
    offer.keySchedule
  spdmRequest via s (spdmReply via (if all then .algorithms else .error .noCommonAlgorithm))

/-- The slot 0 chain structure as stored (R466): its first two bytes are its length. -/
def storedChain (s : State) : List (BitVec 8) := s.bytes (norAddr 0x10000) (leNat (s.bytes (norAddr 0x10000) 2))

/-- GET_DIGESTS: slot 0, or none where its leaf does not match the fuses. -/
def execGetDigests (via : SpdmVia) (s : State) : Out :=
  spdmRequest via s fun t =>
    spdmReply via (if t.on .chainEmpty 0 0 then .digests 0 [] else .digests 1 (sha384 (storedChain t))) t

/-- GET_CERTIFICATE: a portion of the slot 0 chain (R465, R466); any other slot is empty. -/
def execGetCertificate (via : SpdmVia) (slot : BitVec 4) (offset length : BitVec 16) (s : State) : Out :=
  spdmRequest via s fun t =>
    let chain := storedChain t
    if slot ≠ 0#4 ∨ t.on .chainEmpty 0 0 ∨ chain.length ≤ offset.toNat then spdmReply via (.error .invalidRequest) t
    else
      let part := (chain.drop offset.toNat).take length.toNat
      spdmReply via (.certificate part (chain.length - offset.toNat - part.length)) t

/-- CHALLENGE: signed by the identity key (R464). -/
def execChallenge (via : SpdmVia) (s : State) : Out := spdmRequest via s fun t => (spdmReply via (.challengeAuth (signature t)) t).draw

/-- The value types of the measurement indices 1 to 10 (R457). -/
def valueTypes : List Nat := [0, 2, 1, 1, 3, 1, 1, 1, 3, 2]

/-- The block of a measurement index. -/
def measBlock (s : State) (i : Nat) : Nat × Nat × List (BitVec 8) :=
  (i, valueTypes.getD (i - 1) 0, (List.range 6).flatMap fun w => leBytes 8 (s.get .msrVal i w))

/-- GET_MEASUREMENTS: index 0 the count, 1 to 10 a block, 0xFF all ten in order (R470). -/
def execGetMeasurements (via : SpdmVia) (signed : Bool) (index : BitVec 8) (s : State) : Out :=
  spdmRequest via s fun t =>
    let i := index.toNat
    let blocks : Option (List (Nat × Nat × List (BitVec 8))) :=
      if i = 0 then some [] else if i = 0xFF then some ((List.range 10).map fun k => measBlock t (k + 1))
      else if i ≤ 10 then some [measBlock t i] else none
    match blocks with
    | none => spdmReply via (.error .invalidRequest) t
    | some bs => (spdmReply via (.measurements 10 bs (if signed then some (signature t) else none)) t).draw

/-- The transport of a session. -/
def viaBit (via : SpdmVia) : Nat := if via = .mctp then 1 else 0

/-- KEY_EXCHANGE: a session begins, or the ninth is refused (R471). -/
def execKeyExchange (via : SpdmVia) (s : State) : Out :=
  sessionRequest via s fun t =>
    match (below 8 fun k => !t.on .sesState k 0).head? with
    | none => spdmReply via (.error .sessionLimitExceeded) t
    | some k =>
      let u := (t.put .sesState k 0 1).put .sesVia k 0 (viaBit via)
      (spdmReply via (.keyExchange k true 0 (signature t)) u).draw

/-- A request in a session whose state a test accepts; elsewhere it is unexpected. -/
def inSession (via : SpdmVia) (ses : BitVec 4) (p : Nat → Bool) (s : State) (k : State → State) : Out :=
  sessionRequest via s fun t =>
    let n := ses.toNat
    if decide (n < 8) && p (t.get .sesState n 0) && t.get .sesVia n 0 == viaBit via then k t
    else spdmReply via (.error .unexpectedRequest) t

/-- GET_ENCAPSULATED_REQUEST: the device asks for the requester's digests, then for its chain. -/
def execGetEncapsulatedRequest (via : SpdmVia) (ses : BitVec 4) (s : State) : Out :=
  inSession via ses (· == 1) s fun t => spdmReply via (.encapsulatedRequest ses.toNat false) (t.put .sesAsk ses.toNat 0 1)

/-- DELIVER_ENCAPSULATED_RESPONSE: the digests, or the chain, whose signatures verify (`good`) and whose leaf key gives the OID (R423,
R471). -/
def execDeliverEncapsulatedResponse (via : SpdmVia) (ses : BitVec 4) (good : Bool) (leafKey : List (BitVec 8)) (s : State) : Out :=
  let n := ses.toNat
  inSession via ses (· == 1) s fun t =>
    match t.get .sesAsk n 0 with
    | 0 => spdmReply via (.error .unexpectedRequest) t
    | 1 => spdmReply via (.encapsulatedRequest n true) (t.put .sesAsk n 0 2)
    | _ =>
      if !good then spdmReply via (.error .invalidRequest) (t.clearFlds [.sesState, .sesVia, .sesAsk] (· == n))
      else
        let u := (t.put .sesState n 0 2).put .sesAsk n 0 0
        spdmReply via (.encapsulatedAck n) (u.put .sesOid n 0 (leNat ((sha384 leafKey).take 16)))

/-- FINISH: the handshake completes where the requester is authenticated and its data verify, with event 0x0D07. -/
def execFinish (via : SpdmVia) (ses : BitVec 4) (good : Bool) (s : State) : Out :=
  let n := ses.toNat
  inSession via ses (· == 2) s fun t =>
    if !good then spdmReply via (.error .invalidRequest) (t.clearFlds [.sesState, .sesVia, .sesOid] (· == n))
    else
      spdmReply via (.finish n) ((t.put .sesState n 0 3).raise 0x0D07 8 [t.get .sesVia n 0, n, t.get .sesOid n 0 % 2 ^ 32])

/-- END_SESSION. -/
def execEndSession (via : SpdmVia) (ses : BitVec 4) (s : State) : Out :=
  inSession via ses (· == 3) s fun t => spdmReply via (.endSessionAck ses.toNat) (endSession ses.toNat t)

/-- HEARTBEAT. -/
def execHeartbeat (via : SpdmVia) (ses : BitVec 4) (s : State) : Out :=
  inSession via ses (· == 3) s (spdmReply via (.heartbeatAck ses.toNat))

/-- KEY_UPDATE. -/
def execKeyUpdate (via : SpdmVia) (ses : BitVec 4) (s : State) : Out :=
  inSession via ses (· == 3) s (spdmReply via (.keyUpdateAck ses.toNat))

/-- UNSUPPORTED_SPDM_REQUEST (R467). -/
def execUnsupportedSpdmRequest (via : SpdmVia) (s : State) : Out := spdmRequest via s (spdmReply via (.error .unsupportedRequest))

/-! ## DOE (R473) -/

/-- DOE_ABORT: no exchange lasts past its command, and no session ends. -/
def execDoeAbort (s : State) : Out := .next s

/-- DOE_DISCOVERY: the data object types 0, 1 and 2 under vendor 0x0001; what another index answers is open. -/
def execDoeDiscovery (index : BitVec 8) (s : State) : Out :=
  let i := index.toNat
  .next (if !firmwareRuns s then s
    else if i < 3 then s.emit (.doe 0x0001 i (if i = 2 then 0 else i + 1))
    else (s.emit (.doe (Config.freeNat s.ctr % 65536) (Config.freeNat (s.ctr + 1) % 256) (Config.freeNat (s.ctr + 2) % 256))).draw.draw.draw)

/-! ## MCTP control (R474) -/

/-- The firmware answers on the SMBus. -/
def mctpReply (r : MctpReply) (s : State) : Out := .next (if firmwareRuns s then s.emit (.mctp r) else s)

/-- SET_ENDPOINT_ID. -/
def execSetEndpointId (eid : BitVec 8) (s : State) : Out :=
  .next (if firmwareRuns s then (s.put .mctpEid 0 0 eid.toNat).emit (.mctp (.setEid eid.toNat)) else s)

/-- GET_ENDPOINT_ID. -/
def execGetEndpointId (s : State) : Out := mctpReply (.eid (s.get .mctpEid 0 0)) s

/-- GET_MCTP_VERSION_SUPPORT: the spec names no version. -/
def execGetMctpVersionSupport (_type : BitVec 8) (s : State) : Out := mctpReply (.versions (Config.freeBytes s.ctr)) s.draw

/-- GET_MESSAGE_TYPE_SUPPORT: control, PLDM, SPDM and secured SPDM. -/
def execGetMessageTypeSupport (s : State) : Out := mctpReply (.types [0x00, 0x01, 0x05, 0x06]) s

/-- GET_VENDOR_DEFINED_MESSAGE_SUPPORT: the spec does not say what it returns. -/
def execGetVendorDefinedMessageSupport (_set : BitVec 8) (s : State) : Out := mctpReply (.vendor (Config.freeBytes s.ctr)) s.draw

/-! ## PLDM (R621) -/

/-- The firmware answers a PLDM command. -/
def pldmReply (r : PldmReply) (s : State) : Out := .next (if firmwareRuns s then s.emit (.pldm r) else s)

/-- A PLDM command with an effect. -/
def pldmDo (k : State → State) (s : State) : Out := .next (if firmwareRuns s then (k s).emit (.pldm .done) else s)

/-- GET_TID. -/
def execGetTid (s : State) : Out := pldmReply (.tid (s.get .pldmTid 0 0)) s

/-- SET_TID. -/
def execSetTid (tid : BitVec 8) (s : State) : Out := pldmDo (fun t => t.put .pldmTid 0 0 tid.toNat) s

/-- GET_PLDM_VERSION: the spec names no version. -/
def execGetPldmVersion (_type : BitVec 8) (s : State) : Out := pldmReply (.open (Config.freeBytes s.ctr)) s.draw

/-- GET_PLDM_TYPES. -/
def execGetPldmTypes (s : State) : Out := pldmReply (.types ["DSP0240", "DSP0248"]) s

/-- GET_PLDM_COMMANDS: those of the base type (0) and of platform monitoring and control (2). -/
def execGetPldmCommands (type : BitVec 8) (s : State) : Out :=
  pldmReply (match type.toNat with
    | 0 => .commands ["GetTID", "SetTID", "GetPLDMVersion", "GetPLDMTypes", "GetPLDMCommands"]
    | 2 => .commands ["GetPDRRepositoryInfo", "GetPDR", "GetSensorReading", "GetStateSensorReadings", "SetStateEffecterStates",
        "SetEventReceiver", "PlatformEventMessage"]
    | _ => .error) s

/-- GET_PDR_REPOSITORY_INFO: its contents are DSP0248's. -/
def execGetPdrRepositoryInfo (s : State) : Out := pldmReply (.open (Config.freeBytes s.ctr)) s.draw

/-- GET_PDR: its contents are DSP0248's. -/
def execGetPdr (_record : BitVec 32) (s : State) : Out := pldmReply (.open (Config.freeBytes s.ctr)) s.draw

/-- A numeric sensor: temperatures in sixteenths of a °C, powers and voltages in thousandths of a W and V, and the module's input
power as the product of its voltage and current. -/
def numericSensor (id : Nat) (s : State) : Option (Int × Nat) :=
  if id = 1 then some (temp (s.get .telChipTj 0 0), 16)
  else if 2 ≤ id ∧ id ≤ 9 then some (temp (s.get .telChTj (id - 2) 0), 16)
  else if 10 ≤ id ∧ id ≤ 17 then some (temp (s.get .telChHbmTj (id - 10) 0), 16)
  else if id = 18 then some ((s.get .telChipPwrMw 0 0 : Int), 1000)
  else if id = 19 then some ((s.get .fpnPwrVin 0 0 * s.get .fpnPwrIin 0 0 : Int), 100000)
  else if id = 20 then some ((s.get .fpnPwrVin 0 0 : Int), 1000)
  else if id = 21 then some ((s.get .fpnPwrVbank 0 0 : Int), 1000)
  else none

/-- GET_SENSOR_READING. -/
def execGetSensorReading (id : BitVec 16) (s : State) : Out :=
  pldmReply (match numericSensor id.toNat s with
    | some (n, d) => .reading n d
    | none => .error) s

/-- A state sensor. -/
def stateSensor (id : Nat) (s : State) : Option Nat :=
  match id with
  | 100 => some (s.get .fpnStatRmv 0 0)
  | 101 => some (thermalSensor s)
  | 102 => some (s.get .msrBootStage 0 0)
  | 103 => some (s.get .tunStatState 0 0)
  | _ => none

/-- GET_STATE_SENSOR_READINGS. -/
def execGetStateSensorReadings (id : BitVec 16) (s : State) : Out :=
  pldmReply (match stateSensor id.toNat s with
    | some v => .state v
    | none => .error) s

/-- SET_STATE_EFFECTER_STATES: the locate LED off, on or blinking (R606). -/
def execSetStateEffecterStates (id : BitVec 16) (state : BitVec 8) (s : State) : Out :=
  if id.toNat = 200 ∧ state.toNat < 3 then pldmDo (fun t => t.put .fpnLocMode 0 0 state.toNat) s else pldmReply .error s

/-- SET_EVENT_RECEIVER. -/
def execSetEventReceiver (enable : Bool) (eid : BitVec 8) (s : State) : Out :=
  pldmDo (fun t => t.put .pldmRx 0 0 (if enable then eid.toNat + 1 else 0)) s

/-! ## The alert response (R620) -/

/-- ALERT_RESPONSE_READ: the device answers with its address and releases ALERT_N; its causes stay. -/
def execAlertResponseRead (s : State) : Out :=
  .next (if s.on .alertPin 0 0 then (s.emit (.alertAddress (0x40 + s.get .gaPins 0 0 % 16))).put .alertPin 0 0 0 else s)

end Sys2Proof.Machine
end

