-- ==== Sys2Proof/Machine/RegWrite.lean ====
section
/-!
DEFINITION. REGISTER_WRITE: a write to a register by the map of R579, under the register types of chapter 00, the state checks of
R18 and the host errors of R447.
-/
namespace Sys2Proof.Machine

/-- Registers that command rows of their own write: REGISTER_WRITE has no effect on them. -/
def ownRows : List String :=
  ["CORE_CTL", "CH_RST", "CH_PWR", "CH_DBELL", "CH_CFG", "FOX_CTL", "FOX_RING_CFG", "FOX_HSQ_TAIL", "RTE_CTL", "MBX_DB", "MSR_RST",
    "MSR_RCV", "EVR_ADV", "FRZ_CTRL", "FRZ_RO_CTL", "FPN_RMV", "FAB_FWD_DATA", "OWN_SKEY_LOAD", "MBX_IRQ_STAT", "MBX_IRQ_MASK",
    "CH_IRQ_STAT", "CH_IRQ_MASK", "EVR_TRIG", "EVR_TRIG_SEL", "EVR_RLIM", "SPD_KIND", "SPD_PWR", "HBQ_WTAIL", "HBQ_RHEAD"]

/-- Bits p to p + n - 1 of a value replaced. -/
def spliced (old p n new : Nat) : Nat := old - bitsAt old p n * 2 ^ p + new % 2 ^ n * 2 ^ p

/-- What 32 bits written at byte k of a register make of a field: the bits of it that they cover, by its type. -/
def fieldWritten (f : RegField) (k v old : Nat) (owned : Bool) : Nat :=
  let lo := max f.lo (8 * k)
  let n := min (f.lo + f.fld.width) (8 * k + 32) - lo
  let part := bitsAt v (lo - 8 * k) n
  let p := lo - f.lo
  if n = 0 then old
  else
    match f.kind with
    | .ro => old
    | .w1c => spliced old p n (bitsAt old p n - (bitsAt old p n &&& part))
    | .rwl => if owned then old else spliced old p n part
    | .rw => spliced old p n part
    | .wo => spliced old p n part

/-- Write 32 bits at byte k of a register. -/
def fieldsWrite (r : Reg) (a b k v : Nat) (owned : Bool) (s : State) : State :=
  r.fields.foldl (fun (t : State) f => t.put f.fld a b (fieldWritten f k v (s.get f.fld a b) owned)) s

/-- Write 32 bits at an offset of a space, by the map: its register unless a row of its own writes it, at the place that `put` makes
of the indices. -/
def mapWrite (rs : List Reg) (put : Nat → Nat → Nat × Nat) (off v : Nat) (owned : Bool) (s : State) : State :=
  match findReg rs off with
  | some (r, a, b, k) =>
    let (x, y) := put a b
    if ownRows.contains r.name then s
    else if r.bits = 8 then
      (List.range 4).foldl (fun (t : State) i => fieldsWrite r (x + i) y 0 (bitsAt v (8 * i) 8) owned t) s
    else fieldsWrite r x y k v owned s
  | none => s

/-- The name of the register at an offset of a space, with its indices. -/
def nameAt (rs : List Reg) (off : Nat) : String × Nat × Nat :=
  match findReg rs off with
  | some (r, a, b, _) => (r.name, a, b)
  | none => ("", 0, 0)

/-! ## Function 0 -/

/-- A change of FPN_ALERT: ALERT_N is released with its last enabled cause, and asserted where a set cause is newly enabled (R620). -/
def alertWritten (was s : State) : State :=
  let live := s.get .fpnAlertCause 0 0 &&& s.get .fpnAlertEn 0 0
  let new := live - (live &&& was.get .fpnAlertEn 0 0)
  if live = 0 then s.put .alertPin 0 0 0
  else if new = 0 ∨ s.on .alertPin 0 0 then s
  else (s.put .alertPin 0 0 1).raise 0x0F08 8 [((List.range 6).find? fun k => new.testBit k).getD 0]

/-- The services bound to a channel. -/
def boundSvcs (ch : Nat) (s : State) : List Nat := below 4096 fun k => s.on .sveSvcW0Bound k 0 && s.get .sveSvcW0Channel k 0 == ch

/-- Channels whose bound services' current fallbacks use a pool cell. -/
def cellUsers (cell : Nat) (s : State) : List Nat :=
  below 8 fun ch => (boundSvcs ch s).any fun k =>
    let lo := s.get .sveSvcW1FbCell k 0
    decide (lo ≤ cell) && decide (cell < lo + cellsOf (s.get .sveSvcW1FbLen k 0))

/-- A write of the fallback window; cells in use make it UNPREDICTABLE for their channels (R293). -/
def fallbackWrite (off v : Nat) (s : State) : State :=
  let a := s.get .sveFbwinBase 0 0 * 64 + off
  if 131072 * 64 ≤ a then s
  else (cellUsers (a / 64) s).foldl (fun t ch => havoc ch t) (s.setBytes (poolAddr a) (leBytes 4 v))

/-- A write of an MSI-X table of n entries: an unmasked vector sends what its PBA bit waits for (R580, R581). -/
def msixWrite (fn n off v : Nat) (s : State) : State :=
  if 16 * n ≤ off then s
  else if off % 16 = 12 then sendPending fn (s.put .msixVmask fn (off / 16) (v % 2))
  else s.put .msixTab fn (off / 4) v

/-- What a write of a register of function 0 brings with it. -/
def mgmtAfter (name : String) (a b : Nat) (was s : State) : State :=
  match name with
  | "PWR_STAT" => if pwrWord s = pwrWord was then s else s.mgCause 3
  | "TUN_FBAR" =>
    let t := s.put .fbarGen a 0 0
    if fabricOpen a was then (fbarChans a was).foldl (fun t ch => havoc ch t) t else t
  | "FAB_CTL" =>
    let changed : Bool := s.get .fabCtlChipId 0 0 != was.get .fabCtlChipId 0 0 || s.get .fabCtlValid 0 0 != was.get .fabCtlValid 0 0
    if changed && (List.range 48).any (fun l => was.get .lnkStatState l 0 == lkAdmitted) then was else s
  | "SVE_CTL" => if s.on .sveBad 0 0 then was else s
  | "FRZ_HBM" => if was.frozen then was else s
  | "FPN_ALERT" => alertWritten was s
  | "MSR_VAL" =>
    if s.bit .msrLockLocked 0 0 (a - 1) && b == 0 then (s.raise 0x0D03 8 [a, Config.freeNat s.ctr % 256]).draw else s
  | _ => s

/-- What a write of a link's register brings with it: LNK_CFG.EN stops the link, or lets it train (R407, R409). -/
def linkAfter (l : Nat) (was s : State) : State :=
  match was.on .lnkCfgEn l 0, s.on .lnkCfgEn l 0 with
  | true, false => linkStop l 4 s
  | false, true => linkStart l s
  | _, _ => s

/-- Write 32 bits at an aligned offset of function 0's BAR0. -/
def mgmtWrite (off v : Nat) (s : State) : State :=
  if 0x30000 ≤ off ∧ off < 0x3C000 then
    let l := (off - 0x30000) / 0x400
    if hasLink l s then linkAfter l s (mapWrite linkRegs (fun _ b => (l, b)) (0x30000 + off % 0x400) v false s) else s
  else if 0x70000 ≤ off ∧ off < 0x72000 then
    let ch := (off - 0x70000) / 0x400
    mapWrite ownRegs (fun _ b => (ch, b)) (0x70000 + off % 0x400) v (s.owner ch == owOwned) s
  else if 0x40000 ≤ off ∧ off < 0x50000 ∧ !s.on .idGradeSve 0 0 then s
  else if 0x48000 ≤ off ∧ off < 0x49000 then fallbackWrite (off - 0x48000) v s
  else if 0xF00000 ≤ off ∧ off < 0x1000000 then msixWrite 0 16 (off - 0xF00000) v s
  else
    let (name, a, b) := nameAt mgmtRegs off
    mgmtAfter name a b s (mapWrite mgmtRegs (fun a b => (a, b)) off v false s)

/-! ## A channel function -/

/-- The core is STOPPED or HALTED. -/
def coreRests (c : Nat) (s : State) : Bool := s.coreState c == stStopped || s.coreState c == stHalted

/-- An exchange of the channel is armed, held or swapping (R315). -/
def exchArmed (ch : Nat) (s : State) : Bool := let p := s.get .exchStatPhase ch 0; p == 1 || p == 2 || p == 3

/-- Write 32 bits of a core window (R58, R59, R447 and the register tables). -/
def coreWrite (c off v : Nat) (s : State) : State :=
  let ch := chanOf c
  let hostError (bad : Bool) (t : State) : State := if bad then havoc ch t else t
  if off < 0x20000 then
    let active := decide (off < 0x10000)
    let bank := if active then s.get .coreBank c 0 else 1 - s.get .coreBank c 0
    hostError (if active then !coreRests c s else exchArmed ch s)
      (s.setBytes (imemAddr c bank (off % 0x10000 / 8) + off % 8) (leBytes 4 v))
  else if 0x21000 ≤ off ∧ off < 0x23000 then
    let k := off - 0x21000
    let lanes := tget (List.replicate 64 0#32) s.vreg (c * 32 + k / 256)
    hostError (!coreRests c s) (s.putV c (k / 256) (lanes.set (k % 256 / 4) (BitVec.ofNat 32 v)))
  else
    let t := mapWrite coreRegs (fun _ b => (c, b)) off v false s
    match nameAt coreRegs off with
    | ("CORE_PC", _, _) => if s.coreState c = stStopped then t else s
    | ("CORE_G", _, b) => hostError (!coreRests c s) (if b = 0 then s else t)
    | ("CORE_P", _, _) => hostError (!coreRests c s) t
    | ("SYN_CNT", _, _) => hostError (!coreRests c s) t
    | ("SPD_KIND_NEXT", _, _) => hostError (exchArmed ch s) t
    | ("SPD_PWR_NEXT", _, _) => hostError (exchArmed ch s) t
    | _ => t

/-- A bound service of the channel has an odd epoch, current or pending (R240). -/
def oddEpoch (ch : Nat) (s : State) : Bool :=
  (boundSvcs ch s).any fun k => s.get .sveSvcW1Epoch k 0 % 2 == 1 || (tget 0 s.epochPend k) % 2 == 1

/-- An entry of a queue of n lies between its head and its tail. -/
def between (head tail n e : Nat) : Bool := decide ((e + n - head % n) % n < (tail + n - head % n) % n)

/-- Registers of the exchange that are staged items (R315). -/
def stagedNames : List String := ["EXCH_RING_CFG", "EXCH_RSEL", "EXCH_RATAB"]

/-- What a write of a channel's register brings with it, host errors among it (R447). -/
def chanAfter (ch : Nat) (name : String) (b : Nat) (was s : State) : State :=
  let inflight : Bool := was.on .epochInflEven ch 0 || was.on .epochInflOdd ch 0
  let plan (size : Nat) : State :=
    if b / size = was.get .rteCtlActive ch 0 ∨ exchArmed ch was then havoc ch s else s
  if name = "CH_FSET" then showClocks ch s
  else if name = "RTE_ROUTE" then plan 1280
  else if name = "RTE_RANK" ∨ name = "RTE_EXT" then plan 160
  else if name = "RTE_BAR_MEM" then plan 20
  else if name = "RTE_LINKF" then (if s.on .rteLinkfDown ch 0 then s else s.put .bdgStatSilent ch 0 0)
  else if name = "FOX_RA_TAB" then
    if was.on .foxCtlRaEn ch 0 || inflight || !(boundSvcs ch was).isEmpty then havoc ch s else s
  else if name = "EPOCH_RABASE" then (if was.on .epochInflOdd ch 0 || oddEpoch ch was then havoc ch s else s)
  else if name = "EPOCH_CTL" then
    (if inflight && s.get .epochCtlRapar ch 0 != was.get .epochCtlRapar ch 0 then havoc ch s else s)
  else if stagedNames.contains name ∧ exchArmed ch was then havoc ch s
  else s

/-- Blocks of a channel's BAR0 that lose power with the channel: FOX, RTE, BDG/SYN, EXCH and the core windows (R490). -/
def poweredBlock (off : Nat) : Bool :=
  (decide (0x100000 ≤ off) && decide (off < 0x400000)) || (decide (0x500000 ≤ off) && decide (off < 0x600000)) ||
    decide (0x1000000 ≤ off)

/-- Write 32 bits at an aligned offset of a channel's BAR0. -/
def chanWrite (ch off v : Nat) (s : State) : State :=
  if 0x1000000 ≤ off then
    let k := windowCore off
    let c := coreIn ch k
    if k < 160 ∧ s.present c then coreWrite c ((off - 0x1000000) % 0x40000) v s else s
  else if 0xF00000 ≤ off then msixWrite (1 + ch) 8 (off - 0xF00000) v s
  else if 0x101000 ≤ off ∧ off < 0x102000 then
    let t := s.setBytes (hsqAddr ch (off - 0x101000)) (leBytes 4 v)
    if between (s.get .foxHsqHeadIndex ch 0) (s.get .foxHsqTailIndex ch 0) 64 ((off - 0x101000) / 64) then havoc ch t else t
  else if 0x600000 ≤ off ∧ off < 0x700000 then
    if !s.isU16 ∨ off < 0x610000 ∨ 0x630000 ≤ off then s
    else
      let t := s.setBytes (hbqWordAddr (off - 0x610000)) (leBytes 4 v)
      let head := s.get .hbqWhead 0 0
      let e := (off - 0x610000) / 64
      if (e + 2048 - head % 2048) % 2048 < (s.get .hbqWtail 0 0 + 4096 - head) % 4096 then havoc ch t else t
  else
    let (name, _, b) := nameAt chanRegs off
    chanAfter ch name b s (mapWrite chanRegs (fun _ b => (ch, b)) off v false s)

/-! ## The command -/

/-- REGISTER_WRITE: a write of some bytes at an offset of a function's BAR0, or of the function's MSI-X message control. An access that is
not a naturally aligned one of 32 or 64 bits is dropped by function 0, and UNPREDICTABLE in a channel's BAR (R29). -/
def execRegisterWrite (fn : Fin 9) (place : RegPlace) (value : BitVec 64) (s : State) : Out :=
  let f := fn.val
  let v := value.toNat
  match place with
  | .msixControl => .next (sendPending f ((s.put .msixEn f 0 (bitsAt v 15 1)).put .msixFmask f 0 (bitsAt v 14 1)))
  | .bar0 off size =>
    let o := off.toNat
    let n := size.toNat
    let good : Bool := (n == 4 || n == 8) && o % n == 0
    let each (w : Nat → Nat → State → State) : State :=
      let t := w o (v % 2 ^ 32) s
      if n = 8 then w (o + 4) (v / 2 ^ 32) t else t
    if f = 0 then .next (if s.mgWrite && good then each mgmtWrite else s)
    else
      let ch := f - 1
      if !good then .next (if s.chWrite ch false then havoc ch s else s)
      else .next (if s.chWrite ch (poweredBlock o) then each (chanWrite ch) else s)

end Sys2Proof.Machine
end

