-- ==== Sys2Proof/Machine/Scalar.lean ====
section
/-!
DEFINITION. The scalar instructions (R100, R101) and RDS (R70).
-/
namespace Sys2Proof.Machine

/-- 1 or 0. -/
def flag (b : Bool) : Word := if b then 1#64 else 0#64

/-- A scalar instruction on G[GA] and the second operand: stall for the registers it reads (R65), then one issue cycle; the
result is usable `lat` cycles after issue. -/
def aluOp (c : Nat) (i : Instr) (gd ga : BitVec 5) (b : SrcB) (lat : Nat) (f : Word → Word → Word) (s : State) : Out :=
  issue c i s fun t =>
    let t := t.stallG c (ga.toNat :: srcBRegs b)
    retire c 1 (t.setG c gd.toNat lat (f (t.g c ga.toNat) (srcB c b t)))

/-- A scalar instruction that writes G[GD] from some G registers, in one cycle, usable in the next. -/
def movOp (c : Nat) (i : Instr) (gd : BitVec 5) (reads : List Nat) (f : State → Word) (s : State) : Out :=
  issue c i s fun t =>
    let t := t.stallG c reads
    retire c 1 (t.setG c gd.toNat 1 (f t))

/-- ADD (R100): a + b. -/
def execAdd (core : CoreId) (gd ga : BitVec 5) (b : SrcB) (s : State) : Out :=
  aluOp core.val (.add core gd ga b) gd ga b 1 (fun a b => a + b) s

/-- SUB (R100): a − b. -/
def execSub (core : CoreId) (gd ga : BitVec 5) (b : SrcB) (s : State) : Out :=
  aluOp core.val (.sub core gd ga b) gd ga b 1 (fun a b => a - b) s

/-- AND (R100): a AND b. -/
def execAnd (core : CoreId) (gd ga : BitVec 5) (b : SrcB) (s : State) : Out :=
  aluOp core.val (.and core gd ga b) gd ga b 1 (fun a b => a &&& b) s

/-- OR (R100): a OR b. -/
def execOr (core : CoreId) (gd ga : BitVec 5) (b : SrcB) (s : State) : Out :=
  aluOp core.val (.or core gd ga b) gd ga b 1 (fun a b => a ||| b) s

/-- XOR (R100): a XOR b. -/
def execXor (core : CoreId) (gd ga : BitVec 5) (b : SrcB) (s : State) : Out :=
  aluOp core.val (.xor core gd ga b) gd ga b 1 (fun a b => a ^^^ b) s

/-- SHL (R100): a shifted left by b[5:0]. -/
def execShl (core : CoreId) (gd ga : BitVec 5) (b : SrcB) (s : State) : Out :=
  aluOp core.val (.shl core gd ga b) gd ga b 1 (fun a b => a <<< (b.toNat % 64)) s

/-- SHR (R100): a shifted right by b[5:0], zero fill. -/
def execShr (core : CoreId) (gd ga : BitVec 5) (b : SrcB) (s : State) : Out :=
  aluOp core.val (.shr core gd ga b) gd ga b 1 (fun a b => a >>> (b.toNat % 64)) s

/-- SAR (R100): a shifted right by b[5:0], sign fill. -/
def execSar (core : CoreId) (gd ga : BitVec 5) (b : SrcB) (s : State) : Out :=
  aluOp core.val (.sar core gd ga b) gd ga b 1 (fun a b => a.sshiftRight (b.toNat % 64)) s

/-- MUL (R100): low 64 bits of a × b, usable after 3 cycles (R101). -/
def execMul (core : CoreId) (gd ga : BitVec 5) (b : SrcB) (s : State) : Out :=
  aluOp core.val (.mul core gd ga b) gd ga b 3 (fun a b => a * b) s

/-- MIN (R100): signed minimum. -/
def execMin (core : CoreId) (gd ga : BitVec 5) (b : SrcB) (s : State) : Out :=
  aluOp core.val (.min core gd ga b) gd ga b 1 (fun a b => if a.slt b then a else b) s

/-- MAX (R100): signed maximum. -/
def execMax (core : CoreId) (gd ga : BitVec 5) (b : SrcB) (s : State) : Out :=
  aluOp core.val (.max core gd ga b) gd ga b 1 (fun a b => if a.slt b then b else a) s

/-- MINU (R100): unsigned minimum. -/
def execMinu (core : CoreId) (gd ga : BitVec 5) (b : SrcB) (s : State) : Out :=
  aluOp core.val (.minu core gd ga b) gd ga b 1 (fun a b => if a.ult b then a else b) s

/-- MAXU (R100): unsigned maximum. -/
def execMaxu (core : CoreId) (gd ga : BitVec 5) (b : SrcB) (s : State) : Out :=
  aluOp core.val (.maxu core gd ga b) gd ga b 1 (fun a b => if a.ult b then b else a) s

/-- CMPEQ (R100): 1 if a = b. -/
def execCmpeq (core : CoreId) (gd ga : BitVec 5) (b : SrcB) (s : State) : Out :=
  aluOp core.val (.cmpeq core gd ga b) gd ga b 1 (fun a b => flag (a == b)) s

/-- CMPLT (R100): 1 if a < b signed. -/
def execCmplt (core : CoreId) (gd ga : BitVec 5) (b : SrcB) (s : State) : Out :=
  aluOp core.val (.cmplt core gd ga b) gd ga b 1 (fun a b => flag (a.slt b)) s

/-- CMPLTU (R100): 1 if a < b unsigned. -/
def execCmpltu (core : CoreId) (gd ga : BitVec 5) (b : SrcB) (s : State) : Out :=
  aluOp core.val (.cmpltu core gd ga b) gd ga b 1 (fun a b => flag (a.ult b)) s

/-- MOVI (R100): IMM32 sign-extended. -/
def execMovi (core : CoreId) (gd : BitVec 5) (imm : BitVec 32) (s : State) : Out :=
  movOp core.val (.movi core gd imm) gd [] (fun _ => imm.signExtend 64) s

/-- MOVHI (R100): IMM32 above the low half of G[GA]. -/
def execMovhi (core : CoreId) (gd ga : BitVec 5) (imm : BitVec 32) (s : State) : Out :=
  movOp core.val (.movhi core gd ga imm) gd [ga.toNat]
    (fun t => imm ++ (t.g core.val ga.toNat).setWidth 32) s

/-- RDS (R70): a special value. -/
def execRds (core : CoreId) (gd : BitVec 5) (index : BitVec 8) (s : State) : Out :=
  movOp core.val (.rds core gd index) gd [] (fun t => BitVec.ofNat 64 (special core.val index.toNat t)) s

/-- MOVGP (R100): P := G[GA]. -/
def execMovgp (core : CoreId) (p : BitVec 6) (ga : BitVec 5) (s : State) : Out :=
  issue core.val (.movgp core p ga) s fun t =>
    let t := t.stallG core.val [ga.toNat]
    retire core.val 1 (t.setP core.val p.toNat (t.g core.val ga.toNat))

/-- MOVPG (R100): G[GD] := P. -/
def execMovpg (core : CoreId) (gd : BitVec 5) (p : BitVec 6) (s : State) : Out :=
  movOp core.val (.movpg core gd p) gd [] (fun t => t.p core.val p.toNat) s

end Sys2Proof.Machine
end

