-- ==== Sys2Proof/Machine/Dispatch.lean ====
section
/-!
DEFINITION. What each command does to everything but the queue: one arm for each constructor of Instr.
-/
namespace Sys2Proof.Machine

def exec (i : Instr) (s : State) : Host.Outcome State Fault Refusal :=
  match i with
  | .nop core extra => Sys2Proof.Machine.execNop core extra s
  | .jmp core cond gs target => Sys2Proof.Machine.execJmp core cond gs target s
  | .loop core src gs count last => Sys2Proof.Machine.execLoop core src gs count last s
  | .replay core src gs start len count => Sys2Proof.Machine.execReplay core src gs start len count s
  | .wait core mask gd => Sys2Proof.Machine.execWait core mask gd s
  | .waitIdle core units => Sys2Proof.Machine.execWaitIdle core units s
  | .halt core code => Sys2Proof.Machine.execHalt core code s
  | .reservedOpcode core major minor => Sys2Proof.Machine.execReservedOpcode core major minor s
  | .patchSet core pd src => Sys2Proof.Machine.execPatchSet core pd src s
  | .patchAdd core pd src => Sys2Proof.Machine.execPatchAdd core pd src s
  | .patchArm core pd ps slot => Sys2Proof.Machine.execPatchArm core pd ps slot s
  | .patchClr core => Sys2Proof.Machine.execPatchClr core s
  | .cfg core unit fld src => Sys2Proof.Machine.execCfg core unit fld src s
  | .goMx core gmask tag acc => Sys2Proof.Machine.execGoMx core gmask tag acc s
  | .mxTileDrain core => Sys2Proof.Machine.execMxTileDrain core s
  | .goVx core gmask => Sys2Proof.Machine.execGoVx core gmask s
  | .spillTile core acc => Sys2Proof.Machine.execSpillTile core acc s
  | .goFxSubmit core gmask => Sys2Proof.Machine.execGoFxSubmit core gmask s
  | .goFxFence core gmask => Sys2Proof.Machine.execGoFxFence core gmask s
  | .goSy core gmask => Sys2Proof.Machine.execGoSy core gmask s
  | .syLandWord core acc => Sys2Proof.Machine.execSyLandWord core acc s
  | .add core gd ga b => Sys2Proof.Machine.execAdd core gd ga b s
  | .sub core gd ga b => Sys2Proof.Machine.execSub core gd ga b s
  | .and core gd ga b => Sys2Proof.Machine.execAnd core gd ga b s
  | .or core gd ga b => Sys2Proof.Machine.execOr core gd ga b s
  | .xor core gd ga b => Sys2Proof.Machine.execXor core gd ga b s
  | .shl core gd ga b => Sys2Proof.Machine.execShl core gd ga b s
  | .shr core gd ga b => Sys2Proof.Machine.execShr core gd ga b s
  | .sar core gd ga b => Sys2Proof.Machine.execSar core gd ga b s
  | .mul core gd ga b => Sys2Proof.Machine.execMul core gd ga b s
  | .min core gd ga b => Sys2Proof.Machine.execMin core gd ga b s
  | .max core gd ga b => Sys2Proof.Machine.execMax core gd ga b s
  | .minu core gd ga b => Sys2Proof.Machine.execMinu core gd ga b s
  | .maxu core gd ga b => Sys2Proof.Machine.execMaxu core gd ga b s
  | .cmpeq core gd ga b => Sys2Proof.Machine.execCmpeq core gd ga b s
  | .cmplt core gd ga b => Sys2Proof.Machine.execCmplt core gd ga b s
  | .cmpltu core gd ga b => Sys2Proof.Machine.execCmpltu core gd ga b s
  | .movi core gd imm => Sys2Proof.Machine.execMovi core gd imm s
  | .movhi core gd ga imm => Sys2Proof.Machine.execMovhi core gd ga imm s
  | .rds core gd index => Sys2Proof.Machine.execRds core gd index s
  | .movgp core p ga => Sys2Proof.Machine.execMovgp core p ga s
  | .movpg core gd p => Sys2Proof.Machine.execMovpg core gd p s
  | .vadd core vd va vb ty bs => Sys2Proof.Machine.execVadd core vd va vb ty bs s
  | .vsub core vd va vb ty bs => Sys2Proof.Machine.execVsub core vd va vb ty bs s
  | .vmul core vd va vb ty bs => Sys2Proof.Machine.execVmul core vd va vb ty bs s
  | .vfma core vd va vb vc ty bs => Sys2Proof.Machine.execVfma core vd va vb vc ty bs s
  | .vmin core vd va vb ty bs => Sys2Proof.Machine.execVmin core vd va vb ty bs s
  | .vmax core vd va vb ty bs => Sys2Proof.Machine.execVmax core vd va vb ty bs s
  | .vabs core vd va ty => Sys2Proof.Machine.execVabs core vd va ty s
  | .vneg core vd va ty => Sys2Proof.Machine.execVneg core vd va ty s
  | .vand core vd va vb bs => Sys2Proof.Machine.execVand core vd va vb bs s
  | .vor core vd va vb bs => Sys2Proof.Machine.execVor core vd va vb bs s
  | .vxor core vd va vb bs => Sys2Proof.Machine.execVxor core vd va vb bs s
  | .vshl core vd va vb bs => Sys2Proof.Machine.execVshl core vd va vb bs s
  | .vshr core vd va vb bs => Sys2Proof.Machine.execVshr core vd va vb bs s
  | .vsar core vd va vb bs => Sys2Proof.Machine.execVsar core vd va vb bs s
  | .vcmpeq core vd va vb ty bs => Sys2Proof.Machine.execVcmpeq core vd va vb ty bs s
  | .vcmplt core vd va vb ty bs => Sys2Proof.Machine.execVcmplt core vd va vb ty bs s
  | .vcmple core vd va vb ty bs => Sys2Proof.Machine.execVcmple core vd va vb ty bs s
  | .vsel core vd va vb vc bs => Sys2Proof.Machine.execVsel core vd va vb vc bs s
  | .vmov core vd va => Sys2Proof.Machine.execVmov core vd va s
  | .vbcast core vd ga => Sys2Proof.Machine.execVbcast core vd ga s
  | .viota core vd ga => Sys2Proof.Machine.execViota core vd ga s
  | .vcvt core vd va mode pos => Sys2Proof.Machine.execVcvt core vd va mode pos s
  | .vdiv core vd va vb ty bs => Sys2Proof.Machine.execVdiv core vd va vb ty bs s
  | .vsqrt core vd va ty => Sys2Proof.Machine.execVsqrt core vd va ty s
  | .vscale core vd va vb ty bs => Sys2Proof.Machine.execVscale core vd va vb ty bs s
  | .vld core vd ga off acc => Sys2Proof.Machine.execVld core vd ga off acc s
  | .vst core vs ga off acc => Sys2Proof.Machine.execVst core vs ga off acc s
  | .vgathW core vd ga vi off acc => Sys2Proof.Machine.execVgathW core vd ga vi off acc s
  | .vgathD core vd ga vi off acc => Sys2Proof.Machine.execVgathD core vd ga vi off acc s
  | .vscatW core vs ga vi off acc => Sys2Proof.Machine.execVscatW core vs ga vi off acc s
  | .vscatD core vs ga vi off acc => Sys2Proof.Machine.execVscatD core vs ga vi off acc s
  | .vtpop core vd gd rp rel nr => Sys2Proof.Machine.execVtpop core vd gd rp rel nr s
  | .vrsum core gd va ty => Sys2Proof.Machine.execVrsum core gd va ty s
  | .vrmax core gd va ty => Sys2Proof.Machine.execVrmax core gd va ty s
  | .vrmin core gd va ty => Sys2Proof.Machine.execVrmin core gd va ty s
  | .topk core vd va vb gd ty km1 => Sys2Proof.Machine.execTopk core vd va vb gd ty km1 s
  | .topkM core vd va gd ty km1 => Sys2Proof.Machine.execTopkM core vd va gd ty km1 s
  | .rwait core gd ring n => Sys2Proof.Machine.execRwait core gd ring n s
  | .rpop core ring n => Sys2Proof.Machine.execRpop core ring n s
  | .rpub core ring n eos valid => Sys2Proof.Machine.execRpub core ring n eos valid s
  | .qpush core v ep nm1 => Sys2Proof.Machine.execQpush core v ep nm1 s
  | .qpop core v ep nm1 => Sys2Proof.Machine.execQpop core v ep nm1 s
  | .qpeek core v ep nm1 => Sys2Proof.Machine.execQpeek core v ep nm1 s
  | .firstof core v ea eb gd nm1 => Sys2Proof.Machine.execFirstof core v ea eb gd nm1 s
  | .cinc core rem ep ctr amt => Sys2Proof.Machine.execCinc core rem ep ctr amt s
  | .cdec core rem ep ctr amt => Sys2Proof.Machine.execCdec core rem ep ctr amt s
  | .cwait core ctr sub n => Sys2Proof.Machine.execCwait core ctr sub n s
  | .bar core scope bid gd => Sys2Proof.Machine.execBar core scope bid gd s
  | .launch core mode gs gd m => Sys2Proof.Machine.execLaunch core mode gs gd m s
  | .batchTake core v gd nm1 => Sys2Proof.Machine.execBatchTake core v gd nm1 s
  | .respPut core v gs km1 empty => Sys2Proof.Machine.execRespPut core v gs km1 empty s
  | .wordArrival core ep => Sys2Proof.Machine.execWordArrival core ep s
  | .roomReturn core ep => Sys2Proof.Machine.execRoomReturn core ep s
  | .counterTokenArrival core sender => Sys2Proof.Machine.execCounterTokenArrival core sender s
  | .doneCtrIncrement core => Sys2Proof.Machine.execDoneCtrIncrement core s
  | .ringViewUpdate ch ring => Sys2Proof.Machine.execRingViewUpdate ch ring s
  | .doorbellArrival core => Sys2Proof.Machine.execDoorbellArrival core s
  | .channelBarrierRelease ch bid => Sys2Proof.Machine.execChannelBarrierRelease ch bid s
  | .chipBarrierRelease ch bid => Sys2Proof.Machine.execChipBarrierRelease ch bid s
  | .barTimeout ch scope bid => Sys2Proof.Machine.execBarTimeout ch scope bid s
  | .fabricBarrierRelease bid => Sys2Proof.Machine.execFabricBarrierRelease bid s
  | .napWake core => Sys2Proof.Machine.execNapWake core s
  | .alignerLock core => Sys2Proof.Machine.execAlignerLock core s
  | .conflictHaltTimeout core => Sys2Proof.Machine.execConflictHaltTimeout core s
  | .sweeperVisit core bank => Sys2Proof.Machine.execSweeperVisit core bank s
  | .bankInitDone core bank => Sys2Proof.Machine.execBankInitDone core bank s
  | .groupPowerUpDone core group => Sys2Proof.Machine.execGroupPowerUpDone core group s
  | .badgerReport ch => Sys2Proof.Machine.execBadgerReport ch s
  | .foxAccept ch => Sys2Proof.Machine.execFoxAccept ch s
  | .foxIssue ch cells => Sys2Proof.Machine.execFoxIssue ch cells s
  | .hbmReadReturn ch pick ue cells => Sys2Proof.Machine.execHbmReadReturn ch pick ue cells s
  | .descriptorComplete ch => Sys2Proof.Machine.execDescriptorComplete ch s
  | .peerServiceSlot ch => Sys2Proof.Machine.execPeerServiceSlot ch s
  | .remoteReadTimeout ch msgid => Sys2Proof.Machine.execRemoteReadTimeout ch msgid s
  | .foxHsqTailSeen ch => Sys2Proof.Machine.execFoxHsqTailSeen ch s
  | .frameReceive port frame fcs => Sys2Proof.Machine.execFrameReceive port frame fcs s
  | .slowPathReply port => Sys2Proof.Machine.execSlowPathReply port s
  | .requestAdmit => Sys2Proof.Machine.execRequestAdmit s
  | .batchBoundary svc => Sys2Proof.Machine.execBatchBoundary svc s
  | .deadlineExpiry pick => Sys2Proof.Machine.execDeadlineExpiry pick s
  | .responseArrival ch => Sys2Proof.Machine.execResponseArrival ch s
  | .responseSent ch => Sys2Proof.Machine.execResponseSent ch s
  | .batchStreamWord ch => Sys2Proof.Machine.execBatchStreamWord ch s
  | .tagGraceExpiry ch tag => Sys2Proof.Machine.execTagGraceExpiry ch tag s
  | .seamReady ch => Sys2Proof.Machine.execSeamReady ch s
  | .exchangeSwap ch => Sys2Proof.Machine.execExchangeSwap ch s
  | .exchHoldTimeout ch => Sys2Proof.Machine.execExchHoldTimeout ch s
  | .latchedSyncPresent ch => Sys2Proof.Machine.execLatchedSyncPresent ch s
  | .refreshSlot ch => Sys2Proof.Machine.execRefreshSlot ch s
  | .gtcTick n => Sys2Proof.Machine.execGtcTick n s
  | .fusionEpoch => Sys2Proof.Machine.execFusionEpoch s
  | .syncInEdge sub => Sys2Proof.Machine.execSyncInEdge sub s
  | .ptmDialogue ok master sub => Sys2Proof.Machine.execPtmDialogue ok master sub s
  | .syncOutPulse => Sys2Proof.Machine.execSyncOutPulse s
  | .beaconSend => Sys2Proof.Machine.execBeaconSend s
  | .flitTransmit link frac => Sys2Proof.Machine.execFlitTransmit link frac s
  | .crcFail link corr uncorr => Sys2Proof.Machine.execCrcFail link corr uncorr s
  | .idle link h => Sys2Proof.Machine.execIdle link h s
  | .nak link h => Sys2Proof.Machine.execNak link h s
  | .flow link h core ep words => Sys2Proof.Machine.execFlow link h core ep words s
  | .rreq link h msgid spec addr words tag full => Sys2Proof.Machine.execRreq link h msgid spec addr words tag full s
  | .rdata link h msgid idx wpois last words cells => Sys2Proof.Machine.execRdata link h msgid idx wpois last words cells s
  | .rref link h msgid cause cells => Sys2Proof.Machine.execRref link h msgid cause cells s
  | .commit link h tag => Sys2Proof.Machine.execCommit link h tag s
  | .cancel link h tag => Sys2Proof.Machine.execCancel link h tag s
  | .hopfail link h chip fch cause by' => Sys2Proof.Machine.execHopfail link h chip fch cause by' s
  | .beacon link h txts peerTx rxts level usable bseq rxseq frac => Sys2Proof.Machine.execBeacon link h txts peerTx rxts level usable bseq rxseq frac s
  | .arrive link h bid gen => Sys2Proof.Machine.execArrive link h bid gen s
  | .release link h bid gen count => Sys2Proof.Machine.execRelease link h bid gen count s
  | .fault link h bid gen cause => Sys2Proof.Machine.execFault link h bid gen cause s
  | .attest link h xid seg resp last data => Sys2Proof.Machine.execAttest link h xid seg resp last data s
  | .hello link h c => Sys2Proof.Machine.execHello link h c s
  | .peerAdmit link h c echo => Sys2Proof.Machine.execPeerAdmit link h c echo s
  | .retire link h c => Sys2Proof.Machine.execRetire link h c s
  | .ackTimeout link => Sys2Proof.Machine.execAckTimeout link s
  | .episodeLimit link => Sys2Proof.Machine.execEpisodeLimit link s
  | .signalDetect link => Sys2Proof.Machine.execSignalDetect link s
  | .trainingComplete link => Sys2Proof.Machine.execTrainingComplete link s
  | .trainingTimeout link => Sys2Proof.Machine.execTrainingTimeout link s
  | .signalLoss link cause => Sys2Proof.Machine.execSignalLoss link cause s
  | .faultRetrain link => Sys2Proof.Machine.execFaultRetrain link s
  | .helloSend link => Sys2Proof.Machine.execHelloSend link s
  | .linkRetireDone link => Sys2Proof.Machine.execLinkRetireDone link s
  | .attestationDone link good cert meas => Sys2Proof.Machine.execAttestationDone link good cert meas s
  | .obind ses sel ch body => Sys2Proof.Machine.execObind ses sel ch body s
  | .ogrant ses sel ch body => Sys2Proof.Machine.execOgrant ses sel ch body s
  | .oskey ses sel ch body => Sys2Proof.Machine.execOskey ses sel ch body s
  | .opolicy ses sel ch body => Sys2Proof.Machine.execOpolicy ses sel ch body s
  | .oend ses sel ch body => Sys2Proof.Machine.execOend ses sel ch body s
  | .ostat ses sel ch body => Sys2Proof.Machine.execOstat ses sel ch body s
  | .bindingTimeout ch => Sys2Proof.Machine.execBindingTimeout ch s
  | .killSequenceComplete ch => Sys2Proof.Machine.execKillSequenceComplete ch s
  | .getVersion via => Sys2Proof.Machine.execGetVersion via s
  | .getCapabilities via => Sys2Proof.Machine.execGetCapabilities via s
  | .negotiateAlgorithms via offer => Sys2Proof.Machine.execNegotiateAlgorithms via offer s
  | .getDigests via => Sys2Proof.Machine.execGetDigests via s
  | .getCertificate via slot offset length => Sys2Proof.Machine.execGetCertificate via slot offset length s
  | .challenge via => Sys2Proof.Machine.execChallenge via s
  | .getMeasurements via signed index => Sys2Proof.Machine.execGetMeasurements via signed index s
  | .keyExchange via => Sys2Proof.Machine.execKeyExchange via s
  | .finish via ses good => Sys2Proof.Machine.execFinish via ses good s
  | .endSession via ses => Sys2Proof.Machine.execEndSession via ses s
  | .heartbeat via ses => Sys2Proof.Machine.execHeartbeat via ses s
  | .keyUpdate via ses => Sys2Proof.Machine.execKeyUpdate via ses s
  | .getEncapsulatedRequest via ses => Sys2Proof.Machine.execGetEncapsulatedRequest via ses s
  | .deliverEncapsulatedResponse via ses good leafKey => Sys2Proof.Machine.execDeliverEncapsulatedResponse via ses good leafKey s
  | .doeAbort => Sys2Proof.Machine.execDoeAbort s
  | .setEndpointId eid => Sys2Proof.Machine.execSetEndpointId eid s
  | .getEndpointId => Sys2Proof.Machine.execGetEndpointId s
  | .getMctpVersionSupport type => Sys2Proof.Machine.execGetMctpVersionSupport type s
  | .getMessageTypeSupport => Sys2Proof.Machine.execGetMessageTypeSupport s
  | .getVendorDefinedMessageSupport set => Sys2Proof.Machine.execGetVendorDefinedMessageSupport set s
  | .getTid => Sys2Proof.Machine.execGetTid s
  | .setTid tid => Sys2Proof.Machine.execSetTid tid s
  | .getPldmVersion type => Sys2Proof.Machine.execGetPldmVersion type s
  | .getPldmTypes => Sys2Proof.Machine.execGetPldmTypes s
  | .getPldmCommands type => Sys2Proof.Machine.execGetPldmCommands type s
  | .getPdrRepositoryInfo => Sys2Proof.Machine.execGetPdrRepositoryInfo s
  | .getPdr record => Sys2Proof.Machine.execGetPdr record s
  | .getSensorReading id => Sys2Proof.Machine.execGetSensorReading id s
  | .getStateSensorReadings id => Sys2Proof.Machine.execGetStateSensorReadings id s
  | .setStateEffecterStates id state => Sys2Proof.Machine.execSetStateEffecterStates id state s
  | .setEventReceiver enable eid => Sys2Proof.Machine.execSetEventReceiver enable eid s
  | .alertResponseRead => Sys2Proof.Machine.execAlertResponseRead s
  | .inputPowerGood vin iin vbank env => Sys2Proof.Machine.execInputPowerGood vin iin vbank env s
  | .modRstN ms env => Sys2Proof.Machine.execModRstN ms env s
  | .perst => Sys2Proof.Machine.execPerst s
  | .flr fn => Sys2Proof.Machine.execFlr fn s
  | .watchdogExpiry reach env => Sys2Proof.Machine.execWatchdogExpiry reach env s
  | .warmReset who key warm env => Sys2Proof.Machine.execWarmReset who key warm env s
  | .chRst ch => Sys2Proof.Machine.execChRst ch s
  | .fwProgram image slot offset => Sys2Proof.Machine.execFwProgram image slot offset s
  | .fwProgramDone result => Sys2Proof.Machine.execFwProgramDone result s
  | .recoveryGo env => Sys2Proof.Machine.execRecoveryGo env s
  | .jtagDebugInstruction op => Sys2Proof.Machine.execJtagDebugInstruction op s
  | .rdout => Sys2Proof.Machine.execRdout s
  | .rdoutCaptureDr => Sys2Proof.Machine.execRdoutCaptureDr s
  | .coreCtlRun core => Sys2Proof.Machine.execCoreCtlRun core s
  | .coreCtlStop core => Sys2Proof.Machine.execCoreCtlStop core s
  | .coreCtlDbell core => Sys2Proof.Machine.execCoreCtlDbell core s
  | .coreCtlCreset core => Sys2Proof.Machine.execCoreCtlCreset core s
  | .chDbell ch all core => Sys2Proof.Machine.execChDbell ch all core s
  | .rteCtlFlip ch => Sys2Proof.Machine.execRteCtlFlip ch s
  | .chCfgWrite ch value => Sys2Proof.Machine.execChCfgWrite ch value s
  | .spdKindPwrWrite core pwr value => Sys2Proof.Machine.execSpdKindPwrWrite core pwr value s
  | .ringCfgWrite ch ring en dir core slots words base => Sys2Proof.Machine.execRingCfgWrite ch ring en dir core slots words base s
  | .foxCtlWrite ch raEn rsvc => Sys2Proof.Machine.execFoxCtlWrite ch raEn rsvc s
  | .foxHsqTail ch tail => Sys2Proof.Machine.execFoxHsqTail ch tail s
  | .hbqWtail tail => Sys2Proof.Machine.execHbqWtail tail s
  | .hbqRhead head => Sys2Proof.Machine.execHbqRhead head s
  | .ownSkeyLoad ch slot => Sys2Proof.Machine.execOwnSkeyLoad ch slot s
  | .fabFwdData value => Sys2Proof.Machine.execFabFwdData value s
  | .tunGtcLoRead mgc wide => Sys2Proof.Machine.execTunGtcLoRead mgc wide s
  | .tunGtcHiRead mgc => Sys2Proof.Machine.execTunGtcHiRead mgc s
  | .bar2Access ch addr len wr => Sys2Proof.Machine.execBar2Access ch addr len wr s
  | .irqMaskWrite fn mask value => Sys2Proof.Machine.execIrqMaskWrite fn mask value s
  | .chPwrWrite ch req hbmoff autorun wbatch wgtc wake => Sys2Proof.Machine.execChPwrWrite ch req hbmoff autorun wbatch wgtc wake s
  | .evrConfigWrite off wide value => Sys2Proof.Machine.execEvrConfigWrite off wide value s
  | .evrAdv bytes => Sys2Proof.Machine.execEvrAdv bytes s
  | .frzCtrlGo mgc => Sys2Proof.Machine.execFrzCtrlGo mgc s
  | .freezeN ns => Sys2Proof.Machine.execFreezeN ns s
  | .readoutStart => Sys2Proof.Machine.execReadoutStart s
  | .readoutNext => Sys2Proof.Machine.execReadoutNext s
  | .readoutWindowReady => Sys2Proof.Machine.execReadoutWindowReady s
  | .readoutStop => Sys2Proof.Machine.execReadoutStop s
  | .fpnRmvReq => Sys2Proof.Machine.execFpnRmvReq s
  | .fpnRmvSafe => Sys2Proof.Machine.execFpnRmvSafe s
  | .fpnRmvDeny => Sys2Proof.Machine.execFpnRmvDeny s
  | .fpnRmvCancel => Sys2Proof.Machine.execFpnRmvCancel s
  | .registerWrite fn place value => Sys2Proof.Machine.execRegisterWrite fn place value s
  | .mailboxOverrun seq code => Sys2Proof.Machine.execMailboxOverrun seq code s
  | .identify seq => Sys2Proof.Machine.execIdentify seq s
  | .channelAssign seq ch => Sys2Proof.Machine.execChannelAssign seq ch s
  | .channelRelease seq ch => Sys2Proof.Machine.execChannelRelease seq ch s
  | .ownerBind seq ch timeout oid => Sys2Proof.Machine.execOwnerBind seq ch timeout oid s
  | .ownerKill seq ch => Sys2Proof.Machine.execOwnerKill seq ch s
  | .exchangeArm seq ch => Sys2Proof.Machine.execExchangeArm seq ch s
  | .exchangeAbort seq ch => Sys2Proof.Machine.execExchangeAbort seq ch s
  | .epochFlip seq svc epoch => Sys2Proof.Machine.execEpochFlip seq svc epoch s
  | .powerSet seq scope state force hbmoff => Sys2Proof.Machine.execPowerSet seq scope state force hbmoff s
  | .powerSetRun seq scope force hbmoff => Sys2Proof.Machine.execPowerSetRun seq scope force hbmoff s
  | .powerSetStandby seq scope force hbmoff => Sys2Proof.Machine.execPowerSetStandby seq scope force hbmoff s
  | .powerSetChipRun seq force hbmoff => Sys2Proof.Machine.execPowerSetChipRun seq force hbmoff s
  | .timePolicy seq mask words => Sys2Proof.Machine.execTimePolicy seq mask words s
  | .linkAdmit seq link => Sys2Proof.Machine.execLinkAdmit seq link s
  | .linkAdmitAttest seq link => Sys2Proof.Machine.execLinkAdmitAttest seq link s
  | .linkAdmitAttestMatch seq link cert meas => Sys2Proof.Machine.execLinkAdmitAttestMatch seq link cert meas s
  | .linkAdmitRestore seq link => Sys2Proof.Machine.execLinkAdmitRestore seq link s
  | .linkRetire seq link => Sys2Proof.Machine.execLinkRetire seq link s
  | .serviceBind seq w0 w1 w2 w3 w4 w5 => Sys2Proof.Machine.execServiceBind seq w0 w1 w2 w3 w4 w5 s
  | .serviceUnbind seq w0 => Sys2Proof.Machine.execServiceUnbind seq w0 s
  | .evrClear seq => Sys2Proof.Machine.execEvrClear seq s
  | .freezeArm seq pin trig => Sys2Proof.Machine.execFreezeArm seq pin trig s
  | .dozeEntryDone ch => Sys2Proof.Machine.execDozeEntryDone ch s
  | .gtcWakeMatch ch => Sys2Proof.Machine.execGtcWakeMatch ch s
  | .channelWakeDone ch => Sys2Proof.Machine.execChannelWakeDone ch s
  | .wakeFailure target step => Sys2Proof.Machine.execWakeFailure target step s
  | .standbyWakeDone => Sys2Proof.Machine.execStandbyWakeDone s
  | .pllRelockDone ch => Sys2Proof.Machine.execPllRelockDone ch s
  | .batchMark ch => Sys2Proof.Machine.execBatchMark ch s
  | .thermalSample pairs hbm => Sys2Proof.Machine.execThermalSample pairs hbm s
  | .throttleLoop => Sys2Proof.Machine.execThrottleLoop s
  | .capLoop power chip => Sys2Proof.Machine.execCapLoop power chip s
  | .thermalTrip region => Sys2Proof.Machine.execThermalTrip region s
  | .droopDetect ch domain sixteenths => Sys2Proof.Machine.execDroopDetect ch domain sixteenths s
  | .droopRecover ch domain periods => Sys2Proof.Machine.execDroopRecover ch domain periods s
  | .adaptiveVoltage ch mv => Sys2Proof.Machine.execAdaptiveVoltage ch mv s
  | .recordEvent => Sys2Proof.Machine.execRecordEvent s
  | .norPageWrite fail => Sys2Proof.Machine.execNorPageWrite fail s
  | .sectorErase fail => Sys2Proof.Machine.execSectorErase fail s
  | .rateRefill => Sys2Proof.Machine.execRateRefill s
  | .summaryPeriodEnd => Sys2Proof.Machine.execSummaryPeriodEnd s
  | .hourlyPeriodEnd => Sys2Proof.Machine.execHourlyPeriodEnd s
  | .opsecMinute => Sys2Proof.Machine.execOpsecMinute s
  | .inputLoss presence mv => Sys2Proof.Machine.execInputLoss presence mv s
  | .bankLow => Sys2Proof.Machine.execBankLow s
  | .inputRestore mv env => Sys2Proof.Machine.execInputRestore mv env s
  | .attnPress => Sys2Proof.Machine.execAttnPress s
  | .attnHold => Sys2Proof.Machine.execAttnHold s
  | .removalDrain timedOut => Sys2Proof.Machine.execRemovalDrain timedOut s
  | .deniedTimeout => Sys2Proof.Machine.execDeniedTimeout s
  | .pageTouch => Sys2Proof.Machine.execPageTouch s
  | .pageHold => Sys2Proof.Machine.execPageHold s
  | .displayTimeout => Sys2Proof.Machine.execDisplayTimeout s
  | .latchChange closed => Sys2Proof.Machine.execLatchChange closed s
  | .osfpCageChange cage present pwr => Sys2Proof.Machine.execOsfpCageChange cage present pwr s
  | .qsfpCageChange port present pwr => Sys2Proof.Machine.execQsfpCageChange port present pwr s
  | .cageAlarm cage flags pwr => Sys2Proof.Machine.execCageAlarm cage flags pwr s
  | .standbyEntryDone => Sys2Proof.Machine.execStandbyEntryDone s
  | .fallbackCellsZeroed svc => Sys2Proof.Machine.execFallbackCellsZeroed svc s
  | .bankExhausted => Sys2Proof.Machine.execBankExhausted s
  | .unknownCommand seq code => Sys2Proof.Machine.execUnknownCommand seq code s
  | .reservedFlitKind link h => Sys2Proof.Machine.execReservedFlitKind link h s
  | .unsupportedSpdmRequest via => Sys2Proof.Machine.execUnsupportedSpdmRequest via s
  | .doeDiscovery index => Sys2Proof.Machine.execDoeDiscovery index s
  | .pcsLockChange port lock => Sys2Proof.Machine.execPcsLockChange port lock s
  | .functionDStateChange fn d3 => Sys2Proof.Machine.execFunctionDStateChange fn d3 s

end Sys2Proof.Machine
end

