-- ==== Sys2Proof/Safety.lean ====
section
/-!
DEFINITION. What counts as a safe step and as a sound state, in the terms that the statements use.
-/
namespace Sys2Proof.Machine

/-- An outcome is a next state. -/
def Completes (o : Out) : Prop := ∃ t, o = .next t

/-- No entry of a register table exceeds the width of the field that its key names. -/
def Fits (r : Tab Nat) : Prop := ∀ e ∈ r, ∀ f ∈ Fld.all, f.id = keyFld e.1 → e.2 < 2 ^ f.width

/-- A state is in canonical form, and its registers hold what their widths allow: the addresses of memory and the keys of every
table strictly rise, memory lists no byte that an unlisted address reads as, and no register, nor one that a re-run would bring
back, holds more than its width. A V register has 64 lanes, and a tile 1,024 elements. Equal contents are then equal lists. -/
structure Sound (s : State) : Prop where
  mem : Memory.wf s.mem = true
  reg : tsorted s.reg = true
  fits : Fits s.reg
  rerunFits : ∀ e ∈ s.rerun, Fits e.2
  vreg : tsorted s.vreg = true
  planes : tsorted s.planes = true
  tiles : tsorted s.tiles = true
  mxJobs : tsorted s.mxJobs = true
  vxJobs : tsorted s.vxJobs = true
  rerun : tsorted s.rerun = true
  fifo : tsorted s.fifo = true
  transit : tsorted s.transit = true
  foxArr : tsorted s.foxArr = true
  foxAct : tsorted s.foxAct = true
  foxReqs : tsorted s.foxReqs = true
  foxMsgs : tsorted s.foxMsgs = true
  foxPeer : tsorted s.foxPeer = true
  hbmBad : tsorted s.hbmBad = true
  hbmKey : tsorted s.hbmKey = true
  txq : tsorted s.txq = true
  retry : tsorted s.retry = true
  attest : tsorted s.attest = true
  segs : tsorted s.segs = true
  segRings : tsorted s.segRings = true
  windows : tsorted s.windows = true
  batches : tsorted s.batches = true
  resps : tsorted s.resps = true
  liveTags : tsorted s.liveTags = true
  svcPend : tsorted s.svcPend = true
  epochPend : tsorted s.epochPend = true
  held : tsorted s.held = true
  lanes : ∀ e ∈ s.vreg, e.2.length = 64
  tileVals : ∀ e ∈ s.tiles, e.2.vals.length = 1024
  jobVals : ∀ e ∈ s.mxJobs, ∀ x ∈ e.2.tiles, x.vals.length = 1024

/-- What one command may do to a state, whatever it is: it keeps the state sound, leaves the queue of waiting commands alone,
withdraws nothing that the part has handed out, and draws free values forward only. -/
structure Keeps (s t : State) : Prop where
  sound : Sound s → Sound t
  pending : t.pending = s.pending
  out : s.out <+: t.out
  ctr : s.ctr ≤ t.ctr

/-- Every byte outside a set of addresses reads as before. -/
def SameBytes (except : Nat → Prop) (s t : State) : Prop := ∀ a, ¬ except a → t.byte a = s.byte a

/-- Every place of a named field outside a set reads as before (an index of a place counts modulo 2^24). -/
def SameFields (E : Fld → Nat → Nat → Prop) (s t : State) : Prop :=
  ∀ f ∈ Fld.all, ∀ a b, a < 2 ^ 24 → b < 2 ^ 24 → ¬ E f a b → t.get f a b = s.get f a b

/-- The places of some fields whose first index is a. -/
def placesOf (fs : List Fld) (a : Nat) : Fld → Nat → Nat → Prop := fun f x _ => f ∈ fs ∧ x = a

/-- Nothing changed but the register table. -/
def OnlyReg (s t : State) : Prop := t = { s with reg := t.reg }

/-- Nothing changed but the register table, the events on their way to the recorder and what the part has handed out. -/
def OnlyRegOut (s t : State) : Prop := t = { s with reg := t.reg, evq := t.evq, out := t.out }

/-! ## Issue -/

/-- What issuing an instruction at a core and going on to the next in order may change there, whatever the instruction: the core's
state, the program counter, the cycle count, the loop and the REPLAY it stands in, and its clock (R64, R71, R79, R82, R99). -/
def flowFlds : List Fld :=
  [.coreStatState, .coreWkind, .coreWobj, .corePc, .coreCyc, .coreStatLdepth, .coreLoopIdx, .coreStatInreplay, .coreRepIdx,
    .coreClkPend, .coreStatOnfic]

/-- The places that issuing at core c may change: those of `flowFlds`, and, in a REPLAY, the P registers its patch slots write. -/
def flowPlaces (s : State) (c : Nat) : Fld → Nat → Nat → Prop := fun f a _ =>
  a = c ∧ (f ∈ flowFlds ∨ f = .coreP ∧ s.on .coreStatInreplay c 0 = true)

/-- The places that an instruction which writes Gn may change. -/
def writesG (s : State) (c n : Nat) : Fld → Nat → Nat → Prop := fun f a b =>
  flowPlaces s c f a b ∨ a = c ∧ b = n ∧ n ≠ 0 ∧ (f = .coreG ∨ f = .coreGRdy)

/-- The core issued what it was given, and nothing but fields changed: it holds nothing now. -/
def IssuedReg (c : Nat) (s t : State) : Prop := t = { s with reg := t.reg, held := tdel s.held c }

/-- The cycle in which an instruction that reads some G registers issues: not before each of them is available (R65). -/
def issueAt (c : Nat) (ns : List Nat) (s : State) : Nat := ns.foldl (fun m n => max m (s.get .coreGRdy c n)) (s.get .coreCyc c 0)

/-- Every G register but Gn is as before, and Gn holds v; a write of G0 is dropped (R68). -/
def GWritten (c n : Nat) (v : Word) (s t : State) : Prop :=
  ∀ m < 32, t.g c m = if m = n ∧ n ≠ 0 then v else s.g c m

/-- Every P register is as before but for what the patch slots of a REPLAY do. -/
def GSame (c : Nat) (s t : State) : Prop := ∀ m < 32, t.g c m = s.g c m

/-! ## Scalar arithmetic (R100, R101) -/

/-- The word whose bit i a condition gives. -/
def bitsOf (n : Nat) (p : Nat → Bool) : BitVec n :=
  BitVec.ofNat n ((List.range n).foldl (fun m i => m + if p i then 2 ^ i else 0) 0)

/-- A scalar instruction of two operands: how it is spelt, its result, and the cycles until the result can be used. -/
structure ScalarRow where
  spell : CoreId → BitVec 5 → BitVec 5 → SrcB → Instr
  value : Word → Word → Word
  latency : Nat

/-- The operations 0x00 to 0x0F of R100, on 64-bit words as numbers, with the latencies of R101. -/
def scalarRows : List ScalarRow :=
  [⟨.add, fun a b => BitVec.ofNat 64 (a.toNat + b.toNat), 1⟩,
   ⟨.sub, fun a b => BitVec.ofInt 64 (a.toNat - b.toNat), 1⟩,
   ⟨.and, fun a b => bitsOf 64 fun i => a.getLsbD i && b.getLsbD i, 1⟩,
   ⟨.or, fun a b => bitsOf 64 fun i => a.getLsbD i || b.getLsbD i, 1⟩,
   ⟨.xor, fun a b => bitsOf 64 fun i => a.getLsbD i != b.getLsbD i, 1⟩,
   ⟨.shl, fun a b => BitVec.ofNat 64 (a.toNat * 2 ^ (b.toNat % 64)), 1⟩,
   ⟨.shr, fun a b => BitVec.ofNat 64 (a.toNat / 2 ^ (b.toNat % 64)), 1⟩,
   ⟨.sar, fun a b => BitVec.ofInt 64 (a.toInt / 2 ^ (b.toNat % 64)), 1⟩,
   ⟨.mul, fun a b => BitVec.ofNat 64 (a.toNat * b.toNat), 3⟩,
   ⟨.min, fun a b => if a.toInt ≤ b.toInt then a else b, 1⟩,
   ⟨.max, fun a b => if a.toInt ≤ b.toInt then b else a, 1⟩,
   ⟨.minu, fun a b => if a.toNat ≤ b.toNat then a else b, 1⟩,
   ⟨.maxu, fun a b => if a.toNat ≤ b.toNat then b else a, 1⟩,
   ⟨.cmpeq, fun a b => if a.toNat = b.toNat then 1#64 else 0#64, 1⟩,
   ⟨.cmplt, fun a b => if a.toInt < b.toInt then 1#64 else 0#64, 1⟩,
   ⟨.cmpltu, fun a b => if a.toNat < b.toNat then 1#64 else 0#64, 1⟩]

/-- The second operand as R100 gives it: IMM32 sign-extended, or a G register. -/
def operandB (c : Nat) (s : State) : SrcB → Word
  | .imm v => BitVec.ofInt 64 v.toInt
  | .greg n => s.g c n.toNat

/-- The patched values of the P registers: the armed slots in order 0 to 7, each on the results of the ones before (R82). -/
def patched (c : Nat) (s : State) : Nat → Word :=
  (List.range 8).foldl (fun v k =>
    if s.on .corePatchArm c k then
      fun n => if n = s.get .corePatchPd c k then v n + v (s.get .corePatchPs c k) else v n
    else v) (s.p c)

/-- The last instruction of the body of the innermost loop. -/
def AtLoopEnd (c : Nat) (s : State) : Prop :=
  0 < s.get .coreStatLdepth c 0 ∧ s.get .corePc c 0 = s.get .coreLoopLast c (s.get .coreStatLdepth c 0 - 1)

/-- The last instruction of the block of the active REPLAY. -/
def AtBlockEnd (c : Nat) (s : State) : Prop :=
  s.get .coreStatInreplay c 0 ≠ 0 ∧
    (s.get .corePc c 0 + 1) % 8192 = (s.get .coreRepStart c 0 + s.get .coreRepLen c 0) % 8192

/-- The special values by index (R70): the index and the value RDS reads there. -/
def rdsTable (c : Nat) (s : State) : List (Nat × Nat) :=
  [(0x00, c), (0x01, c / 160), (0x02, c / 16 % 10), (0x03, c % 16), (0x04, s.get .idGradeIslands 0 0),
    (0x08, s.get .coreCyc c 0), (0x09, s.get .gtc 0 0),
    (0x0A, if s.get .coreStatLdepth c 0 = 0 then 0 else s.get .coreLoopIdx c (s.get .coreStatLdepth c 0 - 1)),
    (0x0B, if s.get .coreStatInreplay c 0 = 0 then 0 else s.get .coreRepIdx c 0), (0x0C, s.get .coreStatDbell c 0)] ++
  (List.range 16).map fun i => (0x10 + i, s.get .synCnt c i)

/-- What RDS reads at an index: the table's value, and zero at a reserved index. -/
def rdsValue (c index : Nat) (s : State) : Nat := (tget? (rdsTable c s) index).getD 0

/-- The loops and the REPLAY stand where they stood. -/
def LoopSame (c : Nat) (s t : State) : Prop :=
  t.get .coreStatLdepth c 0 = s.get .coreStatLdepth c 0 ∧ (∀ d < 4, t.get .coreLoopIdx c d = s.get .coreLoopIdx c d) ∧
    t.get .coreStatInreplay c 0 = s.get .coreStatInreplay c 0 ∧ t.get .coreRepIdx c 0 = s.get .coreRepIdx c 0

/-- The core's cycle count has grown by n, modulo its width (R71). -/
def CycAfter (c n : Nat) (s t : State) : Prop := t.get .coreCyc c 0 = (s.get .coreCyc c 0 + n) % 2 ^ 64

/-- No P register has changed. -/
def PSame (c : Nat) (s t : State) : Prop := ∀ n < 64, t.p c n = s.p c n

/-- The body of the loop at a depth holds an instruction address (R79). -/
def InBody (c d a : Nat) (s : State) : Prop := s.get .coreLoopStart c d ≤ a ∧ a ≤ s.get .coreLoopLast c d

/-- The loop at a depth is active and its body holds the program counter. -/
def Encloses (c d : Nat) (s : State) : Prop := d < s.get .coreStatLdepth c 0 ∧ InBody c d (s.get .corePc c 0) s

/-- The instruction at the program counter stands at no enclosing loop's END, where none of JMP, LOOP and REPLAY may (R80). -/
def NotAtEnd (c : Nat) (s : State) : Prop := ∀ d, Encloses c d s → s.get .coreLoopLast c d ≠ s.get .corePc c 0

/-- The place of an instruction address in the block of the active REPLAY, from its first instruction. -/
def blockOffset (c a : Nat) (s : State) : Nat := (a + 8192 - s.get .coreRepStart c 0) % 8192

/-- The condition of a JMP on a signed value (R94). -/
def JmpHolds (cond : Nat) (v : Int) : Prop :=
  cond = 0 ∨ cond = 1 ∧ v = 0 ∨ cond = 2 ∧ v ≠ 0 ∨ cond = 3 ∧ v < 0 ∨ cond = 4 ∧ 0 ≤ v ∨ cond = 5 ∧ 0 < v ∨ cond = 6 ∧ v ≤ 0

/-- The core's cycle count is n past the cycle in which an instruction that reads some G registers issues. -/
def IssueCyc (c : Nat) (ns : List Nat) (n : Nat) (s t : State) : Prop := t.get .coreCyc c 0 = (issueAt c ns s + n) % 2 ^ 64

/-- A count of LOOP or REPLAY: the immediate, or the low 32 bits of a G register (R79, R81). -/
def repeatCount (c : Nat) (src : Bool) (gs imm : Nat) (s : State) : Nat := if src then (s.g c gs).toNat % 2 ^ 32 else imm

/-- The G registers that LOOP or REPLAY reads for its count. -/
def repeatReads (src : Bool) (gs : Nat) : List Nat := if src then [gs] else []

/-- The value of a CFG: IMM40, or a P or G register plus OFF32, modulo 2^64 (R95). -/
def CfgValueIs (c : Nat) (src : CfgSrc) (s : State) (v : Word) : Prop :=
  match src with
  | .imm i => v.toNat = i.toNat
  | .preg p off => v = BitVec.ofInt 64 ((s.p c p.toNat).toNat + off.toInt)
  | .greg g off => v = BitVec.ofInt 64 ((s.g c g.toNat).toNat + off.toInt)
  | .reserved => False

/-! ## Events -/

/-- The recorder takes what is raised: the chip is not in STANDBY and no flush for a loss of input power runs (R536, log 60). -/
abbrev Recording (s : State) : Prop := s.get .evrFlushIn 0 0 = 0 ∧ s.get .pwrStatChip 0 0 ≠ 2


/-! ## Waits and core control -/

/-- A source of WAIT is true at core c, by its number in SRCMASK (R85). -/
def SourceTrue (c k : Nat) (s : State) : Prop :=
  let wr := s.get .coreSqf c 2
  let wc := s.get .coreSqf c 4
  k = 0 ∧ ringOf c (wr % 256) s = true ∧ wr / 256 % 65536 ≤ s.get .ringPubv (c / 160) (wr % 256) ∨
  k = 1 ∧ (∃ e < 8, (s.get .coreSqf c 3).testBit e = true ∧ s.fifoAt c e ≠ []) ∨
  k = 2 ∧ wc / 16 % 65536 ≤ s.get .synCnt c (wc % 16) ∨
  k = 3 ∧ ((s.get .gtc 0 0 : Int) - s.get .coreSqf c 5) % 2 ^ 40 < 2 ^ 39 ∨
  k = 4 ∧ c % 160 = 0 ∧ batchReady (c / 160) s = true ∨
  k = 5 ∧ s.get .coreStatDbell c 0 ≠ 0

/-- A number is the set of masked sources that are true. -/
def SourcesSeen (c mask n : Nat) (s : State) : Prop :=
  n < 64 ∧ ∀ k < 6, n.testBit k = true ↔ mask.testBit k = true ∧ SourceTrue c k s

/-- Every unit a mask names (bit 0 MX, 1 VX, 2 FX, 3 SY) is not busy in the core's current cycle (R72, R88). -/
def UnitsIdle (c : Nat) (units : BitVec 4) (s : State) : Prop :=
  ∀ k < 4, units.getLsbD k = true → unitBusy c (k + 1) s = false

/-- Every table but those named holds what it held for every core but c. -/
def HeldElse (c : Nat) (s t : State) : Prop := ∀ k, k ≠ c → tget? t.held k = tget? s.held k

/-- The channel has halted (R91): its present cores that ran are HALTED with cause 3 at their next instruction, its other cores and
the cores of other channels stand, and cause 1 of its function is set. -/
def ChannelHalted (ch : Nat) (s t : State) : Prop :=
  (∀ c ∈ s.coresOf ch, s.coreState c ≠ stStopped → s.coreState c ≠ stHalted →
    t.coreState c = stHalted ∧ t.get .coreHaltCause c 0 = 3 ∧ t.get .coreHaltCode c 0 = 0 ∧
      t.get .coreHaltPc c 0 = s.get .corePc c 0 ∧ t.get .corePc c 0 = s.get .corePc c 0) ∧
  (∀ c ∈ s.coresOf ch, s.coreState c = stStopped ∨ s.coreState c = stHalted →
    t.coreState c = s.coreState c ∧ t.get .coreHaltCause c 0 = s.get .coreHaltCause c 0 ∧
      t.get .corePc c 0 = s.get .corePc c 0) ∧
  (t.get .chIrqStatCause ch 0).testBit 1 = true ∧ t.mem = s.mem ∧ t.pending = s.pending

/-! ## The vector engine -/

/-- Lane l of a V register. -/
def State.laneOf (s : State) (c n l : Nat) : Lane := (s.v c n).getD l 0#32

/-- The lanes of Vn are those given, and every other V register of the core is as before. -/
def VWritten (c n : Nat) (f : Nat → Lane) (s t : State) : Prop :=
  ∀ m < 32, ∀ l < 64, t.laneOf c m l = if m = n then f l else s.laneOf c m l

/-- No V register of the core has changed. -/
def VSame (c : Nat) (s t : State) : Prop := ∀ m < 32, t.v c m = s.v c m

/-- The core issued a vector instruction: fields changed, and V registers of this core. -/
def IssuedVec (c : Nat) (s t : State) : Prop :=
  t = { s with reg := t.reg, held := tdel s.held c, vreg := t.vreg } ∧ ∀ k, k / 32 ≠ c → tget? t.vreg k = tget? s.vreg k

/-- The places that a vector instruction which writes Vn may change, beside those of issuing. -/
def writesV (s : State) (c n : Nat) : Fld → Nat → Nat → Prop := fun f a b =>
  flowPlaces s c f a b ∨ a = c ∧ (f = .coreVRdy ∧ b = n ∨ f = .vxStatNan)

/-- The cycle in which a vector instruction issues: not before each V and G register it reads is available (R136). -/
def vecIssueAt (c : Nat) (vs gs : List Nat) (s : State) : Nat :=
  gs.foldl (fun m n => max m (s.get .coreGRdy c n)) (vs.foldl (fun m n => max m (s.get .coreVRdy c n)) (s.get .coreCyc c 0))

/-- The core may issue a vector instruction, and the VX unit is not busy with a spill (R137). -/
def VecReady (c : Nat) (i : Instr) (s : State) : Prop := s.ready c i = true ∧ unitBusy c 2 s = false

/-- Operand b in a lane: V[VB], or the low half of G[VB] in every lane (R139). -/
def laneB (c : Nat) (vb : BitVec 5) (bs : Bool) (l : Nat) (s : State) : Lane :=
  if bs then BitVec.ofNat 32 (s.g c vb.toNat).toNat else s.laneOf c vb.toNat l

/-- The V registers that operand b reads. -/
def laneBV (vb : BitVec 5) (bs : Bool) : List Nat := if bs then [] else [vb.toNat]
/-- The G registers that operand b reads. -/
def laneBG (vb : BitVec 5) (bs : Bool) : List Nat := if bs then [vb.toNat] else []

/-- A vector instruction of two operands: how it is spelt, its types, the effect in each lane by type, its issue cycles, and its
result latency by type. -/
structure VectorRow where
  spell : CoreId → BitVec 5 → BitVec 5 → BitVec 5 → VT → Bool → Instr
  types : List VT
  value : VT → Lane → Lane → Lane
  issue : Nat
  latency : VT → Nat

/-- The exact F32 result of an operation, rounded once (R141). -/
def rounded (v : FVal) : Lane := BitVec.ofNat 32 (encF32 v)
/-- The value of a lane as F32. -/
def f32 (a : Lane) : FVal := decF32 a.toNat
/-- All ones where a condition holds, else zero. -/
def onesIf (b : Bool) : Lane := if b then BitVec.ofInt 32 (-1) else 0#32
/-- The lane as a number of an integer type. -/
def intOf (ty : VT) (a : Lane) : Int := if ty = 1#2 then a.toInt else a.toNat

/-- The operations of R140 on two operands. -/
def vectorRows : List VectorRow :=
  [⟨.vadd, [0, 1, 2], fun ty a b => if ty = 0 then rounded (fadd (f32 a) (f32 b)) else BitVec.ofNat 32 (a.toNat + b.toNat), 1,
      fun ty => if ty = 0 then 4 else 2⟩,
   ⟨.vsub, [0, 1, 2], fun ty a b => if ty = 0 then rounded (fadd (f32 a) (fneg (f32 b))) else BitVec.ofInt 32 (a.toNat - b.toNat),
      1, fun ty => if ty = 0 then 4 else 2⟩,
   ⟨.vmul, [0, 1, 2], fun ty a b => if ty = 0 then rounded (fmul (f32 a) (f32 b)) else BitVec.ofNat 32 (a.toNat * b.toNat), 1,
      fun ty => if ty = 0 then 4 else 3⟩,
   ⟨.vmin, [0, 1, 2], fun ty a b => if ty = 0 then laneMin 0 a b else if intOf ty a ≤ intOf ty b then a else b, 1, fun _ => 2⟩,
   ⟨.vmax, [0, 1, 2], fun ty a b => if ty = 0 then laneMax 0 a b else if intOf ty a ≤ intOf ty b then b else a, 1, fun _ => 2⟩,
   ⟨.vcmpeq, [0, 1, 2], fun ty a b => onesIf (if ty = 0 then feq a.toNat b.toNat else a.toNat == b.toNat), 1, fun _ => 2⟩,
   ⟨.vcmplt, [0, 1, 2], fun ty a b => onesIf (if ty = 0 then flt a.toNat b.toNat else decide (intOf ty a < intOf ty b)), 1,
      fun _ => 2⟩,
   ⟨.vcmple, [0, 1, 2], fun ty a b => onesIf (if ty = 0 then flt a.toNat b.toNat || feq a.toNat b.toNat
      else decide (intOf ty a ≤ intOf ty b)), 1, fun _ => 2⟩,
   ⟨.vdiv, [0], fun _ a b => BitVec.ofNat 32 (divF32 (f32 a) (f32 b)), 8, fun _ => 14⟩,
   ⟨.vscale, [0], fun _ a b => rounded (match f32 a with | .fin neg m e => .fin neg m (e + b.toInt) | v => v), 1, fun _ => 4⟩,
   ⟨fun c d a b _ => .vand c d a b, [0], fun _ a b => bitsOf 32 fun i => a.getLsbD i && b.getLsbD i, 1, fun _ => 2⟩,
   ⟨fun c d a b _ => .vor c d a b, [0], fun _ a b => bitsOf 32 fun i => a.getLsbD i || b.getLsbD i, 1, fun _ => 2⟩,
   ⟨fun c d a b _ => .vxor c d a b, [0], fun _ a b => bitsOf 32 fun i => a.getLsbD i != b.getLsbD i, 1, fun _ => 2⟩,
   ⟨fun c d a b _ => .vshl c d a b, [0], fun _ a b => BitVec.ofNat 32 (a.toNat * 2 ^ (b.toNat % 32)), 1, fun _ => 2⟩,
   ⟨fun c d a b _ => .vshr c d a b, [0], fun _ a b => BitVec.ofNat 32 (a.toNat / 2 ^ (b.toNat % 32)), 1, fun _ => 2⟩,
   ⟨fun c d a b _ => .vsar c d a b, [0], fun _ a b => BitVec.ofInt 32 (a.toInt / 2 ^ (b.toNat % 32)), 1, fun _ => 2⟩]

/-- Ranking order of lanes by key, ties by lane number (R157): lane m ranks before lane l. -/
def LaneBefore (ty : VT) (c n m l : Nat) (s : State) : Prop :=
  laneKey ty (s.laneOf c n l) < laneKey ty (s.laneOf c n m) ∨
    laneKey ty (s.laneOf c n l) = laneKey ty (s.laneOf c n m) ∧ m < l

/-- Position p of the top-k list of 2 L registers at V[v]: its key and its id (R160). -/
def listAt (c v l p : Nat) (s : State) : Rank := (s.laneOf c (v + p / 64) (p % 64), s.laneOf c (v + l + p / 64) (p % 64))

/-- A list is the ranking of a pool of pairs: it holds the same pairs, and no pair ranks before an earlier one (R157, R161). -/
def IsRanking (ty : VT) (out pool : List Rank) : Prop :=
  out.Perm pool ∧ out.Pairwise fun x y => ranksBefore ty y x = false

/-- The merge of R161: the first k positions are those of a ranking of the pool, and the rest are padding. -/
def Merged (ty : VT) (c v k l : Nat) (pool : List Rank) (t : State) : Prop :=
  ∃ out, IsRanking ty out pool ∧ ∀ p < 64 * l, listAt c v l p t = if p < k then out.getD p (0#32, 0#32) else padRank ty

/-! ## Scratchpad bytes as the ports see them -/

/-- The byte at a scratchpad address: zero in a word whose tag is stale (R165, R189). -/
def State.spdByte (s : State) (c a : Nat) : BitVec 8 :=
  if s.get .spdTag c (a % 2 ^ 19 / 64) ≠ s.get .chSpdEpoch (c / 160) 0 then 0#8 else s.byte (spdAddr c a)

/-- A bank word may be accessed by a port, and holds no stored error. -/
def WordGood (c port a : Nat) (s : State) : Prop :=
  bankOpen c port (a % 2 ^ 19 / 2 ^ 15) s = true ∧ s.get .spdErr c (a % 2 ^ 19 / 64) = 0

/-- An access that meets no bit error and no other port. -/
def quiet : Access := ⟨[], []⟩

/-- The number four bytes of the scratchpad spell, least significant first. -/
def spdWord32 (c a : Nat) (s : State) : Nat :=
  (s.spdByte c a).toNat + 2 ^ 8 * (s.spdByte c (a + 1)).toNat + 2 ^ 16 * (s.spdByte c (a + 2)).toNat +
    2 ^ 24 * (s.spdByte c (a + 3)).toNat

/-- Byte i of a lane. -/
def laneByte (v : Lane) (i : Nat) : BitVec 8 := BitVec.ofNat 8 (v.toNat / 2 ^ (8 * i))

/-- The address of a vector memory instruction, before its low bits are ignored (R145). -/
def vecAddr (c : Nat) (ga : BitVec 5) (off : BitVec 19) (ix : Nat) (s : State) : Nat :=
  ((s.g c ga.toNat).toNat + off.toNat + ix) % 2 ^ 19

/-- The address of the 4 bytes that a lane of a gather or scatter moves (R145): its own, or its pair's. -/
def laneAddr (c : Nat) (ga vi : BitVec 5) (off : BitVec 19) (pair : Bool) (l : Nat) (s : State) : Nat :=
  if pair then vecAddr c ga off (s.laneOf c vi.toNat (l / 2 * 2)).toNat s / 8 * 8 + l % 2 * 4
  else vecAddr c ga off (s.laneOf c vi.toNat l).toNat s / 4 * 4

/-- How many distinct bank words the lanes of a gather or scatter name (R146). -/
def laneWords (c : Nat) (ga vi : BitVec 5) (off : BitVec 19) (pair : Bool) (s : State) : Nat :=
  ((List.range 64).map fun l => laneAddr c ga vi off pair l s / 64).eraseDups.length

/-- Element m of size e of a V register's 256 bytes, little-endian (R135). -/
def regElem (c n e m : Nat) (s : State) : Nat :=
  if e = 2 then (s.laneOf c n (m / 2)).toNat / 2 ^ (16 * (m % 2)) % 2 ^ 16
  else (s.laneOf c n (m / 4)).toNat / 2 ^ (8 * (m % 4)) % 2 ^ 8

/-! ## Tables of the state -/

/-- A table holds what it held at every key but one. -/
def TabElse {α : Type} (f : State → Tab α) (k : Nat) (s t : State) : Prop := ∀ j, j ≠ k → tget? (f t) j = tget? (f s) j

/-- Bits [lo + w - 1 : lo] of a register value. -/
def field (v lo w : Nat) : Nat := v / 2 ^ lo % 2 ^ w

/-! ## Message channels (R246 to R261) -/

/-- Word w of a V register as one number, lane by lane (R259). -/
def vecWord (c n w : Nat) (s : State) : BitVec 512 :=
  BitVec.ofNat 512 ((List.range 16).foldl (fun a l => a + (s.laneOf c n (16 * w + l)).toNat * 2 ^ (32 * l)) 0)

/-- The lanes of V[n] after some words are written to its low words (R259). -/
def wordsInto (c n : Nat) (ws : List (BitVec 512)) (s : State) (l : Nat) : Lane :=
  if l < 16 * ws.length then BitVec.ofNat 32 ((ws.getD (l / 16) 0#512).toNat / 2 ^ (32 * (l % 16))) else s.laneOf c n l

/-- The room that n words leaving an input FIFO free, on its way to the sender of the route that names the FIFO (R248). -/
def roomBack (c ep n : Nat) (s : State) : List Transit :=
  ((feeders (c / 160) (c % 160) ep s).take 1).map fun x => .room (c / 160 * 160 + x / 8) (x % 8) n

/-- A core's instruction is issued with nothing held, so it waits for nothing but the registers it reads. -/
def Fresh (c : Nat) (i : Instr) (s : State) : Prop := s.ready c i = true ∧ tget? s.held c = none

/-- No landing empties an input FIFO (R257). -/
def NotLanding (c ep : Nat) (s : State) : Prop := s.get .syLeft c 0 = 0 ∨ s.get .syEp c 0 ≠ ep

/-- The places that an instruction of the message channels may change beside its own: those of issuing, and the marks of the core's
re-run block and segment. -/
def chanPlaces (s : State) (c : Nat) : Fld → Nat → Nat → Prop := fun f a b =>
  flowPlaces s c f a b ∨ f ∈ [Fld.spdStatClean, .detSegExt] ∧ a = c

/-- Only the register table and the core's hold have changed among the tables that hold no words. -/
def HoldsAt (c : Nat) (i : Instr) (kind obj : Nat) (s t : State) : Prop :=
  t.coreState c = stWaiting ∧ tget? t.held c = some i ∧ t.get .coreWkind c 0 = kind ∧ t.get .coreWobj c 0 = obj ∧
    t.get .corePc c 0 = s.get .corePc c 0 ∧ TabElse State.held c s t ∧
    SameFields (fun f a _ => f ∈ [Fld.coreStatState, .coreWkind, .coreWobj, .coreCyc, .spdStatClean] ∧ a = c) s t ∧
    t = { s with reg := t.reg, held := t.held }

/-! ## Sync counters (R264 to R269) -/

/-- A counter's value after an amount is added or subtracted, saturating (R265). -/
def counterAfter (v amt : Nat) (sub : Bool) : Nat := if sub then v - amt else min 0xFFFF (v + amt)

/-- The operation saturates. -/
def Saturates (v amt : Nat) (sub : Bool) : Prop := if sub = true then v < amt else 0xFFFF < v + amt

/-- An operation on a counter is done (R265): its value, the flags, and the event of a setting; `src` names who did it. -/
def CounterDone (c ctr amt : Nat) (sub : Bool) (src : Nat) (s t : State) : Prop :=
  t.get .synCnt c ctr = counterAfter (s.get .synCnt c ctr) amt sub ∧
  (Saturates (s.get .synCnt c ctr) amt sub →
    (t.get (if sub then .synFlagsSatLo else .synFlagsSatHi) c 0).testBit ctr = true ∧
    (Recording s → t.evq = s.evq ++ [⟨if sub then 0x0602 else 0x0601, c / 160, [c, ctr, src]⟩])) ∧
  (¬ Saturates (s.get .synCnt c ctr) amt sub → t.evq = s.evq ∧ t.get .synFlagsSatLo c 0 = s.get .synFlagsSatLo c 0 ∧
    t.get .synFlagsSatHi c 0 = s.get .synFlagsSatHi c 0) ∧
  (∀ i < 16, i ≠ ctr → (t.get .synFlagsSatLo c 0).testBit i = (s.get .synFlagsSatLo c 0).testBit i ∧
    (t.get .synFlagsSatHi c 0).testBit i = (s.get .synFlagsSatHi c 0).testBit i)

/-- The places that an operation on a counter may change. -/
def counterPlaces (c ctr : Nat) : Fld → Nat → Nat → Prop := fun f a b =>
  a = c ∧ (f ∈ [Fld.synCnt, .synRem] ∧ b = ctr ∨ f ∈ [Fld.synFlagsSatLo, .synFlagsSatHi])

/-- The oldest crossing of a channel that is one of some kind: what stands before it and after it in the order of sending. -/
def OldestIn (ch : Nat) (x : Transit) (same : Transit → Prop) (pre post : List Transit) (s : State) : Prop :=
  s.transitOf ch = pre ++ x :: post ∧ ∀ y ∈ pre, ¬ same y

/-- A crossing is a word for an input endpoint. -/
def IsWordFor (c e : Nat) (x : Transit) : Prop := ∃ d l, x = .word c e d l
/-- A crossing is room for an output endpoint. -/
def IsRoomFor (c e : Nat) (x : Transit) : Prop := ∃ n, x = .room c e n
/-- A crossing is a token for a core from a sender. -/
def IsTokenFor (c k : Nat) (x : Transit) : Prop := ∃ ctr amt sub cmask, x = .token c ctr amt sub cmask k
/-- A crossing is a DONE_CTR increment for a core. -/
def IsDoneFor (c : Nat) (x : Transit) : Prop := ∃ ctr remote, x = .done c ctr remote

/-- The crossing at the front of its kind has been taken off its channel's list. -/
def Taken (ch : Nat) (pre post : List Transit) (s t : State) : Prop :=
  t.transitOf ch = pre ++ post ∧ TabElse State.transit ch s t

/-! ## Rings (R220 to R230) -/

/-- What RWAIT reads at the core's pointer (R229): the slot's address, the view, and on an IN ring its status. -/
def ringStatus (ch r view : Nat) (out : Bool) (s : State) : Nat :=
  let x := r * 64 + s.get .ringCorePtr ch r
  (s.get .foxRingCfgBase ch r / 64 * 64 + s.get .ringCorePtr ch r * s.get .foxRingCfgSlotWords ch r * 64) % 2 ^ 19 +
    min view 64 * 2 ^ 19 + (if out then 0 else s.get .ringSlotEos ch x * 2 ^ 26 + s.get .ringSlotPoison ch x * 2 ^ 27 +
      s.get .ringSlotWords ch x * 2 ^ 28)

/-- The core's view of a ring: PUBV of an IN ring, FREEV of an OUT ring (R228). -/
def ringView (ch r : Nat) (s : State) : Nat := if ringOut ch r s then s.get .ringFreev ch r else s.get .ringPubv ch r

/-- The core's pointer stands in a ring of SLOTS slots that the core may name. -/
def RingReady (c r : Nat) (s : State) : Prop :=
  ringOf c r s = true ∧ s.get .ringCorePtr (c / 160) r < s.get .foxRingCfgSlots (c / 160) r ∧
    s.get .foxRingCfgSlots (c / 160) r ≤ 64

/-! ## Gated GOs (R72 to R77) -/

/-- A GO may issue in the core's current cycle: the core holds nothing and may issue it, the unit is not busy, every gate that the mask
names holds, and no halt is pending. -/
def GoOpen (c unit : Nat) (mask : BitVec 8) (i : Instr) (s : State) : Prop :=
  Fresh c i s ∧ unitBusy c unit s = false ∧ (∀ k < 8, mask.getLsbD k = true → gateVal c (s.get .coreSqf c (8 + k)) s = .is true) ∧
    s.get .spdHaltPend c 0 = 0

/-- The core issued a GO: one cycle has passed, no G register has changed, and nothing but fields, the segment's rings and the
tables that the unit keeps. -/
def GoIssued (c : Nat) (s t : State) : Prop :=
  (¬ AtBlockEnd c s → CycAfter c 1 s t) ∧ GSame c s t ∧ t.mem = s.mem ∧ t.vreg = s.vreg ∧ t.pending = s.pending

/-- The word-aligned part of a matrix base or stride (R109). -/
def mxAligned (c f : Nat) (s : State) : Nat := s.get .mxF c f / 64 * 64

/-- Tile t of a GO as (i, j), by MX.ORDER (R106). -/
def mxTileAt (c t : Nat) (s : State) : Nat × Nat :=
  if s.get .mxF c 0x0B = 0 then (t / s.get .mxF c 3, t % s.get .mxF c 3) else (t % s.get .mxF c 2, t / s.get .mxF c 2)

/-- The element of n bytes at a scratchpad address, little-endian. -/
def spdElem (c n a : Nat) (s : State) : Nat := (List.range n).foldl (fun v i => v + (s.spdByte c (a + i)).toNat * 2 ^ (8 * i)) 0

/-- Row r of k-step k of the A panel of tile row i, and column q of the B panel of tile column j (R107, R108). -/
def mxOperandA (c i k r : Nat) (s : State) : Nat :=
  let e := mxElem (s.get .mxF c 0)
  spdElem c e (mxAligned c 5 s + i * mxAligned c 6 s + k * 32 * e + r * e) s
/-- The B operand. -/
def mxOperandB (c j k q : Nat) (s : State) : Nat :=
  let e := mxElem (s.get .mxF c 0)
  spdElem c e (mxAligned c 7 s + j * mxAligned c 8 s + k * 32 * e + q * e) s

/-- The starting value of element x of tile t (R114): zero, the tile at C_BASE, or the retained tile. -/
def mxAcc0 (c t x : Nat) (s : State) : Nat :=
  if s.get .mxF c 0x0A = 1 then spdWord32 c (mxAligned c 9 s + t * 4096 + 4 * x) s
  else if s.get .mxF c 0x0A = 2 then ((tget [] s.planes (c * 2 + s.get .mxRetPlane c 0)).getD x 0#32).toNat else 0

/-- The products of element x of tile t in rising k (R105). -/
def mxOps (c t x : Nat) (s : State) : List (Nat × Nat) :=
  (List.range (s.get .mxF c 4)).map fun k =>
    (mxOperandA c (mxTileAt c t s).1 k (x / 32) s, mxOperandB c (mxTileAt c t s).2 k (x % 32) s)

/-- Element x of tile t by the accumulation rule of the format (R105, R117 to R123). -/
def mxElement (c t x : Nat) (s : State) : Lane :=
  BitVec.ofNat 32 (mxCell (s.get .mxF c 0) (s.get .mxF c 1) (mxAcc0 c t x s) (mxOps c t x s))

/-- A tile holds the elements of tile t and its metadata (R113); POISON is that of a retained tile that it continues. -/
def MxTileIs (c t tag n : Nat) (s : State) (x : Tile) : Prop :=
  (∀ k < 1024, x.vals.getD k 0#32 = mxElement c t k s) ∧ (x.i, x.j) = mxTileAt c t s ∧ x.t = t ∧ x.tag = tag ∧
    x.last = decide (t + 1 = n) ∧ x.int = mxInt (s.get .mxF c 0) ∧
    x.poison = decide (s.get .mxF c 0x0A = 2 ∧ s.get .mxRetPoison c 0 ≠ 0)

/-- The bytes that a GO.MX reads, word by word. -/
def mxReadAt (c a : Nat) (s : State) : Prop :=
  ∃ t < s.get .mxF c 2 * s.get .mxF c 3, ∃ k < 65536 * 32 * 4,
    k < s.get .mxF c 4 * 32 * mxElem (s.get .mxF c 0) ∧
      (a = mxAligned c 5 s + (mxTileAt c t s).1 * mxAligned c 6 s + k ∨
        a = mxAligned c 7 s + (mxTileAt c t s).2 * mxAligned c 8 s + k) ∨
    k < 4096 ∧ s.get .mxF c 0x0A = 1 ∧ a = mxAligned c 9 s + t * 4096 + k

/-! ## The tile queue -/

/-- The head entry holds a tile that can be read: FULL or READ, or FILLING until a known cycle (R148, R152). -/
def TqHead (c h : Nat) (x : Tile) (s : State) : Prop :=
  s.get .tqHead c 0 = h ∧ 2 ≤ s.get .tqEnt c h ∧ tget? s.tiles (c * 8 + h) = some x

/-- The metadata of R150. -/
def tileWord (x : Tile) : Nat :=
  x.t + x.i * 2 ^ 10 + x.j * 2 ^ 15 + x.tag * 2 ^ 20 + (if x.last = true then 2 ^ 28 else 0) + (if x.poison = true then 2 ^ 29 else 0) +
    (if x.int = true then 2 ^ 30 else 0)

/-- The pattern of an element in the output format of a spill (R154). -/
def spilled (fmt : Nat) (v : Lane) : Nat :=
  if fmt = 0 then v.toNat else if fmt = 1 then toBf16 (f32 v) else if fmt = 2 then (toE4m3 (f32 v)).1
  else if fmt = 3 then (toE5m2 (f32 v)).1 else (max (-128) (min 127 v.toInt) % 256).toNat

/-! ## Barriers (R270 to R273, R382 to R384) -/

/-- What completing a BAR may change at its core. -/
def barFlds : List Fld := flowFlds ++ [.coreP, .coreG, .coreGRdy, .barWait, .barCount, .detSegOpen, .detSegStart, .detSegExt]

/-- The member cores of a channel that wait in a barrier. -/
def Waits (ch scope bid c : Nat) (s : State) : Prop := c ∈ members ch bid s ∧ s.get .barWait c (scope * 4 + bid) ≠ 0

/-- The core's BAR has completed with a cause, 0 none (R270): its arrival is counted, and where it held the BAR it runs on with the
status in G[GD]. -/
def BarCompleted (c ix cause : Nat) (s t : State) : Prop :=
  t.get .barWait c ix = 0 ∧ t.get .barCount c ix = (s.get .barCount c ix + 1) % 2 ^ 32 ∧
  ∀ core sc b gd, tget? s.held c = some (.bar core sc b gd) → t.coreState c = stRunning ∧ tget? t.held c = none ∧
    GWritten c gd.toNat (BitVec.ofNat 64 (if cause = 0 then 0 else 1 + 2 * cause)) s t

/-! ## Fox (R201 to R245) -/

/-- What reserving and publishing ring slots may change at a channel (R222 to R224, R343). -/
def foxFlds : List Fld :=
  [.foxRingPtrFill, .foxRingPtrTent, .foxRingPtrHead, .foxRingPtrPub, .ringSlotSt, .ringSlotLanded, .ringSlotWords, .ringSlotEos,
    .ringSlotPoison, .ringSlotLeft, .ringSlotGen, .ringViewPend, .detRingExt]

/-- An active descriptor that is complete (R209, R217). -/
def FoxDone (ch : Nat) (d : Desc) (s : State) : Prop := descDone ch d s = true ∧ slotsPublished ch d s = true

/-- The HBM address that a LINEAR descriptor reads for a word (R204, R219). -/
def linearSource (d : Desc) (w : Nat) : Nat := (d.sa / 64 * 64 + 64 * w) % 2 ^ 40

/-- The address that a word of a descriptor is written to in HBM. -/
def hbmDest (d : Desc) (r : Req) : Nat := hbmAt d.da (d.offs r.w r.ix).2

/-- Entries of the host queue that Fox has not seen yet, up to the tail (R212). -/
def hsqWaiting (ch : Nat) (s : State) : Nat := (s.get .foxHsqTailIndex ch 0 + 64 - s.get .foxHsqSeen ch 0) % 64

/-! ## The Service Engine (R280 to R313) -/

/-- The request that REQUEST_ADMIT takes: the oldest of port 0, else the oldest of port 1 (R295). -/
def NextChecked (r : Request) (s : State) : Prop :=
  s.checked.find? (fun x => x.dest.port == 0) = some r ∨
    (∀ x ∈ s.checked, x.dest.port ≠ 0) ∧ s.checked.head? = some r

/-- The lanes and G[GD] that a BATCH.TAKE of some words writes (R305). -/
def TakenWords (c : Nat) (v gd : BitVec 5) (ws : List (BitVec 512)) (left tag : Nat) (first : Bool) (s t : State) : Prop :=
  VWritten c v.toNat (wordsInto c v.toNat ws s) s t ∧
    GWritten c gd.toNat (BitVec.ofNat 64 (left + tag * 2 ^ 32 + (if first then 2 ^ 48 else 0) + (if left = 0 then 2 ^ 49 else 0))) s t

/-- The fields that answering a request changes (R297, R313, R334). -/
def answerPlaces (r : Request) : Fld → Nat → Nat → Prop := fun f a _ =>
  f = .sveInflight ∧ a = 0 ∨ f ∈ [Fld.svcLat, .svcMaxUs] ∧ a = r.svc ∨ f = inflFld r.epoch ∧ a = r.ch ∨
    f = .svePortTx ∧ a = r.dest.port

/-- The request list with one request answered. -/
def answeredIn (r : Request) (l : List Request) : List Request := l.map fun x => if x.id = r.id then { r with answered := true } else x

/-- The core stands at the start of its other instruction bank after a swap (R61, R322): pc 0, no G register, loop, REPLAY or hold. -/
def Swapped (c : Nat) (t : State) : Prop :=
  t.get .corePc c 0 = 0 ∧ (∀ n < 32, t.g c n = 0#64) ∧ t.get .coreStatLdepth c 0 = 0 ∧ t.get .coreStatInreplay c 0 = 0 ∧
    tget? t.held c = none ∧ (t.coreState c = stRunning ∨ t.coreState c = stWaiting)

/-- A request as the engine makes them: a service, a channel and a port that exist. -/
def Request.Proper (r : Request) : Prop := r.svc < 4096 ∧ r.ch < 8 ∧ r.dest.port < 2


/-! ## Time (R361 to R386) -/

/-- The signed number that a field's bits spell. -/
def sgnd (w v : Nat) : Int := (BitVec.ofNat w v).toInt

/-- The signed number in a field. -/
def State.signed (s : State) (f : Fld) (a : Nat) : Int := sgnd f.width (s.get f a 0)

/-- The fields of a source's sample. -/
def sampleFlds : List Fld :=
  [.tunSrcOff, .tunSrcDly, .tunSrcOffset, .tunSrcDelay, .tunSrcRun, .tunSrcEp, .tunSrcTick, .tunSrcFresh, .tunSrcSamples]

/-- A source has a new sample: its offset and delay, one more in its count, fresh, and shown where the register holds it. -/
def Sampled (k : Nat) (off dly : Int) (s t : State) : Prop :=
  t.signed .tunSrcOff k = off ∧ t.signed .tunSrcDly k = dly ∧ t.get .tunSrcFresh k 0 = 1 ∧
    t.get .tunSrcSamples k 0 = (s.get .tunSrcSamples k 0 + 1) % 2 ^ 16 ∧
    (-(2 ^ 31) ≤ off ∧ off < 2 ^ 31 → t.signed .tunSrcOffset k = off) ∧
    (-(2 ^ 31) ≤ dly ∧ dly < 2 ^ 31 → t.signed .tunSrcDelay k = dly) ∧
    t.get .tunSrcTick k 0 = s.get .tunTicks 0 0 ∧ t.get .tunSrcEp k 0 = s.get .tunEpochs 0 0

/-- The distance from an edge to the nearest instant that SYNC_IN is due at (R367): due time less edge, in 1/256 ns. -/
def SyncAway (edge : Nat) (d : Int) (s : State) : Prop :=
  ∃ k : Int, (edge : Int) + d = 256 * (s.get .tunSyncCfgOffsetNs 0 0 + k * s.get .tunSyncCfgPeriodNs 0 0)

/-- The status that LAUNCH writes (R381). -/
def launchWord (late refused : Nat) (s : State) : Word :=
  BitVec.ofNat 64 (late + 2 * refused + 4 * s.get .tunStatState 0 0 + if s.get .tunStatState 0 0 = 2 then 16 else 0)

/-- T of a LAUNCH (R379): the register, or the least multiple of M at or after the count plus the register. -/
def LaunchAt (c : Nat) (mode : Bool) (gs : BitVec 5) (m : BitVec 32) (T : Nat) (s : State) : Prop :=
  if mode then T % max 1 m.toNat = 0 ∧ s.get .gtc 0 0 + (s.g c gs.toNat).toNat ≤ T ∧
    T < s.get .gtc 0 0 + (s.g c gs.toNat).toNat + max 1 m.toNat
  else T = (s.g c gs.toNat).toNat

/-- The time may be launched on: the state is not LOST and no contest stands (R380). -/
def TimeGood (s : State) : Prop := s.get .tunStatState 0 0 ≠ 3 ∧ s.get .tunStatContested 0 0 = 0

/-- What a fusion epoch may change (R369 to R377). -/
def epochFlds : List Fld :=
  [.tunEpochs, .tunEpochAt, .tunTrim, .tunOffset, .tunAge, .tunFest, .tunFestX, .tunFestY, .tunFestN, .tunFestNext, .tunStatLevel,
    .tunStatNelig, .tunStatNagree, .tunStatForced, .tunStatSlewing, .tunStatState, .tunStatContested, .tunStatAgeMs, .tunSrcFresh,
    .tunSrcElig, .tunSrcAgree, .tunSrcQuar, .tunSrcQleft, .tunAsymEff, .mbxIrqStatCause, .msixPba, .msixD3]


/-! ## Links (R394 to R411) -/

/-- The link is TRAINED-ISOLATED or ADMITTED: it carries coded flits (R407). -/
def LinkOn (l : Nat) (s : State) : Prop := s.get .lnkStatState l 0 = lkIsolated ∨ s.get .lnkStatState l 0 = lkAdmitted

/-- A flit has gone out on a link, with the latest ACK (R397), and nothing else has. -/
def Sent (l : Nat) (f : Flit) (s t : State) : Prop :=
  t.out = s.out ++ [.flit l (flitBytes { f with ackv := true, ack := (s.get .lnkExp l 0 + 4095) % 4096 })]

/-- The retry buffer of a link. -/
def retryOf (l : Nat) (s : State) : List Flit := tget [] s.retry l
/-- The flits that wait in a class of a link. -/
def waiting (l k : Nat) (s : State) : List Flit := tget [] s.txq (l * 8 + k)

/-- The order in which the next new flit is sought (R397): BARRIER, LINKCTL and HOPFAIL; forwarded; the three classes of the owning
channel from the one whose turn it is; ATTEST. -/
def sendOrder (l : Nat) (s : State) : List Nat :=
  let r := s.get .lnkRot l 0 % 3
  [0, 1, 2 + r, 2 + (r + 1) % 3, 2 + (r + 2) % 3, 5]

/-- A retry episode has opened on this side (R402): counted at the link and at the owning channel. -/
def EpisodeOpened (l : Nat) (s t : State) : Prop :=
  t.get .lnkEpisodes l 0 = (s.get .lnkEpisodes l 0 + 1) % 2 ^ 64 ∧
    t.get .retryCount (l / 6) 0 = (s.get .retryCount (l / 6) 0 + 1) % 2 ^ 64

/-- The places that opening an episode may change. -/
def episodePlaces (l : Nat) : Fld → Nat → Nat → Prop := fun f a _ =>
  a = l ∧ f ∈ [Fld.lnkEpisodes, .lnkEpTime, .lnkEpNext, .lnkNakPend, .lnkNakDue, .lnkRxEp, .lnkRxEpAt] ∨
    a = l / 6 ∧ f ∈ [Fld.retryCount, .detCauses]

/-- A NAK is due, unless one is pending already, and opens a receive episode (R400). -/
def Nakked (l : Nat) (s t : State) : Prop :=
  t.get .lnkExp l 0 = s.get .lnkExp l 0 ∧ t.retry = s.retry ∧
  (s.get .lnkNakPend l 0 ≠ 0 → t.get .lnkNakDue l 0 = s.get .lnkNakDue l 0 ∧ t.get .lnkEpisodes l 0 = s.get .lnkEpisodes l 0) ∧
  (s.get .lnkNakPend l 0 = 0 → t.get .lnkNakPend l 0 = 1 ∧ t.get .lnkNakDue l 0 = 1 ∧ t.get .lnkRxEp l 0 = 1 ∧
    t.get .lnkRxEpAt l 0 = s.get .gtc 0 0 ∧ EpisodeOpened l s t)

/-- The retry buffer once an ACK, if the flit carries one, has released what it acknowledges (R400). -/
def afterAck (l : Nat) (h : FlitHdr) (s : State) : List Flit :=
  if h.ackv then (retryOf l s).dropWhile fun f => decide ((h.ack.toNat + 4096 - f.seq) % 4096 < 2048) else retryOf l s

/-- The fields that receiving a flit in turn changes at its link. -/
def recvFlds : List Fld :=
  [.lnkExp, .lnkNakPend, .lnkRxEp, .lnkFecCorr, .lnkRxFlits, .lnkAckAt, .lnkReplay, .lnkTxEp]

/-- The link has taken a flit (R400): the receive episode is over, Expected has moved on where the flit is numbered, its
corrections are counted, and its ACK has released the sender's buffer. -/
def Took (l : Nat) (h : FlitHdr) (numbered : Bool) (s t : State) : Prop :=
  t.get .lnkExp l 0 = (if numbered then (s.get .lnkExp l 0 + 1) % 4096 else s.get .lnkExp l 0) ∧ t.get .lnkNakPend l 0 = 0 ∧
    t.get .lnkRxEp l 0 = 0 ∧ t.get .lnkFecCorr l 0 = (s.get .lnkFecCorr l 0 + h.corr.toNat) % 2 ^ 64 ∧
    retryOf l t = afterAck l h s ∧ TabElse State.retry l s t

/-- A replay has started: every unacknowledged flit, and a send episode unless one is open (R401). `q` is what is unacknowledged. -/
def Replaying (l : Nat) (q : List Flit) (s t : State) : Prop :=
  t.get .lnkReplay l 0 = q.length % 2 ^ 10 ∧ t.get .lnkAckAt l 0 = s.get .gtc 0 0 ∧
    (s.get .lnkTxEp l 0 = 0 → EpisodeOpened l s t ∧
      ∀ f, q.head? = some f → t.get .lnkTxEp l 0 = 1 ∧ t.get .lnkTxEpSeq l 0 = f.seq % 2 ^ 12 ∧ t.get .lnkTxEpAt l 0 = s.get .gtc 0 0)

/-- A link's state has changed, and why it left TRAINED-ISOLATED or ADMITTED (R407, R409). -/
def LinkIs (l st why : Nat) (t : State) : Prop := t.get .lnkStatState l 0 = st ∧ t.get .lnkStatFcause l 0 = why

/-- A link takes a numbered flit in its turn. -/
def InTurn (l : Nat) (h : FlitHdr) (s : State) : Prop := LinkOn l s ∧ h.seq.toNat = s.get .lnkExp l 0

/-- The numbered kinds: each command that stands for the arrival of a flit of one. -/
def numberedFlits (link : LinkId) (h : FlitHdr) (i : Instr) : Prop :=
  (∃ core ep ws, i = .flow link h core ep ws) ∨ (∃ m sp a w tag full, i = .rreq link h m sp a w tag full) ∨
  (∃ m ix p la ws cells, i = .rdata link h m ix p la ws cells) ∨ (∃ m x cells, i = .rref link h m x cells) ∨
  (∃ tag, i = .commit link h tag) ∨ (∃ tag, i = .cancel link h tag) ∨ (∃ chip fch x b, i = .hopfail link h chip fch x b) ∨
  (∃ b g, i = .arrive link h b g) ∨ (∃ b g n, i = .release link h b g n) ∨ (∃ b g x, i = .fault link h b g x) ∨
  (∃ x sg r la d, i = .attest link h x sg r la d) ∨ (∃ c, i = .hello link h c) ∨ (∃ c e, i = .peerAdmit link h c e) ∨
  (∃ c, i = .retire link h c)

/-- The routed kinds, with the kind code of their flit (R395). -/
def routedFlits (link : LinkId) (h : FlitHdr) (i : Instr) (kind : Nat) : Prop :=
  (∃ core ep ws, i = .flow link h core ep ws ∧ kind = 2) ∨ (∃ m sp a w tag full, i = .rreq link h m sp a w tag full ∧ kind = 3) ∨
  (∃ m ix p la ws cells, i = .rdata link h m ix p la ws cells ∧ kind = 4) ∨ (∃ m x cells, i = .rref link h m x cells ∧ kind = 5) ∨
  (∃ tag, i = .commit link h tag ∧ kind = 6) ∨ (∃ tag, i = .cancel link h tag ∧ kind = 6) ∨
  ∃ chip fch x b, i = .hopfail link h chip fch x b ∧ kind = 7

/-- Only receiving has changed anything but the places given and the tables `t` is given with. -/
def recvPlaces (l : Nat) : Fld → Nat → Nat → Prop := fun f a _ => a = l ∧ f ∈ recvFlds

/-- A routed flit has come in turn on an ADMITTED link, for this chip, which is not frozen (R400, R407, R413). -/
def ForHere (l : Nat) (h : FlitHdr) (s : State) : Prop :=
  InTurn l h s ∧ s.get .lnkStatState l 0 = lkAdmitted ∧ h.dchip.toNat = s.get .fabCtlChipId 0 0 ∧ s.frozen = false

/-- The places of a remote read's flit that are still to land: those within the message that have not come. -/
def needed (m : RMsg) (idx : Nat) : List Nat := (List.range 4).filter fun j => decide (4 * idx + j < m.n) && !m.got.contains (4 * idx + j)

/-- Where a word of a remote message lands in HBM. -/
def remoteDest (d : Desc) (m : RMsg) (w : Nat) : Nat := hbmAt d.da (d.offs (m.w + w) m.ix).2

/-- The payload of a BEACON (R396, R404): the send time, the latest beacon's times, a byte of LEVEL and USABLE, BSEQ and RXSEQ. -/
def beaconBody (l : Nat) (frac : BitVec 8) (levels : BitVec 8) (s : State) : List (BitVec 8) :=
  payload (beBytes 8 (s.get .gtc 0 0 * 256 + frac.toNat) ++ beBytes 8 (s.get .lnkPeerTx l 0) ++ beBytes 8 (s.get .lnkPeerRx l 0) ++
    [levels, BitVec.ofNat 8 (s.get .lnkBseq l 0 + 1), BitVec.ofNat 8 (s.get .lnkPeerBseq l 0)])

/-- The payload of a HELLO (R396, R408). -/
def helloBody (l : Nat) (s : State) : List (BitVec 8) :=
  payload (beBytes 8 (s.get .lnkNonce l 0) ++ beBytes 2 (s.get .fabCtlValid 0 0 * 2 ^ 15 + s.get .fabCtlChipId 0 0) ++ beBytes 1 l ++
    beBytes 2 (s.get .idPartPart 0 0) ++ beBytes 1 (s.get .idPartStep 0 0))


/-- A link has changed its state (R407, R418): event 0x0B01 is the last raised, and cause LINK of the chip's function is set. -/
def LinkMoved (l new why : Nat) (s t : State) : Prop :=
  LinkIs l new why t ∧ (t.get .mbxIrqStatCause 0 0).testBit 5 = true ∧
    (Recording s → t.evq = s.evq ++ [⟨0x0B01, 8, [l, s.get .lnkStatState l 0, new, why]⟩])

/-- The link's queues and retry buffer are empty. -/
def LinkEmpty (l : Nat) (t : State) : Prop := retryOf l t = [] ∧ ∀ k < 8, waiting l k t = []

/-- The causes of the chip's function and its messages, which many commands set. -/
def mgIrqFlds : List Fld := [.mbxIrqStatCause, .msixD3, .msixPba]

/-- What entering TRAINING clears at a link (R408). -/
def trainFlds : List Fld :=
  [.lnkStatLadmit, .lnkStatPadmit, .lnkHello, .lnkStatLock, .lnkCertDigest, .lnkMeasDigest, .lnkEpTime, .lnkEpNext, .lnkRxEp, .lnkTxEp,
    .lnkNakPend, .lnkNakDue, .lnkBcnSent, .lnkBcnDue, .lnkAttGot]

/-- A link has entered TRAINING: both flags and the digests are clear, and a NONCE is drawn (R408). -/
def Training (l why : Nat) (s t : State) : Prop :=
  LinkMoved l lkTraining why s t ∧ LinkEmpty l t ∧ (∀ f ∈ trainFlds, ∀ k < 256, t.get f l k = 0) ∧
    SameFields (fun f a _ => a = l ∧ (f ∈ trainFlds ∨ f ∈ [Fld.lnkStatState, .lnkStatSignal, .lnkNonce, .lnkReplay]) ∨
      a = 0 ∧ f ∈ mgIrqFlds) s t ∧
    t = { s with reg := t.reg, txq := t.txq, retry := t.retry, attest := t.attest, evq := t.evq, out := t.out, ctr := t.ctr }

/-- The command in progress at the mailbox has ended with a status (R587): STATUS shows it, BUSY is clear and DONE set. -/
def MbxEnded (status detail : Nat) (s t : State) : Prop :=
  t.get .mbxStatBusy 0 0 = 0 ∧ t.get .mbxStatDone 0 0 = 1 ∧ t.get .mbxStatStatus 0 0 = status ∧ t.get .mbxStatDetail 0 0 = detail ∧
    t.get .mbxStatCode 0 0 = s.get .mbxCur 0 0 ∧ t.get .mbxStatSeq 0 0 = s.get .mbxSeq 0 0 ∧ t.get .mbxCur 0 0 = 0 ∧
    (t.get .mbxIrqStatCause 0 0).testBit 0 = true

/-- What ending a command changes at the mailbox. -/
def mbxFlds : List Fld :=
  [.mbxStatBusy, .mbxStatDone, .mbxStatStatus, .mbxStatDetail, .mbxStatCode, .mbxStatSeq, .mbxCur, .mbxRsp, .mbxIrqStatCause, .msixD3,
    .msixPba]

/-- The digest that twelve argument words of a command spell, 32 bits to a word, from word i on. -/
def mbxDigest (i : Nat) (s : State) : Nat := (List.range 12).foldl (fun n k => n + s.get .mbxCopy (i + k) 0 * 2 ^ (32 * k)) 0

/-- LNK_CERT_DIGEST and LNK_MEAS_DIGEST show two digests. -/
def DigestsShown (l : Nat) (cert meas : BitVec 384) (t : State) : Prop :=
  ∀ k < 6, t.get .lnkCertDigest l k = field cert.toNat (64 * k) 64 ∧ t.get .lnkMeasDigest l k = field meas.toNat (64 * k) 64

/-- A LINKCTL flit is taken: in TRAINING as it is, else in its turn (R400, R407). -/
def CtlTaken (l : Nat) (h : FlitHdr) (s : State) : Prop := s.get .lnkStatState l 0 = lkTraining ∨ InTurn l h s


/-! ## Registers as host software writes them (chapter 00's register types, R579) -/

/-- A field after n bytes are written to a register from byte k on: `old` is what it read, `v` the bytes as a number. Fields that the
bytes do not cover whole are not spoken of. -/
def FieldIs (f : RegField) (k n v old new : Nat) (owned : Bool) : Prop :=
  8 * k ≤ f.lo → f.lo + f.fld.width ≤ 8 * k + 8 * n →
    match f.kind with
    | .ro => new = old
    | .rwl => new = if owned then old else field v (f.lo - 8 * k) f.fld.width
    | .w1c => ∀ i, new.testBit i = (old.testBit i && !(decide (i < f.fld.width) && v.testBit (f.lo - 8 * k + i)))
    | .rw | .wo => new = field v (f.lo - 8 * k) f.fld.width

/-- A register of a map has been written, at a place of its fields, and no other field has changed. -/
def RegWritten (r : Reg) (a b k n v : Nat) (owned : Bool) (s t : State) : Prop :=
  (∀ f ∈ r.fields, FieldIs f k n v (s.get f.fld a b) (t.get f.fld a b) owned) ∧
    SameFields (fun g x y => x = a ∧ y = b ∧ ∃ f ∈ r.fields, f.fld = g) s t ∧ OnlyReg s t

/-- An aligned access of 4 bytes, or of 8 to a register of 64 bits, at an offset of a space falls in a register there. -/
def Falls (rs : List Reg) (o n : Nat) (r : Reg) (a b k : Nat) : Prop :=
  r.bits ≠ 8 ∧ r.name ∉ ownRows ∧ o % n = 0 ∧ findReg rs o = some (r, a, b, k) ∧
    (n = 4 ∨ n = 8 ∧ k = 0 ∧ r.bits = 64 ∧ findReg rs (o + 4) = some (r, a, b, 4))

/-- Registers of function 0 that bring something with their write. -/
def mgmtActs : List String := ["PWR_STAT", "TUN_FBAR", "FAB_CTL", "SVE_CTL", "FRZ_HBM", "FPN_ALERT", "MSR_VAL"]
/-- Registers of a channel that do. -/
def chanActs : List String :=
  ["CH_FSET", "RTE_ROUTE", "RTE_RANK", "RTE_EXT", "RTE_BAR_MEM", "RTE_LINKF", "FOX_RA_TAB", "EPOCH_RABASE", "EPOCH_CTL", "EXCH_RING_CFG",
    "EXCH_RSEL", "EXCH_RATAB"]

/-- The byte of a channel's HBM at an address, as it reads. -/
def hbmByteAt (ch x : Nat) (s : State) : BitVec 8 := (hbmRead ch x s).1.getD (x % 64) 0#8

/-- What a function's cause register and mask register are. -/
def causeFld (fn : Nat) : Fld := if fn = 0 then .mbxIrqStatCause else .chIrqStatCause
/-- The mask register. -/
def maskFld (fn : Nat) : Fld := if fn = 0 then .mbxIrqMask else .chIrqMask

/-- A channel has begun to wake, for a cause (R494, R495), where it is in DOZE or DARK and the chip runs; else it stands. -/
def WakeBegun (ch cause : Nat) (s t : State) : Prop :=
  if (s.get .chPwrStatState ch 0 = 2 ∨ s.get .chPwrStatState ch 0 = 3) ∧ s.frozen = false ∧ s.get .pwrStatChip 0 0 = 0 ∧ s.cut = false then
    t.get .chPwrStatState ch 0 = 4 ∧ t.get .chPwrStatWcause ch 0 = cause ∧ t.get .wakeAt ch 0 = s.get .gtc 0 0 ∧
      t.get .pwrDark ch 0 = s.get .chPwrStatState ch 0 - 2
  else t.get .chPwrStatState ch 0 = s.get .chPwrStatState ch 0 ∧ t.get .chPwrStatWcause ch 0 = s.get .chPwrStatWcause ch 0

/-- What beginning a wake may change. -/
def wakeFlds : List Fld := [.chPwrStatState, .chPwrStatWcause, .pwrDark, .wakeAt]


/-! ## Owners (R419 to R448) -/

/-- How a reply goes in a session: by the transport that opened it (R467). -/
def sessionVia (ses : Nat) (s : State) : SpdmVia := if s.get .sesVia ses 0 = 0 then .doe else .mctp

/-- The reply to an owner message (R472). -/
def ownerReply (ses : Nat) (sel : Nat) (op ch status : Nat) (data : List (BitVec 8)) (s : State) : Output :=
  .spdm (sessionVia ses s) (.vendor ses sel op ch status data)

/-- Owner messages, with their OP (R424). -/
def ownerMessages (ses : BitVec 4) (sel : BitVec 16) (ch : BitVec 8) (body : List (BitVec 8)) : List (Instr × Nat) :=
  [(.obind ses sel ch body, 1), (.ogrant ses sel ch body, 2), (.oskey ses sel ch body, 3), (.opolicy ses sel ch body, 4),
    (.oend ses sel ch body, 5), (.ostat ses sel ch body, 6)]

/-- The channel's state is OWNED, and a session is its owner's. -/
def OwnedBy (ses c : Nat) (s : State) : Prop :=
  c < 8 ∧ s.get .ownChStatState c 0 = 3 ∧ s.get .ownChOid c 0 + s.get .ownChOid c 1 * 2 ^ 64 = s.get .sesOid ses 0

/-- A session that carries owner messages. -/
def SessionUp (ses : Nat) (s : State) : Prop := ses < 8 ∧ s.get .sesState ses 0 = 3

/-- The bytes of OWN_CFG and of a policy byte. -/
def PolicyIs (c v : Nat) (t : State) : Prop :=
  t.get .ownCfgHostio c 0 = field v 0 2 ∧ t.get .ownCfgEvrVisible c 0 = field v 2 1 ∧ t.get .ownCfgSvcTagged c 0 = field v 3 1

/-- The fields of a grant entry. -/
def GrantIs (c e v : Nat) (t : State) : Prop :=
  t.get .ownGrantChip c e = field v 0 15 ∧ t.get .ownGrantCh c e = field v 15 3 ∧ t.get .ownGrantSend c e = field v 18 1 ∧
    t.get .ownGrantRecv c e = field v 19 1 ∧ t.get .ownGrantRead c e = field v 20 1 ∧ t.get .ownGrantServe c e = field v 21 1

/-- The places an interrupt of function 0 or of channel c may change. -/
def irqPlaces (c : Nat) : Fld → Nat → Nat → Prop := fun f a _ =>
  a = 0 ∧ f ∈ mgIrqFlds ∨ a = c ∧ f = .chIrqStatCause ∨ a = c + 1 ∧ f ∈ [Fld.msixD3, .msixPba]

/-- The bytes of a message body as a number, least significant first, from byte i on. -/
def bodyLe (body : List (BitVec 8)) (i n : Nat) : Nat := leNat ((body.drop i).take n)


/-! ## Power, clocks and heat (R482 to R514) -/

/-- The clocks' registers, which show what is in force, and the cause of a change in the open batch interval. -/
def clockFlds : List Fld := [.chClkStatFeff, .chClkStatHalved, .chClkStatThrottled, .chClkStatCapped, .detCauses]

/-- A channel has gone from one power state to another (R493, R514): event 0x0E01. -/
def powerEvent (ch old new why : Nat) : Event := ⟨0x0E01, ch, [ch, old, new, why]⟩

/-- The places that entering or leaving a power state may change: the state, the clocks, the mailbox and the interrupts. -/
def powerPlaces (ch : Nat) : Fld → Nat → Nat → Prop := fun f a b =>
  irqPlaces ch f a b ∨ a = ch ∧ (f ∈ clockFlds ∨ f = .chPwrStatState) ∨ a = 0 ∧ f ∈ mbxFlds

/-- The fused reading of a region after a sample of some pairs, each region at most once (R507): 2^15 above, in 1/16 °C. -/
def sampledTemp (pairs : List (BitVec 8 × Reading × Reading)) (r : Nat) (s : State) : Nat :=
  match pairs.find? fun p => p.1.toNat == r with
  | some p => (fused p.2.1 p.2.2 + 32768).toNat
  | none => s.get .regTemp r 0

/-- The highest fused reading of some regions (R507), in 1/16 °C. -/
def IsHottest (p : Nat → Prop) (temps : Nat → Nat) (m : Int) : Prop :=
  (∃ r < 256, p r ∧ temps r ≠ 0 ∧ (temps r : Int) - 32768 = m) ∧ ∀ r < 256, p r → temps r ≠ 0 → (temps r : Int) - 32768 ≤ m

/-- A temperature register reads m. -/
def TempIs (f : Fld) (a : Nat) (m : Int) (t : State) : Prop := t.signed f a = m

/-- A LOCKSTEP channel's wanted frequency (R484). -/
def wantedL (lfreq cap th : Nat) : Nat := min (min 2 lfreq) (min cap th)

/-- The setpoint of an island, cut to its range (R483). -/
def setpoint (ch i : Nat) (s : State) : Nat := max 800 (min 1650 (s.get .chFsetFset ch i))

/-- A limit of an island one step lower than what is in force, down to a floor (R506, R508). -/
def stepDown (f : Fld) (ch i floor : Nat) (s : State) : Nat :=
  max floor (min (s.get f ch i) (min (setpoint ch i s) (min (s.get .capLim ch i) (s.get .thLim ch i))) - 50)

/-- A timer has run for 10 ms. -/
def Ran10ms (f : Fld) (ch : Nat) (s : State) : Prop := s.get f ch 0 ≠ 0 ∧ s.get f ch 0 + 10000000 ≤ s.get .gtc 0 0 + 1

/-- Every link is DOWN or RETIRED. -/
def LinksDown (t : State) : Prop := ∀ l < 48, t.get .lnkStatState l 0 = lkDown ∨ t.get .lnkStatState l 0 = lkRetired


/-! ## The mailbox (R584 to R588) -/

/-- The mailbox takes a command: the write takes effect and no command runs (R576, R585). -/
def MbxFree (s : State) : Prop := s.mgWrite = true ∧ s.get .mbxStatBusy 0 0 = 0

/-- The commands that a frozen chip accepts (R557). -/
def frozenAccepts : List Nat := [0x01, 0x04, 0x09, 0x0A, 0x0B, 0x0D, 0x0E]

/-- A command of a code acts: the mailbox takes it, the chip is READY, and where it is frozen it accepts the command (R451, R557). -/
def MbxActs (code : Nat) (s : State) : Prop :=
  MbxFree s ∧ s.get .msrBootStage 0 0 = 3 ∧ (s.frozen = true → code ∈ frozenAccepts)

/-- A mailbox command as the registers give it: CODE, SEQ, the argument words, and the number of the object it names. -/
structure MbxCmd where
  code : Nat
  obj : Nat
  seq : BitVec 8
  args : List Nat

/-- The first argument word of POWER_SET (R588). -/
def powerWord (scope st : Nat) (force off : Bool) : Nat :=
  scope + st * 2 ^ 8 + (if force then 2 ^ 12 else 0) + if off then 2 ^ 13 else 0

/-- The 32-bit words of a number, the lowest first. -/
def wordsOf (n v : Nat) : List Nat := (List.range n).map fun k => field v (32 * k) 32

/-- The mailbox commands that software issues, with their codes and argument words (R588). -/
def mbxOf : Instr → Option MbxCmd
  | .identify q => some ⟨0x01, 0, q, []⟩
  | .channelAssign q c => some ⟨0x02, c.val, q, [c.val]⟩
  | .channelRelease q c => some ⟨0x02, c.val, q, [c.val + 2 ^ 8]⟩
  | .ownerBind q c tmo oid => some ⟨0x03, c.val, q, c.val :: tmo.toNat :: wordsOf 4 oid.toNat⟩
  | .ownerKill q c => some ⟨0x04, c.val, q, [c.val]⟩
  | .exchangeArm q c => some ⟨0x05, c.val, q, [c.val]⟩
  | .exchangeAbort q c => some ⟨0x06, c.val, q, [c.val]⟩
  | .epochFlip q svc e => some ⟨0x07, svc.toNat, q, [svc.toNat, e.toNat]⟩
  | .powerSet q sc st f o => some ⟨0x08, sc.toNat, q, [powerWord sc.toNat st.toNat f o]⟩
  | .powerSetRun q sc f o => some ⟨0x08, sc.toNat, q, [powerWord sc.toNat 0 f o]⟩
  | .powerSetStandby q sc f o => some ⟨0x08, sc.toNat, q, [powerWord sc.toNat 3 f o]⟩
  | .powerSetChipRun q f o => some ⟨0x08, 8, q, [powerWord 8 0 f o]⟩
  | .timePolicy q mask ws => some ⟨0x09, 0, q, mask.toNat :: (ws.take 63).map BitVec.toNat⟩
  | .linkAdmit q l => some ⟨0x0A, l.toNat, q, [l.toNat]⟩
  | .linkAdmitAttest q l => some ⟨0x0A, l.toNat, q, [l.toNat + 2 ^ 8]⟩
  | .linkAdmitAttestMatch q l cert meas =>
    some ⟨0x0A, l.toNat, q, (l.toNat + 2 * 2 ^ 8) :: (wordsOf 12 cert.toNat ++ wordsOf 12 meas.toNat)⟩
  | .linkAdmitRestore q l => some ⟨0x0A, l.toNat, q, [l.toNat + 3 * 2 ^ 8]⟩
  | .linkRetire q l => some ⟨0x0B, l.toNat, q, [l.toNat]⟩
  | .serviceBind q w0 w1 w2 w3 w4 w5 => some ⟨0x0C, field w0.toNat 0 12, q, [w0, w1, w2, w3, w4, w5].map BitVec.toNat⟩
  | .serviceUnbind q w0 => some ⟨0x0C, field w0.toNat 0 12, q, [w0.toNat]⟩
  | .evrClear q => some ⟨0x0D, 0, q, []⟩
  | .freezeArm q pin trig => some ⟨0x0E, 0, q, [(if pin then 1 else 0) + if trig then 2 else 0]⟩
  | _ => none

/-- A command names something that the die has not, or a state that its scope has not (R587, R588). -/
def MbxBadArg (s : State) : Instr → Prop
  | .channelAssign _ c | .channelRelease _ c | .ownerBind _ c _ _ | .ownerKill _ c | .exchangeArm _ c | .exchangeAbort _ c =>
    s.get .idGradeChannels 0 0 < c.val
  | .epochFlip .. | .serviceUnbind .. => s.get .idGradeSve 0 0 = 0
  | .powerSet _ sc st _ _ => 8 ≤ sc.toNat ∨ st = 0#2 ∨ st = 3#2 ∨ s.get .idGradeChannels 0 0 < sc.toNat
  | .powerSetRun _ sc _ _ => 8 < sc.toNat ∨ sc.toNat < 8 ∧ s.get .idGradeChannels 0 0 < sc.toNat
  | .powerSetStandby _ sc _ _ => sc.toNat ≠ 8
  | .linkAdmit _ l | .linkAdmitAttest _ l | .linkAdmitAttestMatch _ l _ _ | .linkAdmitRestore _ l | .linkRetire _ l =>
    s.get .idGradeLinks 0 0 ≤ l.toNat
  | .serviceBind _ w0 _ _ _ _ _ => s.get .idGradeSve 0 0 = 0 ∨ s.get .idGradeChannels 0 0 < field w0.toNat 12 3
  | _ => False

/-- A command on a channel that is KILLING, which refuses it as busy (R445): OWNER_KILL alone is none. -/
def MbxKilling (s : State) : Instr → Prop
  | .channelAssign _ c | .channelRelease _ c | .ownerBind _ c _ _ | .exchangeArm _ c | .exchangeAbort _ c =>
    s.get .ownChStatState c.val 0 = 4
  | .powerSet _ sc _ _ _ | .powerSetRun _ sc _ _ => sc.toNat < 8 ∧ s.get .ownChStatState sc.toNat 0 = 4
  | .serviceBind _ w0 _ _ _ _ _ => s.get .ownChStatState (field w0.toNat 12 3) 0 = 4
  | _ => False

/-- MBX_CMD and MBX_ARG show the command, and the device has its copy (R584). -/
def MbxTaken (m : MbxCmd) (t : State) : Prop :=
  t.get .mbxCmdCode 0 0 = m.code ∧ t.get .mbxCmdSeq 0 0 = m.seq.toNat ∧
    ∀ i v, m.args[i]? = some v → t.get .mbxArg i 0 = v ∧ t.get .mbxCopy i 0 = v

/-- A command has been taken and has completed with a status (R584, R587). -/
def MbxDone (m : MbxCmd) (status detail : Nat) (t : State) : Prop :=
  MbxTaken m t ∧ t.get .mbxStatBusy 0 0 = 0 ∧ t.get .mbxStatDone 0 0 = 1 ∧ t.get .mbxStatStatus 0 0 = status ∧
    t.get .mbxStatDetail 0 0 = detail ∧ t.get .mbxStatCode 0 0 = m.code ∧ t.get .mbxStatSeq 0 0 = m.seq.toNat ∧
    (t.get .mbxIrqStatCause 0 0).testBit 0 = true

/-- A command has been taken and runs: BUSY is set and DONE clear (R584). -/
def MbxRuns (m : MbxCmd) (t : State) : Prop :=
  MbxTaken m t ∧ t.get .mbxStatDone 0 0 = 0 ∧ t.get .mbxSeq 0 0 = m.seq.toNat ∧ mbxIs m.code m.obj t = true

/-- What taking and ending a command changes at the mailbox. -/
def mbxPlaces : Fld → Nat → Nat → Prop := fun f a _ =>
  f ∈ [Fld.mbxArg, .mbxCopy, .mbxRsp] ∨
    a = 0 ∧ f ∈ [Fld.mbxCmdCode, .mbxCmdSeq, .mbxCur, .mbxCurObj, .mbxSeq, .mbxStatBusy, .mbxStatDone, .mbxStatStatus, .mbxStatDetail,
      .mbxStatCode, .mbxStatSeq, .mbxIrqStatCause, .msixD3, .msixPba]

/-- Only the mailbox and the places named have changed, and events have been raised. -/
def MbxFrame (E : Fld → Nat → Nat → Prop) (s t : State) : Prop :=
  SameFields (fun f a b => mbxPlaces f a b ∨ E f a b) s t ∧ OnlyRegOut s t

/-- A command has completed, or runs, and nothing but the mailbox has changed; response word 0 is r where one is given. -/
def MbxOnly (r : Option Nat) (s t : State) : Prop :=
  MbxFrame (fun _ _ _ => False) s t ∧ t.evq = s.evq ∧ ∀ v, r = some v → t.get .mbxRsp 0 0 = v % 2 ^ 32

/-- The words that IDENTIFY answers (R588): ID_PART, ID_GRADE, ID_SERIAL, MSR_BOOT, the image versions, FAB_CTL, the channels' owner
states and the interface version. -/
def identityWords (s : State) : List Nat :=
  [s.get .idPartStep 0 0 * 2 ^ 8 + s.get .idPartPart 0 0 * 2 ^ 16,
    s.get .idGradeIslands 0 0 + s.get .idGradeChannels 0 0 * 2 ^ 4 + s.get .idGradeLinks 0 0 * 2 ^ 8 + s.get .idGradeSve 0 0 * 2 ^ 16,
    field (s.get .idSerial 0 0) 0 32, field (s.get .idSerial 0 0) 32 32,
    s.get .msrBootStage 0 0 + s.get .msrBootFallback 0 0 * 2 ^ 3 + s.get .msrBootSlotb 0 0 * 2 ^ 4 + s.get .msrBootRcause 0 0 * 2 ^ 12 +
      s.get .msrBootWdcount 0 0 * 2 ^ 16,
    s.get .msrImgverVersion 0 0, s.get .msrImgverVersion 1 0, s.get .msrImgverVersion 2 0, s.get .msrImgverVersion 3 0,
    s.get .msrImgverVersion 4 0, s.get .msrImgverVersion 5 0,
    s.get .fabCtlChipId 0 0 + s.get .fabCtlValid 0 0 * 2 ^ 15 + s.get .fabCtlHopmax 0 0 * 2 ^ 16,
    (List.range 8).foldl (fun n c => n + s.get .ownChStatState c 0 * 2 ^ (4 * c)) 0, 1]

/-- The kill wave has gone out on a channel (R442), with what is to follow it: 0 READY, 1 BINDING, 2 UNASSIGNED. -/
def KillBegun (ch source next : Nat) (s t : State) : Prop :=
  t.get .ownChStatState ch 0 = 4 ∧ t.get .killThen ch 0 = next ∧ t.get .killAt ch 0 = s.get .gtc 0 0 ∧
    t.get .ownChStatKeysrc ch 0 = 0 ∧ t.get .ownChStatSkeys ch 0 = 0 ∧ t.get .ownChStatRdkey ch 0 = 0 ∧ t.get .xtsKey ch 0 = 0 ∧
    (∀ k < 16, t.get .ownSkey ch k = 0) ∧ (∀ k < 8, k ≠ ch → t.get .ownChStatState k 0 = s.get .ownChStatState k 0) ∧
    (Recording s → ⟨0x0C01, ch, [ch, s.get .ownChStatState ch 0, 4]⟩ ∈ t.evq ∧ ⟨0x0C05, ch, [ch, source]⟩ ∈ t.evq) ∧
    (chanFrozen ch s = false → t.get .sveChAdmit ch 0 = 0 ∧ t.queue ch = [] ∧
      (s.get .exchStatPhase ch 0 = 1 ∨ s.get .exchStatPhase ch 0 = 2 → t.get .exchStatPhase ch 0 = 0 ∧ t.get .exchStatResult ch 0 = 6) ∧
      (∀ svc ∈ boundTo (· == ch) s, svc < 4096 → t.get .sveSvcW0Bound svc 0 = 0) ∧
      ∀ c ∈ s.coresOf ch, t.coreState c = stStopped ∨ t.coreState c = stHalted)

/-- The cause that refuses LINK_ADMIT in a mode other than RESTORE (R410, R588): 0 none. -/
def admitRefusal (l : Nat) (s : State) : Nat :=
  if s.get .lnkStatState l 0 ≠ lkIsolated then 1 else if s.get .fabCtlValid 0 0 = 0 then 2
  else if s.get .lnkPeerValid l 0 ≠ 0 ∧ s.get .lnkPeerChip l 0 = s.get .fabCtlChipId 0 0 then 3 else 0

/-- The words of SERVICE_BIND lie in the legal ranges (R291). -/
def BindLegal (w1 w2 w3 w4 : Nat) : Prop :=
  20 ≤ field w1 0 11 ∧ field w1 0 11 ≤ 2000 ∧ 1 ≤ field w1 11 9 ∧ field w1 11 9 ≤ 256 ∧ 1 ≤ field w2 0 20 ∧ 1 ≤ field w1 20 9 ∧
    field w1 20 9 ≤ 256 ∧ field w4 0 13 ≤ 4096 ∧ field w3 0 17 + (field w4 0 13 + 63) / 64 ≤ 131072

/-- The fields of a service's table entry, and what SERVICE_BIND's words give each (R588). -/
def svcRows (w0 w1 w2 w3 w4 : Nat) : List (Fld × Nat) :=
  [(.sveSvcW0Bound, 1), (.sveSvcW0Channel, field w0 12 3), (.sveSvcW0TagReq, field w0 17 1), (.sveSvcW0Errq, field w0 18 1),
    (.sveSvcW0Sync, field w0 19 2), (.sveSvcW0Keyslot, field w0 21 4), (.sveSvcW0WindowUs, field w1 0 11),
    (.sveSvcW0Maxb, field w1 11 9), (.sveSvcW0Kdef, field w1 20 9), (.sveSvcW0DeadlineUs, field w2 0 20),
    (.sveSvcW1FbCell, field w3 0 17), (.sveSvcW1FbLen, field w4 0 13)]

/-- A binding passes the test of R439. -/
def BindTagged (ch w0 : Nat) (s : State) : Prop :=
  s.get .ownChStatState ch 0 ≠ 3 ∨ s.get .ownCfgSvcTagged ch 0 = 0 ∨
    field w0 17 1 = 1 ∧ field w0 21 4 ≠ 0 ∧ (s.get .ownChStatSkeys ch 0).testBit (field w0 21 4) = true


/-! ## The recorder (R515 to R547) and the freeze (R549 to R573) -/

/-- A record (R518): VALID, CLASS and CRIT, UNITS and SOURCE; CODE, REPEAT, OPSEC and PCYC; and the CRC in its last four bytes. -/
def IsRecord (bs : List (BitVec 8)) (units cls : Nat) (crit : Bool) (src code rep ops pcyc : Nat) : Prop :=
  bs.length = 32 * units ∧
    bs.take 4 = [0xA5#8, BitVec.ofNat 8 (cls + if crit then 16 else 0), BitVec.ofNat 8 units, BitVec.ofNat 8 src] ∧
    leNat ((bs.drop 4).take 2) = code % 2 ^ 16 ∧ leNat ((bs.drop 6).take 2) = rep % 2 ^ 16 ∧
    leNat ((bs.drop 8).take 5) = ops % 2 ^ 40 ∧ leNat ((bs.drop 13).take 3) = pcyc % 2 ^ 24 ∧
    leNat (bs.drop (32 * units - 4)) = crc32c ((bs.take (32 * units - 4)).drop 1) % 2 ^ 32

/-- An event record (R519): two units, CONTEXT from byte 16 and DT from byte 56. -/
def IsEventRecord (bs : List (BitVec 8)) (crit : Bool) (e : Event) (rep ops pcyc dt : Nat) : Prop :=
  IsRecord bs 2 1 crit e.src e.code rep ops pcyc ∧
    leNat ((bs.drop 16).take 40) = packCtx (ctxWidths e) e.ctx 0 % 2 ^ 320 ∧ leNat ((bs.drop 56).take 4) = dt % 2 ^ 32

/-- The open sector has room for some units: a record goes to its next unit. -/
def RoomFor (units : Nat) (s : State) : Prop :=
  s.get .evrSec 0 0 ≠ 0 ∧ s.get .evrTorn 0 0 = 0 ∧ s.get .evrUnit 0 0 + units ≤ 128

/-- The NOR address of the next record in the open sector (R516). -/
def nextPlace (s : State) : Nat := 2 ^ 47 + 2 ^ 25 + s.get .evrSec 0 0 * 4096 + s.get .evrUnit 0 0 * 32

/-- The newest event record in SRAM is one of an event that counts a repeat (R524, R525). -/
def RepeatOf (e : Event) (r : Rec) (s : State) : Prop :=
  (s.evrBuf.filter fun x => x.ev.isSome).getLast? = some r ∧ r.ev = some e ∧ r.done = 0 ∧ leNat ((r.bytes.drop 6).take 2) < 0xFFFF

/-- A freeze has begun (R549, R552): the source and the time of the wave, every channel frozen, event 0x1001, cause FREEZE and a flush. -/
def FreezeBegun (src slot : Nat) (s t : State) : Prop :=
  t.get .frzStatFrozen 0 0 = 1 ∧ t.get .frzStatSrc 0 0 = src ∧ t.get .frzStatSlot 0 0 = slot ∧ t.get .frzStatChfrozen 0 0 = 0xFF ∧
    t.get .frzGtc 0 0 = s.get .gtc 0 0 ∧ t.get .frzOpsec 0 0 = ctrValue 0 s ∧ t.get .frzPcyc 0 0 = ctrValue 1 s ∧
    t.get .frzStatRo 0 0 = 0 ∧ (t.get .mbxIrqStatCause 0 0).testBit 6 = true ∧
    (s.get .evrStatMounted 0 0 ≠ 0 → t.get .evrStatFlushing 0 0 = 1)

/-- The fields that beginning a freeze changes. -/
def freezeFlds : List Fld :=
  [.frzStatFrozen, .frzStatSrc, .frzStatSlot, .frzStatChfrozen, .frzGtc, .frzOpsec, .frzPcyc, .frzStatRo, .frzCause, .mbxIrqStatCause,
    .msixD3, .msixPba, .evrStatFlushing]

/-- A freeze has begun and nothing else has changed. -/
def OnlyFreeze (src slot : Nat) (s t : State) : Prop :=
  FreezeBegun src slot s t ∧ (Recording s → t.evq = s.evq ++ [⟨0x1001, 8, [src]⟩]) ∧ SameFields (fun f _ _ => f ∈ freezeFlds) s t ∧
    OnlyRegOut s t

/-- Where the records of the cursor's sector end. -/
def cursorTop (s : State) : Nat :=
  match (heldSectors s).find? fun e => e.2 == evrCursor s / 2 ^ 12 with
  | some e => if e.1 = s.get .evrSec 0 0 then 128 else s.get .evrSecEnd e.1 0
  | none => 128

/-- The cursor n units on: past the last record of its sector it is at unit 1 of the next (R544). -/
def cursorAfter (n : Nat) (s : State) : Nat :=
  let sseq := evrCursor s / 2 ^ 12
  let unit := field (evrCursor s) 5 7 + n
  (if cursorTop s ≤ unit then (sseq + 1) * 2 ^ 12 + 2 ^ 5 else sseq * 2 ^ 12 + unit * 2 ^ 5) % 2 ^ 44

/-- The fields of a trigger slot that a write at an offset of its registers sets: the field, its place, and its value (R529, R579). -/
def trigRows (r : Nat) (wide : Bool) (v : Nat) : List (Fld × Nat × Nat) :=
  let low : List (Fld × Nat × Nat) := [(.evrTrigCode, 0, field v 0 16), (.evrTrigMask, 0, field v 16 16)]
  let high (w : Nat) : List (Fld × Nat × Nat) :=
    [(.evrTrigSrc, 0, field w 0 9), (.evrTrigN, 0, field w 9 5), (.evrTrigFrz, 0, field w 14 1), (.evrTrigEn, 0, field w 15 1)]
  if r = 0 then low ++ if wide then high (field v 32 32) else []
  else if r = 4 then high v
  else if 8 ≤ r ∧ r < 0x48 then
    (.evrTrigSel, (r - 8) / 4, field v 0 32) :: if wide then [(.evrTrigSel, (r - 8) / 4 + 1, field v 32 32)] else []
  else []

/-- The code whose rate limit a byte of EVR_RLIM holds (R526). -/
def rlimCode (ix : Nat) : Nat := (ix / 256 + 1) * 256 + ix % 256

/-- A read-out has started on a path (R562, R565): it streams from the image header on. -/
def ReadoutOn (path : Nat) (s t : State) : Prop :=
  t.get .frzStatRo 0 0 = 1 ∧ t.get .frzStatPath 0 0 = path ∧ t.get .roNext 0 0 = 0 ∧ t.get .roSent 0 0 = 0 ∧
    t.get .frzRoPosOffset 0 0 = 0 ∧ t.get .frzRoLenBytes 0 0 = 0 ∧ t.get .frzRoLenReady 0 0 = 0 ∧ t.get .frzRoLenLast 0 0 = 0 ∧
    t.roTail.length = 64 ∧ t.roTail.take 4 = [0x55#8, 0x4C#8, 0x52#8, 0x4F#8] ∧
    leNat ((t.roTail.drop 8).take 8) = s.get .idSerial 0 0 ∧ leNat ((t.roTail.drop 16).take 8) = s.get .frzGtc 0 0 ∧
    (Recording s → t.evq = s.evq ++ [⟨0x1003, 8, [path]⟩]) ∧
    SameFields (fun f _ _ => f ∈ [Fld.frzStatRo, .frzStatPath, .roNext, .roCrc, .roSent, .roOn, .roLast, .frzRoPosOffset, .frzRoLenBytes,
      .frzRoLenLast, .frzRoLenReady]) s t ∧
    t = { s with reg := t.reg, evq := t.evq, roTail := t.roTail }

/-- The read-out has ended: 2 complete, 3 cut off (R564). -/
def ReadoutOver (how : Nat) (t : State) : Prop :=
  t.get .frzStatRo 0 0 = how ∧ t.roTail = [] ∧ (t.get .mbxIrqStatCause 0 0).testBit 6 = true


/-! ## Start-up and the resets (R449 to R480) -/

/-- A slot of an image kind is valid, in the flash as it stands (R454). -/
def Bootable (kind : Nat) (s : State) : Prop := ∃ b, slotFault kind b s = none

/-- The records in the SRAM have their places in the recorder's region of NOR (R516, R535). -/
def RecordsPlaced (s : State) : Prop := ∀ r ∈ s.evrBuf, 2 ^ 47 + 2 ^ 25 ≤ r.addr

/-- What a cold or warm reset leaves (R480): the cause shown; cores STOPPED with their registers clear, channels DARK, UNASSIGNED or
UNAVAILABLE, and without keys; scratchpads, instruction banks and the pool as unwritten memory; images and the ID block as before; no
work in any unit. -/
def Restarted (cause : Nat) (s t : State) : Prop :=
  t.get .msrBootRcause 0 0 = cause ∧
    (∀ c < 1280, t.coreState c = stStopped ∧ t.get .corePc c 0 = 0 ∧ (∀ n < 32, t.g c n = 0#64) ∧ ∀ n < 64, t.p c n = 0#64) ∧
    (∀ ch < 8, (t.get .ownChStatState ch 0 = 0 ∨ t.get .ownChStatState ch 0 = 5) ∧ t.get .xtsKey ch 0 = 0 ∧
      t.get .chPwrStatState ch 0 = 3 ∧ t.get .exchStatPhase ch 0 = 0 ∧ ∀ k < 16, t.get .ownSkey ch k = 0) ∧
    (∀ k < 8, t.get .sesState k 0 = 0) ∧ (∀ svc < 4096, t.get .sveSvcW0Bound svc 0 = 0) ∧ t.get .frzStatFrozen 0 0 = 0 ∧
    (∀ l < 48, t.get .lnkStatState l 0 = lkDown ∨ t.get .lnkStatState l 0 = lkTraining) ∧
    (∀ a, 2 ^ 43 ≤ a → a < 2 ^ 47 → t.byte a = 0#8) ∧ (∀ a, 2 ^ 47 ≤ a → a < 2 ^ 47 + 2 ^ 25 → t.byte a = s.byte a) ∧
    (∀ f ∈ [Fld.idPartPart, .idPartStep, .idGradeIslands, .idGradeChannels, .idGradeLinks, .idGradeSve, .idSerial, .idSlot, .gaPins,
      .fpnCagePresent], ∀ a b, t.get f a b = s.get f a b) ∧
    t = { State.reset with
      reg := t.reg, mem := t.mem, hbmKey := t.hbmKey, hbmBad := t.hbmBad, evq := t.evq, evrBuf := t.evrBuf,
      evrStaged := t.evrStaged, out := t.out, ctr := t.ctr, pending := s.pending }

/-- The stage that start-up reaches (R449, R461, R462), by what the flash holds: `wd` is the watchdog's count, `reach` the stage at
which the firmware stops serving, 3 none. -/
def BootsTo (cold : Bool) (wd reach : Nat) (env : BootEnv) (s t : State) : Prop :=
  (cold = true ∧ env.fuseErr = true → t.get .msrBootStage 0 0 = 7) ∧
    (¬(cold = true ∧ env.fuseErr = true) →
      (6 ≤ wd ∨ ¬ Bootable 0 s → t.get .msrBootStage 0 0 = 6) ∧
      (wd < 6 → Bootable 0 s → Bootable 2 s → t.get .msrBootStage 0 0 = reach ∧
        (reach = 3 → t.get .mbxStatReady 0 0 = 1 ∧ t.get .msrBootWdcount 0 0 = 0 ∧
          (Bootable 3 s → env.loadFail.toNat.testBit 3 = false → env.bist = [] → ∀ ch < 8, t.get .ownChStatState ch 0 = 0) ∧
          (¬ Bootable 3 s ∨ env.loadFail.toNat.testBit 3 = true → ∀ ch < 8, t.get .ownChStatState ch 0 = 5))))

/-- A cold start (R476): nothing outside the flash keeps its contents, and the count of time starts at zero. -/
def StartedCold (cause : Nat) (env : BootEnv) (s t : State) : Prop :=
  Restarted cause s t ∧ BootsTo true 0 3 env s t ∧ t.get .modOn 0 0 = 1 ∧ t.get .gtc 0 0 = 0 ∧ t.hbmKey = [] ∧
    (∀ fn < 9, t.get .msixEn fn 0 = 0 ∧ t.get .fnD3 fn 0 = 0) ∧ ∀ a < 2 ^ 43, t.byte a = 0#8

/-- A warm start (R477): time counts on, the stacks keep their ciphertext and the PCIe state stays. -/
def StartedWarm (cause wd reach : Nat) (env : BootEnv) (s t : State) : Prop :=
  Restarted cause s t ∧ BootsTo false wd reach env s t ∧ t.get .gtc 0 0 = s.get .gtc 0 0 ∧ (∀ a < 2 ^ 43, t.byte a = s.byte a) ∧
    t.hbmKey = s.hbmKey ∧ (∀ fn < 9, t.get .fnD3 fn 0 = s.get .fnD3 fn 0 ∧ t.get .msixEn fn 0 = s.get .msixEn fn 0) ∧
    (Recording s → ⟨0x0D05, 8, [1, cause]⟩ ∈ t.evq)

/-- A channel has been reset (R480): its cores, FIFOs, counters and queue are empty, its rings' generations one more; memory, keys,
ownership and the staged configuration are as before. -/
def ChanReset (ch : Nat) (s t : State) : Prop :=
  (∀ c ∈ s.coresOf ch, t.coreState c = stStopped ∧ t.get .corePc c 0 = 0 ∧ (∀ n < 32, t.g c n = 0#64) ∧ tget? t.held c = none ∧
      (∀ e < 8, t.fifoAt c e = []) ∧ ∀ k < 16, t.get .synCnt c k = 0) ∧
    (∀ r < 256, t.get .foxRingPtrGen ch r = (s.get .foxRingPtrGen ch r + 1) % 256 ∧ t.get .foxRingPtrHead ch r = 0 ∧
      t.get .foxRingPtrTail ch r = 0) ∧
    t.queue ch = [] ∧ t.transitOf ch = [] ∧ t.get .sveChAdmit ch 0 = 0 ∧ t.get .bdgStatDeadlock ch 0 = 0 ∧
    (s.get .exchStatPhase ch 0 = 1 ∨ s.get .exchStatPhase ch 0 = 2 → t.get .exchStatPhase ch 0 = 0)

/-- What a channel's reset leaves alone, on a channel that is not frozen. -/
def ResetKeeps (s t : State) : Prop :=
  t.mem = s.mem ∧ t.hbmKey = s.hbmKey ∧ t.pending = s.pending ∧
    ∀ f ∈ [Fld.ownChStatState, .ownChOid, .xtsKey, .ownSkey, .chSpdEpoch, .rteRoute, .rteCtlActive, .foxRingCfgEn, .foxRaTabValid,
      .chCfgLockstep, .chPwrStatState, .ownGrantChip, .gtc], ∀ a b, t.get f a b = s.get f a b

/-- The PCIe state of a function (R478). -/
def pcieFlds : List Fld := [.msixEn, .msixFmask, .msixVmask, .msixPba, .msixTab, .msixD3, .fnD3]

/-- The PCIe state of a function is that of reset. -/
def PcieReset (fn : Nat) (t : State) : Prop := ∀ f ∈ pcieFlds, ∀ b, t.get f fn b = State.reset.get f fn b

/-- A session is open over DOE, or being opened. -/
def DoeSession (k : Nat) (s : State) : Prop := k < 8 ∧ s.get .sesState k 0 ≠ 0 ∧ s.get .sesVia k 0 = 0

/-- The sessions over DOE have ended, and nothing but those and the PCIe state of some functions has changed. -/
def DoeEnded (fns : Nat → Prop) (s t : State) : Prop :=
  (∀ k, DoeSession k s → t.get .sesState k 0 = 0) ∧ (∀ fn, fns fn → PcieReset fn t) ∧
    SameFields (fun f a _ => fns a ∧ f ∈ pcieFlds ∨ DoeSession a s ∧ f ∈ [Fld.sesState, .sesVia, .sesOid, .sesAsk]) s t ∧
    t = { s with reg := t.reg, evq := t.evq }

/-! ## The panel, the cages and the input (R594 to R616) -/

/-- The MGC firmware serves: the module has power, in stage 1, stage 2 or READY (R595). -/
def FirmwareUp (s : State) : Prop := s.get .modOn 0 0 ≠ 0 ∧ s.get .msrBootStage 0 0 ∈ [1, 2, 3]

/-- What a removal request or cancel may change beside the removal state. -/
def panelFlds : List Fld :=
  [.fpnStatRmv, .rmvStep, .fpnStatDisp, .fpnStatPage, .fpnStatView, .fpnAlertCause, .alertPin]

/-- A removal event came, 0x0F03 a request or 0x0F04 a cancel, and cause PANEL with it; only the panel's fields have changed. -/
def Panelled (code src : Nat) (s t : State) : Prop :=
  (t.get .mbxIrqStatCause 0 0).testBit 7 = true ∧ (Recording s → ∃ l, t.evq = s.evq ++ ⟨code, 8, [src]⟩ :: l) ∧
    SameFields (fun f a _ => f ∈ panelFlds ∨ a = 0 ∧ f ∈ mgIrqFlds) s t ∧ OnlyRegOut s t

/-- A request on the module has been taken (R596, R597, R604). -/
def ModuleRequested (src : Nat) (s t : State) : Prop :=
  t.get .fpnStatRmv 0 0 = (if s.get .fpnCtlRmvAuto 0 0 = 0 then 1 else 2) ∧ t.get .fpnStatDisp 0 0 = 1 ∧ t.get .fpnStatPage 0 0 = 5 ∧
    t.get .fpnStatView 0 0 = 0 ∧ (t.get .fpnAlertCause 0 0).testBit 3 = true ∧ Panelled 0x0F03 src s t

/-- Only the removal state has changed, and what tells of it. -/
def RmvIs (v : Nat) (s t : State) : Prop :=
  t.get .fpnStatRmv 0 0 = v ∧ SameFields (fun f _ _ => f = .fpnStatRmv) s t ∧ t = { s with reg := t.reg, out := t.out }

/-- A cage shows the class of its module (R612): 15 W at most in an OSFP cage, 12 W in a QSFP cage. -/
def CageShows (k : Nat) (pwr : BitVec 8) (t : State) : Prop :=
  t.get .fpnCagePwrW k 0 = pwr.toNat ∧
    (pwr.toNat ≤ (if k < 6 then 15 else 12) → t.get .fpnCageHighpwr k 0 = 1 ∧ t.get .fpnCageOverclass k 0 = 0) ∧
    ((if k < 6 then 15 else 12) < pwr.toNat → t.get .fpnCageHighpwr k 0 = 0 ∧ t.get .fpnCageOverclass k 0 = 1)

/-- The fields of a cage. -/
def cageFlds : List Fld := [.fpnCagePresent, .fpnCagePwrW, .fpnCageHighpwr, .fpnCageOverclass, .fpnCageAlarm]

/-- A cage is empty. -/
def CageEmpty (k : Nat) (t : State) : Prop :=
  t.get .fpnCagePresent k 0 = 0 ∧ t.get .fpnCageHighpwr k 0 = 0 ∧ t.get .fpnCageOverclass k 0 = 0 ∧ t.get .fpnCagePwrW k 0 = 0

/-! ## SPDM, MCTP and PLDM (R464 to R475, R620, R621) -/

/-- The firmware hears an SPDM request: over a link only where ATTEST flits have brought it whole (R475). -/
def Heard (via : SpdmVia) (s : State) : Prop :=
  FirmwareUp s ∧ ∀ l, via = .tlail l → s.get .lnkAttGot l.val 0 ≠ 0

/-- An SPDM request has been answered: on DOE and MCTP by the reply alone; over a link also in ATTEST segments that wait in its last
class. -/
def Answered (via : SpdmVia) (r : SpdmReply) (s t : State) : Prop :=
  t.out = s.out ++ [.spdm via r] ∧ s.ctr ≤ t.ctr ∧
    match via with
    | .tlail l => t.get .lnkAttGot l.val 0 = 0 ∧
      (∃ fs, fs ≠ [] ∧ waiting l.val 5 t = waiting l.val 5 s ++ fs ∧ ∀ f ∈ fs, f.kind = 10) ∧
      TabElse State.txq (l.val * 8 + 5) s t ∧ SameFields (fun f a _ => f = .lnkAttGot ∧ a = l.val) s t ∧
      t = { s with reg := t.reg, txq := t.txq, attest := t.attest, out := t.out, ctr := t.ctr }
    | _ => t = { s with out := t.out, ctr := t.ctr }

/-- The SPDM requests whose answer depends on the state alone (R467 to R470, R475). -/
def SpdmRow (via : SpdmVia) (offer : AlgOffer) (slot : BitVec 4) (offset length : BitVec 16) (s : State) (i : Instr)
    (r : SpdmReply) : Prop :=
  (i, r) ∈ [(.getVersion via, .version 0x12), (.getCapabilities via, .capabilities spdmCaps 16 8192 8192),
    (.negotiateAlgorithms via offer, if offer = ⟨true, true, true, true, true, true, true, true⟩ then .algorithms else
      .error .noCommonAlgorithm),
    (.getDigests via, if s.get .chainEmpty 0 0 = 0 then .digests 1 (sha384 (storedChain s)) else .digests 0 []),
    (.getCertificate via slot offset length,
      if slot ≠ 0#4 ∨ s.get .chainEmpty 0 0 ≠ 0 ∨ (storedChain s).length ≤ offset.toNat then .error .invalidRequest
      else .certificate (((storedChain s).drop offset.toNat).take length.toNat)
        ((storedChain s).length - offset.toNat - (((storedChain s).drop offset.toNat).take length.toNat).length)),
    (.unsupportedSpdmRequest via, .error .unsupportedRequest)]

/-- The session requests (R471). -/
def SessionRequest (via : SpdmVia) (ses : BitVec 4) (good : Bool) (key : List (BitVec 8)) (i : Instr) : Prop :=
  i ∈ [.keyExchange via, .finish via ses good, .endSession via ses, .heartbeat via ses, .keyUpdate via ses, .getEncapsulatedRequest via ses,
    .deliverEncapsulatedResponse via ses good key]

/-- The session requests of an established session, or of one at a handshake stage, with that stage (R471). -/
def AtStage (via : SpdmVia) (ses : BitVec 4) (good : Bool) (key : List (BitVec 8)) (i : Instr) (stage : Nat) : Prop :=
  (i, stage) ∈ [(.finish via ses good, 2), (.endSession via ses, 3), (.heartbeat via ses, 3), (.keyUpdate via ses, 3),
    (.getEncapsulatedRequest via ses, 1), (.deliverEncapsulatedResponse via ses good key, 1)]

/-- The transport of a session as it is kept: 0 DOE, 1 MCTP. -/
def viaNumber (via : SpdmVia) : Nat := if via = .mctp then 1 else 0

/-- A session on a transport stands at a stage. -/
def SessionAt (via : SpdmVia) (ses : BitVec 4) (stage : Nat) (s : State) : Prop :=
  ses.toNat < 8 ∧ s.get .sesState ses.toNat 0 = stage ∧ s.get .sesVia ses.toNat 0 = viaNumber via

/-- A session request has been answered, and of the state only that session's fields have changed. -/
def SessionAnswered (via : SpdmVia) (ses : BitVec 4) (r : SpdmReply) (s t : State) : Prop :=
  t.out = s.out ++ [.spdm via r] ∧
    SameFields (fun f a _ => a = ses.toNat ∧ f ∈ [Fld.sesState, .sesVia, .sesOid, .sesAsk]) s t ∧
    t = { s with reg := t.reg, evq := t.evq, out := t.out }

/-- What the management endpoint hands out, by command: MCTP control (R474) and PLDM (R621). -/
def EndpointRow (s : State) (ty : BitVec 8) (id : BitVec 16) (x : BitVec 8) (i : Instr) (o : Output) : Prop :=
  (i, o) ∈ [(.getEndpointId, .mctp (.eid (s.get .mctpEid 0 0))), (.getMessageTypeSupport, .mctp (.types [0x00, 0x01, 0x05, 0x06])),
    (.getTid, .pldm (.tid (s.get .pldmTid 0 0))), (.getPldmTypes, .pldm (.types ["DSP0240", "DSP0248"])),
    (.getPldmCommands ty, .pldm (if ty = 0 then .commands ["GetTID", "SetTID", "GetPLDMVersion", "GetPLDMTypes", "GetPLDMCommands"]
      else if ty = 2 then .commands ["GetPDRRepositoryInfo", "GetPDR", "GetSensorReading", "GetStateSensorReadings",
        "SetStateEffecterStates", "SetEventReceiver", "PlatformEventMessage"]
      else .error))] ++
  (if id ≠ 200 ∨ 3 ≤ x.toNat then [(.setStateEffecterStates id x, .pldm .error)] else [])

/-- The numeric sensors (R621): temperatures in sixteenths of a °C, powers and voltages in thousandths. -/
def SensorReads (id : Nat) (s : State) (r : PldmReply) : Prop :=
  (id = 1 → r = .reading (s.signed .telChipTj 0) 16) ∧ (∀ k < 8, id = 2 + k → r = .reading (s.signed .telChTj k) 16) ∧
    (∀ k < 8, id = 10 + k → r = .reading (s.signed .telChHbmTj k) 16) ∧ (id = 18 → r = .reading (s.get .telChipPwrMw 0 0) 1000) ∧
    (id = 19 → r = .reading (s.get .fpnPwrVin 0 0 * s.get .fpnPwrIin 0 0) 100000) ∧ (id = 20 → r = .reading (s.get .fpnPwrVin 0 0) 1000) ∧ (id = 21 → r = .reading (s.get .fpnPwrVbank 0 0) 1000) ∧
    (id = 0 ∨ 21 < id → r = .error)

/-- The state sensors (R621). -/
def stateReading (id : Nat) (s : State) : PldmReply :=
  if id = 100 then .state (s.get .fpnStatRmv 0 0)
  else if id = 101 then .state (if s.get .pwrTripTripped 0 0 ≠ 0 then 3 else if s.get .pwrStatHalved 0 0 ≠ 0 then 2 else
    if s.get .pwrStatThrottle 0 0 ≠ 0 then 1 else 0)
  else if id = 102 then .state (s.get .msrBootStage 0 0)
  else if id = 103 then .state (s.get .tunStatState 0 0)
  else .error

/-- The object of ATTN is an OSFP cage: the display shows its view (R596). -/
def ShowsCage (k : Nat) (s : State) : Prop :=
  k < 6 ∧ s.get .fpnStatDisp 0 0 ≠ 0 ∧ s.get .fpnStatPage 0 0 = 2 ∧ s.get .fpnStatView 0 0 = k + 1

/-- A request on a cage has been taken; with AUTORET its running links begin to retire, by a RETIRE of LINKCTL each (R602). -/
def CageRequested (k : Nat) (s t : State) : Prop :=
  t.get .fpnCageRreq k 0 = 1 ∧ (t.get .mbxIrqStatCause 0 0).testBit 7 = true ∧ (t.get .fpnAlertCause 0 0).testBit 3 = true ∧
    (Recording s → ∃ l, t.evq = s.evq ++ ⟨0x0F03, 8, [2 + k]⟩ :: l) ∧
    (∀ l ∈ linksOf k, s.get .fpnCtlAutoret 0 0 ≠ 0 → linkRuns l s = true → s.get .lnkRetiring l 0 = 0 →
      t.get .lnkRetiring l 0 = 1 ∧ ∃ f, waiting l 0 t = waiting l 0 s ++ [f] ∧ f.kind = 11 ∧ f.arg = 2 * 2 ^ 12) ∧
    SameFields (fun f a _ => f = .fpnCageRreq ∧ a = k ∨ f = .fpnAlertCause ∨ f = .alertPin ∨ a = 0 ∧ f ∈ mgIrqFlds ∨
      a ∈ linksOf k ∧ s.get .fpnCtlAutoret 0 0 ≠ 0 ∧ f ∈ [Fld.lnkRetiring, .lnkRetireAt]) s t ∧
    t = { s with reg := t.reg, evq := t.evq, out := t.out, txq := t.txq }

/-- A state with one more output, and otherwise as it was. -/
def Says (o : Output) (s : State) : State := { s with out := s.out ++ [o] }

/-- A field has a value, an output tells of it, and nothing else has changed. -/
def SetAndSaid (f : Fld) (v : Nat) (o : Output) (s t : State) : Prop :=
  t.get f 0 0 = v ∧ t.out = s.out ++ [o] ∧ SameFields (fun g _ _ => g = f) s t ∧ t = { s with reg := t.reg, out := t.out }

end Sys2Proof.Machine
end

