-- ==== Sys2Proof/Certificates/Slice0/Obligations.lean ====
section
/-!
DEFINITION. The statements for the provers, from the numbered rules of the spec.
-/
open Sys2Proof Sys2Proof.Machine

/-- A step takes the command at the front of the queue and gives its outcome; with none waiting it idles (log 1) (INDEX.md). -/
def Obligations.StepTakesTheFrontCommand : Prop :=
  (∀ (c : Instr) (s : State), step (s.push c) = exec c s) ∧ ∀ s : State, s.pending = [] → step s = .next s

/-- The state right after reset is sound (R21, R31). -/
def Obligations.ResetStateIsSound : Prop :=
  Sound State.reset ∧ (∀ f a b, State.reset.get f a b = resetAt f a b) ∧ (∀ a, State.reset.byte a = memDefault a) ∧
    State.reset.pending = []

/-- Every command completes; every step from a sound state gives a sound state, pops one command, withdraws nothing (R12, R13, R23, R31, R93). -/
def Obligations.EveryStepKeepsTheStateSound : Prop :=
  (∀ (c : Instr) (s : State), ∃ t, exec c s = .next t ∧ t.pending = s.pending) ∧
  ∀ s : State, Sound s → ∃ t, step s = .next t ∧ Sound t ∧ t.pending = s.pending.tail ∧ s.out <+: t.out ∧ s.ctr ≤ t.ctr

/-- In a sound state every named field reads below two to its width, and a write reads back (R31, R68, R69). -/
def Obligations.SoundFieldsFitTheirWidths : Prop :=
  (∀ s : State, Sound s → ∀ f ∈ Fld.all, ∀ a b, s.get f a b < 2 ^ f.width) ∧
  ∀ (s : State), ∀ f ∈ Fld.all, ∀ a b v, (s.put f a b v).get f a b = v % 2 ^ f.width ∧
    SameFields (fun g x y => g = f ∧ x = a % 2 ^ 24 ∧ y = b % 2 ^ 24) s (s.put f a b v)

/-- ADD to CMPLTU write G[GD] with the value R100 gives, usable after the latency of R101 (R65, R68, R100, R101). -/
def Obligations.ScalarArithmeticWritesItsResult : Prop :=
  ∀ r ∈ scalarRows, ∀ (core : CoreId) (gd ga : BitVec 5) (b : SrcB) (s : State), Sound s →
    s.ready core.val (r.spell core gd ga b) = true →
    ∃ t, exec (r.spell core gd ga b) s = .next t ∧
      GWritten core.val gd.toNat (r.value (s.g core.val ga.toNat) (operandB core.val s b)) s t ∧
      (gd ≠ 0#5 → t.get .coreGRdy core.val gd.toNat =
        (issueAt core.val (ga.toNat :: srcBRegs b) s + r.latency) % 2 ^ 64) ∧
      SameFields (writesG s core.val gd.toNat) s t ∧ IssuedReg core.val s t

/-- MOVI, MOVHI, RDS, MOVPG write G[GD] and MOVGP writes its P register (R68, R69, R70, R100, R101). -/
def Obligations.ScalarMovesWriteTheirRegister : Prop :=
  ∀ (core : CoreId) (gd ga : BitVec 5) (imm : BitVec 32) (index : BitVec 8) (p : BitVec 6) (s : State), Sound s →
    (∀ x ∈ [((Instr.movi core gd imm, BitVec.ofInt 64 imm.toInt) : Instr × Word),
        (.movhi core gd ga imm, BitVec.ofNat 64 (imm.toNat * 2 ^ 32 + (s.g core.val ga.toNat).toNat % 2 ^ 32)),
        (.rds core gd index, BitVec.ofNat 64 (rdsValue core.val index.toNat s)),
        (.movpg core gd p, s.p core.val p.toNat)],
      s.ready core.val x.1 = true →
      ∃ t, exec x.1 s = .next t ∧ GWritten core.val gd.toNat x.2 s t ∧
        SameFields (writesG s core.val gd.toNat) s t ∧ IssuedReg core.val s t) ∧
    (s.ready core.val (.movgp core p ga) = true → s.get .coreStatInreplay core.val 0 = 0 →
      ∃ t, exec (.movgp core p ga) s = .next t ∧
        (∀ n < 64, t.p core.val n = if n = p.toNat then s.g core.val ga.toNat else s.p core.val n) ∧
        SameFields (fun f a b => flowPlaces s core.val f a b ∨ f = .coreP ∧ a = core.val ∧ b = p.toNat) s t ∧
        IssuedReg core.val s t)

/-- NOP takes 1 + EXTRA cycles, and the program goes on by the rules of LOOP and REPLAY (R64, R71, R79, R81, R82, R93, R101). -/
def Obligations.NopAdvancesTheProgram : Prop :=
  ∀ (core : CoreId) (extra : BitVec 16) (s : State), Sound s → s.ready core.val (.nop core extra) = true →
    ∃ t, exec (.nop core extra) s = .next t ∧
      SameFields (flowPlaces s core.val) s t ∧ IssuedReg core.val s t ∧
      (¬ AtLoopEnd core.val s → ¬ AtBlockEnd core.val s →
        t.get .corePc core.val 0 = (s.get .corePc core.val 0 + 1) % 8192 ∧ LoopSame core.val s t ∧
        CycAfter core.val (1 + extra.toNat) s t ∧ PSame core.val s t) ∧
      (AtLoopEnd core.val s →
        s.get .coreLoopIdx core.val (s.get .coreStatLdepth core.val 0 - 1) + 1 <
          s.get .coreLoopCount core.val (s.get .coreStatLdepth core.val 0 - 1) →
        t.get .corePc core.val 0 = s.get .coreLoopStart core.val (s.get .coreStatLdepth core.val 0 - 1) ∧
        t.get .coreLoopIdx core.val (s.get .coreStatLdepth core.val 0 - 1) =
          s.get .coreLoopIdx core.val (s.get .coreStatLdepth core.val 0 - 1) + 1 ∧
        t.get .coreStatLdepth core.val 0 = s.get .coreStatLdepth core.val 0 ∧
        CycAfter core.val (1 + extra.toNat) s t ∧ PSame core.val s t) ∧
      (AtLoopEnd core.val s → ¬ AtBlockEnd core.val s →
        s.get .coreLoopCount core.val (s.get .coreStatLdepth core.val 0 - 1) ≤
          s.get .coreLoopIdx core.val (s.get .coreStatLdepth core.val 0 - 1) + 1 →
        t.get .corePc core.val 0 = (s.get .corePc core.val 0 + 1) % 8192 ∧
        t.get .coreStatLdepth core.val 0 + 1 = s.get .coreStatLdepth core.val 0 ∧
        CycAfter core.val (1 + extra.toNat) s t ∧ PSame core.val s t) ∧
      (¬ AtLoopEnd core.val s → AtBlockEnd core.val s →
        CycAfter core.val (2 + extra.toNat) s t ∧ (∀ n < 64, t.p core.val n = patched core.val s n) ∧
        (s.get .coreRepIdx core.val 0 + 1 < s.get .coreRepCount core.val 0 →
          t.get .corePc core.val 0 = s.get .coreRepStart core.val 0 ∧
          t.get .coreRepIdx core.val 0 = s.get .coreRepIdx core.val 0 + 1 ∧ t.get .coreStatInreplay core.val 0 = 1) ∧
        (s.get .coreRepCount core.val 0 ≤ s.get .coreRepIdx core.val 0 + 1 →
          t.get .corePc core.val 0 = s.get .coreRepRet core.val 0 ∧ t.get .coreRepIdx core.val 0 = 0 ∧
          t.get .coreStatInreplay core.val 0 = 0))

/-- JMP goes to TARGET in two cycles where its condition holds, else on in one (R65, R80, R81, R94, R101). -/
def Obligations.JmpGoesToItsTarget : Prop :=
  ∀ (core : CoreId) (cond : BitVec 4) (gs : BitVec 5) (target : BitVec 13) (s : State), Sound s →
    s.ready core.val (.jmp core cond gs target) = true → cond.toNat < 7 → NotAtEnd core.val s →
    (JmpHolds cond.toNat (s.g core.val gs.toNat).toInt →
      (∀ d, Encloses core.val d s → InBody core.val d target.toNat s) →
      (s.get .coreStatInreplay core.val 0 ≠ 0 → blockOffset core.val target.toNat s < s.get .coreRepLen core.val 0) →
      ∃ t, exec (.jmp core cond gs target) s = .next t ∧ t.get .corePc core.val 0 = target.toNat ∧
        IssueCyc core.val [gs.toNat] 2 s t ∧ LoopSame core.val s t ∧ PSame core.val s t ∧
        SameFields (flowPlaces s core.val) s t ∧ IssuedReg core.val s t) ∧
    (¬ JmpHolds cond.toNat (s.g core.val gs.toNat).toInt → ¬ AtLoopEnd core.val s → ¬ AtBlockEnd core.val s →
      ∃ t, exec (.jmp core cond gs target) s = .next t ∧
        t.get .corePc core.val 0 = (s.get .corePc core.val 0 + 1) % 8192 ∧ IssueCyc core.val [gs.toNat] 1 s t ∧
        LoopSame core.val s t ∧ PSame core.val s t ∧ SameFields (flowPlaces s core.val) s t ∧ IssuedReg core.val s t)

/-- LOOP opens a loop on the instructions up to END or skips them; REPLAY goes to its block or runs nothing (R65, R79, R80, R81, R83, R101). -/
def Obligations.LoopAndReplayRepeatTheirInstructions : Prop :=
  (∀ (core : CoreId) (src : Bool) (gs : BitVec 5) (count : BitVec 16) (last : BitVec 13) (s : State), Sound s →
     s.ready core.val (.loop core src gs count last) = true →
     s.get .corePc core.val 0 + 1 ≤ last.toNat → s.get .coreStatLdepth core.val 0 < 4 → NotAtEnd core.val s →
     (∀ d, Encloses core.val d s → last.toNat < s.get .coreLoopLast core.val d) →
     (s.get .coreStatInreplay core.val 0 ≠ 0 → blockOffset core.val last.toNat s < s.get .coreRepLen core.val 0 ∧
       blockOffset core.val (s.get .corePc core.val 0) s < blockOffset core.val last.toNat s) →
     (0 < repeatCount core.val src gs.toNat count.toNat s →
       ∃ t, exec (.loop core src gs count last) s = .next t ∧
         t.get .coreStatLdepth core.val 0 = s.get .coreStatLdepth core.val 0 + 1 ∧
         t.get .coreLoopStart core.val (s.get .coreStatLdepth core.val 0) = s.get .corePc core.val 0 + 1 ∧
         t.get .coreLoopLast core.val (s.get .coreStatLdepth core.val 0) = last.toNat ∧
         t.get .coreLoopCount core.val (s.get .coreStatLdepth core.val 0) = repeatCount core.val src gs.toNat count.toNat s ∧
         t.get .coreLoopIdx core.val (s.get .coreStatLdepth core.val 0) = 0 ∧
         t.get .corePc core.val 0 = s.get .corePc core.val 0 + 1 ∧
         IssueCyc core.val (repeatReads src gs.toNat) 1 s t ∧ PSame core.val s t ∧
         SameFields (fun f a b => flowPlaces s core.val f a b ∧ f ≠ .coreLoopIdx ∨
           f ∈ [Fld.coreLoopStart, .coreLoopLast, .coreLoopCount, .coreLoopIdx] ∧ a = core.val ∧
             b = s.get .coreStatLdepth core.val 0) s t ∧
         IssuedReg core.val s t) ∧
     (repeatCount core.val src gs.toNat count.toNat s = 0 →
       (s.get .coreStatInreplay core.val 0 ≠ 0 →
         blockOffset core.val last.toNat s + 1 < s.get .coreRepLen core.val 0) →
       ∃ t, exec (.loop core src gs count last) s = .next t ∧ t.get .corePc core.val 0 = (last.toNat + 1) % 8192 ∧
         IssueCyc core.val (repeatReads src gs.toNat) 2 s t ∧ LoopSame core.val s t ∧ PSame core.val s t ∧
         SameFields (flowPlaces s core.val) s t ∧ IssuedReg core.val s t)) ∧
  ∀ (core : CoreId) (src : Bool) (gs : BitVec 5) (start len : BitVec 13) (count : BitVec 20) (s : State), Sound s →
    s.ready core.val (.replay core src gs start len count) = true → s.get .coreStatInreplay core.val 0 = 0 →
    NotAtEnd core.val s →
    (0 < repeatCount core.val src gs.toNat count.toNat s → 0 < len.toNat →
      ∃ t, exec (.replay core src gs start len count) s = .next t ∧
        t.get .coreStatInreplay core.val 0 = 1 ∧ t.get .coreRepStart core.val 0 = start.toNat ∧
        t.get .coreRepLen core.val 0 = len.toNat ∧
        t.get .coreRepCount core.val 0 = repeatCount core.val src gs.toNat count.toNat s ∧
        t.get .coreRepIdx core.val 0 = 0 ∧ t.get .coreRepRet core.val 0 = (s.get .corePc core.val 0 + 1) % 8192 ∧
        t.get .corePc core.val 0 = start.toNat ∧ IssueCyc core.val (repeatReads src gs.toNat) 2 s t ∧ PSame core.val s t ∧
        SameFields (fun f a b => flowPlaces s core.val f a b ∨
          f ∈ [Fld.coreRepStart, .coreRepLen, .coreRepCount, .coreRepRet] ∧ a = core.val ∧ b = 0) s t ∧
        IssuedReg core.val s t) ∧
    (repeatCount core.val src gs.toNat count.toNat s = 0 ∨ len.toNat = 0 → ¬ AtLoopEnd core.val s →
      ∃ t, exec (.replay core src gs start len count) s = .next t ∧
        t.get .corePc core.val 0 = (s.get .corePc core.val 0 + 1) % 8192 ∧
        IssueCyc core.val (repeatReads src gs.toNat) 1 s t ∧ LoopSame core.val s t ∧ PSame core.val s t ∧
        SameFields (flowPlaces s core.val) s t ∧ IssuedReg core.val s t)

/-- PATCH.SET writes, PATCH.ADD adds to a P register; PATCH.ARM arms a slot; PATCH.CLR disarms all (R65, R69, R84, R101). -/
def Obligations.PatchInstructionsSetAddArmAndClear : Prop :=
  ∀ (core : CoreId) (pd ps : BitVec 6) (src : SrcB) (slot : BitVec 3) (s : State), Sound s →
    s.get .coreStatInreplay core.val 0 = 0 →
    (∀ x ∈ [((Instr.patchSet core pd src, operandB core.val s src) : Instr × Word),
        (.patchAdd core pd src, BitVec.ofNat 64 ((s.p core.val pd.toNat).toNat + (operandB core.val s src).toNat))],
      s.ready core.val x.1 = true →
      ∃ t, exec x.1 s = .next t ∧ (∀ n < 64, t.p core.val n = if n = pd.toNat then x.2 else s.p core.val n) ∧
        SameFields (fun f a b => flowPlaces s core.val f a b ∨ f = .coreP ∧ a = core.val ∧ b = pd.toNat) s t ∧
        IssuedReg core.val s t) ∧
    (s.ready core.val (.patchArm core pd ps slot) = true →
      ∃ t, exec (.patchArm core pd ps slot) s = .next t ∧ t.get .corePatchArm core.val slot.toNat = 1 ∧
        t.get .corePatchPd core.val slot.toNat = pd.toNat ∧ t.get .corePatchPs core.val slot.toNat = ps.toNat ∧
        SameFields (fun f a b => flowPlaces s core.val f a b ∨
          f ∈ [Fld.corePatchArm, .corePatchPd, .corePatchPs] ∧ a = core.val ∧ b = slot.toNat) s t ∧
        IssuedReg core.val s t) ∧
    (s.ready core.val (.patchClr core) = true →
      ∃ t, exec (.patchClr core) s = .next t ∧ (∀ k < 8, t.get .corePatchArm core.val k = 0) ∧
        SameFields (fun f a b => flowPlaces s core.val f a b ∨ f = .corePatchArm ∧ a = core.val ∧ b < 8) s t ∧
        IssuedReg core.val s t)

/-- CFG writes the low bits of its value into the unit's field, and SQ.CLKSEL moves the core between its clocks (R95, R96, R98, R99). -/
def Obligations.CfgWritesTheUnitsFieldAndClkselTheClock : Prop :=
  (∀ (core : CoreId) (unit : BitVec 4) (fld : BitVec 8) (src : CfgSrc) (s : State) (f : Fld) (w : Nat → Nat) (v : Word), Sound s →
     s.ready core.val (.cfg core unit fld src) = true →
     (unit.toNat, f, w) ∈ [(1, Fld.mxF, mxWidth), (2, .vxF, vxWidth), (3, .fxF, fxWidth), (4, .syF, syWidth), (5, .coreSqf, sqWidth)] →
     0 < w fld.toNat → ¬ (unit.toNat = 5 ∧ fld.toNat = 1) → CfgValueIs core.val src s v →
     cfgIllegal core.val unit.toNat fld.toNat (v.toNat % 2 ^ w fld.toNat) s = false →
     (unit.toNat = 5 ∨ unitBusy core.val unit.toNat s = false) →
     ∃ t, exec (.cfg core unit fld src) s = .next t ∧ t.get f core.val fld.toNat = v.toNat % 2 ^ w fld.toNat ∧
       SameFields (fun g a b => flowPlaces s core.val g a b ∨ g = f ∧ a = core.val ∧ b = fld.toNat) s t ∧
       IssuedReg core.val s t) ∧
  ∀ (core : CoreId) (src : CfgSrc) (s : State) (v : Word), Sound s →
    s.ready core.val (.cfg core 5 1 src) = true → CfgValueIs core.val src s v →
    ∃ t, exec (.cfg core 5 1 src) s = .next t ∧ t.get .coreSqf core.val 1 = v.toNat % 2 ∧
      (v.toNat % 2 = 1 → t.get .coreStatOnfic core.val 0 = 1) ∧
      (v.toNat % 2 = 0 → s.get .coreAlign core.val 0 ≠ 0 → t.get .coreStatOnfic core.val 0 = 0) ∧
      (v.toNat % 2 = 0 → s.get .coreAlign core.val 0 = 0 → s.get .coreStatOnfic core.val 0 = 1 →
        t.get .coreStatOnfic core.val 0 = 1 ∧ t.get .coreClkPend core.val 0 = 1) ∧
      SameFields (fun g a b => flowPlaces s core.val g a b ∨ g = .coreSqf ∧ a = core.val ∧ b = 1 ∨
        g = .detCauses ∧ a = core.val / 160) s t ∧
      IssuedReg core.val s t

/-- HALT and a reserved major opcode halt the core, recording CODE, cause and pc, with event 0x0102 or 0x0101 (R89, R90, R581). -/
def Obligations.HaltStopsTheCore : Prop :=
  ∀ (core : CoreId) (s : State), Sound s →
    ∀ x : Instr × Nat × Nat × Event,
      (∃ code : BitVec 16, x = (.halt core code, code.toNat, 1,
        ⟨0x0102, core.val / 160, [core.val, s.get .corePc core.val 0, code.toNat]⟩)) ∨
      (∃ major minor : BitVec 6, 0x0B ≤ major.toNat ∧ x = (.reservedOpcode core major minor, 0, 2,
        ⟨0x0101, core.val / 160, [core.val, s.get .corePc core.val 0, major.toNat]⟩)) →
      s.ready core.val x.1 = true →
      ∃ t, exec x.1 s = .next t ∧ t.coreState core.val = stHalted ∧ t.get .coreHaltCode core.val 0 = x.2.1 ∧
        t.get .coreHaltCause core.val 0 = x.2.2.1 ∧ t.get .coreHaltPc core.val 0 = s.get .corePc core.val 0 ∧
        (t.get .chIrqStatCause (core.val / 160) 0).testBit 1 = true ∧
        t.evq = (if Recording s then s.evq ++ [x.2.2.2] else s.evq) ∧
        SameFields (fun f a _ =>
          f ∈ [Fld.coreStatState, .coreWkind, .coreWobj, .coreCyc, .coreHaltCode, .coreHaltCause, .coreHaltPc, .detSegOpen,
            .detSegOpens] ∧ a = core.val ∨ f = .chIrqStatCause ∧ a = core.val / 160 ∨
          f ∈ [Fld.msixD3, .msixPba] ∧ a = core.val / 160 + 1) s t ∧
        t = { s with reg := t.reg, held := tdel s.held core.val, evq := t.evq, out := t.out, segs := t.segs }

/-- WAIT completes with the set of masked sources seen true, clearing a doorbell it saw; else the core waits (R75, R85, R86, R101). -/
def Obligations.WaitCompletesWithTheSourcesSeen : Prop :=
  ∀ (core : CoreId) (mask : BitVec 6) (gd : BitVec 5) (s : State), Sound s →
    s.ready core.val (.wait core mask gd) = true → tget? s.held core.val = none →
    (∀ n, SourcesSeen core.val mask.toNat n s → n ≠ 0 →
      ∃ t, exec (.wait core mask gd) s = .next t ∧ GWritten core.val gd.toNat (BitVec.ofNat 64 n) s t ∧
        t.get .coreStatDbell core.val 0 = (if n.testBit 5 then 0 else s.get .coreStatDbell core.val 0) ∧
        (¬ AtBlockEnd core.val s → CycAfter core.val 1 s t) ∧
        SameFields (fun f a b => writesG s core.val gd.toNat f a b ∨
          f ∈ [Fld.coreStatDbell, .spdStatClean, .detSegExt] ∧ a = core.val) s t ∧
        t = { s with reg := t.reg, held := tdel s.held core.val, segRings := t.segRings }) ∧
    (SourcesSeen core.val mask.toNat 0 s → s.get .coreSqf core.val 0 = 0 → core.val % 160 ≠ 0 →
      ∃ t, exec (.wait core mask gd) s = .next t ∧ t.coreState core.val = stWaiting ∧
        tget? t.held core.val = some (.wait core mask gd) ∧ HeldElse core.val s t ∧
        SameFields (fun f a _ => f ∈ [Fld.coreStatState, .coreWkind, .coreWobj, .spdStatClean] ∧ a = core.val) s t ∧
        t = { s with reg := t.reg, held := t.held })

/-- WAIT with PWR_MODE NAP naps the core; NAP_WAKE completes the WAIT on the FIC; ALIGNER_LOCK locks its aligner (R85, R86, R87, R99, R486, R487). -/
def Obligations.NapGatesTheCoreUntilASourceIsTrue : Prop :=
  ∀ (core : CoreId) (mask : BitVec 6) (gd : BitVec 5) (s : State), Sound s →
    (s.ready core.val (.wait core mask gd) = true → tget? s.held core.val = none → SourcesSeen core.val mask.toNat 0 s →
      s.get .coreSqf core.val 0 = 1 → UnitsIdle core.val 0xF#4 s →
      ∃ t, exec (.wait core mask gd) s = .next t ∧ t.coreState core.val = stNap ∧ t.get .coreAlign core.val 0 = 0 ∧
        tget? t.held core.val = some (.wait core mask gd) ∧ HeldElse core.val s t ∧ CycAfter core.val 1 s t ∧
        SameFields (fun f a _ => f ∈ [Fld.coreStatState, .coreWkind, .coreWobj, .coreCyc, .coreAlign, .spdStatClean] ∧
          a = core.val) s t ∧
        t = { s with reg := t.reg, held := t.held }) ∧
    (s.coreState core.val = stNap → s.chanRuns (chanOf core.val) = true →
      s.get .coreAlign core.val 0 = 0 → tget? s.held core.val = some (.wait core mask gd) →
      (∀ n, SourcesSeen core.val mask.toNat n s → n ≠ 0 →
        ∃ t, exec (.napWake core) s = .next t ∧ GWritten core.val gd.toNat (BitVec.ofNat 64 n) s t ∧
          t.coreState core.val = stRunning ∧ t.get .coreStatOnfic core.val 0 = 1 ∧ t.get .coreSqf core.val 1 = 1 ∧
          t.get .coreStatDbell core.val 0 = (if n.testBit 5 then 0 else s.get .coreStatDbell core.val 0) ∧
          SameFields (fun f a b => writesG s core.val gd.toNat f a b ∨ f = .coreSqf ∧ a = core.val ∧ b = 1 ∨
            f ∈ [Fld.coreStatDbell, .detSegExt] ∧ a = core.val ∨ f = .detCauses ∧ a = core.val / 160) s t ∧
          t = { s with reg := t.reg, held := tdel s.held core.val, segRings := t.segRings }) ∧
      (SourcesSeen core.val mask.toNat 0 s → exec (.napWake core) s = .next s)) ∧
    (s.get .coreStatOnfic core.val 0 = 1 → s.chanRuns (chanOf core.val) = true → s.coreState core.val ≠ stNap →
      ∃ t, exec (.alignerLock core) s = .next t ∧ t.get .coreAlign core.val 0 = 1 ∧
        SameFields (fun f a _ => f = .coreAlign ∧ a = core.val) s t ∧ OnlyReg s t)

/-- WAIT.IDLE completes at once when its units are not busy, and with all four named is a re-run point (R88, R101, R183). -/
def Obligations.WaitIdleCompletesWhenUnitsAreIdle : Prop :=
  ∀ (core : CoreId) (units : BitVec 4) (s : State), Sound s →
    s.ready core.val (.waitIdle core units) = true → tget? s.held core.val = none → s.get .spdHaltPend core.val 0 = 0 →
    (UnitsIdle core.val units s →
      ∃ t, exec (.waitIdle core units) s = .next t ∧ GSame core.val s t ∧
        (¬ AtBlockEnd core.val s → CycAfter core.val 1 s t ∧ PSame core.val s t) ∧
        (units = 0xF#4 → s.get .mxStatRetained core.val 0 = 0 → (∀ e < 8, s.get .tqEnt core.val e = 0) →
          t.get .spdStatAttempt core.val 0 = 0 ∧ t.get .spdStatClean core.val 0 = 1) ∧
        SameFields (fun f a b => flowPlaces s core.val f a b ∨
          units = 0xF#4 ∧ f ∈ [Fld.spdStatAttempt, .spdStatClean] ∧ a = core.val) s t ∧
        t = { s with reg := t.reg, held := tdel s.held core.val, rerun := t.rerun } ∧
        (units ≠ 0xF#4 → t.rerun = s.rerun)) ∧
    ((∃ k < 4, units.getLsbD k = true ∧ unitState core.val (k + 1) s = .busy) →
      ∃ t, exec (.waitIdle core units) s = .next t ∧ t.coreState core.val = stWaiting ∧
        tget? t.held core.val = some (.waitIdle core units) ∧ HeldElse core.val s t ∧
        SameFields (fun f a _ => f ∈ [Fld.coreStatState, .coreWkind, .coreWobj] ∧ a = core.val) s t ∧
        t = { s with reg := t.reg, held := t.held })

/-- CORE_CTL.RUN, STOP, DBELL and CRESET start, stop, ring and reset a core (R11, R85, R89, R102, R103, R104, R183, R490, R631). -/
def Obligations.CoreControlStartsStopsAndResetsACore : Prop :=
  ∀ (core : CoreId) (s : State),
    (coreWindow core.val s = false →
      ∀ x ∈ [Instr.coreCtlRun core, .coreCtlStop core, .coreCtlDbell core, .coreCtlCreset core], exec x s = .next s) ∧
    (coreWindow core.val s = true →
      (s.coreState core.val = stStopped → ∃ t, exec (.coreCtlRun core) s = .next t ∧
        t.coreState core.val = (if s.get .spdInitMask core.val 0 = 0 ∧ s.get .spdUpMask core.val 0 = 0 then stRunning
          else stWaiting) ∧
        t.get .spdStatClean core.val 0 = 1 ∧ t.get .spdStatAttempt core.val 0 = 0 ∧
        SameFields (fun f a _ => f ∈ [Fld.coreStatState, .coreStartWait, .spdStatClean, .spdStatAttempt] ∧ a = core.val) s t ∧
        t = { s with reg := t.reg, rerun := t.rerun }) ∧
      (s.coreState core.val ≠ stStopped → s.coreState core.val ≠ stHalted → ∃ t, exec (.coreCtlStop core) s = .next t ∧
        t.coreState core.val = stStopped ∧
        SameFields (fun f a _ => f ∈ [Fld.coreStatState, .coreWkind, .coreWobj, .coreStartWait] ∧ a = core.val) s t ∧
        t = { s with reg := t.reg, held := tdel s.held core.val }) ∧
      (∃ t, exec (.coreCtlDbell core) s = .next t ∧ t.get .coreStatDbell core.val 0 = 1 ∧
        SameFields (fun f a _ => f = .coreStatDbell ∧ a = core.val) s t ∧ OnlyReg s t) ∧
      (∃ t, exec (.coreCtlCreset core) s = .next t ∧ t.coreState core.val = stStopped ∧ t.get .corePc core.val 0 = 0 ∧
        (∀ n < 32, t.g core.val n = 0#64 ∧ t.v core.val n = List.replicate 64 0#32) ∧ (∀ n < 64, t.p core.val n = 0#64) ∧
        t.get .coreStatLdepth core.val 0 = 0 ∧ t.get .coreStatInreplay core.val 0 = 0 ∧
        (∀ f ∈ [Fld.coreSqf, .mxF, .vxF, .fxF, .syF], ∀ i < 256, t.get f core.val i = resetAt f core.val i) ∧
        (∀ e < 8, t.get .tqEnt core.val e = 0) ∧ tget? t.held core.val = none ∧ HeldElse core.val s t ∧
        t.get .coreCyc core.val 0 = s.get .coreCyc core.val 0 ∧
        t.evq = (if s.coreState core.val ≠ stStopped ∧ s.coreState core.val ≠ stHalted ∧ Recording s then
          s.evq ++ [⟨0x0104, core.val / 160, [core.val, s.coreState core.val]⟩] else s.evq) ∧
        (∀ f ∈ Fld.all, ∀ a b, a ≠ core.val → a < 2 ^ 24 → t.get f a b = s.get f a b) ∧ t.mem = s.mem))

/-- Bank kinds, power groups, initialisation and the sweeper: what each leaves in the scratchpad (R188, R189, R190, R194, R195, R196). -/
def Obligations.ScratchpadEventsInitialiseAndSweep : Prop :=
  ∀ (core : CoreId) (s : State), Sound s →
    (coreWindow core.val s = true → s.coreState core.val = stStopped ∨ s.coreState core.val = stHalted →
      ∀ v : BitVec 16,
      (∃ t, exec (.spdKindPwrWrite core false v) s = .next t ∧ t.get .spdKindWbank core.val 0 = v.toNat ∧
        (∀ b < 16, (t.get .spdInitMask core.val 0).testBit b = true ↔ (s.get .spdInitMask core.val 0).testBit b = true ∨
          (s.get .spdKindWbank core.val 0).testBit b ≠ v.getLsbD b ∧ (s.get .spdPwrOn core.val 0).testBit (b / 4) = true ∧
            (s.get .spdUpMask core.val 0).testBit (b / 4) = false) ∧
        SameFields (fun f a _ => f ∈ [Fld.spdKindWbank, .spdInitMask, .spdPwrReady, .spdStatInit] ∧ a = core.val) s t ∧
        OnlyReg s t) ∧
      (∃ t, exec (.spdKindPwrWrite core true v) s = .next t ∧ t.get .spdPwrOn core.val 0 = v.toNat % 16 ∧
        (∀ g < 4, v.getLsbD g = true → (s.get .spdPwrOn core.val 0).testBit g = false →
          (t.get .spdUpMask core.val 0).testBit g = true ∧ (t.get .spdPwrReady core.val 0).testBit g = false) ∧
        (∀ g < 4, v.getLsbD g = false → (t.get .spdPwrReady core.val 0).testBit g = false) ∧
        SameFields (fun f a _ => f ∈ [Fld.spdPwrOn, .spdUpMask, .spdInitMask, .spdPwrReady, .spdStatInit] ∧ a = core.val) s t ∧
        SameBytes (fun x => spdAddr core.val 0 ≤ x ∧ x < spdAddr core.val 0 + 2 ^ 19) s t ∧
        t = { s with reg := t.reg, mem := t.mem })) ∧
    (∀ bank : BitVec 4, (s.get .spdInitMask core.val 0).testBit bank.toNat = true → s.chanRuns (chanOf core.val) = true →
      ∃ t, exec (.bankInitDone core bank) s = .next t ∧
        (∀ i < 2 ^ 15, t.byte (spdAddr core.val (bank.toNat * 2 ^ 15 + i)) = 0#8) ∧
        (∀ w < 512, t.get .spdTag core.val (bank.toNat * 512 + w) = s.get .chSpdEpoch (core.val / 160) 0 ∧
          t.get .spdErr core.val (bank.toNat * 512 + w) = 0) ∧
        (t.get .spdInitMask core.val 0).testBit bank.toNat = false ∧ t.get .spdVisited core.val bank.toNat = 512 ∧
        SameFields (fun f a b => a = core.val ∧ (f ∈ [Fld.spdInitMask, .spdPwrReady, .spdStatInit, .spdStatSwept, .coreStatState,
          .coreStartWait] ∨ f = .spdVisited ∧ b = bank.toNat ∨ f ∈ [Fld.spdTag, .spdErr] ∧ b / 512 = bank.toNat)) s t ∧
        SameBytes (fun x => spdAddr core.val (bank.toNat * 2 ^ 15) ≤ x ∧ x < spdAddr core.val (bank.toNat * 2 ^ 15) + 2 ^ 15)
          s t ∧
        t = { s with reg := t.reg, mem := t.mem }) ∧
    (∀ group : BitVec 2, (s.get .spdUpMask core.val 0).testBit group.toNat = true → s.chanRuns (chanOf core.val) = true →
      ∃ t, exec (.groupPowerUpDone core group) s = .next t ∧ (t.get .spdUpMask core.val 0).testBit group.toNat = false ∧
        (∀ b < 16, (t.get .spdInitMask core.val 0).testBit b = true ↔
          (s.get .spdInitMask core.val 0).testBit b = true ∨ b / 4 = group.toNat) ∧
        t.get .spdStatInit core.val 0 = 1 ∧
        SameFields (fun f a _ => f ∈ [Fld.spdUpMask, .spdInitMask, .spdPwrReady, .spdStatInit] ∧ a = core.val) s t ∧
        OnlyReg s t) ∧
    (∀ bank : BitVec 4, s.present core.val = true → s.chanRuns (chanOf core.val) = true → s.coreState core.val ≠ stNap →
      (s.get .spdPwrReady core.val 0).testBit (bank.toNat / 4) = true →
      (s.get .spdInitMask core.val 0).testBit bank.toNat = false →
      ∃ t, exec (.sweeperVisit core bank) s = .next t ∧
        t.get .spdSweepPos core.val bank.toNat = (s.get .spdSweepPos core.val bank.toNat + 1) % 512 ∧
        (s.get .spdTag core.val (bank.toNat * 512 + s.get .spdSweepPos core.val bank.toNat) ≠
            s.get .chSpdEpoch (core.val / 160) 0 →
          (∀ i < 64, t.byte (spdAddr core.val ((bank.toNat * 512 + s.get .spdSweepPos core.val bank.toNat) * 64 + i)) = 0#8) ∧
          t.get .spdTag core.val (bank.toNat * 512 + s.get .spdSweepPos core.val bank.toNat) =
            s.get .chSpdEpoch (core.val / 160) 0) ∧
        SameFields (fun f a b => a = core.val ∧ (f ∈ [Fld.spdSweepPos, .spdVisited] ∧ b = bank.toNat ∨ f = .spdStatSwept ∨
          f ∈ [Fld.spdTag, .spdErr] ∧ b = bank.toNat * 512 + s.get .spdSweepPos core.val bank.toNat)) s t ∧
        SameBytes (fun x => ∃ i < 64, x = spdAddr core.val ((bank.toNat * 512 +
          s.get .spdSweepPos core.val bank.toNat) * 64 + i)) s t ∧
        t = { s with reg := t.reg, mem := t.mem })

/-- CONFLICT_HALT_TIMEOUT with a halt pending and BADGER_REPORT on a quiet channel halt every core of the channel (R91, R176, R273, R274, R276, R278). -/
def Obligations.DeadlockAndConflictHaltTheChannel : Prop :=
  ∀ (core : CoreId) (ch : Chan) (s : State), Sound s →
    (s.get .spdHaltPend core.val 0 = 0 ∨ s.chanRuns (chanOf core.val) = false →
      exec (.conflictHaltTimeout core) s = .next s) ∧
    (s.get .spdHaltPend core.val 0 ≠ 0 → s.chanRuns (chanOf core.val) = true →
      ∃ t, exec (.conflictHaltTimeout core) s = .next t ∧ ChannelHalted (chanOf core.val) s t) ∧
    (badgerQuiet ch.val s = false ∨ s.get .bdgStatDeadlock ch.val 0 ≠ 0 → exec (.badgerReport ch) s = .next s) ∧
    (badgerQuiet ch.val s = true → s.get .bdgStatDeadlock ch.val 0 = 0 → s.get .rteLinkfDown ch.val 0 = 0 →
      ∃ t, exec (.badgerReport ch) s = .next t ∧ ChannelHalted ch.val s t ∧ t.get .bdgStatDeadlock ch.val 0 = 1 ∧
        t.get .bdgReports ch.val 0 = (s.get .bdgReports ch.val 0 + 1) % 2 ^ Fld.bdgReports.width ∧
        t.get .bdgWhen ch.val 0 = s.get .gtc 0 0) ∧
    (badgerQuiet ch.val s = true → s.get .bdgStatDeadlock ch.val 0 = 0 → s.get .rteLinkfDown ch.val 0 ≠ 0 →
      ∃ t, exec (.badgerReport ch) s = .next t ∧ t.get .bdgStatSilent ch.val 0 = 1 ∧
        SameFields (fun f a _ => f = .bdgStatSilent ∧ a = ch.val) s t ∧ OnlyReg s t)

/-- The two-operand vector operations write every lane of VD with the value of R140 (R135, R136, R137, R139, R140, R141, R142). -/
def Obligations.VectorArithmeticActsInEveryLane : Prop :=
  ∀ r ∈ vectorRows, ∀ (core : CoreId) (vd va vb : BitVec 5) (bs : Bool) (s : State), Sound s →
    ∀ ty ∈ r.types, VecReady core.val (r.spell core vd va vb ty bs) s →
    ∃ t, exec (r.spell core vd va vb ty bs) s = .next t ∧
      VWritten core.val vd.toNat (fun l => r.value ty (s.laneOf core.val va.toNat l) (laneB core.val vb bs l s)) s t ∧
      GSame core.val s t ∧
      t.get .coreVRdy core.val vd.toNat =
        (vecIssueAt core.val (va.toNat :: laneBV vb bs) (laneBG vb bs) s + r.latency ty) % 2 ^ 64 ∧
      SameFields (writesV s core.val vd.toNat) s t ∧ IssuedVec core.val s t

/-- VFMA, VSEL, VABS, VNEG, VSQRT, VMOV, VBCAST and VIOTA write every lane of VD (R135, R137, R139, R140, R141, R142). -/
def Obligations.VectorUnaryAndThreeOperandOperations : Prop :=
  ∀ (core : CoreId) (vd va vb vc : BitVec 5) (bs : Bool) (ty : VT) (s : State), Sound s →
    ∀ x : Instr × (Lane → Lane → Lane → Nat → Lane),
      (ty ≠ 3 ∧ x = (.vfma core vd va vb vc ty bs, fun a b c _ =>
          if ty = 0 then rounded (fadd (fmul (f32 a) (f32 b)) (f32 c)) else BitVec.ofNat 32 (a.toNat * b.toNat + c.toNat)) ∨
        x = (.vsel core vd va vb vc bs, fun a b c _ => if c.toNat ≠ 0 then a else b) ∨
        x = (.vabs core vd va 0, fun a _ _ _ => if isNanBits a.toNat then BitVec.ofNat 32 nanBits
          else BitVec.ofNat 32 (a.toNat % 2 ^ 31)) ∨
        x = (.vabs core vd va 1, fun a _ _ _ => BitVec.ofNat 32 a.toInt.natAbs) ∨
        x = (.vneg core vd va 0, fun a _ _ _ => if isNanBits a.toNat then BitVec.ofNat 32 nanBits
          else BitVec.ofNat 32 (a.toNat + 2 ^ 31)) ∨
        x = (.vneg core vd va 1, fun a _ _ _ => BitVec.ofInt 32 (0 - a.toInt)) ∨
        x = (.vsqrt core vd va 0, fun a _ _ _ => BitVec.ofNat 32 (sqrtF32 (f32 a))) ∨
        x = (.vmov core vd va, fun a _ _ _ => a) ∨
        x = (.vbcast core vd va, fun _ _ _ _ => BitVec.ofNat 32 (s.g core.val va.toNat).toNat) ∨
        x = (.viota core vd va, fun _ _ _ l => BitVec.ofNat 32 (l + (s.g core.val va.toNat).toNat))) →
      VecReady core.val x.1 s →
      ∃ t, exec x.1 s = .next t ∧
        VWritten core.val vd.toNat (fun l => x.2 (s.laneOf core.val va.toNat l) (laneB core.val vb bs l s)
          (s.laneOf core.val vc.toNat l) l) s t ∧
        GSame core.val s t ∧ SameFields (writesV s core.val vd.toNat) s t ∧ IssuedVec core.val s t

/-- VCVT converts every lane, or between lanes and part POS of a register (R135, R143, R164). -/
def Obligations.VcvtConvertsLanesAndParts : Prop :=
  ∀ (core : CoreId) (vd va : BitVec 5) (mode : BitVec 4) (pos : BitVec 2) (s : State), Sound s →
    VecReady core.val (.vcvt core vd va mode pos) s → mode.toNat < 12 → (mode.toNat = 4 ∨ mode.toNat = 7 → pos.toNat < 2) →
    ∃ t, exec (.vcvt core vd va mode pos) s = .next t ∧ GSame core.val s t ∧
      (∀ m < 32, m ≠ vd.toNat → t.v core.val m = s.v core.val m) ∧
      (∀ l < 64,
        (mode.toNat = 0 → t.laneOf core.val vd.toNat l = BitVec.ofNat 32 (toI32 false (f32 (s.laneOf core.val va.toNat l)))) ∧
        (mode.toNat = 1 → t.laneOf core.val vd.toNat l = BitVec.ofNat 32 (toI32 true (f32 (s.laneOf core.val va.toNat l)))) ∧
        (mode.toNat = 2 → t.laneOf core.val vd.toNat l = rounded (intVal (s.laneOf core.val va.toNat l).toInt)) ∧
        (mode.toNat = 3 → t.laneOf core.val vd.toNat l = rounded (intVal (s.laneOf core.val va.toNat l).toNat)) ∧
        (mode.toNat = 7 → t.laneOf core.val vd.toNat l =
          rounded (decBf16 (regElem core.val va.toNat 2 (pos.toNat * 64 + l) s))) ∧
        (mode.toNat = 8 → t.laneOf core.val vd.toNat l =
          rounded (decE4m3 (regElem core.val va.toNat 1 (pos.toNat * 64 + l) s))) ∧
        (mode.toNat = 9 → t.laneOf core.val vd.toNat l =
          rounded (decE5m2 (regElem core.val va.toNat 1 (pos.toNat * 64 + l) s))) ∧
        (mode.toNat = 11 → t.laneOf core.val vd.toNat l =
          BitVec.ofInt 32 (BitVec.ofNat 8 (regElem core.val va.toNat 1 (pos.toNat * 64 + l) s)).toInt)) ∧
      (mode.toNat = 4 → ∀ k < 128, regElem core.val vd.toNat 2 k t = if k / 64 = pos.toNat then
        toBf16 (f32 (s.laneOf core.val va.toNat (k % 64))) else regElem core.val vd.toNat 2 k s) ∧
      (mode.toNat = 5 → ∀ k < 256, regElem core.val vd.toNat 1 k t = if k / 64 = pos.toNat then
        (toE4m3 (f32 (s.laneOf core.val va.toNat (k % 64)))).1 else regElem core.val vd.toNat 1 k s) ∧
      (mode.toNat = 6 → ∀ k < 256, regElem core.val vd.toNat 1 k t = if k / 64 = pos.toNat then
        (toE5m2 (f32 (s.laneOf core.val va.toNat (k % 64)))).1 else regElem core.val vd.toNat 1 k s) ∧
      (mode.toNat = 10 → ∀ k < 256, regElem core.val vd.toNat 1 k t = if k / 64 = pos.toNat then
        (max (-128) (min 127 (s.laneOf core.val va.toNat (k % 64)).toInt) % 256).toNat
        else regElem core.val vd.toNat 1 k s) ∧
      (t.get .vxStatSat8 core.val 0 = if mode.toNat = 5 ∧ (List.range 64).any (fun l => (toE4m3 (f32 (s.laneOf core.val va.toNat l))).2) = true then 1
        else s.get .vxStatSat8 core.val 0) ∧
      (t.get .vxStatInf8 core.val 0 = if mode.toNat = 6 ∧ (List.range 64).any (fun l => (toE5m2 (f32 (s.laneOf core.val va.toNat l))).2) = true then 1
        else s.get .vxStatInf8 core.val 0) ∧
      SameFields (fun f a b => writesV s core.val vd.toNat f a b ∨ f ∈ [Fld.vxStatSat8, .vxStatInf8] ∧ a = core.val) s t ∧
      t = { s with reg := t.reg, held := tdel s.held core.val, vreg := t.vreg, evq := t.evq }

/-- Every FP32 pattern that is not a NaN decodes and encodes to itself, and BF16 widening then narrowing gives the pattern back (R118, R141, R143). -/
def Obligations.FloatFormatsDecodeAndEncodeExactly : Prop :=
  (∀ v < 2 ^ 32, encF32 (decF32 v) = if v % 2 ^ 31 ≤ 0x7F800000 then v else 0x7FC00000) ∧
  ∀ v < 2 ^ 16, v % 2 ^ 15 ≤ 0x7F80 → (0x80 ≤ v % 2 ^ 15 ∨ v % 2 ^ 15 = 0) → toBf16 (decF32 (encF32 (decBf16 v))) = v

/-- VRSUM writes the sum of the lanes, VRMAX and VRMIN the first and the last lane in ranking order (R68, R137, R156, R157, R158, R159). -/
def Obligations.ReductionsWriteSumAndExtremes : Prop :=
  ∀ (core : CoreId) (gd va : BitVec 5) (ty : VT) (s : State), Sound s → ty ≠ 3 →
    (VecReady core.val (.vrsum core gd va ty) s → ∃ t v, exec (.vrsum core gd va ty) s = .next t ∧
      GWritten core.val gd.toNat v s t ∧ v = BitVec.ofNat 64 (treeSum ty (s.v core.val va.toNat)).toNat ∧
      (ty ≠ 0 → v.toNat = ((List.range 64).foldl (fun n l => n + (s.laneOf core.val va.toNat l).toNat) 0) % 2 ^ 32) ∧
      SameFields (fun f a b => writesG s core.val gd.toNat f a b ∨ f = .vxStatNan ∧ a = core.val) s t ∧
      IssuedReg core.val s t) ∧
    (VecReady core.val (.vrmax core gd va ty) s → ∃ t, ∃ l < 64, exec (.vrmax core gd va ty) s = .next t ∧
      GWritten core.val gd.toNat (BitVec.ofNat 64 ((s.laneOf core.val va.toNat l).toNat + l * 2 ^ 32)) s t ∧
      (∀ m < 64, ¬ LaneBefore ty core.val va.toNat m l s) ∧
      SameFields (writesG s core.val gd.toNat) s t ∧ IssuedReg core.val s t) ∧
    (VecReady core.val (.vrmin core gd va ty) s → ∃ t, ∃ l < 64, exec (.vrmin core gd va ty) s = .next t ∧
      GWritten core.val gd.toNat (BitVec.ofNat 64 ((s.laneOf core.val va.toNat l).toNat + l * 2 ^ 32)) s t ∧
      (∀ m < 64, ¬ LaneBefore ty core.val va.toNat l m s) ∧
      SameFields (writesG s core.val gd.toNat) s t ∧ IssuedReg core.val s t)

/-- TOPK and TOPK.M leave the k best of the list and the candidates, ranked, then padding (R137, R157, R160, R161). -/
def Obligations.TopkMergesCandidatesIntoTheList : Prop :=
  ∀ (core : CoreId) (vd va vb gd : BitVec 5) (ty : VT) (km1 : BitVec 8) (s : State) (k l : Nat), Sound s → ty ≠ 3 →
    k = km1.toNat + 1 → l = (k + 63) / 64 → vd.toNat + 2 * l ≤ 32 →
    (VecReady core.val (.topk core vd va vb gd ty km1) s →
      (∀ r ∈ [va.toNat, vb.toNat], r < vd.toNat ∨ vd.toNat + 2 * l ≤ r) →
      ∃ t, exec (.topk core vd va vb gd ty km1) s = .next t ∧
        Merged ty core.val vd.toNat k l ((List.range k).map (fun p => listAt core.val vd.toNat l p s) ++
          (List.range 64).map fun p => (s.laneOf core.val va.toNat p, s.laneOf core.val vb.toNat p)) t ∧
        GWritten core.val gd.toNat 0#64 s t ∧
        (∀ m < 32, m < vd.toNat ∨ vd.toNat + 2 * l ≤ m → t.v core.val m = s.v core.val m) ∧
        SameFields (fun f a b => writesG s core.val gd.toNat f a b ∨ f = .coreVRdy ∧ a = core.val ∧ vd.toNat ≤ b ∧
          b < vd.toNat + 2 * l) s t ∧
        IssuedVec core.val s t) ∧
    (VecReady core.val (.topkM core vd va gd ty km1) s →
      va.toNat + 2 * l ≤ vd.toNat ∨ vd.toNat + 2 * l ≤ va.toNat → va.toNat + 2 * l ≤ 32 →
      ∃ t, exec (.topkM core vd va gd ty km1) s = .next t ∧
        Merged ty core.val vd.toNat k l ((List.range k).map (fun p => listAt core.val vd.toNat l p s) ++
          (List.range k).map fun p => listAt core.val va.toNat l p s) t ∧
        GWritten core.val gd.toNat 0#64 s t ∧
        (∀ m < 32, m < vd.toNat ∨ vd.toNat + 2 * l ≤ m → t.v core.val m = s.v core.val m) ∧
        SameFields (fun f a b => writesG s core.val gd.toNat f a b ∨ f = .coreVRdy ∧ a = core.val ∧ vd.toNat ≤ b ∧
          b < vd.toNat + 2 * l) s t ∧
        IssuedVec core.val s t)

/-- VLD, VGATH.W and VGATH.D fill V[VD] from the scratchpad bytes at the lanes' addresses (R137, R145, R146, R147, R165, R169, R189, R196). -/
def Obligations.VectorLoadsReadTheScratchpad : Prop :=
  ∀ (core : CoreId) (vd ga vi : BitVec 5) (off : BitVec 19) (s : State), Sound s →
    (VecReady core.val (.vld core vd ga off quiet) s →
      (∀ k < 4, WordGood core.val 1 (vecAddr core.val ga off 0 s / 64 * 64 + 64 * k) s) →
      ∃ t, exec (.vld core vd ga off quiet) s = .next t ∧
        VWritten core.val vd.toNat (fun l =>
          BitVec.ofNat 32 (spdWord32 core.val (vecAddr core.val ga off 0 s / 64 * 64 + 4 * l) s)) s t ∧
        (¬ AtBlockEnd core.val s → t.get .coreCyc core.val 0 = (vecIssueAt core.val [] [ga.toNat] s + 4) % 2 ^ 64) ∧
        GSame core.val s t ∧ t.mem = s.mem ∧
        SameFields (fun f a b => writesV s core.val vd.toNat f a b ∨ f = .spdStalec ∧ a = core.val) s t ∧
        t = { s with reg := t.reg, held := tdel s.held core.val, vreg := t.vreg, evq := t.evq }) ∧
    ∀ x ∈ [(Instr.vgathW core vd ga vi off quiet, false), (Instr.vgathD core vd ga vi off quiet, true)],
      VecReady core.val x.1 s → (∀ l < 64, WordGood core.val 1 (laneAddr core.val ga vi off x.2 l s) s) →
      ∃ t, exec x.1 s = .next t ∧
        VWritten core.val vd.toNat (fun l => BitVec.ofNat 32 (spdWord32 core.val (laneAddr core.val ga vi off x.2 l s) s)) s t ∧
        (¬ AtBlockEnd core.val s → t.get .coreCyc core.val 0 =
          (vecIssueAt core.val [vi.toNat] [ga.toNat] s + laneWords core.val ga vi off x.2 s) % 2 ^ 64) ∧
        GSame core.val s t ∧ t.mem = s.mem ∧
        SameFields (fun f a b => writesV s core.val vd.toNat f a b ∨ f = .spdStalec ∧ a = core.val) s t ∧
        t = { s with reg := t.reg, held := tdel s.held core.val, vreg := t.vreg, evq := t.evq }

/-- VST, VSCAT.W and VSCAT.D write the lanes' bytes to the scratchpad and no other byte (R137, R145, R146, R147, R165, R168, R169, R188, R196). -/
def Obligations.VectorStoresWriteTheScratchpad : Prop :=
  ∀ (core : CoreId) (vs ga vi : BitVec 5) (off : BitVec 19) (s : State), Sound s →
    (VecReady core.val (.vst core vs ga off quiet) s →
      (∀ k < 4, WordGood core.val 1 (vecAddr core.val ga off 0 s / 64 * 64 + 64 * k) s) →
      ∃ t, exec (.vst core vs ga off quiet) s = .next t ∧
        (∀ i < 256, t.spdByte core.val (vecAddr core.val ga off 0 s / 64 * 64 + i) =
          laneByte (s.laneOf core.val vs.toNat (i / 4)) (i % 4)) ∧
        SameBytes (fun x => ∃ i < 256, x = spdAddr core.val (vecAddr core.val ga off 0 s / 64 * 64 + i)) s t ∧
        GSame core.val s t ∧
        SameFields (fun f a b => flowPlaces s core.val f a b ∨ f ∈ [Fld.spdTag, .spdErr] ∧ a = core.val ∧
          ∃ k < 4, b = (vecAddr core.val ga off 0 s / 64 * 64 + 64 * k) % 2 ^ 19 / 64) s t ∧
        t = { s with reg := t.reg, held := tdel s.held core.val, mem := t.mem }) ∧
    ∀ x ∈ [(Instr.vscatW core vs ga vi off quiet, false), (Instr.vscatD core vs ga vi off quiet, true)],
      VecReady core.val x.1 s → (∀ l < 64, WordGood core.val 1 (laneAddr core.val ga vi off x.2 l s) s) →
      ∃ t, exec x.1 s = .next t ∧
        (∀ l < 64, (∀ m < 64, l < m → laneAddr core.val ga vi off x.2 m s ≠ laneAddr core.val ga vi off x.2 l s) →
          ∀ i < 4, t.spdByte core.val (laneAddr core.val ga vi off x.2 l s + i) =
            laneByte (s.laneOf core.val vs.toNat l) i) ∧
        (∀ a < 2 ^ 19, (∀ l < 64, laneAddr core.val ga vi off x.2 l s ≠ a / 4 * 4) →
          t.spdByte core.val a = s.spdByte core.val a) ∧
        SameBytes (fun y => ∃ l < 64, ∃ i < 64, y = spdAddr core.val (laneAddr core.val ga vi off x.2 l s / 64 * 64 + i)) s t ∧
        GSame core.val s t ∧
        SameFields (fun f a b => flowPlaces s core.val f a b ∨ f ∈ [Fld.spdTag, .spdErr] ∧ a = core.val ∧
          ∃ l < 64, b = laneAddr core.val ga vi off x.2 l s / 64) s t ∧
        t = { s with reg := t.reg, held := tdel s.held core.val, mem := t.mem }

/-- RWAIT writes the slot's address, the view and the slot's status once the view is at least N (R101, R228, R229). -/
def Obligations.RwaitReadsTheSlotAtThePointer : Prop :=
  ∀ (core : CoreId) (gd : BitVec 5) (ring : BitVec 8) (n : BitVec 7) (s : State), Sound s →
    Fresh core.val (.rwait core gd ring n) s → ringOf core.val ring.toNat s = true →
    n.toNat ≤ ringView (core.val / 160) ring.toNat s → n.toNat ≤ s.get .foxRingCfgSlots (core.val / 160) ring.toNat →
    ringOut (core.val / 160) ring.toNat s = true ∨ 0 < ringView (core.val / 160) ring.toNat s →
    ∃ t, exec (.rwait core gd ring n) s = .next t ∧
      GWritten core.val gd.toNat (BitVec.ofNat 64 (ringStatus (core.val / 160) ring.toNat
        (ringView (core.val / 160) ring.toNat s) (ringOut (core.val / 160) ring.toNat s) s)) s t ∧
      (¬ AtBlockEnd core.val s → CycAfter core.val 1 s t) ∧
      SameFields (fun f a b => writesG s core.val gd.toNat f a b ∨ f = .spdStatClean ∧ a = core.val ∨
        f = .detCauses ∧ a = core.val / 160) s t ∧
      t = { s with reg := t.reg, held := tdel s.held core.val, segRings := t.segRings }

/-- RPOP releases N slots and lowers PUBV; RPUB publishes N slots, EOS and VALID on the last, and lowers FREEV (R222, R228, R230). -/
def Obligations.RpopAndRpubMoveTheRing : Prop :=
  ∀ (core : CoreId) (ring : BitVec 8) (n valid : BitVec 7) (eos : Bool) (s : State) (ch r : Nat), Sound s →
    ch = core.val / 160 → r = ring.toNat → RingReady core.val r s →
    (s.ready core.val (.rpop core ring n) = true → ringOut ch r s = false → n.toNat ≤ s.get .ringPubv ch r →
      ∃ t, exec (.rpop core ring n) s = .next t ∧ t.get .ringPubv ch r = s.get .ringPubv ch r - n.toNat ∧
        t.get .ringCorePtr ch r = (s.get .ringCorePtr ch r + n.toNat) % s.get .foxRingCfgSlots ch r ∧ GSame core.val s t ∧
        (s.entries ch = [] → ∀ k < n.toNat,
          t.get .ringSlotSt ch (r * 64 + (s.get .ringCorePtr ch r + k) % s.get .foxRingCfgSlots ch r) = 0) ∧
        SameFields (fun f a b => flowPlaces s core.val f a b ∨ f = .spdStatClean ∧ a = core.val ∨
          a = ch ∧ (f = .detCauses ∨ f ∈ [Fld.ringPubv, .ringCorePtr] ∧ b = r ∨ f ∈ [Fld.foxRingPtrTail, .foxRingPtrPub, .foxRingPtrFill, .foxRingPtrTent,
            .ringSlotSt, .ringSlotLanded, .ringSlotWords, .ringSlotEos, .ringSlotPoison, .ringSlotLeft, .ringSlotGen])) s t ∧
        t = { s with reg := t.reg, held := tdel s.held core.val, foxAct := t.foxAct }) ∧
    (s.ready core.val (.rpub core ring n eos valid) = true → ringOut ch r s = true → n.toNat ≤ s.get .ringFreev ch r →
      n.toNat ≤ s.get .foxRingCfgSlots ch r → valid.toNat ≤ s.get .foxRingCfgSlotWords ch r →
      ∃ t, exec (.rpub core ring n eos valid) s = .next t ∧ t.get .ringFreev ch r = s.get .ringFreev ch r - n.toNat ∧
        t.get .ringCorePtr ch r = (s.get .ringCorePtr ch r + n.toNat) % s.get .foxRingCfgSlots ch r ∧ GSame core.val s t ∧
        (∀ k < n.toNat, ∀ x, x = r * 64 + (s.get .ringCorePtr ch r + k) % s.get .foxRingCfgSlots ch r →
          t.get .ringSlotSt ch x = 3 ∧ t.get .ringSlotWords ch x =
            (if k + 1 = n.toNat ∧ valid.toNat ≠ 0 then valid.toNat else s.get .foxRingCfgSlotWords ch r) ∧
          t.get .ringSlotEos ch x = (if k + 1 = n.toNat ∧ eos = true then 1 else 0)) ∧
        SameFields (fun f a b => flowPlaces s core.val f a b ∨ f = .spdStatClean ∧ a = core.val ∨
          a = ch ∧ (f ∈ [Fld.ringFreev, .ringCorePtr, .foxRingPtrHead, .foxRingPtrFill, .foxRingPtrPub] ∧ b = r ∨
            f ∈ [Fld.ringSlotSt, .ringSlotWords, .ringSlotLeft, .ringSlotEos] ∧
              ∃ k < n.toNat, b = r * 64 + (s.get .ringCorePtr ch r + k) % s.get .foxRingCfgSlots ch r)) s t ∧
        IssuedReg core.val s t)

/-- QPUSH sends N words of V for N of room; QPOP takes N words from the FIFO into V, QPEEK copies them (R68, R136, R246, R248, R249, R253, R255, R259, R260). -/
def Obligations.QpushQpopAndQpeekMoveWords : Prop :=
  ∀ (core : CoreId) (v : BitVec 5) (ep : BitVec 3) (nm1 : BitVec 2) (s : State) (c ch n : Nat), Sound s →
    c = core.val → ch = c / 160 → n = nm1.toNat + 1 →
    (∀ r dk de, Fresh c (.qpush core v ep nm1) s → r = routeOf c ep.toNat s → field r 0 3 = 1 → dk = field r 3 8 →
      de = field r 11 3 → dk < 160 → s.present (ch * 160 + dk) = true → (feeders ch dk de s).length ≤ 1 →
      n ≤ s.get .epRoom c ep.toNat →
      ∃ t, exec (.qpush core v ep nm1) s = .next t ∧ t.get .epRoom c ep.toNat = s.get .epRoom c ep.toNat - n ∧
        t.transitOf ch = s.transitOf ch ++ (List.range n).map (fun w => .word (ch * 160 + dk) de (vecWord c v.toNat w s) false) ∧
        TabElse State.transit ch s t ∧ GSame c s t ∧
        (¬ AtBlockEnd c s → t.get .coreCyc c 0 = (vecIssueAt c [v.toNat] [] s + 1) % 2 ^ 64) ∧
        SameFields (fun f a b => chanPlaces s c f a b ∨ f = .epRoom ∧ a = c ∧ b = ep.toNat) s t ∧
        t = { s with reg := t.reg, held := tdel s.held c, transit := t.transit }) ∧
    (∀ x ∈ [(Instr.qpop core v ep nm1, true), (Instr.qpeek core v ep nm1, false)],
      Fresh c x.1 s → NotLanding c ep.toNat s → n ≤ (s.fifoAt c ep.toNat).length →
      ∃ t, exec x.1 s = .next t ∧ VWritten c v.toNat (wordsInto c v.toNat ((s.fifoAt c ep.toNat).take n) s) s t ∧
        t.fifoAt c ep.toNat = (if x.2 then (s.fifoAt c ep.toNat).drop n else s.fifoAt c ep.toNat) ∧
        t.transitOf ch = s.transitOf ch ++ (if x.2 then roomBack c ep.toNat n s else []) ∧
        TabElse State.fifo (c * 8 + ep.toNat) s t ∧ TabElse State.transit ch s t ∧ GSame c s t ∧
        (¬ AtBlockEnd c s → CycAfter c 1 s t) ∧
        SameFields (fun f a b => chanPlaces s c f a b ∨ f = .coreVRdy ∧ a = c ∧ b = v.toNat) s t ∧
        TabElse State.vreg (c * 32 + v.toNat) s t ∧
        t = { s with reg := t.reg, held := tdel s.held c, transit := t.transit, fifo := t.fifo, vreg := t.vreg })

/-- FIRSTOF takes from A if A holds N words, else from B; a core that had to hold has raced (R259, R261, R353, R356). -/
def Obligations.FirstofTakesFromTheEndpointThatIsReady : Prop :=
  ∀ (core : CoreId) (v : BitVec 5) (ea eb : BitVec 3) (gd : BitVec 5) (nm1 : BitVec 2) (s : State) (c ch n raced : Nat) (e : Nat),
    Sound s → c = core.val → ch = c / 160 → n = nm1.toNat + 1 → s.ready c (.firstof core v ea eb gd nm1) = true →
    s.get .chCfgAllowRace ch 0 ≠ 0 → NotLanding c ea.toNat s → NotLanding c eb.toNat s →
    raced = (if (tget? s.held c).isSome then 1 else 0) →
    e = (if n ≤ (s.fifoAt c ea.toNat).length then ea.toNat else eb.toNat) → n ≤ (s.fifoAt c e).length →
    ∃ t, exec (.firstof core v ea eb gd nm1) s = .next t ∧
      VWritten c v.toNat (wordsInto c v.toNat ((s.fifoAt c e).take n) s) s t ∧ t.fifoAt c e = (s.fifoAt c e).drop n ∧
      TabElse State.fifo (c * 8 + e) s t ∧ t.transitOf ch = s.transitOf ch ++ roomBack c e n s ∧ TabElse State.transit ch s t ∧
      GWritten c gd.toNat (BitVec.ofNat 64 (2 * raced + (if n ≤ (s.fifoAt c ea.toNat).length then 0 else 1))) s t ∧
      t.get .raceCount ch 0 = (s.get .raceCount ch 0 + raced) % 2 ^ 64 ∧ t.ctr = s.ctr + raced ∧
      (raced = 1 → Recording s → t.evq = s.evq ++ [⟨0x0902, ch, [ch, 0, 1]⟩]) ∧ (raced = 0 → t.evq = s.evq) ∧
      SameFields (fun f a b => chanPlaces s c f a b ∨ writesG s c gd.toNat f a b ∨ f = .coreVRdy ∧ a = c ∧ b = v.toNat ∨
        raced = 1 ∧ f ∈ [Fld.raceCount, .detCauses] ∧ a = ch) s t ∧
      t = { s with reg := t.reg, held := tdel s.held c, transit := t.transit, fifo := t.fifo, vreg := t.vreg,
                   evq := t.evq, ctr := t.ctr }

/-- CINC and CDEC change an own counter, saturating, or send a token; CWAIT subtracts once the counter is at least N (R253, R254, R265, R266, R269). -/
def Obligations.CountersAddSubtractAndSend : Prop :=
  ∀ (core : CoreId) (ep : BitVec 3) (ctr : BitVec 4) (amt : BitVec 16) (s : State) (c ch : Nat), Sound s →
    c = core.val → ch = c / 160 →
    (∀ x ∈ [(Instr.cinc core false ep ctr amt, false), (Instr.cdec core false ep ctr amt, true)], s.ready c x.1 = true →
      ∃ t, exec x.1 s = .next t ∧ CounterDone c ctr.toNat amt.toNat x.2 0 s t ∧ GSame c s t ∧
        (¬ AtBlockEnd c s → CycAfter c 1 s t) ∧
        SameFields (fun f a b => chanPlaces s c f a b ∨ counterPlaces c ctr.toNat f a b) s t ∧
        t = { s with reg := t.reg, held := tdel s.held c, evq := t.evq }) ∧
    (∀ x ∈ [(Instr.cinc core true ep ctr amt, false), (Instr.cdec core true ep ctr amt, true)], ∀ k r, s.ready c x.1 = true →
      r = routeOf c ep.toNat s → field r 0 2 = 3 → withRank ch (rankOf ch (c % 160) s + field r 3 8 + 1) s = [k] →
      ∃ t, exec x.1 s = .next t ∧
        t.transitOf ch = s.transitOf ch ++ [.token (ch * 160 + k) ctr.toNat amt.toNat x.2 (field r 16 16) (c % 160)] ∧
        TabElse State.transit ch s t ∧ SameFields (chanPlaces s c) s t ∧ GSame c s t ∧
        t = { s with reg := t.reg, held := tdel s.held c, transit := t.transit }) ∧
    ∀ sub : Bool, Fresh c (.cwait core ctr sub amt) s → amt.toNat ≤ s.get .synCnt c ctr.toNat →
      ∃ t, exec (.cwait core ctr sub amt) s = .next t ∧
        t.get .synCnt c ctr.toNat = s.get .synCnt c ctr.toNat - (if sub then amt.toNat else 0) ∧ GSame c s t ∧
        (¬ AtBlockEnd c s → CycAfter c 1 s t) ∧
        SameFields (fun f a b => chanPlaces s c f a b ∨ f = .synCnt ∧ a = c ∧ b = ctr.toNat) s t ∧ IssuedReg c s t

/-- RWAIT, QPUSH, QPOP, QPEEK, FIRSTOF and CWAIT leave the core WAITING where their condition is not met (R75, R229, R260, R261, R269, R275). -/
def Obligations.BlockingInstructionsHoldTheCore : Prop :=
  ∀ (core : CoreId) (v gd : BitVec 5) (ep ea eb : BitVec 3) (nm1 : BitVec 2) (ring : BitVec 8) (n : BitVec 7) (ctr : BitVec 4)
    (sub : Bool) (amt : BitVec 16) (s : State) (c ch : Nat), Sound s → c = core.val → ch = c / 160 →
    (Fresh c (.rwait core gd ring n) s → ringOf c ring.toNat s = true → ringView ch ring.toNat s < n.toNat →
      ∃ t, exec (.rwait core gd ring n) s = .next t ∧ HoldsAt c (.rwait core gd ring n) 5 ring.toNat s t) ∧
    (∀ r, Fresh c (.qpush core v ep nm1) s → r = routeOf c ep.toNat s → field r 0 3 = 1 → field r 3 8 < 160 →
      s.present (ch * 160 + field r 3 8) = true → (feeders ch (field r 3 8) (field r 11 3) s).length ≤ 1 →
      s.get .epRoom c ep.toNat < nm1.toNat + 1 →
      ∃ t, exec (.qpush core v ep nm1) s = .next t ∧ HoldsAt c (.qpush core v ep nm1) 7 ep.toNat s t) ∧
    (∀ x ∈ [Instr.qpop core v ep nm1, .qpeek core v ep nm1], Fresh c x s → NotLanding c ep.toNat s →
      (s.fifoAt c ep.toNat).length < nm1.toNat + 1 → ∃ t, exec x s = .next t ∧ HoldsAt c x 6 ep.toNat s t) ∧
    (Fresh c (.firstof core v ea eb gd nm1) s → s.get .chCfgAllowRace ch 0 ≠ 0 → NotLanding c ea.toNat s →
      NotLanding c eb.toNat s → (s.fifoAt c ea.toNat).length < nm1.toNat + 1 → (s.fifoAt c eb.toNat).length < nm1.toNat + 1 →
      ∃ t, exec (.firstof core v ea eb gd nm1) s = .next t ∧ HoldsAt c (.firstof core v ea eb gd nm1) 10 ea.toNat s t) ∧
    (Fresh c (.cwait core ctr sub amt) s → s.get .synCnt c ctr.toNat < amt.toNat →
      ∃ t, exec (.cwait core ctr sub amt) s = .next t ∧ HoldsAt c (.cwait core ctr sub amt) 8 ctr.toNat s t)

/-- Words, room, tokens, DONE_CTR increments, doorbells and ring views arrive, oldest first (R211, R228, R248, R250, R265, R267, R583). -/
def Obligations.CrossingsArriveAtTheirCore : Prop :=
  ∀ (core : CoreId) (ep : BitVec 3) (sender : BitVec 8) (ring : BitVec 8) (chan : Chan) (s : State) (c ch : Nat)
    (pre post : List Transit), Sound s → c = core.val → ch = c / 160 → s.chanRuns ch = true →
    (∀ d l, OldestIn ch (.word c ep.toNat d l) (IsWordFor c ep.toNat) pre post s → (s.fifoAt c ep.toNat).length < 64 →
      ∃ t, exec (.wordArrival core ep) s = .next t ∧ t.fifoAt c ep.toNat = s.fifoAt c ep.toNat ++ [d] ∧
        TabElse State.fifo (c * 8 + ep.toNat) s t ∧ Taken ch pre post s t ∧
        t = { s with fifo := t.fifo, transit := t.transit }) ∧
    (∀ n, OldestIn ch (.room c ep.toNat n) (IsRoomFor c ep.toNat) pre post s →
      ∃ t, exec (.roomReturn core ep) s = .next t ∧ t.get .epRoom c ep.toNat = min 64 (s.get .epRoom c ep.toNat + n) ∧
        SameFields (fun f a b => f = .epRoom ∧ a = c ∧ b = ep.toNat) s t ∧ Taken ch pre post s t ∧
        t = { s with reg := t.reg, transit := t.transit }) ∧
    (∀ ctr amt sub cmask, OldestIn ch (.token c ctr amt sub cmask sender.toNat) (IsTokenFor c sender.toNat) pre post s → ctr < 16 →
      ∃ t, exec (.counterTokenArrival core sender) s = .next t ∧ Taken ch pre post s t ∧
        (cmask.testBit ctr = true → CounterDone c ctr amt sub 1 s t ∧ SameFields (counterPlaces c ctr) s t) ∧
        (cmask.testBit ctr = false → (t.get .synFlagsMisuse c 0).testBit ctr = true ∧
          (Recording s → t.evq = s.evq ++ [⟨0x0603, ch, [c, ctr, ch * 160 + sender.toNat]⟩]) ∧
          SameFields (fun f a _ => f = .synFlagsMisuse ∧ a = c) s t) ∧
        t = { s with reg := t.reg, transit := t.transit, evq := t.evq }) ∧
    (∀ ctr remote, OldestIn ch (.done c ctr remote) (IsDoneFor c) pre post s → ctr < 16 →
      ∃ t, exec (.doneCtrIncrement core) s = .next t ∧ CounterDone c ctr 1 false 2 s t ∧ SameFields (counterPlaces c ctr) s t ∧
        Taken ch pre post s t ∧ t = { s with reg := t.reg, transit := t.transit, evq := t.evq }) ∧
    (OldestIn ch (.doorbell c) (· = .doorbell c) pre post s →
      ∃ t, exec (.doorbellArrival core) s = .next t ∧ t.get .coreStatDbell c 0 = 1 ∧
        SameFields (fun f a _ => f = .coreStatDbell ∧ a = c) s t ∧ Taken ch pre post s t ∧
        t = { s with reg := t.reg, transit := t.transit }) ∧
    (chan.val = ch → s.get .ringViewPend ch ring.toNat ≠ 0 →
      ∃ t, exec (.ringViewUpdate chan ring) s = .next t ∧
        t.get .ringViewPend ch ring.toNat = s.get .ringViewPend ch ring.toNat - 1 ∧
        ringView ch ring.toNat t = (ringView ch ring.toNat s + 1) % 2 ^ 7 ∧
        SameFields (fun f a b => a = ch ∧ b = ring.toNat ∧ (f = .ringViewPend ∨
          f = if ringOut ch ring.toNat s then .ringFreev else .ringPubv)) s t ∧ OnlyReg s t)

/-- GO.SY, GO.VX, GO.FX and an empty GO.MX start their unit once it is not busy and their gates hold (R72, R74, R76, R115, R153, R155, R203, R208, R209, R210, R262, R263). -/
def Obligations.GatedGosStartTheirUnit : Prop :=
  ∀ (core : CoreId) (mask tag : BitVec 8) (acc : Access) (s : State) (c ch g : Nat), Sound s → c = core.val → ch = c / 160 →
    g = s.get .coreCyc c 0 → g + 4 < 2 ^ 64 →
    (GoOpen c 4 mask (.goSy core mask) s →
      ∃ t, exec (.goSy core mask) s = .next t ∧ GoIssued c s t ∧ t.get .syLeft c 0 = s.get .syF c 3 ∧
        (s.get .syF c 3 = 0 → t.get .syDoneAt c 0 = g + 3) ∧
        (s.get .syF c 3 ≠ 0 → unitState c 4 t = .busy ∧ t.get .syIdx c 0 = 0 ∧ t.get .syEp c 0 = s.get .syF c 1 ∧
          t.get .syAddr c 0 = s.get .syF c 2 / 64 * 64) ∧
        SameFields (fun f a b => chanPlaces s c f a b ∨ a = c ∧ f ∈ [Fld.syLeft, .syIdx, .syEp, .syAddr, .syExact, .syDoneAt]) s t ∧
        t = { s with reg := t.reg, held := tdel s.held c, segRings := t.segRings }) ∧
    (GoOpen c 2 mask (.goVx core mask) s →
      ∃ t, exec (.goVx core mask) s = .next t ∧ GoIssued c s t ∧
        (s.get .vxF c 2 = 0 → t.get .vxDoneAt c 0 = g + 3 ∧ t.vxJobs = s.vxJobs) ∧
        (s.get .vxF c 2 ≠ 0 → tget? t.vxJobs c = some ⟨s.get .vxF c 2, 0, s.get .vxF c 1, s.get .vxF c 3 / 64 * 64,
          s.get .vxF c 4 / 64 * 64, decide (s.get .vxF c 5 = 1), g + 1⟩) ∧
        TabElse State.vxJobs c s t ∧
        SameFields (fun f a b => chanPlaces s c f a b ∨ a = c ∧ f = .vxDoneAt) s t ∧
        t = { s with reg := t.reg, held := tdel s.held c, segRings := t.segRings, vxJobs := t.vxJobs }) ∧
    (∀ x ∈ [(Instr.goFxSubmit core mask, false), (Instr.goFxFence core mask, true)], GoOpen c 3 mask x.1 s →
      (x.2 = false → s.get .fxF c 1 < 4 ∧ s.get .fxF c 3 < 3 ∧
        (s.get .fxF c 2 = 2 → ringIs ch (s.get .fxF c 6) true s = true) ∧
        (s.get .fxF c 3 = 2 → ringIs ch (s.get .fxF c 6) false s = true)) →
      ∃ t d, exec x.1 s = .next t ∧ GoIssued c s t ∧ t.arr ch = s.arr ch ++ [d] ∧ TabElse State.foxArr ch s t ∧
        t.get .fxWait c 0 = 1 ∧ unitState c 3 t = .busy ∧ (s.get .chCfgLockstep ch 0 = 1 → t.get .fxDoneAt c 0 = g + 10) ∧
        d.src = c % 160 ∧ d.isFence = x.2 ∧ d.done = s.get .fxF c 7 ∧
        (x.2 = false → (d.kind, d.sspace, d.dspace, d.sside, d.eos, d.fence, d.ring) =
            (s.get .fxF c 1, s.get .fxF c 2, s.get .fxF c 3, decide (s.get .fxF c 4 = 1), (s.get .fxF c 5).testBit 0,
              (s.get .fxF c 5).testBit 1, s.get .fxF c 6) ∧
          (d.n0, d.n1, d.n2, d.n3, d.sa, d.da) = (s.get .fxF c 8, s.get .fxF c 9, s.get .fxF c 10, s.get .fxF c 11,
            s.get .fxF c 12, s.get .fxF c 13) ∧
          (d.s1, d.s2, d.s3, d.idx, d.idxCore, d.chip, d.pch) = (s.get .fxF c 14, s.get .fxF c 15, s.get .fxF c 16,
            s.get .fxF c 18, c % 160, s.get .fxF c 17 % 2 ^ 15, s.get .fxF c 17 / 2 ^ 15)) ∧
        SameFields (fun f a b => chanPlaces s c f a b ∨ a = c ∧ f ∈ [Fld.fxWait, .fxDoneAt] ∨ a = ch ∧ f = .foxSeq) s t ∧
        t = { s with reg := t.reg, held := tdel s.held c, segRings := t.segRings, foxArr := t.foxArr, ctr := t.ctr }) ∧
    (GoOpen c 1 mask (.goMx core mask tag acc) s → mxIllegal c s = false → s.get .mxF c 2 * s.get .mxF c 3 = 0 →
      ∃ t, exec (.goMx core mask tag acc) s = .next t ∧ GoIssued c s t ∧ t.get .mxDoneAt c 0 = g + 3 ∧
        SameFields (fun f a b => chanPlaces s c f a b ∨ a = c ∧ f = .mxDoneAt) s t ∧
        t = { s with reg := t.reg, held := tdel s.held c, segRings := t.segRings })

/-- GO.MX computes every tile from its panels, in tile order, and emits the tiles or retains the single one (R72, R105, R106, R107, R108, R109, R113, R114, R117, R119, R125, R126). -/
def Obligations.GoMxComputesItsTiles : Prop :=
  (∀ (core : CoreId) (mask tag : BitVec 8) (s : State) (c n : Nat), Sound s → c = core.val →
    n = s.get .mxF c 2 * s.get .mxF c 3 → GoOpen c 1 mask (.goMx core mask tag quiet) s → mxIllegal c s = false → 0 < n →
    (∀ a, mxReadAt c a s → WordGood c 0 a s) →
    ∃ t, exec (.goMx core mask tag quiet) s = .next t ∧ GoIssued c s t ∧
      (s.get .mxF c 0x0C = 1 → t.get .mxStatRetained c 0 = 0 ∧ ∃ j, tget? t.mxJobs c = some j ∧ j.tiles.length = n ∧
        ∀ k < n, ∀ x, j.tiles[k]? = some x → MxTileIs c k tag.toNat n s x) ∧
      (s.get .mxF c 0x0C = 0 → t.get .mxStatRetained c 0 = 1 ∧ t.get .mxRetInt c 0 = (if mxInt (s.get .mxF c 0) then 1 else 0) ∧
        t.get .mxRetPlane c 0 = (if s.get .mxF c 0x0A = 2 then s.get .mxRetPlane c 0 else 0) ∧
        ∀ k < 1024, (tget [] t.planes (c * 2 + t.get .mxRetPlane c 0)).getD k 0#32 = mxElement c 0 k s) ∧
      TabElse State.mxJobs c s t ∧ (∀ k, k / 2 ≠ c → tget? t.planes k = tget? s.planes k) ∧
      SameFields (fun f a b => chanPlaces s c f a b ∨ a = c ∧ f ∈ [Fld.mxStatRetained, .mxRetPoison, .mxRetAddr, .mxRetPlane,
        .mxRetInt, .mxDoneAt, .spdStalec] ∨ a = c / 160 ∧ f = .detCauses) s t ∧
      t = { s with reg := t.reg, held := tdel s.held c, segRings := t.segRings, evq := t.evq, planes := t.planes,
                   mxJobs := t.mxJobs }) ∧
  ∀ fmt sgn acc0 ops, fmt = 4 ∨ fmt = 7 →
    (BitVec.ofNat 32 (mxCell fmt sgn acc0 ops) : BitVec 32) =
      BitVec.ofInt 32 (ops.foldl (fun z p => z + mxIntOf fmt (sgn.testBit 0) p.1 * mxIntOf fmt (sgn.testBit 1) p.2) (acc0 : Int))

/-- MX_TILE_DRAIN puts the next tile behind the last; VTPOP reads a row pair of the head and may release it (R113, R118, R129, R148, R149, R150, R151, R152). -/
def Obligations.TilesDrainAndAreReadInOrder : Prop :=
  ∀ (core : CoreId) (vd gd : BitVec 5) (rp : BitVec 4) (rel nr : Bool) (s : State) (c used : Nat), Sound s → c = core.val →
    used = ((List.range 8).filter fun e => s.get .tqEnt c e != 0).length →
    (∀ j x rest, s.chanRuns (c / 160) = true → tget? s.mxJobs c = some j → j.tiles = x :: rest →
      (used < 8 → ∃ t e dr, exec (.mxTileDrain core) s = .next t ∧ e = (s.get .tqHead c 0 + used) % 8 ∧
        tget? t.tiles (c * 8 + e) = some x ∧ TabElse State.tiles (c * 8 + e) s t ∧ t.get .tqEnt c e = 2 ∧
        s.get .tqFreeAt c e ≤ dr ∧ t.get .tqFullAt c e = (dr + 8) % 2 ^ 64 ∧
        t.get .mxTiles c 0 = (s.get .mxTiles c 0 + 1) % 2 ^ 64 ∧ t.get .mxStatDrainwait c 0 = 0 ∧
        (rest = [] → tget? t.mxJobs c = none) ∧ (rest ≠ [] → ∃ k, tget? t.mxJobs c = some k ∧ k.tiles = rest) ∧
        TabElse State.mxJobs c s t ∧
        SameFields (fun f a b => a = c ∧ (f ∈ [Fld.tqEnt, .tqFullAt] ∧ b = e ∨ f ∈ [Fld.mxStatNan, .mxStatInf, .mxStatPoison,
          .mxStatDrainwait, .mxTiles, .mxStallc, .mxDoneAt])) s t ∧
        t = { s with reg := t.reg, tiles := t.tiles, mxJobs := t.mxJobs, evq := t.evq }) ∧
      (8 ≤ used → ∃ t, exec (.mxTileDrain core) s = .next t ∧ t.get .mxStatDrainwait c 0 = 1 ∧
        SameFields (fun f a _ => f = .mxStatDrainwait ∧ a = c) s t ∧ OnlyReg s t)) ∧
    (∀ h x, VecReady c (.vtpop core vd gd rp rel nr) s → nr = false ∨ rel = true → TqHead c h x s →
      ∃ t, exec (.vtpop core vd gd rp rel nr) s = .next t ∧
        (nr = false → VWritten c vd.toNat (fun l => x.vals.getD (64 * rp.toNat + l) 0#32) s t ∧
          TabElse State.vreg (c * 32 + vd.toNat) s t ∧
          (x.poison = true → t.get .vxStatPoison c 0 = 1 ∧
            (Recording s → t.evq = s.evq ++ [⟨0x0301, c / 160, [c, x.t, x.tag]⟩]))) ∧
        (nr = true → t.vreg = s.vreg) ∧ (nr = true ∨ x.poison = false → t.evq = s.evq) ∧
        GWritten c gd.toNat (BitVec.ofNat 64 (tileWord x)) s t ∧
        (rel = true → t.get .tqEnt c h = 0 ∧ t.get .tqHead c 0 = (h + 1) % 8 ∧ tget? t.tiles (c * 8 + h) = none ∧
          t.get .tqPops c 0 = (s.get .tqPops c 0 + 1) % 2 ^ 64) ∧
        (rel = false → t.get .tqEnt c h = 3 ∧ t.tiles = s.tiles) ∧ TabElse State.tiles (c * 8 + h) s t ∧
        SameFields (fun f a b => writesG s c gd.toNat f a b ∨ a = c / 160 ∧ f = .detCauses ∨
          a = c ∧ (f = .coreVRdy ∧ b = vd.toNat ∨ f ∈ [Fld.tqEnt, .tqFreeAt] ∧ b = h ∨
            f ∈ [Fld.tqHead, .tqPops, .vxStatTqwait, .vxStatPoison])) s t ∧
        t = { s with reg := t.reg, held := tdel s.held c, vreg := t.vreg, tiles := t.tiles, evq := t.evq }) ∧
    (VecReady c (.vtpop core vd gd rp rel nr) s → nr = false ∨ rel = true → s.get .tqEnt c (s.get .tqHead c 0) < 2 →
      ∃ t, exec (.vtpop core vd gd rp rel nr) s = .next t ∧ t.coreState c = stWaiting ∧ t.get .vxStatTqwait c 0 = 1 ∧
        tget? t.held c = some (.vtpop core vd gd rp rel nr) ∧ TabElse State.held c s t ∧
        SameFields (fun f a _ => a = c ∧ f ∈ [Fld.coreStatState, .coreWkind, .coreWobj, .vxStatTqwait, .coreCyc]) s t ∧
        t = { s with reg := t.reg, held := t.held })

/-- SPILL_TILE writes the converted head tile; SY_LAND_WORD writes the FIFO's head word (R143, R148, R154, R155, R165, R168, R188, R248, R263). -/
def Obligations.SpillAndLandingWriteTheScratchpad : Prop :=
  ∀ (core : CoreId) (s : State) (c : Nat), Sound s → c = core.val → s.chanRuns (c / 160) = true →
    (∀ j h x e base, tget? s.vxJobs c = some j → TqHead c h x s → j.fmt ≤ 4 → j.base % 64 = 0 → j.stride % 64 = 0 → 0 < j.left →
      (j.fmt = 0 ∨ (x.int = true ↔ j.fmt = 4)) → e = (if j.fmt = 0 then 4 else if j.fmt = 1 then 2 else 1) →
      base = j.base + j.idx * j.stride → (∀ k < 16 * e, bankOpen c 1 ((base + 64 * k) % 2 ^ 19 / 2 ^ 15) s = true) →
      ∃ t, exec (.spillTile core quiet) s = .next t ∧
        (∀ r < 32, ∀ q < 32, ∀ i < e, t.spdByte c (base + (if j.trans then 32 * q + r else 32 * r + q) * e + i) =
          BitVec.ofNat 8 (spilled j.fmt (x.vals.getD (32 * r + q) 0#32) / 2 ^ (8 * i))) ∧
        SameBytes (fun y => ∃ k < 1024 * e, y = spdAddr c (base + k)) s t ∧
        t.get .tqEnt c h = 0 ∧ t.get .tqHead c 0 = (h + 1) % 8 ∧ tget? t.tiles (c * 8 + h) = none ∧
        (j.left = 1 → tget? t.vxJobs c = none) ∧
        (j.left ≠ 1 → ∃ k, tget? t.vxJobs c = some k ∧ k.left = j.left - 1 ∧ k.idx = j.idx + 1) ∧
        TabElse State.vxJobs c s t ∧ TabElse State.tiles (c * 8 + h) s t ∧
        SameFields (fun f a b => a = c / 160 ∧ f = .detCauses ∨ a = c ∧ (f ∈ [Fld.tqEnt, .tqFreeAt] ∧ b = h ∨
          f ∈ [Fld.tqHead, .tqPops, .vxStatPoison, .vxStatSat8, .vxStatInf8, .vxDoneAt] ∨
          f ∈ [Fld.spdTag, .spdErr] ∧ ∃ k < 16 * e, b = (base + 64 * k) % 2 ^ 19 / 64)) s t ∧
        t = { s with reg := t.reg, mem := t.mem, tiles := t.tiles, vxJobs := t.vxJobs, evq := t.evq }) ∧
    ∀ d rest ep a, ep = s.get .syEp c 0 → s.fifoAt c ep = d :: rest → s.get .syLeft c 0 ≠ 0 →
      a = (s.get .syAddr c 0 + 64 * s.get .syIdx c 0) % 2 ^ 19 / 64 * 64 → bankOpen c 3 (a / 2 ^ 15) s = true →
      ∃ t, exec (.syLandWord core quiet) s = .next t ∧
        (∀ i < 64, t.spdByte c (a + i) = BitVec.ofNat 8 (d.toNat / 2 ^ (8 * i))) ∧
        SameBytes (fun y => ∃ i < 64, y = spdAddr c (a + i)) s t ∧ t.fifoAt c ep = rest ∧
        TabElse State.fifo (c * 8 + ep) s t ∧ t.transitOf (c / 160) = s.transitOf (c / 160) ++ roomBack c ep 1 s ∧
        TabElse State.transit (c / 160) s t ∧ t.get .syLeft c 0 = s.get .syLeft c 0 - 1 ∧
        t.get .syIdx c 0 = (s.get .syIdx c 0 + 1) % 2 ^ 16 ∧
        SameFields (fun f x b => x = c ∧ (f ∈ [Fld.syLeft, .syIdx, .syDoneAt] ∨ f ∈ [Fld.spdTag, .spdErr] ∧ b = a / 64)) s t ∧
        t = { s with reg := t.reg, mem := t.mem, fifo := t.fifo, transit := t.transit, ctr := t.ctr }

/-- BAR holds its member; releases complete every member that waits with status 0; a timeout completes them with FAULT (R270, R271, R272, R273, R382, R383, R384). -/
def Obligations.BarriersHoldReleaseAndFault : Prop :=
  ∀ (core : CoreId) (chan : Chan) (scope bid : BitVec 2) (gd : BitVec 5) (s : State) (c ch b : Nat), Sound s → c = core.val →
    ch = chan.val → b = bid.toNat →
    (∀ ix k, ix = scope.toNat * 4 + b → k = c / 160 → scope ≠ 3 → Fresh c (.bar core scope bid gd) s → c ∈ members k b s →
      s.get .barWait c ix = 0 →
      (s.get .barFault k ix = 0 ∨ s.get .barFaultGen k ix ≠ s.get .barCount c ix →
        (scope = 2 → ∃ j < 8, (s.get .tunFbarChans b 0).testBit j = true ∧ j ≠ k ∧ chanArrived j 2 b s = false) →
        ∃ t, exec (.bar core scope bid gd) s = .next t ∧ t.coreState c = stWaiting ∧
          tget? t.held c = some (.bar core scope bid gd) ∧ t.get .barWait c ix = 1 ∧ TabElse State.held c s t ∧
          SameFields (fun f a x => a = c ∧ (f ∈ [Fld.coreStatState, .coreWkind, .coreWobj, .spdStatClean, .detSegOpen, .detSegOpens] ∨
            f = .barWait ∧ x = ix) ∨ a = k ∧ f ∈ [Fld.barLast, .barTimer] ∧ x = ix) s t ∧
          t = { s with reg := t.reg, held := t.held, segs := t.segs }) ∧
      (s.get .barFault k ix ≠ 0 → s.get .barFaultGen k ix = s.get .barCount c ix →
        ∃ t, exec (.bar core scope bid gd) s = .next t ∧
          GWritten c gd.toNat (BitVec.ofNat 64 (1 + 2 * s.get .barFault k ix)) s t ∧
          t.get .barCount c ix = (s.get .barCount c ix + 1) % 2 ^ 32 ∧
          SameFields (fun f a x => writesG s c gd.toNat f a x ∨ a = c ∧ (f = .spdStatClean ∨ f = .barCount ∧ x = ix)) s t ∧
          IssuedReg c s t)) ∧
    (chanArrived ch 0 b s = true → s.chanRuns ch = true →
      ∃ t, exec (.channelBarrierRelease chan bid) s = .next t ∧ (∀ k ∈ members ch b s, BarCompleted k b 0 s t ∧
        (s.get .chCfgLockstep ch 0 = 1 → s.get .barLast ch b = k % 160 → ¬ AtBlockEnd k s → (∃ i sc x g,
          tget? s.held k = some (.bar i sc x g)) → CycAfter k 41 s t)) ∧
        SameFields (fun f a x => f ∈ barFlds ∧ a ∈ members ch b s ∨ f = .barTimer ∧ a = ch ∧ x = b) s t ∧
        t = { s with reg := t.reg, held := t.held, segRings := t.segRings, ctr := t.ctr }) ∧
    (chipReady ch b s = true →
      ∃ t, exec (.chipBarrierRelease chan bid) s = .next t ∧
        (∀ j ∈ chipSet ch b s, ∀ k ∈ members j b s, BarCompleted k (4 + b) 0 s t) ∧
        SameFields (fun f a x => f ∈ barFlds ∧ (∃ j ∈ chipSet ch b s, a ∈ members j b s) ∨
          f = .barTimer ∧ a ∈ chipSet ch b s ∧ x = 4 + b) s t ∧
        t = { s with reg := t.reg, held := t.held, segRings := t.segRings, ctr := t.ctr }) ∧
    (s.get .fbarRel b 0 ≠ 0 → s.get .fbarT b 0 ≤ s.get .gtc 0 0 →
      ∃ t, exec (.fabricBarrierRelease bid) s = .next t ∧
        (∀ j ∈ fbarChans b s, ∀ k, Waits j 2 b k s → BarCompleted k (8 + b) 0 s t) ∧
        t.get .fbarGen b 0 = (s.get .fbarGen b 0 + 1) % 2 ^ 32 ∧ t.get .fbarRel b 0 = 0 ∧
        SameFields (fun f a x => f ∈ barFlds ∧ (∃ j ∈ fbarChans b s, Waits j 2 b a s) ∨
          f = .barTimer ∧ a ∈ fbarChans b s ∧ x = 8 + b ∨ f ∈ [Fld.fbarGen, .fbarArr, .fbarSent, .fbarRel, .fbarT] ∧ a = b) s t ∧
        t = { s with reg := t.reg, held := t.held, segRings := t.segRings, ctr := t.ctr }) ∧
    (∀ ix, ix = scope.toNat * 4 + b → s.get .barTimer ch ix ≠ 0 → s.frozen = false → members ch b s ≠ [] →
      (scope = 1 → ∃ t, exec (.barTimeout chan scope bid) s = .next t ∧ (∀ k, Waits ch 1 b k s → BarCompleted k ix 1 s t) ∧
        t.get .barFault ch ix = 1 ∧ t.get .barTimer ch ix = 0 ∧
        t.get .synBarFaults ch 0 = (s.get .synBarFaults ch 0 + 1) % 2 ^ 64 ∧
        (Recording s → t.evq = s.evq ++ [⟨0x0605, ch, [ch, 1, b, 1]⟩]) ∧
        SameFields (fun f a x => f ∈ barFlds ∧ Waits ch 1 b a s ∨
          a = ch ∧ (f ∈ [Fld.barFault, .barFaultGen, .barTimer] ∧ x = ix ∨ f = .synBarFaults)) s t ∧
        t = { s with reg := t.reg, held := t.held, segRings := t.segRings, ctr := t.ctr, evq := t.evq }) ∧
      (scope = 2 → ch ∈ fbarChans b s → ∃ t, exec (.barTimeout chan scope bid) s = .next t ∧
        (∀ j ∈ fbarChans b s, ∀ k, Waits j 2 b k s → BarCompleted k ix 1 s t) ∧
        t.get .fbarGen b 0 = (s.get .fbarGen b 0 + 1) % 2 ^ 32 ∧
        SameFields (fun f a x => f ∈ barFlds ∧ (∃ j ∈ fbarChans b s, Waits j 2 b a s) ∨
          a ∈ fbarChans b s ∧ (f ∈ [Fld.barFault, .barFaultGen, .barTimer] ∧ x = ix ∨ f = .synBarFaults) ∨
          f ∈ [Fld.fbarGen, .fbarArr, .fbarSent, .fbarRel, .fbarT] ∧ a = b) s t ∧
        t = { s with reg := t.reg, held := t.held, segRings := t.segRings, ctr := t.ctr, evq := t.evq, txq := t.txq }))

/-- Fox accepts the oldest arrival, reads sixteen words a cycle, lands what returns and retires complete descriptors (R201, R204, R209, R210, R211, R212, R214, R215, R216, R217, R219, R233). -/
def Obligations.FoxAcceptsReadsLandsAndCompletes : Prop :=
  ∀ (chan : Chan) (cells : List (BitVec 8 × Access)) (s : State) (ch : Nat), Sound s → ch = chan.val → s.chanRuns ch = true →
    (∀ d rest, s.arr ch = d :: rest → (∃ e < 64, s.act? ch e = none) →
      ∃ t e d', exec (.foxAccept chan) s = .next t ∧ e < 64 ∧ s.act? ch e = none ∧ t.act? ch e = some d' ∧
        { d' with slots := d.slots } = d ∧ t.arr ch = rest ∧ TabElse State.foxArr ch s t ∧
        (d.src = 160 → t.get .foxHsqHeadIndex ch 0 = (s.get .foxHsqHeadIndex ch 0 + 1) % 64) ∧
        (d.src < 160 → t.get .fxWait (ch * 160 + d.src) 0 = 0) ∧
        SameFields (fun f a _ => f ∈ foxFlds ∧ a = ch ∨ f = .foxHsqHeadIndex ∧ a = ch ∧ d.src = 160 ∨
          f ∈ [Fld.fxWait, .fxDoneAt] ∧ a = ch * 160 + d.src ∧ d.src < 160) s t ∧
        t = { s with reg := t.reg, foxArr := t.foxArr, foxAct := t.foxAct, ctr := t.ctr }) ∧
    (∀ e d n, s.entries ch = [(e, d)] → d.isFence = false → d.kind = 0 → d.fence = false → d.tent = false → d.sspace = 0 →
      d.dspace < 2 → hasKey ch s = true → d.issued < d.n0 → n = min 16 (d.n0 - d.issued) → (s.reqs ch).length + 16 ≤ 2048 →
      (∀ k < n, linearSource d (d.issued + k) < 0x900000000) →
      ∃ t, exec (.foxIssue chan cells) s = .next t ∧
        t.reqs ch = s.reqs ch ++ (List.range n).map (fun k => ⟨d.seq, d.issued + k, 0,
          (hbmRead ch (linearSource d (d.issued + k)) s).1, (hbmRead ch (linearSource d (d.issued + k)) s).2⟩) ∧
        t.act? ch e = some { d with issued := d.issued + n } ∧ t.get .foxLead ch 0 = e % 64 ∧ TabElse State.foxReqs ch s t ∧
        TabElse State.foxAct (ch * 64 + e) s t ∧ SameFields (fun f a _ => f = .foxLead ∧ a = ch) s t ∧
        t = { s with reg := t.reg, foxAct := t.foxAct, foxReqs := t.foxReqs }) ∧
    (∀ (pick : BitVec 11) ue r, (s.reqs ch)[pick.toNat]? = some r →
      (∀ e d, (s.entries ch).find? (fun x => x.2.seq == r.seq) = some (e, d) → d.dspace = 0 → r.data.length = 64 →
        hbmDest d r < 0x900000000 →
        ∃ t, exec (.hbmReadReturn chan pick ue cells) s = .next t ∧ hbmRead ch (hbmDest d r) t = (r.data, r.poison || ue) ∧
          t.act? ch e = some { d with landed := d.landed + 1, poisoned := d.poisoned || (r.poison || ue) } ∧
          t.reqs ch = (s.reqs ch).eraseIdx pick.toNat ∧ TabElse State.foxReqs ch s t ∧
          SameBytes (fun y => ∃ i < 64, y = hbmAddr ch (hbmDest d r / 64 * 64) + i) s t ∧
          ((r.poison || ue) = true → t.get .foxPoisonWords ch 0 = (s.get .foxPoisonWords ch 0 + 1) % 2 ^ 64) ∧
          ((r.poison || ue) = true → d.poisoned = false → Recording s →
            t.evq = s.evq ++ [⟨0x0501, ch, [d.src, e, hbmDest d r]⟩]) ∧
          SameFields (fun f a _ => a = ch ∧ (f ∈ foxFlds ∨ f = .foxPoisonWords)) s t ∧
          t = { s with reg := t.reg, mem := t.mem, hbmBad := t.hbmBad, hbmKey := t.hbmKey, foxReqs := t.foxReqs,
                       foxAct := t.foxAct, evq := t.evq }) ∧
      ((∀ x ∈ s.entries ch, x.2.seq ≠ r.seq) →
        ∃ t, exec (.hbmReadReturn chan pick ue cells) s = .next t ∧ t.reqs ch = (s.reqs ch).eraseIdx pick.toNat ∧
          TabElse State.foxReqs ch s t ∧ t = { s with foxReqs := t.foxReqs })) ∧
    ((∃ x ∈ s.entries ch, FoxDone ch x.2 s) →
      ∃ t e d, exec (.descriptorComplete chan) s = .next t ∧ (e, d) ∈ s.entries ch ∧ FoxDone ch d s ∧
        (∀ x ∈ s.entries ch, FoxDone ch x.2 s → d.seq ≤ x.2.seq) ∧ t.act? ch e = none ∧ TabElse State.foxAct (ch * 64 + e) s t ∧
        (d.src = 160 → t.get .foxHsqDone ch 0 = (s.get .foxHsqDone ch 0 + 1) % 2 ^ 64 ∧
          (t.get .chIrqStatCause ch 0).testBit 0 = true ∧ t.transit = s.transit) ∧
        (d.src < 160 → t.reg = s.reg ∧ t.out = s.out ∧ TabElse State.transit ch s t ∧ t.transitOf ch = s.transitOf ch ++
          (if d.done.testBit 4 then [.done (ch * 160 + d.src) (d.done % 16) (d.sspace == 3 && !d.isFence)] else [])) ∧
        SameFields (fun f a _ => a = ch ∧ f ∈ [Fld.foxHsqDone, .chIrqStatCause] ∨ a = ch + 1 ∧ f ∈ [Fld.msixD3, .msixPba]) s t ∧
        t = { s with reg := t.reg, foxAct := t.foxAct, transit := t.transit, out := t.out })

/-- A service slot serves sixteen words; an unanswered remote read fails; Fox takes the host queue up to its tail (R203, R212, R215, R234, R237, R396, R432, R490, R557). -/
def Obligations.FoxServesPeersAndTheHostQueue : Prop :=
  ∀ (chan : Chan) (s : State) (ch : Nat), Sound s → ch = chan.val →
    (∀ tail : BitVec 6, (s.chWrite ch true = true → ∃ t, exec (.foxHsqTail chan tail) s = .next t ∧
        t.get .foxHsqTailIndex ch 0 = tail.toNat ∧ t.get .foxHsqWay ch 0 = 1 ∧
        SameFields (fun f a _ => f ∈ [Fld.foxHsqTailIndex, .foxHsqWay] ∧ a = ch) s t ∧ OnlyReg s t) ∧
      (s.chWrite ch true = false → exec (.foxHsqTail chan tail) s = .next s)) ∧
    (s.chanRuns ch = true → s.get .foxHsqWay ch 0 ≠ 0 →
      (s.get .ownCfgHostio ch 0 < 2 → (∀ i < hsqWaiting ch s, ∀ d, d = hostDesc ch ((s.get .foxHsqSeen ch 0 + i) % 64) s →
          d.kind < 4 ∧ d.dspace < 2 ∧ d.sspace ≠ 2) →
        ∃ t ds, exec (.foxHsqTailSeen chan) s = .next t ∧ t.arr ch = s.arr ch ++ ds ∧ ds.length = hsqWaiting ch s ∧
          (∀ i < hsqWaiting ch s, ∀ d, ds[i]? = some d → { d with seq := 0, atOnce := true } =
            hostDesc ch ((s.get .foxHsqSeen ch 0 + i) % 64) s) ∧
          t.get .foxHsqSeen ch 0 = s.get .foxHsqTailIndex ch 0 ∧ t.get .foxHsqWay ch 0 = 0 ∧ TabElse State.foxArr ch s t ∧
          SameFields (fun f a _ => f ∈ [Fld.foxHsqSeen, .foxHsqWay, .foxSeq] ∧ a = ch) s t ∧
          t = { s with reg := t.reg, foxArr := t.foxArr }) ∧
      (2 ≤ s.get .ownCfgHostio ch 0 →
        ∃ t, exec (.foxHsqTailSeen chan) s = .next t ∧ t.foxArr = s.foxArr ∧
          t.get .foxHsqSeen ch 0 = s.get .foxHsqTailIndex ch 0 ∧
          t.get .foxHsqHeadIndex ch 0 = (s.get .foxHsqHeadIndex ch 0 + hsqWaiting ch s) % 64 ∧
          t.get .foxHsqDone ch 0 = (s.get .foxHsqDone ch 0 + hsqWaiting ch s) % 2 ^ 64 ∧
          (0 < hsqWaiting ch s → (t.get .chIrqStatCause ch 0).testBit 0 = true) ∧
          SameFields (fun f a _ => f ∈ [Fld.foxHsqSeen, .foxHsqWay, .foxHsqHeadIndex, .foxHsqDone, .chIrqStatCause] ∧ a = ch ∨
            a = ch + 1 ∧ f ∈ [Fld.msixD3, .msixPba]) s t ∧
          t = { s with reg := t.reg, out := t.out })) ∧
    (∀ m, s.chanRuns ch = true → s.get .foxRsvcEff ch 0 ≠ 0 → tget? s.foxPeer ch = some [m] → m.spec = false → m.words.length < m.n →
      ∀ k, k = min 16 (m.n - m.words.length) →
      ∃ t, exec (.peerServiceSlot chan) s = .next t ∧ t.get .foxServK ch 0 = (s.get .foxServK ch 0 + 1) % 2 ^ 32 ∧
        (m.words.length + k < m.n → t.txq = s.txq ∧ tget? t.foxPeer ch = some [{ m with words := m.words ++
          ((List.range k).map fun i => hbmRead ch ((m.addr + (m.words.length + i) * 64) % 2 ^ 40) s) }]) ∧
        (m.words.length + k = m.n → tget? t.foxPeer ch = none) ∧ TabElse State.foxPeer ch s t ∧
        (∀ l, m.words.length + k = m.n → fwdLink ch m.chip s = some l → s.get .fabCtlValid 0 0 ≠ 0 → linkUp l s = true →
          (tget [] t.txq (l * 8 + 3)).length = (tget [] s.txq (l * 8 + 3)).length + (m.n + 3) / 4) ∧
        SameFields (fun f a _ => f = .foxServK ∧ a = ch) s t ∧ t = { s with reg := t.reg, foxPeer := t.foxPeer, txq := t.txq }) ∧
    ∀ (msgid : BitVec 7) m, s.chanRuns ch = true → (s.msgs ch).find? (fun m => m.id == msgid.toNat) = some m →
      (∀ x ∈ s.entries ch, x.2.seq ≠ m.seq) →
      ∃ t, exec (.remoteReadTimeout chan msgid) s = .next t ∧ t.msgs ch = (s.msgs ch).filter (fun x => x.id != m.id) ∧
        t.get .foxRemoteFail ch 0 = (s.get .foxRemoteFail ch 0 + 1) % 2 ^ 64 ∧
        t.evq = (if Recording s then s.evq ++ [⟨0x0502, ch, [m.chip, m.pch, 1, m.tag]⟩] else s.evq) ∧
        TabElse State.foxMsgs ch s t ∧ SameFields (fun f a _ => a = ch ∧ (f ∈ foxFlds ∨ f = .foxRemoteFail)) s t ∧
        t = { s with reg := t.reg, foxAct := t.foxAct, foxMsgs := t.foxMsgs, evq := t.evq }

/-- A frame is counted and dropped, passed to the slow path or checked; the oldest good request is admitted (R281, R282, R283, R285, R286, R288, R289, R295, R296). -/
def Obligations.FramesAreFilteredCheckedAndAdmitted : Prop :=
  ∀ (port : BitVec 1) (frame : List (BitVec 8)) (fcs : Bool) (s : State) (p : Nat), Sound s → p = port.toNat →
    (s.sveUp = false ∨ s.get .pcsLock p 0 = 0 → exec (.frameReceive port frame fcs) s = .next s) ∧
    (s.sveUp = true → s.get .pcsLock p 0 ≠ 0 →
      (fcs = false ∨ frame.length < 60 ∨ 9212 < frame.length ∨ fastPath p frame s = none ∧ slowPath p frame s = false →
        ∃ t, exec (.frameReceive port frame fcs) s = .next t ∧
          t.get .svePortRxDrop p 0 = (s.get .svePortRxDrop p 0 + 1) % 2 ^ 64 ∧
          SameFields (fun f a _ => f = .svePortRxDrop ∧ a = p) s t ∧ OnlyReg s t) ∧
      (fcs = true → 60 ≤ frame.length → frame.length ≤ 9212 →
        (fastPath p frame s = none → slowPath p frame s = true → ∃ t, exec (.frameReceive port frame fcs) s = .next t ∧
          t.slow = s.slow ++ [⟨p, frame⟩] ∧ t.get .svePortRxSlow p 0 = (s.get .svePortRxSlow p 0 + 1) % 2 ^ 64 ∧
          SameFields (fun f a _ => f = .svePortRxSlow ∧ a = p) s t ∧ t = { s with reg := t.reg, slow := t.slow }) ∧
        (∀ d svc len a, fastPath p frame s = some d → beAt d.data 0 1 = 0x11 → beAt d.data 1 1 < 128 →
          svc = beAt d.data 2 2 % 4096 → len = beAt d.data 22 2 → d.data.length = 24 + len → len ≤ 8192 →
          s.get .sveSvcW0Bound svc 0 ≠ 0 → s.get .sveSvcW0TagReq svc 0 = 0 → beAt d.data 20 2 ≤ 256 →
          sectionsOf (len + 1) 24 ((d.data.drop 24).take len) ⟨[], [], none⟩ = .inr a →
          admitBar svc ((len + 63) / 64) s = none →
          ∃ t r, exec (.frameReceive port frame fcs) s = .next t ∧ t.checked = s.checked ++ [r] ∧ r.svc = svc ∧ r.dest = d.dest ∧
            r.client = beAt d.data 4 4 % 2 ^ 31 ∧ r.req = beAt d.data 8 8 ∧ r.k = beAt d.data 20 2 ∧ r.pairs = a.pairs ∧
            r.body = a.body ∧ r.due = beAt d.data 16 4 % 2 ^ 20 ∧ r.key = none ∧ r.answered = false ∧
            t.get .svePortRxOk p 0 = (s.get .svePortRxOk p 0 + 1) % 2 ^ 64 ∧
            SameFields (fun f a _ => f = .svePortRxOk ∧ a = p) s t ∧ t = { s with reg := t.reg, checked := t.checked }))) ∧
    (∀ f sec cnt, s.sveUp = true → s.slow.find? (fun x => x.port == p) = some f → sec = s.get .gtc 0 0 / 1000000000 →
      cnt = (if s.get .slowSec p 0 = sec then s.get .slowCnt p 0 else 0) →
      (cnt < 10000 → ∃ t, exec (.slowPathReply port) s = .next t ∧ t.slow = s.slow.erase f ∧
        t.out = s.out ++ [.slowReply p f.bytes] ∧ t.get .svePortTx p 0 = (s.get .svePortTx p 0 + 1) % 2 ^ 64 ∧
        SameFields (fun f a _ => f ∈ [Fld.slowSec, .slowCnt, .svePortTx] ∧ a = p) s t ∧
        t = { s with reg := t.reg, slow := t.slow, out := t.out }) ∧
      (10000 ≤ cnt → ∃ t, exec (.slowPathReply port) s = .next t ∧ t.slow = s.slow.erase f ∧ t.out = s.out ∧
        (Recording s → t.evq = s.evq ++ [⟨0x0707, 8, [p, 1]⟩]) ∧
        SameFields (fun f a _ => f = .svePortRxDrop ∧ a = p) s t ∧ t = { s with reg := t.reg, slow := t.slow, evq := t.evq })) ∧
    (∀ r ch now d, s.sveUp = true → NextChecked r s → r.svc < 4096 → s.get .sveSvcW0Bound r.svc 0 ≠ 0 → ch = s.get .sveSvcW0Channel r.svc 0 →
      now = s.get .gtc 0 0 → d = s.get .sveSvcW0DeadlineUs r.svc 0 → admitBar r.svc ((r.body.length + 63) / 64) s = none →
      ∃ t x, exec .requestAdmit s = .next t ∧ t.checked = s.checked.erase r ∧ t.requests = s.requests ++ [x] ∧
        (x.svc, x.client, x.req, x.dest, x.body, x.pairs, x.key, x.slot) =
          (r.svc, r.client, r.req, r.dest, r.body, r.pairs, r.key, r.slot) ∧ x.ch = ch ∧ x.admitted = now ∧
        x.k = (if r.k = 0 then s.get .sveSvcW0Kdef r.svc 0 else r.k) ∧ x.epoch = s.get .sveSvcW1Epoch r.svc 0 ∧
        x.due = (now + 1000 * (if r.due = 0 then d else min r.due d) + 999) / 1000 * 1000 ∧
        (∃ w, tget? t.windows r.svc = some w ∧ w.tag = some x.tag) ∧
        (r.pairs = [] → t.get .sveInflight 0 0 = (s.get .sveInflight 0 0 + 1) % 2 ^ 17 ∧
          t.get .sveSvcW2Admitted r.svc 0 = (s.get .sveSvcW2Admitted r.svc 0 + 1) % 2 ^ 32 ∧
          t.get .sveChHeld ch 0 = (s.get .sveChHeld ch 0 + (r.body.length + 63) / 64) % 2 ^ 19 ∧
          SameFields (fun f a _ => f ∈ [Fld.sveSerial, .sveInflight] ∧ a = 0 ∨ f = .sveSvcW2Admitted ∧ a = r.svc ∨
            f ∈ [Fld.sveChHeld, .sveChLive, .sveChNextTag, inflFld x.epoch] ∧ a = ch) s t ∧
          t = { s with reg := t.reg, checked := t.checked, requests := t.requests, windows := t.windows, liveTags := t.liveTags }))

/-- A window's boundary commits its batch; its words stream to the lead core, which takes them and puts responses (R299, R300, R302, R303, R304, R305, R306, R308, R309, R310, R311). -/
def Obligations.BatchesCloseStreamAndAreTaken : Prop :=
  ∀ (core : CoreId) (chan : Chan) (svc : BitVec 12) (v gd gs : BitVec 5) (nm1 : BitVec 2) (km1 : BitVec 8) (empty : Bool) (s : State)
    (c ch : Nat), Sound s → c = core.val → ch = chan.val →
    (∀ w f k, s.sveUp = true → k = svc.toNat → tget? s.windows k = some w → dueFlags k s = some f → tget? s.svcPend k = none →
      tget? s.epochPend k = none →
      ∃ t, exec (.batchBoundary svc) s = .next t ∧ tget? t.windows k = some ⟨s.get .gtc 0 0, none, false, false⟩ ∧
        (w.tag = none → t = { s with windows := t.windows }) ∧
        (∀ tag r rest, w.tag = some tag → openReqs k s = r :: rest →
          ∃ b, t.queue r.ch = s.queue r.ch ++ [b] ∧ b.tag = tag ∧ b.svc = k ∧ b.epoch = r.epoch ∧ b.there = [] ∧ b.begun = false ∧
            b.left.length = 3 + ((r :: rest).map fun x => 1 + (x.body.length + 63) / 64).foldl (· + ·) 0)) ∧
    (∀ b, s.sveUp = true → s.chanRuns ch = true → (offered ch s).find? (fun b => !b.left.isEmpty) = some b →
      ∃ t, exec (.batchStreamWord chan) s = .next t ∧
        t.queue ch = (s.queue ch).map (fun x => if x = b then { b with left := b.left.drop 1, there := b.there ++ b.left.take 1 } else x) ∧
        TabElse State.batches ch s t ∧ SameFields (fun f a _ => f = .sveChQueued ∧ a = ch) s t ∧
        t = { s with reg := t.reg, batches := t.batches }) ∧
    (c = ch * 160 → Fresh c (.batchTake core v gd nm1) s →
      (∀ b rest m, s.isU16 = false → offered ch s = b :: rest → m = min (nm1.toNat + 1) (b.left.length + b.there.length) →
        m ≤ b.there.length →
        ∃ t, exec (.batchTake core v gd nm1) s = .next t ∧
          TakenWords c v gd ((b.there.take m).map Prod.fst) (b.left.length + b.there.length - m) b.tag (!b.begun) s t ∧
          t.queue ch = (if b.left.length + b.there.length = m then (s.queue ch).erase b
            else (s.queue ch).map fun x => if x = b then { b with there := b.there.drop m, begun := true } else x) ∧
          TabElse State.batches ch s t ∧ t.mem = s.mem ∧
          (b.begun = true → SameFields (fun f a x => chanPlaces s c f a x ∨ writesG s c gd.toNat f a x ∨
            f = .coreVRdy ∧ a = c ∧ x = v.toNat ∨ f ∈ [Fld.sveChHeld, .sveChQueued] ∧ a = ch) s t)) ∧
      (s.isU16 = false → offered ch s = [] → ∃ t, exec (.batchTake core v gd nm1) s = .next t ∧
        HoldsAt c (.batchTake core v gd nm1) 11 0 s t) ∧
      (∀ m, s.isU16 = true → s.get .hbqLeft ch 0 ≠ 0 → m = min (nm1.toNat + 1) (s.get .hbqLeft ch 0) → m ≤ hbqWaiting ch s →
        ∃ t, exec (.batchTake core v gd nm1) s = .next t ∧
          TakenWords c v gd ((List.range m).map fun k => wordOfBytes (s.bytes (hbqWordAddr ((s.get .hbqWhead ch 0 + k) % 2048 * 64)) 64))
            (s.get .hbqLeft ch 0 - m) (s.get .hbqTag ch 0) false s t ∧
          t.get .hbqWhead ch 0 = (s.get .hbqWhead ch 0 + m) % 4096 ∧ t.get .hbqLeft ch 0 = s.get .hbqLeft ch 0 - m ∧
          SameFields (fun f a x => chanPlaces s c f a x ∨ writesG s c gd.toNat f a x ∨ f = .coreVRdy ∧ a = c ∧ x = v.toNat ∨
            f ∈ [Fld.hbqWhead, .hbqLeft, .hbqBatches, .hbqTag] ∧ a = ch) s t ∧
          t = { s with reg := t.reg, held := tdel s.held c, vreg := t.vreg })) ∧
    (∀ k l h, c = ch * 160 → Fresh c (.respPut core v gs km1 empty) s → k = km1.toNat + 1 → l = (k + 63) / 64 →
      empty = true ∨ v.toNat + 2 * l ≤ 32 → h = (s.g c gs.toNat).toNat →
      (s.isU16 = false → (tget [] s.resps ch).length < 16 →
        ∃ t, exec (.respPut core v gs km1 empty) s = .next t ∧ tget [] t.resps ch = tget [] s.resps ch ++ [⟨field h 8 16, field h 0 8,
            if empty then [] else (List.range k).map fun p => ((listAt c v.toNat l p s).1.toNat, (listAt c v.toNat l p s).2.toNat),
            false⟩] ∧
          TabElse State.resps ch s t ∧ GSame c s t ∧
          SameFields (fun f a x => chanPlaces s c f a x ∨ f = .detOsig ∧ a = ch) s t ∧
          t = { s with reg := t.reg, held := tdel s.held c, resps := t.resps }) ∧
      (s.isU16 = true → (s.get .hbqRtail ch 0 + 32 - s.get .hbqRhead ch 0) % 32 < 16 →
        ∃ t a0, exec (.respPut core v gs km1 empty) s = .next t ∧ a0 = hbqRespAddr (s.get .hbqRtail ch 0 % 16 * 4096) ∧
          t.get .hbqRtail ch 0 = (s.get .hbqRtail ch 0 + 1) % 32 ∧ (t.get .chIrqStatCause ch 0).testBit 7 = true ∧
          t.bytes a0 4 = leBytes 2 (field h 8 16) ++ leBytes 1 (field h 0 8) ++ [if empty then 1#8 else 0#8] ∧
          SameBytes (fun y => ∃ i < 4096, y = a0 + i) s t ∧ GSame c s t ∧
          SameFields (fun f a x => chanPlaces s c f a x ∨ f ∈ [Fld.detOsig, .hbqRtail, .chIrqStatCause] ∧ a = ch ∨
            f ∈ [Fld.msixD3, .msixPba] ∧ a = ch + 1) s t ∧
          t = { s with reg := t.reg, held := tdel s.held c, mem := t.mem, out := t.out })) ∧
    (∀ (tail : BitVec 12) (head : BitVec 5), s.isU16 = true → s.chWrite 0 false = true →
      ((tail.toNat + 4096 - s.get .hbqWhead 0 0) % 4096 ≤ 2048 → s.get .chPwrWbatch 0 0 = 0 →
        ∃ t, exec (.hbqWtail tail) s = .next t ∧ t.get .hbqWtail 0 0 = tail.toNat ∧
          SameFields (fun f a _ => f = .hbqWtail ∧ a = 0) s t ∧ OnlyReg s t) ∧
      ∃ t, exec (.hbqRhead head) s = .next t ∧ t.get .hbqRhead 0 0 = head.toNat ∧
        SameFields (fun f a _ => f = .hbqRhead ∧ a = 0) s t ∧ OnlyReg s t)

/-- A response answers its request or is LATE; an expired timer sends the fallback; entries and tags are given back (R284, R287, R296, R297, R300, R306, R307, R313, R334). -/
def Obligations.RequestsAreAnsweredOnce : Prop :=
  ∀ (chan : Chan) (tag : BitVec 16) (pick : BitVec 17) (s : State) (ch : Nat), Sound s → ch = chan.val → s.sveUp = true →
    (∀ q x, q = tget [] s.resps ch → q.find? (fun x => !x.arrived) = some x →
      (∀ r, s.requests.find? (fun r => r.ch == ch && r.tag == x.tag && r.slot == some x.slot && !r.answered && tagLive ch x.tag s) = some r →
        r.Proper →
        ∃ t bytes, exec (.responseArrival chan) s = .next t ∧ t.out = s.out ++ [.datagram r.dest bytes] ∧
          tget [] t.resps ch = q.map (fun y => if y = x then { x with arrived := true } else y) ∧
          t.requests = answeredIn r s.requests ∧ t.get .sveInflight 0 0 = s.get .sveInflight 0 0 - 1 ∧
          bytes.take 16 = [0x12#8, BitVec.ofNat 8 (if r.key.isSome then 0x80 else 0)] ++ beBytes 2 (r.svc % 2 ^ 12) ++
            beBytes 4 (r.client % 2 ^ 31) ++ beBytes 8 r.req ∧
          TabElse State.resps ch s t ∧ SameFields (answerPlaces r) s t ∧
          t = { s with reg := t.reg, resps := t.resps, requests := t.requests, out := t.out }) ∧
      ((∀ r ∈ s.requests, r.ch = ch → r.tag = x.tag → r.slot = some x.slot → r.answered = false → False) →
        ∃ t, exec (.responseArrival chan) s = .next t ∧ tget [] t.resps ch = q.erase x ∧
          t.get .sveChLate ch 0 = (s.get .sveChLate ch 0 + 1) % 2 ^ 64 ∧ TabElse State.resps ch s t ∧
          SameFields (fun f a _ => f = .sveChLate ∧ a = ch) s t ∧ t = { s with reg := t.reg, resps := t.resps, evq := t.evq })) ∧
    (∀ x, (tget [] s.resps ch).find? (fun x => x.arrived) = some x →
      ∃ t, exec (.responseSent chan) s = .next t ∧ tget [] t.resps ch = (tget [] s.resps ch).erase x ∧
        TabElse State.resps ch s t ∧ t = { s with resps := t.resps }) ∧
    (∀ r, (s.requests.filter fun r => !r.answered && decide (r.due ≤ s.get .gtc 0 0))[pick.toNat]? = some r → r.Proper →
      ∃ t bytes, exec (.deadlineExpiry pick) s = .next t ∧ t.out = s.out ++ [.datagram r.dest bytes] ∧
        bytes.take 16 = [0x12#8, BitVec.ofNat 8 ((if r.key.isSome then 0x80 else 0) + 0x40)] ++ beBytes 2 (r.svc % 2 ^ 12) ++
          beBytes 4 (r.client % 2 ^ 31) ++ beBytes 8 r.req ∧
        (∀ k, r.slot = some k → t.requests = answeredIn r s.requests ∧
          t.get .sveSvcW2Fallbacks r.svc 0 = (s.get .sveSvcW2Fallbacks r.svc 0 + 1) % 2 ^ 32 ∧
          (Recording s → t.evq = s.evq ++ [⟨0x0703, r.ch, [r.svc, r.ch, r.tag, 0]⟩]) ∧
          SameFields (fun f a b => answerPlaces r f a b ∨ f ∈ [Fld.sveSvcW2Fallbacks, .svcFbN] ∧ a = r.svc) s t ∧
          t = { s with reg := t.reg, requests := t.requests, out := t.out, evq := t.evq })) ∧
    (tagDone ch tag.toNat s = true →
      ∃ t, exec (.tagGraceExpiry chan tag) s = .next t ∧ tagLive ch tag.toNat t = false ∧
        t.get .sveChLive ch 0 = s.get .sveChLive ch 0 - 1 ∧
        t.requests = (s.requests.filter fun r => !(r.ch == ch && r.tag == tag.toNat && r.answered)) ∧
        TabElse State.liveTags (ch * 65536 + tag.toNat) s t ∧ SameFields (fun f a _ => f = .sveChLive ∧ a = ch) s t ∧
        t = { s with reg := t.reg, liveTags := t.liveTags, requests := t.requests })

/-- SEAM_READY begins the seam, EXCHANGE_SWAP restarts every core on its other bank, a late hold aborts or is forced (R61, R319, R320, R322, R323, R327, R328, R329, R633). -/
def Obligations.ExchangeReachesItsSeamAndSwaps : Prop :=
  ∀ (chan : Chan) (s : State) (ch : Nat), Sound s → ch = chan.val →
    (s.chanRuns ch = true → s.get .exchStatPhase ch 0 = 2 →
      (seamReady ch s = true → ∃ t, exec (.seamReady chan) s = .next t ∧ t.get .exchStatPhase ch 0 = 3 ∧
        t.get .exchStatNotready ch 0 = 0 ∧ t.get .exchSeam ch 0 = 1 ∧ t.get .exchSync ch 0 = 0 ∧ t.get .exchStatSyncdrop ch 0 = 0 ∧
        SameFields (fun f a _ => f ∈ [Fld.exchStatPhase, .exchStatNotready, .exchSeam, .exchSync, .exchStatSyncdrop] ∧ a = ch) s t ∧
        OnlyReg s t) ∧
      (seamReady ch s = false → ∃ t, exec (.seamReady chan) s = .next t ∧
        t.get .exchStatNotready ch 0 = min 255 ((s.coresOf ch).filter fun c => !seamRests ch c s).length ∧
        SameFields (fun f a _ => f = .exchStatNotready ∧ a = ch) s t ∧ OnlyReg s t) ∧
      (seamReady ch s = false → s.get .exchHeldAt ch 0 + max 1 (s.get .exchTimeoutUs ch 0) * 1000 ≤ s.get .gtc 0 0 →
        (s.get .exchCfgForce ch 0 = 0 → ∃ t, exec (.exchHoldTimeout chan) s = .next t ∧ t.get .exchStatPhase ch 0 = 0 ∧
          t.get .exchStatResult ch 0 = 4 ∧ (t.get .chIrqStatCause ch 0).testBit 2 = true ∧
          (Recording s → t.evq = s.evq ++ [⟨0x0804, ch, [ch, 4, notReady ch s]⟩]) ∧
          SameFields (fun f a _ => f ∈ [Fld.exchStatPhase, .exchStatResult, .exchStatNotready, .chIrqStatCause] ∧ a = ch ∨
            f ∈ [Fld.msixD3, .msixPba] ∧ a = ch + 1) s t ∧ OnlyRegOut s t) ∧
        (s.get .exchCfgForce ch 0 ≠ 0 → ∃ t, exec (.exchHoldTimeout chan) s = .next t ∧ t.get .exchStatPhase ch 0 = 4 ∧
          t.get .exchStatResult ch 0 = 2 ∧ ∀ c ∈ s.coresOf ch, Swapped c t))) ∧
    (s.chanRuns ch = true → s.get .exchStatPhase ch 0 = 3 → changedRings ch s = [] →
      ∃ t evs, exec (.exchangeSwap chan) s = .next t ∧ t.get .exchStatPhase ch 0 = 4 ∧ t.get .exchStatResult ch 0 = 1 ∧
        t.get .exchCount ch 0 = (s.get .exchCount ch 0 + 1) % 2 ^ 64 ∧ t.get .exchLastGtc ch 0 = s.get .gtc 0 0 ∧
        (t.get .chIrqStatCause ch 0).testBit 2 = true ∧
        (Recording s → t.evq = s.evq ++ evs ++ [⟨0x0803, ch, [ch, s.get .exchStatSeamTag ch 0,
          (s.get .gtc 0 0 - s.get .exchHeldAt ch 0) / 1000]⟩]) ∧
        (∀ c ∈ s.coresOf ch, Swapped c t ∧ t.get .coreBank c 0 = 1 - s.get .coreBank c 0 ∧
          (∀ n < 64, t.p c n = if s.get .exchCfgPcarry ch 0 = 0 then 0#64 else s.p c n) ∧
          ∀ n < 32, t.v c n = s.v c n) ∧
        (∀ c < 1280, c / 160 ≠ ch → t.get .corePc c 0 = s.get .corePc c 0 ∨ ∃ sc b, Waits (c / 160) sc b c s)) ∧
    (s.get .exchSeam ch 0 ≠ 0 → inSeam ch s = false → s.sveUp = true → s.get .exchSync ch 0 = 0 →
      ∃ t, exec (.latchedSyncPresent chan) s = .next t ∧ t.get .exchSeam ch 0 = 0 ∧ t.get .exchSync ch 0 = 0 ∧
        SameFields (fun f a _ => f ∈ [Fld.exchSeam, .exchSync] ∧ a = ch) s t ∧ OnlyReg s t)

/-- The GTC counts with its trim, is read in halves, samples SYNC_IN and PTM, and gives pulses, slots and beacons (R237, R349, R361, R363, R365, R367, R368, R385, R404). -/
def Obligations.TimeRunsIsReadSampledAndPulsed : Prop :=
  ∀ (s : State), Sound s →
    (∀ n : BitVec 32,
      (s.get .pwrStatChip 0 0 < 2 → ∃ t, exec (.gtcTick n) s = .next t ∧
        (t.get .gtc 0 0 * 2 ^ 32 + t.get .gtcFrac 0 0 : Int) =
          (s.get .gtc 0 0 * 2 ^ 32 + s.get .gtcFrac 0 0 + n.toNat * (2 ^ 32 + s.signed .tunTrim 0)) % 2 ^ 96 ∧
        t.get .tunTicks 0 0 = (s.get .tunTicks 0 0 + n.toNat) % 2 ^ 64 ∧
        SameFields (fun f a _ => f ∈ [Fld.gtc, .gtcFrac, .tunTicks, .tunRun] ∧ a = 0) s t ∧ OnlyReg s t) ∧
      (2 ≤ s.get .pwrStatChip 0 0 → ∃ t, exec (.gtcTick n) s = .next t ∧
        t.get .gtcAway 0 0 = (s.get .gtcAway 0 0 + n.toNat) % 2 ^ 64 ∧ SameFields (fun f a _ => f = .gtcAway ∧ a = 0) s t ∧
        OnlyReg s t)) ∧
    (∀ (mgc wide : Bool) (r who : Nat), mgc = true ∨ s.get .fnD3 0 0 = 0 → r = (if mgc then 1 else 0) →
      who = (if mgc then 9 else 0) →
      (∃ t, exec (.tunGtcLoRead mgc wide) s = .next t ∧
        t.out = s.out ++ [.readData who (if wide then s.get .gtc 0 0 else s.get .gtc 0 0 % 2 ^ 32)] ∧
        (wide = false → t.get .gtcLatch r 0 = s.get .gtc 0 0 / 2 ^ 32) ∧
        SameFields (fun f a _ => f = .gtcLatch ∧ a = r ∧ wide = false) s t ∧ t = { s with reg := t.reg, out := t.out }) ∧
      exec (.tunGtcHiRead mgc) s = .next { s with out := s.out ++ [.readData who (s.get .gtcLatch r 0)] }) ∧
    (∀ (sub : BitVec 8) (d : Int), SyncAway (s.get .gtc 0 0 * 256 + sub.toNat) d s → s.get .pwrStatChip 0 0 < 2 →
      0 < s.get .tunSyncCfgPeriodNs 0 0 → 2 * d.natAbs ≤ 256 * s.get .tunSyncCfgPeriodNs 0 0 →
      ∃ t, exec (.syncInEdge sub) s = .next t ∧
        (if 4 * d.natAbs ≤ 256 * s.get .tunSyncCfgPeriodNs 0 0 then Sampled 48 (d + s.signed .tunSyncDly 0) 0 s t
          else t.get .tunSrcDiscards 48 0 = (s.get .tunSrcDiscards 48 0 + 1) % 2 ^ 16) ∧
        (s.sveUp = false ∨ s.windows = [] ∧ (∀ ch < 8, s.get .exchSeam ch 0 = 0) →
          SameFields (fun f a _ => (f ∈ sampleFlds ∨ f = .tunSrcDiscards) ∧ a = 48) s t ∧
            t = { s with reg := t.reg, ctr := t.ctr }) ∧
        (s.sveUp = true → s.windows = [] → ∀ ch < 8, s.get .exchSeam ch 0 ≠ 0 → s.get .exchStatPhase ch 0 = 3 →
          (s.get .exchSync ch 0 = 0 → t.get .exchSync ch 0 = 1 ∧ t.get .exchStatSyncdrop ch 0 = s.get .exchStatSyncdrop ch 0) ∧
          (s.get .exchSync ch 0 ≠ 0 → t.get .exchSync ch 0 = s.get .exchSync ch 0 ∧
            t.get .exchStatSyncdrop ch 0 = (s.get .exchStatSyncdrop ch 0 + 1) % 2 ^ Fld.exchStatSyncdrop.width))) ∧
    (∀ (ok : Bool) (master : BitVec 72) (sub : BitVec 8), s.get .pwrStatChip 0 0 < 2 →
      s.get .tunPtmNext 0 0 ≤ s.get .tunEpochs 0 0 →
      ∃ t, exec (.ptmDialogue ok master sub) s = .next t ∧
        t.get .tunPtmNext 0 0 = (s.get .tunEpochs 0 0 + max 1 (s.get .tunPtmCfgPeriod 0 0)) % 2 ^ 64 ∧
        (ok = true → Sampled 49 (master.toNat + s.signed .tunPtmOfs 0 - (s.get .gtc 0 0 * 256 + sub.toNat : Nat)) 0 s t) ∧
        SameFields (fun f a _ => f = .tunPtmNext ∧ a = 0 ∨ ok = true ∧ f ∈ sampleFlds ∧ a = 49) s t ∧
        t = { s with reg := t.reg, ctr := t.ctr }) ∧
    (s.get .pwrStatChip 0 0 < 2 → 0 < s.get .tunSoutCfgPeriodNs 0 0 → s.get .tunStatState 0 0 ≠ 3 →
      s.get .tunSoutLast 0 0 ≠ s.get .gtc 0 0 + 1 →
      (∃ k : Int, (s.get .gtc 0 0 : Int) = s.get .tunSoutCfgOffsetNs 0 0 + k * s.get .tunSoutCfgPeriodNs 0 0) →
      ∃ t, exec .syncOutPulse s = .next t ∧ t.out = s.out ++ [.syncPulse (s.get .gtc 0 0)] ∧ exec .syncOutPulse t = .next t ∧
        SameFields (fun f a _ => f = .tunSoutLast ∧ a = 0) s t ∧ t = { s with reg := t.reg, out := t.out }) ∧
    (∀ (chan : Chan) (ch : Nat), ch = chan.val → s.get .chCfgRefalign ch 0 ≠ 0 → s.chanRuns ch = true →
      ∃ t, exec (.refreshSlot chan) s = .next t ∧ t.get .refHalf ch 0 = s.get .refPend ch 0 ∧ t.get .foxServK ch 0 = 0 ∧
        t.get .foxRsvcEff ch 0 = min 4 (s.get .foxCtlRsvc ch 0) ∧
        SameFields (fun f a _ => f ∈ [Fld.refRestart, .refHalf, .foxServK, .foxRsvcEff, .detCauses] ∧ a = ch) s t ∧ OnlyReg s t) ∧
    (s.get .lnkBcnAt 0 0 < s.get .gtc 0 0 / 65536 → ∃ t, exec .beaconSend s = .next t ∧
      t.get .lnkBcnAt 0 0 = s.get .gtc 0 0 / 65536 ∧
      (∀ l < 48, t.get .lnkBcnDue l 0 =
        if s.get .lnkStatState l 0 = lkIsolated ∨ s.get .lnkStatState l 0 = lkAdmitted then 1 else s.get .lnkBcnDue l 0) ∧
      SameFields (fun f a _ => f = .lnkBcnAt ∧ a = 0 ∨ f = .lnkBcnDue ∧ a < 48) s t ∧ OnlyReg s t)

/-- LAUNCH completes at T, LATE or REFUSED; an epoch steers on its source or runs on FEST, LOST past 30 s (R68, R101, R274, R371, R373, R374, R377, R379, R380, R381). -/
def Obligations.LaunchAndFusionFollowTheTime : Prop :=
  (∀ (core : CoreId) (mode : Bool) (gs gd : BitVec 5) (m : BitVec 32) (s : State) (c T : Nat) (i : Instr), Sound s → c = core.val →
    i = .launch core mode gs gd m →
    (Fresh c i s → LaunchAt c mode gs m T s →
      (∀ late refused, (¬ TimeGood s ∧ refused = 1 ∧ late = 0) ∨ TimeGood s ∧ refused = 0 ∧ (T < s.get .gtc 0 0 ∧ late = 1 ∨
          T = s.get .gtc 0 0 ∧ late = 0) →
        ∃ t, exec i s = .next t ∧ GWritten c gd.toNat (launchWord late refused s) s t ∧
          (¬ AtBlockEnd c s → IssueCyc c [gs.toNat] 1 s t) ∧
          t.get .tunLrefused 0 0 = (s.get .tunLrefused 0 0 + refused) % 2 ^ 64 ∧
          (Recording s → t.evq = s.evq ++ if refused = 1 then [⟨0x0A06, c / 160, [c / 160, c, s.get .tunStatState 0 0]⟩] else []) ∧
          SameFields (fun f a b => chanPlaces s c f a b ∨ writesG s c gd.toNat f a b ∨ f = .tunLrefused ∧ a = 0) s t ∧
          t = { s with reg := t.reg, evq := t.evq, held := tdel s.held c }) ∧
      (TimeGood s → s.get .gtc 0 0 < T →
        ∃ t, exec i s = .next t ∧ t.coreState c = stWaiting ∧ tget? t.held c = some i ∧ t.get .coreWkind c 0 = 12 ∧
          t.get .coreLaunchT c 0 = T ∧ TabElse State.held c s t ∧ GSame c s t ∧
          SameFields (fun f a _ => f ∈ [Fld.coreStatState, .coreWkind, .coreWobj, .coreCyc, .spdStatClean, .detSegExt, .coreLaunchT] ∧
            a = c) s t ∧
          t = { s with reg := t.reg, held := t.held })) ∧
    (s.ready c i = true → tget? s.held c = some i →
      (∀ refused, (s.get .coreLaunchT c 0 ≤ s.get .gtc 0 0 ∧ refused = 0) ∨
          s.get .gtc 0 0 < s.get .coreLaunchT c 0 ∧ ¬ TimeGood s ∧ refused = 1 →
        ∃ t, exec i s = .next t ∧ GWritten c gd.toNat (launchWord 0 refused s) s t ∧
          t.get .tunLrefused 0 0 = (s.get .tunLrefused 0 0 + refused) % 2 ^ 64 ∧
          SameFields (fun f a b => chanPlaces s c f a b ∨ writesG s c gd.toNat f a b ∨ f = .tunLrefused ∧ a = 0) s t ∧
          t = { s with reg := t.reg, evq := t.evq, held := tdel s.held c, ctr := t.ctr }) ∧
      (s.get .gtc 0 0 < s.get .coreLaunchT c 0 → TimeGood s →
        ∃ t, exec i s = .next t ∧ tget? t.held c = some i ∧ t.get .coreWkind c 0 = 12 ∧
          t.get .coreLaunchT c 0 = s.get .coreLaunchT c 0 ∧ GSame c s t))) ∧
  ∀ (s : State) (f : Nat), Sound s → s.get .pwrStatChip 0 0 < 2 → s.get .tunEpochAt 0 0 < s.get .gtc 0 0 / 65536 →
    mbxIs 9 0 s = false → f = s.get .tunPolForce 0 0 →
    (50 < f ∧ (∀ k < 50, s.get .tunSrcFresh k 0 = 0) ∨ f = 50 ∨ f < 48 ∧ s.get .tunSrcFresh f 0 ≠ 0 ∧
      s.get .tunSrcEp f 0 = s.get .tunEpochs 0 0 ∧ s.get .tunSrcRun f 0 = s.get .tunRun 0 0 ∧ s.get .tunStatState 0 0 ≠ 3) →
    ∃ t, exec .fusionEpoch s = .next t ∧ t.get .tunEpochs 0 0 = (s.get .tunEpochs 0 0 + 1) % 2 ^ 64 ∧
      t.get .tunEpochAt 0 0 = s.get .gtc 0 0 / 65536 ∧
      (50 ≤ f → t.get .tunTrim 0 0 = s.get .tunFest 0 0 ∧ t.get .tunFest 0 0 = s.get .tunFest 0 0 ∧
        t.get .tunAge 0 0 = (s.get .tunAge 0 0 + if f = 50 then 0 else 65536) % 2 ^ 64 ∧
        (30000000000 < t.get .tunAge 0 0 ∨ s.get .tunStatState 0 0 = 3 → t.get .tunStatState 0 0 = 3)) ∧
      (50 < f → t.get .tunStatNelig 0 0 = 0 ∧ t.get .tunStatForced 0 0 = 0) ∧
      (f = 50 → t.get .tunStatForced 0 0 = 1 ∧ t.get .tunStatContested 0 0 = 0) ∧
      (f < 48 → t.signed .tunTrim 0 = max (-1073741) (min 1073741 (s.signed .tunFest 0 + 16 * s.signed .tunSrcOff f)) ∧
        t.get .tunAge 0 0 = 0 ∧ t.get .tunStatForced 0 0 = 1 ∧ t.get .tunStatContested 0 0 = 0 ∧ t.get .tunStatState 0 0 = 2 ∧
        (-(2 ^ 31) ≤ s.signed .tunSrcOff f ∧ s.signed .tunSrcOff f < 2 ^ 31 → t.signed .tunOffset 0 = s.signed .tunSrcOff f)) ∧
      SameFields (fun g _ _ => g ∈ epochFlds) s t ∧ t = { s with reg := t.reg, evq := t.evq, out := t.out, ctr := t.ctr }

/-- Each flit period sends the first of a NAK, a replay, a beacon and the queues; errors NAK, replay and fault (R394, R397, R400, R401, R402, R403, R404, R408). -/
def Obligations.LinksSendRetryAndCount : Prop :=
  ∀ (link : LinkId) (h : FlitHdr) (frac : BitVec 8) (s : State) (l : Nat), Sound s → l = link.val →
    (LinkOn l s →
      (s.get .lnkNakDue l 0 ≠ 0 → ∃ t, exec (.flitTransmit link frac) s = .next t ∧
        Sent l { kind := 1, schip := chipId s } s t ∧ t.get .lnkNakDue l 0 = 0 ∧
        t.get .lnkTxFlits l 0 = (s.get .lnkTxFlits l 0 + 1) % 2 ^ 64 ∧
        SameFields (fun f a _ => a = l ∧ f ∈ [Fld.lnkNakDue, .lnkTxFlits]) s t ∧ t = { s with reg := t.reg, out := t.out }) ∧
      (s.get .lnkNakDue l 0 = 0 → ∀ f, 0 < s.get .lnkReplay l 0 → s.get .lnkReplay l 0 ≤ (retryOf l s).length →
        (retryOf l s)[(retryOf l s).length - s.get .lnkReplay l 0]? = some f → f.kind ≠ 0 →
        ∃ t, exec (.flitTransmit link frac) s = .next t ∧ Sent l f s t ∧ t.get .lnkReplay l 0 = s.get .lnkReplay l 0 - 1 ∧
          t.get .lnkTxFlits l 0 = (s.get .lnkTxFlits l 0 + 1) % 2 ^ 64 ∧
          SameFields (fun f a _ => a = l ∧ f ∈ [Fld.lnkReplay, .lnkTxFlits]) s t ∧ t = { s with reg := t.reg, out := t.out }) ∧
      (s.get .lnkNakDue l 0 = 0 → s.get .lnkReplay l 0 = 0 → s.get .lnkBcnDue l 0 ≠ 0 →
        ∃ t bits, exec (.flitTransmit link frac) s = .next t ∧ Sent l { kind := 8, schip := chipId s, payload := beaconBody l frac bits s } s t ∧
          bits.toNat / 4 = s.get .tunStatLevel 0 0 ∧ t.get .lnkBcnDue l 0 = 0 ∧ t.get .lnkBcnSent l 0 = 1 ∧
          t.get .lnkBseq l 0 = (s.get .lnkBseq l 0 + 1) % 256 ∧ t.get .lnkTxFlits l 0 = (s.get .lnkTxFlits l 0 + 1) % 2 ^ 64 ∧
          SameFields (fun f a _ => a = l ∧ f ∈ [Fld.lnkBcnDue, .lnkBcnSent, .lnkBseq, .lnkTxFlits]) s t ∧
          t = { s with reg := t.reg, out := t.out }) ∧
      (s.get .lnkNakDue l 0 = 0 → s.get .lnkReplay l 0 = 0 → s.get .lnkBcnDue l 0 = 0 →
        (512 ≤ (retryOf l s).length ∨ (∀ k ∈ sendOrder l s, waiting l k s = []) →
          ∃ t, exec (.flitTransmit link frac) s = .next t ∧ Sent l { kind := 0, schip := chipId s } s t ∧
            t = { s with out := t.out }) ∧
        (∀ pre k post f rest g, (retryOf l s).length < 512 → sendOrder l s = pre ++ k :: post → (∀ j ∈ pre, waiting l j s = []) →
          waiting l k s = f :: rest → f.kind ≠ 0 →
          g = { f with seq := s.get .lnkTxSeq l 0, schip := if 9 ≤ f.kind then chipId s else f.schip } →
          ∃ t, exec (.flitTransmit link frac) s = .next t ∧ Sent l g s t ∧ waiting l k t = rest ∧ retryOf l t = retryOf l s ++ [g] ∧
            t.get .lnkTxSeq l 0 = (s.get .lnkTxSeq l 0 + 1) % 4096 ∧
            t.get .lnkRot l 0 = (if 2 ≤ k ∧ k ≤ 4 then (k - 1) % 3 else s.get .lnkRot l 0) ∧
            t.get .lnkTxFlits l 0 = (s.get .lnkTxFlits l 0 + 1) % 2 ^ 64 ∧ TabElse State.txq (l * 8 + k) s t ∧ TabElse State.retry l s t ∧
            SameFields (fun f a _ => a = l ∧ f ∈ [Fld.lnkTxSeq, .lnkRot, .lnkTxFlits, .lnkAckAt]) s t ∧
            t = { s with reg := t.reg, txq := t.txq, retry := t.retry, out := t.out }))) ∧
    (s.get .lnkStatState l 0 = lkTraining →
      (waiting l 0 s = [] → ∃ t, exec (.flitTransmit link frac) s = .next t ∧ Sent l { kind := 0, schip := chipId s } s t ∧
        t = { s with out := t.out }) ∧
      (∀ f rest, waiting l 0 s = f :: rest → f.kind ≠ 0 → ∃ t, exec (.flitTransmit link frac) s = .next t ∧
        Sent l { f with schip := chipId s } s t ∧ waiting l 0 t = rest ∧ TabElse State.txq (l * 8) s t ∧
        SameFields (fun f a _ => a = l ∧ f = .lnkTxFlits) s t ∧ t = { s with reg := t.reg, txq := t.txq, out := t.out })) ∧
    (LinkOn l s ∨ s.get .lnkStatState l 0 = lkTraining → ∃ t, exec (.helloSend link) s = .next t ∧
      waiting l 0 t = waiting l 0 s ++ [{ kind := 11, payload := helloBody l s }] ∧
      TabElse State.txq (l * 8) s t ∧ t = { s with txq := t.txq }) ∧
    (LinkOn l s →
      (∀ (corr : BitVec 16) (un : BitVec 8), ∃ t, exec (.crcFail link corr un) s = .next t ∧
        t.get .lnkCrcErr l 0 = (s.get .lnkCrcErr l 0 + 1) % 2 ^ 64 ∧
        t.get .lnkFecCorr l 0 = (s.get .lnkFecCorr l 0 + corr.toNat) % 2 ^ 64 ∧
        t.get .lnkFecUncorr l 0 = (s.get .lnkFecUncorr l 0 + un.toNat) % 2 ^ 64 ∧ Nakked l s t ∧
        SameFields (fun f a b => a = l ∧ f ∈ [Fld.lnkCrcErr, .lnkFecCorr, .lnkFecUncorr] ∨
          s.get .lnkNakPend l 0 = 0 ∧ episodePlaces l f a b) s t ∧ t = { s with reg := t.reg, evq := t.evq }) ∧
      (∃ t, exec (.idle link h) s = .next t ∧ Took l h false s t ∧ SameFields (recvPlaces l) s t ∧
        t.get .lnkRxFlits l 0 = s.get .lnkRxFlits l 0 ∧ t = { s with reg := t.reg, retry := t.retry }) ∧
      (∃ t, exec (.reservedFlitKind link h) s = .next t ∧ Took l h false s t ∧
        t.get .lnkRxDrop l 0 = (s.get .lnkRxDrop l 0 + 1) % 2 ^ 64 ∧
        SameFields (fun f a b => recvPlaces l f a b ∨ a = l ∧ f = .lnkRxDrop) s t ∧
        t = { s with reg := t.reg, retry := t.retry }) ∧
      (∃ t, exec (.nak link h) s = .next t ∧ retryOf l t = afterAck l h s ∧ TabElse State.retry l s t ∧
        t.get .lnkRxFlits l 0 = (s.get .lnkRxFlits l 0 + 1) % 2 ^ 64 ∧ Replaying l (retryOf l t) s t ∧
        SameFields (fun f a b => recvPlaces l f a b ∨ episodePlaces l f a b ∨ a = l ∧ f ∈ [Fld.lnkTxEpSeq, .lnkTxEpAt]) s t ∧
        t = { s with reg := t.reg, retry := t.retry, evq := t.evq }) ∧
      (retryOf l s ≠ [] → s.get .lnkAckAt l 0 + 10000 ≤ s.get .gtc 0 0 →
        ∃ t, exec (.ackTimeout link) s = .next t ∧ Replaying l (retryOf l s) s t ∧
          SameFields (fun f a b => episodePlaces l f a b ∨
            a = l ∧ f ∈ [Fld.lnkReplay, .lnkAckAt, .lnkTxEp, .lnkTxEpSeq, .lnkTxEpAt]) s t ∧
          t = { s with reg := t.reg, evq := t.evq }) ∧
      (∀ long many, (long ↔ s.get .lnkRxEp l 0 ≠ 0 ∧ s.get .lnkRxEpAt l 0 + 1000000 ≤ s.get .gtc 0 0 ∨
          s.get .lnkTxEp l 0 ≠ 0 ∧ s.get .lnkTxEpAt l 0 + 1000000 ≤ s.get .gtc 0 0) →
        (many ↔ s.get .lnkEpTime l (s.get .lnkEpNext l 0) ≠ 0 ∧ s.get .lnkEpTime l ((s.get .lnkEpNext l 0 + 255) % 256) ≤
          s.get .lnkEpTime l (s.get .lnkEpNext l 0) + 1000000000) →
        (long → ∃ t, exec (.episodeLimit link) s = .next t ∧ LinkIs l lkFault 6 t) ∧
        (¬ long → many → ∃ t, exec (.episodeLimit link) s = .next t ∧ LinkIs l lkFault 7 t) ∧
        (¬ long → ¬ many → exec (.episodeLimit link) s = .next s)))

/-- A numbered flit is taken once and in turn, and acts by its kind, or is forwarded or discarded (R234, R237, R366, R383, R384, R399, R400, R404, R405, R406, R413, R434). -/
def Obligations.FlitsAreDeliveredByTheirKind : Prop :=
  ∀ (link : LinkId) (h : FlitHdr) (s : State) (l ch : Nat), Sound s → l = link.val → ch = h.dch.val →
    (∀ i, numberedFlits link h i →
      (¬ LinkOn l s → s.get .lnkStatState l 0 ≠ lkTraining → exec i s = .next s) ∧
      (∀ e, LinkOn l s → e = s.get .lnkExp l 0 → h.seq.toNat ≠ e →
        ∃ t, exec i s = .next t ∧ t.get .lnkFecCorr l 0 = (s.get .lnkFecCorr l 0 + h.corr.toNat) % 2 ^ 64 ∧
          ((e + 4096 - h.seq.toNat) % 4096 ≤ 2048 → SameFields (fun f a _ => a = l ∧ f = .lnkFecCorr) s t ∧ OnlyReg s t) ∧
          (2048 < (e + 4096 - h.seq.toNat) % 4096 → Nakked l s t ∧
            SameFields (fun f a b => a = l ∧ f = .lnkFecCorr ∨ s.get .lnkNakPend l 0 = 0 ∧ episodePlaces l f a b) s t ∧
            t = { s with reg := t.reg, evq := t.evq }))) ∧
    (∀ i kind, routedFlits link h i kind → InTurn l h s →
      (s.get .lnkStatState l 0 = lkIsolated → ∃ t, exec i s = .next t ∧ Took l h true s t ∧
        t.get .lnkIsoDrop l 0 = (s.get .lnkIsoDrop l 0 + 1) % 2 ^ 64 ∧ (Recording s → t.evq = s.evq ++ [⟨0x0B08, 8, [l, 0, 1]⟩]) ∧
        SameFields (fun f a b => recvPlaces l f a b ∨ a = l ∧ f = .lnkIsoDrop) s t ∧
        t = { s with reg := t.reg, retry := t.retry, evq := t.evq }) ∧
      (s.get .lnkStatState l 0 = lkAdmitted → h.dchip.toNat ≠ s.get .fabCtlChipId 0 0 →
        (∀ k, fwdLink (l / 6) h.dchip.toNat s = some k → linkUp k s = true → h.hops ≠ 0#4 →
          ∃ t f, exec i s = .next t ∧ Took l h true s t ∧ waiting k 1 t = waiting k 1 s ++ [f] ∧ f.kind = kind ∧
            f.hops + 1 = h.hops.toNat ∧ (f.dchip, f.schip, f.dch, f.sch) = (h.dchip.toNat, h.schip.toNat, h.dch.val, h.sch.val) ∧
            t.get .fabFwdFrames 0 0 = (s.get .fabFwdFrames 0 0 + 1) % 2 ^ 64 ∧ TabElse State.txq (k * 8 + 1) s t ∧
            SameFields (fun f a b => recvPlaces l f a b ∨ a = 0 ∧ f = .fabFwdFrames) s t ∧
            t = { s with reg := t.reg, retry := t.retry, txq := t.txq }) ∧
        ((∀ k, fwdLink (l / 6) h.dchip.toNat s = some k → linkUp k s = false ∨ h.hops = 0#4) →
          ∃ t, exec i s = .next t ∧ Took l h true s t ∧ t.get .fabFwdDrop 0 0 = (s.get .fabFwdDrop 0 0 + 1) % 2 ^ 64 ∧
            SameFields (fun f a b => recvPlaces l f a b ∨ a = 0 ∧ f ∈ [Fld.fabFwdDrop, .fabHopfailTx, .fabHfTime]) s t ∧
            t = { s with reg := t.reg, retry := t.retry, txq := t.txq, evq := t.evq }))) ∧
    (ForHere l h s →
      (∀ (core : BitVec 8) (ep : BitVec 3) (ws : List (BitVec 512)), ∃ t, exec (.flow link h core ep ws) s = .next t ∧ Took l h true s t ∧
        t.get .lnkRxFlits l 0 = (s.get .lnkRxFlits l 0 + 1) % 2 ^ 64 ∧
        (s.get .chPwrStatState ch 0 ≠ 0 → t.get .chPwrDrops ch 0 = (s.get .chPwrDrops ch 0 + 1) % 2 ^ 64 ∧ t.transit = s.transit) ∧
        (s.get .chPwrStatState ch 0 = 0 → granted ch h.schip.toNat h.sch.val .ownGrantRecv s = false →
          t.get .ownFiltRx ch 0 = (s.get .ownFiltRx ch 0 + 1) % 2 ^ 64 ∧ t.transit = s.transit) ∧
        (s.get .chPwrStatState ch 0 = 0 → granted ch h.schip.toNat h.sch.val .ownGrantRecv s = true → core.toNat < 160 →
          s.present (ch * 160 + core.toNat) = true →
          t.transitOf ch = s.transitOf ch ++ ws.map (fun w => .word (ch * 160 + core.toNat) ep.toNat w true)) ∧
        TabElse State.transit ch s t ∧
        SameFields (fun f a b => recvPlaces l f a b ∨ a = ch ∧ f ∈ [Fld.chPwrDrops, .ownFiltRx]) s t ∧
        t = { s with reg := t.reg, retry := t.retry, transit := t.transit, evq := t.evq }) ∧
      (∀ (msgid : BitVec 7) (sp full : Bool) (addr : BitVec 40) (w : BitVec 6) (tag : BitVec 16) (cause : Nat),
        cause = (if (s.get .ownChStatState ch 0 ≠ 1 ∧ s.get .ownChStatState ch 0 ≠ 3) ∨ s.get .chPwrStatState ch 0 ≠ 0 then 5
          else if granted ch h.schip.toNat h.sch.val .ownGrantServe s = false then 2 else if s.get .foxRsvcEff ch 0 = 0 then 1
          else if full then 4 else 0) → (cause = 0 → addr.toNat / 64 * 64 + (w.toNat + 1) * 64 ≤ 0x900000000) →
        ∃ t, exec (.rreq link h msgid sp addr w tag full) s = .next t ∧ Took l h true s t ∧
          (cause = 0 → t.txq = s.txq ∧ tget [] t.foxPeer ch = tget [] s.foxPeer ch ++ [⟨h.schip.toNat, h.sch.val, msgid.toNat,
            addr.toNat / 64 * 64, w.toNat + 1, [], sp, tag.toNat⟩]) ∧
          (cause ≠ 0 → t.foxPeer = s.foxPeer ∧ t.get .foxRefused ch 0 = (s.get .foxRefused ch 0 + 1) % 2 ^ 64 ∧
            (Recording s → t.evq = s.evq ++ [⟨0x0504, ch, [h.schip.toNat, h.sch.val, cause]⟩]) ∧
            ∀ k, fwdLink ch h.schip.toNat s = some k → s.get .fabCtlValid 0 0 ≠ 0 → linkUp k s = true →
              ∃ f, waiting k 3 t = waiting k 3 s ++ [f] ∧ f.kind = 5 ∧ f.dchip = h.schip.toNat ∧ f.dch = h.sch.val ∧
                f.arg = msgid.toNat * 512 ∧ f.payload = payload [BitVec.ofNat 8 cause]) ∧
          TabElse State.foxPeer ch s t ∧ SameFields (fun f a b => recvPlaces l f a b ∨ a = ch ∧ f = .foxRefused) s t ∧
          t = { s with reg := t.reg, retry := t.retry, foxPeer := t.foxPeer, txq := t.txq, evq := t.evq }) ∧
      (∀ (msgid : BitVec 7) (idx wp : BitVec 4) (last : Bool) (ws : List (BitVec 512)) (cells : List (BitVec 8 × Access)) (m : RMsg)
        (e : Nat) (d : Desc) (js : List Nat),
        (s.msgs ch).find? (fun m => m.id == msgid.toNat) = some m → (s.entries ch).find? (fun x => x.2.seq == m.seq) = some (e, d) →
        d.dspace = 0 → js = needed m idx.toNat → (∀ j ∈ js, remoteDest d m (4 * idx.toNat + j) < 0x900000000 ∧
          ∀ k ∈ js, j ≠ k → remoteDest d m (4 * idx.toNat + j) / 64 ≠ remoteDest d m (4 * idx.toNat + k) / 64) →
        ∃ t, exec (.rdata link h msgid idx wp last ws cells) s = .next t ∧ Took l h true s t ∧
          (∀ j ∈ js, hbmRead ch (remoteDest d m (4 * idx.toNat + j)) t = (leBytes 64 (ws.getD j 0#512).toNat, wp.getLsbD j)) ∧
          t.act? ch e = some { d with landed := d.landed + js.length, poisoned := d.poisoned || js.any (fun j => wp.getLsbD j) } ∧
          t.msgs ch = (if last then (s.msgs ch).filter (fun x => x.id != m.id) else (s.msgs ch).map fun x =>
            if x.id = m.id then { m with got := m.got ++ js.map fun j => 4 * idx.toNat + j } else x) ∧
          TabElse State.foxMsgs ch s t ∧
          SameBytes (fun y => ∃ j ∈ js, ∃ i < 64, y = hbmAddr ch (remoteDest d m (4 * idx.toNat + j) / 64 * 64) + i) s t ∧
          SameFields (fun f a b => recvPlaces l f a b ∨ a = ch ∧ (f ∈ foxFlds ∨ f = .foxPoisonWords)) s t ∧
          t = { s with reg := t.reg, retry := t.retry, mem := t.mem, hbmBad := t.hbmBad, hbmKey := t.hbmKey, foxAct := t.foxAct,
                       foxMsgs := t.foxMsgs, evq := t.evq }) ∧
      (∀ (msgid : BitVec 7) (x : BitVec 8) (cells : List (BitVec 8 × Access)) (m : RMsg),
        (s.msgs ch).find? (fun m => m.id == msgid.toNat) = some m → (∀ y ∈ s.entries ch, y.2.seq ≠ m.seq) →
        ∃ t, exec (.rref link h msgid x cells) s = .next t ∧ Took l h true s t ∧
          t.msgs ch = (s.msgs ch).filter (fun x => x.id != m.id) ∧
          t.get .foxRemoteFail ch 0 = (s.get .foxRemoteFail ch 0 + 1) % 2 ^ 64 ∧
          (Recording s → t.evq = s.evq ++ [⟨0x0502, ch, [m.chip, m.pch, 0, m.tag]⟩]) ∧ TabElse State.foxMsgs ch s t ∧
          SameFields (fun f a b => recvPlaces l f a b ∨ a = ch ∧ (f ∈ foxFlds ∨ f = .foxRemoteFail)) s t ∧
          t = { s with reg := t.reg, retry := t.retry, foxAct := t.foxAct, foxMsgs := t.foxMsgs, evq := t.evq }) ∧
      (∀ (tag : BitVec 16), (∃ t, exec (.cancel link h tag) s = .next t ∧ Took l h true s t ∧ SameFields (recvPlaces l) s t ∧
          t = { s with reg := t.reg, retry := t.retry }) ∧
        ∃ t, exec (.commit link h tag) s = .next t ∧ Took l h true s t ∧
          tget [] t.foxPeer ch = (tget [] s.foxPeer ch).map (fun m => if granted ch h.schip.toNat h.sch.val .ownGrantServe s = true ∧
            m.chip = h.schip.toNat ∧ m.pch = h.sch.val ∧ m.tag = tag.toNat then { m with spec := false } else m) ∧
          TabElse State.foxPeer ch s t ∧ SameFields (recvPlaces l) s t ∧
          t = { s with reg := t.reg, retry := t.retry, foxPeer := t.foxPeer }) ∧
      (∀ (chip by' : BitVec 15) (fch : Chan) (cause : BitVec 8) (hit : Nat → Prop),
        (∀ i, hit i ↔ i < 6 ∧ ∃ k < 1280, ∃ v, v = s.get .rteRoute ch (s.get .rteCtlActive ch 0 * 1280 + k) ∧ routeEn v = true ∧
          routeLink v = true ∧ routeSignal v = false ∧ field v 19 15 = chip.toNat ∧ field v 16 3 = i) →
        ∃ t, exec (.hopfail link h chip fch cause by') s = .next t ∧ Took l h true s t ∧
          t.get .fabHopfailRx 0 0 = (s.get .fabHopfailRx 0 0 + 1) % 2 ^ 64 ∧
          (∀ i < 6, (t.get .rteLinkfDown ch 0).testBit i = true ↔ (s.get .rteLinkfDown ch 0).testBit i = true ∨ hit i) ∧
          (Recording s → t.evq.getLast? = some ⟨0x0B07, ch, [ch, chip.toNat, fch.val, cause.toNat, by'.toNat]⟩) ∧
          SameFields (fun f a b => recvPlaces l f a b ∨ a = 0 ∧ f = .fabHopfailRx ∨ a = ch ∧ f ∈ [Fld.rteLinkfDown, .chIrqStatCause] ∨
            a = ch + 1 ∧ f ∈ [Fld.msixD3, .msixPba]) s t ∧
          t = { s with reg := t.reg, retry := t.retry, evq := t.evq, out := t.out })) ∧
    (∀ (txts ptx rxts : BitVec 64) (level : BitVec 6) (us : Bool) (bseq rxseq frac : BitVec 8) (now : BitVec 64), LinkOn l s →
      now = BitVec.ofNat 64 (s.get .gtc 0 0 * 256 + frac.toNat) →
      ∃ t, exec (.beacon link h txts ptx rxts level us bseq rxseq frac) s = .next t ∧ Took l h false s t ∧
        t.get .lnkPeerBseq l 0 = bseq.toNat ∧ t.get .lnkPeerTx l 0 = txts.toNat ∧ t.get .lnkPeerRx l 0 = now.toNat ∧
        t.get .tunSrcPlevel l 0 = level.toNat ∧ t.get .tunSrcUsable l 0 = us.toNat ∧
        t.get .lnkRxFlits l 0 = (s.get .lnkRxFlits l 0 + 1) % 2 ^ 64 ∧
        (s.get .lnkBcnSent l 0 ≠ 0 → s.get .lnkBseq l 0 = rxseq.toNat → ∃ off dly, Sampled l off dly s t ∧
          (2 * (off + s.signed .tunAsymEff l) - ((rxts - ptx).toInt + (txts - now).toInt)).natAbs ≤ 1 ∧
          (2 * dly - ((now - ptx).toInt - (txts - rxts).toInt)).natAbs ≤ 1) ∧
        SameFields (fun f a b => recvPlaces l f a b ∨ a = l ∧ (f ∈ [Fld.lnkPeerBseq, .lnkPeerTx, .lnkPeerRx, .tunSrcPlevel, .tunSrcUsable] ∨
          s.get .lnkBcnSent l 0 ≠ 0 ∧ s.get .lnkBseq l 0 = rxseq.toNat ∧ f ∈ sampleFlds)) s t ∧
        t = { s with reg := t.reg, retry := t.retry, ctr := t.ctr }) ∧
    (∀ (bid : BitVec 2) (gen : BitVec 32) (b : Nat), b = bid.toNat → InTurn l h s →
      (gen.toNat ≠ s.get .fbarGen b 0 → ∀ (n : BitVec 64) (x : BitVec 2),
        ∀ i ∈ [Instr.arrive link h bid gen, .release link h bid gen n, .fault link h bid gen x],
        ∃ t, exec i s = .next t ∧ Took l h true s t ∧ t.get .lnkRxDrop l 0 = (s.get .lnkRxDrop l 0 + 1) % 2 ^ 64 ∧
          (Recording s → t.evq = s.evq ++ [⟨0x0B0A, 8, [l, b, gen.toNat, s.get .fbarGen b 0]⟩]) ∧
          SameFields (fun f a b => recvPlaces l f a b ∨ a = l ∧ f = .lnkRxDrop) s t ∧
          t = { s with reg := t.reg, retry := t.retry, evq := t.evq }) ∧
      (gen.toNat = s.get .fbarGen b 0 →
        (l ∈ fbarDowns b s → (∃ k ∈ fbarDowns b s, k ≠ l ∧ s.get .fbarArr b k = 0) →
          ∃ t, exec (.arrive link h bid gen) s = .next t ∧ Took l h true s t ∧ t.get .fbarArr b l = 1 ∧
            SameFields (fun f a x => recvPlaces l f a x ∨ f = .fbarArr ∧ a = b ∧ x = l) s t ∧
            t = { s with reg := t.reg, retry := t.retry }) ∧
        (∀ k u, l ∈ fbarDowns b s → (∀ j ∈ fbarDowns b s, j = l ∨ s.get .fbarArr b j ≠ 0) → fbarChans b s = [k] →
          chanArrived k 2 b s = true → s.get .fbarSent b 0 = 0 → fbarRoot b s = false → u = fbarUp b s → LinkOn u s →
          ∃ t f, exec (.arrive link h bid gen) s = .next t ∧ Took l h true s t ∧ t.get .fbarArr b l = 1 ∧ t.get .fbarSent b 0 = 1 ∧
            waiting u 0 t = waiting u 0 s ++ [f] ∧ f.kind = 9 ∧ f.arg = b * 2 ^ 12 ∧
            f.payload = payload (beBytes 4 (s.get .fbarGen b 0)) ∧ TabElse State.txq (u * 8) s t ∧
            SameFields (fun f a x => recvPlaces l f a x ∨ a = b ∧ (f = .fbarArr ∧ x = l ∨ f = .fbarSent)) s t ∧
            t = { s with reg := t.reg, retry := t.retry, txq := t.txq }) ∧
        (∀ n : BitVec 64, isUpLink b l s = true → TimeGood s → s.get .gtc 0 0 ≤ n.toNat →
          ∃ t, exec (.release link h bid gen n) s = .next t ∧ Took l h true s t ∧ t.get .fbarRel b 0 = 1 ∧ t.get .fbarT b 0 = n.toNat ∧
            (∀ k ∈ fbarDowns b s, LinkOn k s → ∃ f, waiting k 0 t = waiting k 0 s ++ [f] ∧ f.kind = 9 ∧ f.arg = 2 ^ 14 + b * 2 ^ 12 ∧
              f.payload = payload (beBytes 4 (s.get .fbarGen b 0) ++ beBytes 8 n.toNat)) ∧
            SameFields (fun f a x => recvPlaces l f a x ∨ a = b ∧ f ∈ [Fld.fbarRel, .fbarT]) s t ∧
            t = { s with reg := t.reg, retry := t.retry, txq := t.txq }) ∧
        (∀ (x : BitVec 2) (ix : Nat), ix = 8 + b → isUpLink b l s = true ∨ l ∈ fbarDowns b s → x ≠ 0#2 →
          ∃ t, exec (.fault link h bid gen x) s = .next t ∧ Took l h true s t ∧
            (∀ j ∈ fbarChans b s, ∀ k, Waits j 2 b k s → BarCompleted k ix x.toNat s t) ∧
            t.get .fbarGen b 0 = (s.get .fbarGen b 0 + 1) % 2 ^ 32 ∧
            SameFields (fun f a x => recvPlaces l f a x ∨ f ∈ barFlds ∧ (∃ j ∈ fbarChans b s, Waits j 2 b a s) ∨
              a ∈ fbarChans b s ∧ (f ∈ [Fld.barFault, .barFaultGen, .barTimer] ∧ x = ix ∨ f = .synBarFaults) ∨
              f ∈ [Fld.fbarGen, .fbarArr, .fbarSent, .fbarRel, .fbarT] ∧ a = b) s t ∧
            t = { s with reg := t.reg, retry := t.retry, held := t.held, segRings := t.segRings, ctr := t.ctr, evq := t.evq,
                         txq := t.txq }))) ∧
    ∀ (xid : BitVec 8) (seg : BitVec 4) (resp last : Bool) (data : List (BitVec 8)) (k : Nat), InTurn l h s →
      k = l * 2 + (if resp then 1 else 0) →
      (last = true → resp = true → s.get .lnkAttStatAtt l 0 = 1 →
        ∃ t fs, exec (.attest link h xid seg resp last data) s = .next t ∧ Took l h true s t ∧ tget? t.attest k = none ∧
          waiting l 5 t = waiting l 5 s ++ fs ∧ fs ≠ [] ∧ (∀ f ∈ fs, f.kind = 10 ∧ field f.arg 3 1 = 0) ∧
          TabElse State.attest k s t ∧ TabElse State.txq (l * 8 + 5) s t ∧ SameFields (recvPlaces l) s t ∧
          t = { s with reg := t.reg, retry := t.retry, attest := t.attest, txq := t.txq, ctr := t.ctr }) ∧
      (last = false ∨ resp = false ∨ s.get .lnkAttStatAtt l 0 ≠ 1 →
      ∃ t, exec (.attest link h xid seg resp last data) s = .next t ∧ Took l h true s t ∧
        tget [] t.attest k = (if last && resp then [] else (if seg = 0#4 then [] else tget [] s.attest k) ++ data) ∧
        (last = true → resp = false → t.get .lnkAttGot l 0 = 1 ∧ t.get .lnkAttXid l 0 = xid.toNat) ∧ TabElse State.attest k s t ∧
        SameFields (fun f a b => recvPlaces l f a b ∨ last = true ∧ resp = false ∧ a = l ∧ f ∈ [Fld.lnkAttGot, .lnkAttXid]) s t ∧
        t = { s with reg := t.reg, retry := t.retry, attest := t.attest })

/-- Links train, are admitted on both sides' ADMIT, lose their state to DOWN, FAULT and RETIRED, and attest (R396, R407, R408, R409, R410, R411, R417, R418). -/
def Obligations.LinksTrainAdmitAndRetire : Prop :=
  ∀ (link : LinkId) (h : FlitHdr) (s : State) (l st fc : Nat), Sound s → l = link.val → st = s.get .lnkStatState l 0 →
    fc = s.get .lnkStatFcause l 0 →
    (l < s.get .idGradeLinks 0 0 → ∀ go, (go ↔ st = lkDown ∧ s.get .lnkCfgEn l 0 ≠ 0 ∧ s.get .lnkStatCable l 0 ≠ 0 ∧
        linksPowered s = true ∧ overClass l s = false) →
      ∃ t, exec (.signalDetect link) s = .next t ∧ t.get .lnkStatSignal l 0 = 1 ∧ (go → Training l fc s t) ∧
        (¬ go → SameFields (fun f a _ => a = l ∧ f = .lnkStatSignal) s t ∧ OnlyReg s t)) ∧
    (st = lkFault → ∃ t, exec (.faultRetrain link) s = .next t ∧ Training l fc s t) ∧
    (st = lkTraining →
      (s.get .lnkHello l 0 ≠ 0 → ∃ t, exec (.trainingComplete link) s = .next t ∧ LinkMoved l lkIsolated fc s t ∧ LinkEmpty l t ∧
        t.get .lnkTxSeq l 0 = 0 ∧ t.get .lnkExp l 0 = 0 ∧ t.get .lnkStatLock l 0 = 1 ∧
        SameFields (fun f a _ => a = l ∧ f ∈ [Fld.lnkStatState, .lnkTxSeq, .lnkExp, .lnkNakPend, .lnkNakDue, .lnkRxEp, .lnkTxEp, .lnkRot,
          .lnkStatLock, .lnkReplay] ∨ a = 0 ∧ f ∈ mgIrqFlds) s t ∧
        t = { s with reg := t.reg, txq := t.txq, retry := t.retry, evq := t.evq, out := t.out }) ∧
      (s.get .lnkHello l 0 = 0 → exec (.trainingComplete link) s = .next s) ∧
      ∃ t, exec (.trainingTimeout link) s = .next t ∧ LinkMoved l lkDown fc s t ∧ LinkEmpty l t ∧ t.get .lnkStatLock l 0 = 0 ∧
        SameFields (fun f a _ => a = l ∧ f ∈ [Fld.lnkStatState, .lnkStatLock, .lnkReplay] ∨ a = 0 ∧ f ∈ mgIrqFlds) s t ∧
        t = { s with reg := t.reg, txq := t.txq, retry := t.retry, evq := t.evq, out := t.out }) ∧
    (∀ cause : BitVec 2, l < s.get .idGradeLinks 0 0 → cause ≠ 0 → cause ≠ 3 ∨ l ∈ cageLinks → LinkOn l s →
      ∃ t, exec (.signalLoss link cause) s = .next t ∧ LinkIs l lkDown cause.toNat t ∧ LinkEmpty l t ∧ t.get .lnkStatLock l 0 = 0 ∧
        (cause = 1 ∨ cause = 3 → t.get .lnkStatSignal l 0 = 0) ∧ (cause = 3 → t.get .lnkStatCable l 0 = 0) ∧
        (st = lkAdmitted → t.get .tunSrcElig l 0 = 0 ∧ t.get .tunSrcFresh l 0 = 0 ∧ ((∀ m ∈ s.msgs (l / 6), m.link ≠ l) →
          (t.get .rteLinkfDown (l / 6) 0).testBit (l % 6) = true ∧ t.mem = s.mem)) ∧
        (st = lkIsolated → LinkMoved l lkDown cause.toNat s t ∧
          SameFields (fun f a _ => a = l ∧ f ∈ [Fld.lnkStatState, .lnkStatFcause, .lnkStatLock, .lnkStatSignal, .lnkStatCable, .lnkReplay] ∨
            a = 0 ∧ f ∈ mgIrqFlds) s t ∧
          t = { s with reg := t.reg, txq := t.txq, retry := t.retry, evq := t.evq, out := t.out })) ∧
    (∀ (c : LinkCtl) (echo : BitVec 64), CtlTaken l h s →
      (∃ t, exec (.hello link h c) s = .next t ∧ t.get .lnkPeerChip l 0 = c.chip.toNat ∧ t.get .lnkPeerValid l 0 = c.valid.toNat ∧
        t.get .lnkPeerPlink l 0 = c.plink.toNat % 64 ∧ t.get .lnkPeerPart l 0 = c.part.toNat ∧ t.get .lnkPeerStep l 0 = c.step.toNat ∧
        t.get .lnkPnonce l 0 = c.nonce.toNat ∧ t.get .lnkHello l 0 = 1 ∧
        t.get .lnkRxFlits l 0 = (s.get .lnkRxFlits l 0 + 1) % 2 ^ 64 ∧ (st ≠ lkTraining → Took l h true s t) ∧
        SameFields (fun f a b => recvPlaces l f a b ∨ a = l ∧ f ∈ [Fld.lnkPeerChip, .lnkPeerValid, .lnkPeerPlink, .lnkPeerPart, .lnkPeerStep,
          .lnkPnonce, .lnkHello]) s t ∧
        t = { s with reg := t.reg, retry := t.retry }) ∧
      (st ≠ lkTraining → ∃ t, exec (.retire link h c) s = .next t ∧ LinkIs l lkFault 8 t ∧ LinkEmpty l t) ∧
      (echo.toNat = s.get .lnkNonce l 0 → ∃ t, exec (.peerAdmit link h c echo) s = .next t ∧ t.get .lnkStatPadmit l 0 = 1 ∧
        (st ≠ lkTraining → Took l h true s t) ∧
        (st = lkIsolated → s.get .lnkStatLadmit l 0 ≠ 0 → LinkMoved l lkAdmitted fc s t ∧ t.get .lnkEverAdm l 0 = 1) ∧
        (st ≠ lkIsolated ∨ s.get .lnkStatLadmit l 0 = 0 → t.get .lnkStatState l 0 = st ∧ t.evq = s.evq) ∧
        SameFields (fun f a b => recvPlaces l f a b ∨ a = l ∧ f = .lnkStatPadmit ∨ st = lkIsolated ∧ s.get .lnkStatLadmit l 0 ≠ 0 ∧
          (a = l ∧ f ∈ [Fld.lnkStatState, .lnkEverAdm] ∨ a = 0 ∧ f ∈ mgIrqFlds)) s t ∧
        t = { s with reg := t.reg, retry := t.retry, evq := t.evq, out := t.out }) ∧
      (echo.toNat ≠ s.get .lnkNonce l 0 → ∃ t, exec (.peerAdmit link h c echo) s = .next t ∧ SameFields (recvPlaces l) s t ∧
        t = { s with reg := t.reg, retry := t.retry })) ∧
    (∀ left done, left = (retryOf l s).length → s.get .lnkRetiring l 0 ≠ 0 → LinkOn l s →
      (done ↔ left = 0 ∧ waiting l 0 s = [] ∨ s.get .lnkRetireAt l 0 + 100000 ≤ s.get .gtc 0 0) →
      (¬ done → exec (.linkRetireDone link) s = .next s) ∧
      (done → ∃ t, exec (.linkRetireDone link) s = .next t ∧ LinkIs l lkRetired 9 t ∧ LinkEmpty l t ∧ t.get .lnkRetiring l 0 = 0 ∧
        (Recording s → t.evq.getLast? = some ⟨0x0B09, 8, [l, left]⟩) ∧
        (mbxIs 0x0B l s = true → MbxEnded 0 0 s t ∧ t.get .mbxRsp 0 0 = left % 2 ^ 32))) ∧
    ∀ (good : Bool) (cert meas : BitVec 384) (mode : Nat), mode = s.get .mbxMode 0 0 →
      (mbxIs 0x0A l s = false ∨ s.get .lnkAttStatAtt l 0 ≠ 1 → exec (.attestationDone link good cert meas) s = .next s) ∧
      (mbxIs 0x0A l s = true → s.get .lnkAttStatAtt l 0 = 1 → ∀ same, (same ↔ mbxDigest 1 s = cert.toNat ∧ mbxDigest 13 s = meas.toNat) →
        ∃ t, exec (.attestationDone link good cert meas) s = .next t ∧ t.get .mbxRsp 0 0 = t.get .lnkAttStatAtt l 0 ∧
          (good = false → t.get .lnkAttStatAtt l 0 = 3 ∧ MbxEnded 6 4 s t) ∧
          (good = true → DigestsShown l cert meas t ∧
            (mode ≠ 2 → t.get .lnkAttStatAtt l 0 = 2 ∧ MbxEnded 0 0 s t) ∧
            (mode = 2 → ¬ same → t.get .lnkAttStatAtt l 0 = 4 ∧ MbxEnded 6 5 s t) ∧
            (mode = 2 → same → st ≠ lkIsolated → t.get .lnkAttStatAtt l 0 = 2 ∧ MbxEnded 6 1 s t) ∧
            (mode = 2 → same → st = lkIsolated → t.get .lnkAttStatAtt l 0 = 2 ∧ MbxEnded 0 0 s t ∧ t.get .lnkStatLadmit l 0 = 1 ∧
              (∃ f, waiting l 0 t = waiting l 0 s ++ [f] ∧ f.kind = 11 ∧ f.arg = 2 ^ 12) ∧
              t.get .lnkStatState l 0 = if s.get .lnkStatPadmit l 0 = 0 then lkIsolated else lkAdmitted)) ∧
          SameFields (fun f a _ => a = 0 ∧ f ∈ mbxFlds ∨
            a = l ∧ f ∈ [Fld.lnkAttStatAtt, .lnkCertDigest, .lnkMeasDigest, .lnkStatLadmit, .lnkStatState, .lnkEverAdm]) s t ∧
          t = { s with reg := t.reg, txq := t.txq, evq := t.evq, out := t.out })

/-- Host writes reach their register and fields by type; doorbells, plans, keys, masks and HBM act as their rules say (R220, R252, R359, R413, R430, R431, R438, R494, R576, R579, R581, R583). -/
def Obligations.HostSoftwareWritesRegistersAndHbm : Prop :=
  ∀ (chan : Chan) (s : State) (ch : Nat), Sound s → ch = chan.val →
    (∀ (off : BitVec 26) (size : BitVec 4) (value : BitVec 64) (o n : Nat), o = off.toNat → n = size.toNat →
      (s.mgWrite = true →
        (∀ r a b k, Falls mgmtRegs o n r a b k → r.name ∉ mgmtActs → o < 0xF00000 → (o < 0x30000 ∨ 0x3C000 ≤ o) → (o < 0x70000 ∨ 0x72000 ≤ o) →
          (o < 0x40000 ∨ 0x50000 ≤ o ∨ s.get .idGradeSve 0 0 ≠ 0) → (o < 0x48000 ∨ 0x49000 ≤ o) →
          ∃ t, exec (.registerWrite 0 (.bar0 off size) value) s = .next t ∧ RegWritten r a b k n value.toNat false s t) ∧
        (∀ r a b k, 0x70000 + ch * 0x400 ≤ o → o < 0x70000 + (ch + 1) * 0x400 → Falls ownRegs (0x70000 + o % 0x400) n r a b k →
          ∃ t, exec (.registerWrite 0 (.bar0 off size) value) s = .next t ∧
            RegWritten r ch b k n value.toNat (s.get .ownChStatState ch 0 == 3) s t) ∧
        (∀ l < s.get .idGradeLinks 0 0, l < 48 → o = 0x30000 + 0x400 * l → n = 4 →
          ∃ t, exec (.registerWrite 0 (.bar0 off size) value) s = .next t ∧ t.get .lnkCfgEn l 0 = value.toNat % 2 ∧
            (s.get .lnkCfgEn l 0 = value.toNat % 2 → SameFields (fun _ _ _ => False) s t ∧ OnlyReg s t) ∧
            (s.get .lnkCfgEn l 0 = 1 → value.toNat % 2 = 0 → LinkOn l s → LinkIs l lkDown 4 t))) ∧
      ((n ≠ 4 ∧ n ≠ 8 ∨ o % n ≠ 0) → exec (.registerWrite 0 (.bar0 off size) value) s = .next s) ∧
      (∀ fn : Fin 9, fn.val = ch + 1 →
        (∀ r a b k, s.chWrite ch (poweredBlock o) = true → Falls chanRegs o n r a b k → r.name ∉ chanActs → o < 0xF00000 →
          (o < 0x101000 ∨ 0x102000 ≤ o) → (o < 0x600000 ∨ 0x700000 ≤ o) →
          ∃ t, exec (.registerWrite fn (.bar0 off size) value) s = .next t ∧ RegWritten r ch b k n value.toNat false s t) ∧
        (∀ c q, s.chWrite ch true = true → n = 4 → o % 4 = 0 → c = ch * 160 + windowCore o → 0x1000000 ≤ o → windowCore o < 160 → s.present c = true →
          q = (o - 0x1000000) % 0x40000 →
          (∀ bank, q < 0x20000 → bank = (if q < 0x10000 then s.get .coreBank c 0 else 1 - s.get .coreBank c 0) →
            (q < 0x10000 → s.coreState c = stStopped ∨ s.coreState c = stHalted) → (0x10000 ≤ q → s.get .exchStatPhase ch 0 = 0) →
            ∃ t a0, exec (.registerWrite fn (.bar0 off size) value) s = .next t ∧ a0 = imemAddr c bank (q % 0x10000 / 8) + q % 8 ∧
              t.bytes a0 4 = leBytes 4 (value.toNat % 2 ^ 32) ∧ SameBytes (fun y => ∃ i < 4, y = a0 + i) s t ∧ t = { s with mem := t.mem }) ∧
          (∀ g < 32, q = 0x20100 + 8 * g → s.coreState c = stStopped ∨ s.coreState c = stHalted →
            ∃ t, exec (.registerWrite fn (.bar0 off size) value) s = .next t ∧
              t.g c g = (if g = 0 then 0#64 else BitVec.ofNat 64 ((s.g c g).toNat / 2 ^ 32 * 2 ^ 32 + value.toNat % 2 ^ 32)) ∧
              SameFields (fun f a b => f = .coreG ∧ a = c ∧ b = g ∧ g ≠ 0) s t ∧ OnlyReg s t)))) ∧
    (∀ (fn : Fin 9) (value : BitVec 64), (∀ v < 16, s.get .msixPba fn.val v = 0) →
      ∃ t, exec (.registerWrite fn .msixControl value) s = .next t ∧ t.get .msixEn fn.val 0 = field value.toNat 15 1 ∧
        t.get .msixFmask fn.val 0 = field value.toNat 14 1 ∧ SameFields (fun f a _ => f ∈ [Fld.msixEn, .msixFmask] ∧ a = fn.val) s t ∧
        OnlyReg s t) ∧
    (s.chWrite ch true = true →
      (∀ core : BitVec 8, ∃ t, exec (.chDbell chan true core) s = .next t ∧
        t.transitOf ch = s.transitOf ch ++ (s.coresOf ch).map .doorbell ∧ TabElse State.transit ch s t ∧
        t = { s with transit := t.transit }) ∧
      (∀ core : BitVec 8, core.toNat < 160 → s.present (ch * 160 + core.toNat) = true →
        ∃ t, exec (.chDbell chan false core) s = .next t ∧ t.transitOf ch = s.transitOf ch ++ [.doorbell (ch * 160 + core.toNat)] ∧
          TabElse State.transit ch s t ∧ t = { s with transit := t.transit }) ∧
      (∀ rest, (rest ↔ ∀ c ∈ s.coresOf ch, s.coreState c = stStopped ∨ s.coreState c = stHalted) →
        (rest → ∃ t, exec (.rteCtlFlip chan) s = .next t ∧ t.get .rteCtlActive ch 0 = 1 - s.get .rteCtlActive ch 0 ∧
          SameFields (fun f a _ => f = .rteCtlActive ∧ a = ch ∨ f = .epRoom ∧ a / 160 = ch) s t ∧ OnlyReg s t) ∧
        (¬ rest → exec (.rteCtlFlip chan) s = .next s)) ∧
      (∀ (ring core : BitVec 8) (en dir : Bool) (slots words : BitVec 7) (base : BitVec 19) (r : Nat), r = ring.toNat →
        s.get .foxRingCfgEn ch r = 0 →
        (en = false ∨ 3 ≤ slots.toNat ∧ slots.toNat ≤ 64 ∧ 1 ≤ words.toNat ∧ words.toNat ≤ 64 ∧
          ∀ q < 256, q ≠ r → s.get .foxRingCfgEn ch q = 0 ∨ s.get .foxRingCfgCore ch q ≠ core.toNat) →
        ∃ t, exec (.ringCfgWrite chan ring en dir core slots words base) s = .next t ∧ t.get .foxRingCfgEn ch r = en.toNat ∧
          t.get .foxRingCfgDir ch r = dir.toNat ∧ t.get .foxRingCfgCore ch r = core.toNat ∧ t.get .foxRingCfgSlots ch r = slots.toNat ∧
          t.get .foxRingCfgSlotWords ch r = words.toNat ∧ t.get .foxRingCfgBase ch r = base.toNat ∧
          (en = true → (∀ f ∈ ringFlds, f ≠ .ringViewPend → t.get f ch r = 0) ∧ (∀ k < 64, t.get .ringSlotSt ch (r * 64 + k) = 0) ∧
            (dir = true → t.get .ringViewPend ch r = slots.toNat)) ∧
          SameFields (fun f a b => a = ch ∧ (b = r ∧ f ∈ [Fld.foxRingCfgEn, .foxRingCfgDir, .foxRingCfgCore, .foxRingCfgSlots,
              .foxRingCfgSlotWords, .foxRingCfgBase] ∨ en = true ∧ (b = r ∧ (f ∈ ringFlds ∨ f = .foxRingPtrGen) ∨
              f ∈ slotFlds ∧ b / 64 = r))) s t ∧
          OnlyReg s t) ∧
      (∀ (ra : Bool) (rsvc : BitVec 3), ∃ t, exec (.foxCtlWrite chan ra rsvc) s = .next t ∧ t.get .foxCtlRaEn ch 0 = ra.toNat ∧
        t.get .foxCtlRsvc ch 0 = rsvc.toNat ∧
        (s.get .chCfgRefalign ch 0 = 0 → t.get .foxServK ch 0 = 0 ∧ t.get .foxRsvcEff ch 0 = min 4 rsvc.toNat) ∧
        (s.get .foxCtlRaEn ch 0 = 0 ∨ ra = true →
          SameFields (fun f a _ => a = ch ∧ f ∈ [Fld.foxCtlRaEn, .foxCtlRsvc, .foxServK, .foxRsvcEff]) s t ∧ OnlyReg s t))) ∧
    (∀ (value : BitVec 32) (v : Nat) rest, s.chWrite ch false = true → v = value.toNat →
      v % 32 ≠ s.get .chCfgLockstep ch 0 + 2 * s.get .chCfgLfreq ch 0 + 8 * s.get .chCfgAllowRace ch 0 + 16 * s.get .chCfgRefalign ch 0 →
      (rest ↔ (∀ c ∈ s.coresOf ch, s.coreState c = stStopped ∨ s.coreState c = stHalted) ∧ ∀ x ∈ s.entries ch, 160 ≤ x.2.src) →
      (¬ rest → ∃ t, exec (.chCfgWrite chan value) s = .next t ∧ (Recording s → t.evq = s.evq ++ [⟨0x0903, ch, [ch, v]⟩]) ∧
        t = { s with evq := t.evq }) ∧
      (rest → ∃ t, exec (.chCfgWrite chan value) s = .next t ∧ t.get .chCfgLockstep ch 0 = field v 0 1 ∧
        t.get .chCfgLfreq ch 0 = field v 1 2 ∧ t.get .chCfgAllowRace ch 0 = field v 3 1 ∧ t.get .chCfgRefalign ch 0 = field v 4 1 ∧
        (field v 0 1 = 1 → s.get .chCfgLockstep ch 0 = 0 → s.get .chPwrStatState ch 0 = 0 → t.get .pllRelock ch 0 = 1) ∧
        SameFields (fun f a _ => a = ch ∧ f ∈ [Fld.chCfgLockstep, .chCfgLfreq, .chCfgAllowRace, .chCfgRefalign, .pllRelock, .chLfreqNext,
          .chLfreqEff, .chClkStatFeff, .chClkStatHalved, .chClkStatThrottled, .chClkStatCapped, .detCauses]) s t ∧ OnlyReg s t)) ∧
    (∀ (slot : BitVec 4) (key : Nat), s.mgWrite = true → s.get .ownChStatState ch 0 = 1 →
      key = (List.range 4).foldl (fun n w => n + s.get .ownSkeyLoadKey ch w * 2 ^ (64 * w)) 0 →
      ∃ t, exec (.ownSkeyLoad chan slot) s = .next t ∧ (∀ w < 4, t.get .ownSkeyLoadKey ch w = 0) ∧
        (slot ≠ 0 → t.get .ownSkey ch slot.toNat = key ∧ ((t.get .ownChStatSkeys ch 0).testBit slot.toNat = true ↔ key ≠ 0) ∧
          (Recording s → t.evq = s.evq ++ [⟨0x0C0A, ch, [ch, slot.toNat]⟩])) ∧
        SameFields (fun f a b => a = ch ∧ (f = .ownSkeyLoadKey ∨ slot ≠ 0 ∧ (f = .ownSkey ∧ b = slot.toNat ∨ f = .ownChStatSkeys))) s t ∧
        t = { s with reg := t.reg, evq := t.evq }) ∧
    (∀ (value : Option (BitVec 32)) (k a : Nat), s.mgWrite = true → k = s.get .fabFwdAddrCh 0 0 → a = s.get .fabFwdAddrChip 0 0 / 8 * 8 →
      ∃ t, exec (.fabFwdData value) s = .next t ∧ t.get .fabFwdAddrChip 0 0 = (a + 8) % 2 ^ 15 ∧
        (∀ v, value = some v → (∀ e < 8, t.get .fabFwd k (a + e) = field v.toNat (4 * e) 3) ∧ t.out = s.out) ∧
        (value = none → t.out = s.out ++ [.readData 0 ((List.range 8).foldl (fun n e => n + s.get .fabFwd k (a + e) * 2 ^ (4 * e)) 0)]) ∧
        SameFields (fun f x y => f = .fabFwdAddrChip ∧ x = 0 ∨ value ≠ none ∧ f = .fabFwd ∧ x = k ∧ a ≤ y ∧ y < a + 8) s t ∧
        t = { s with reg := t.reg, out := t.out }) ∧
    (∀ (fn : Fin 9) (value : BitVec 11) (a : Nat), a = fn.val - 1 →
      (if fn.val = 0 then s.mgWrite = true else s.chWrite a false = true) →
      (∃ t, exec (.irqMaskWrite fn true value) s = .next t ∧
        t.get (maskFld fn.val) a 0 = value.toNat % 2 ^ (maskFld fn.val).width ∧
        ((∀ k < 11, (s.get (maskFld fn.val) a 0).testBit k = true → (s.get (causeFld fn.val) a 0).testBit k = true → value.getLsbD k = true) →
          SameFields (fun f x _ => f = maskFld fn.val ∧ x = a) s t ∧ OnlyReg s t)) ∧
      ∃ t, exec (.irqMaskWrite fn false value) s = .next t ∧
        (∀ k < 11, (t.get (causeFld fn.val) a 0).testBit k = ((s.get (causeFld fn.val) a 0).testBit k && !value.getLsbD k)) ∧
        SameFields (fun f x _ => f = causeFld fn.val ∧ x = a) s t ∧ OnlyReg s t) ∧
    (∀ (fn : Fin 9) (d3 : Bool), ∃ t, exec (.functionDStateChange fn d3) s = .next t ∧ t.get .fnD3 fn.val 0 = d3.toNat ∧
      (d3 = true → OnlyReg s t ∧ SameFields (fun f a _ => f = .fnD3 ∧ a = fn.val) s t) ∧
      (d3 = false → ∀ v < 16, t.get .msixD3 fn.val v = 0 ∧ (s.get .msixD3 fn.val v ≠ 0 → causeSet fn.val v s = true →
        s.get .msixEn fn.val 0 ≠ 0 → s.get .msixFmask fn.val 0 = 0 → s.get .msixVmask fn.val v = 0 → .msix fn.val v ∈ t.out)) ∧
      SameFields (fun f a _ => f ∈ [Fld.fnD3, .msixD3, .msixPba] ∧ a = fn.val) s t ∧ t = { s with reg := t.reg, out := t.out }) ∧
    (∀ (req : BitVec 2) (hbmoff autorun wbatch wgtc wake : Bool), s.chWrite ch false = true →
      ∃ t, exec (.chPwrWrite chan req hbmoff autorun wbatch wgtc wake) s = .next t ∧ t.get .chPwrReq ch 0 = req.toNat ∧
        t.get .chPwrHbmoff ch 0 = hbmoff.toNat ∧ t.get .chPwrAutorun ch 0 = autorun.toNat ∧ t.get .chPwrWbatch ch 0 = wbatch.toNat ∧
        t.get .chPwrWgtc ch 0 = wgtc.toNat ∧ (wake = true ∨ req = 0 → WakeBegun ch 3 s t) ∧
        SameFields (fun f a _ => a = ch ∧ (f ∈ [Fld.chPwrReq, .chPwrHbmoff, .chPwrAutorun, .chPwrWbatch, .chPwrWgtc] ∨ f ∈ wakeFlds)) s t ∧
        t = { s with reg := t.reg, evq := t.evq }) ∧
    ∀ (addr : BitVec 36) (len : BitVec 13) (bs : List (Option (BitVec 8))) (a n : Nat), a = addr.toNat → s.get .fnD3 (1 + ch) 0 = 0 →
      s.frozen = false →
      (∀ i cause deny, i ∈ [Instr.bar2Access chan addr len none, .bar2Access chan addr len (some bs)] →
        deny = (if i = .bar2Access chan addr len none then 1 else 2) →
        (hasKey ch s = false ∧ cause = 0 ∨ hasKey ch s = true ∧ deny ≤ s.get .ownCfgHostio ch 0 ∧ cause = 1) →
        ∃ t, exec i s = .next t ∧ t.get .ownBar2Deny ch 0 = (s.get .ownBar2Deny ch 0 + 1) % 2 ^ 64 ∧
          (Recording s → t.evq = s.evq ++ [⟨0x0C07, ch, [ch, cause, deny - 1]⟩]) ∧
          t.out = s.out ++ (if deny = 1 then [.readBytes ch (List.replicate len.toNat 0xFF#8)] else []) ∧
          SameFields (fun f x _ => x = ch ∧ f ∈ [Fld.ownBar2Deny, .detCauses]) s t ∧ t = { s with reg := t.reg, evq := t.evq, out := t.out }) ∧
      (hasKey ch s = true → s.get .chPwrStatState ch 0 = 0 → s.get .ownCfgHostio ch 0 = 0 → a + len.toNat ≤ 0x900000000 →
        ∃ t data, exec (.bar2Access chan addr len none) s = .next t ∧ t.out = s.out ++ [.readBytes ch data] ∧ data.length = len.toNat ∧
          (∀ k < len.toNat, (hbmRead ch (a + k) s).2 = false → data[k]? = some (hbmByteAt ch (a + k) s)) ∧
          SameFields (fun f x _ => x = ch ∧ f = .detCauses) s t ∧ t = { s with reg := t.reg, out := t.out, ctr := t.ctr }) ∧
      (hasKey ch s = true → s.get .chPwrStatState ch 0 = 0 → s.get .ownCfgHostio ch 0 < 2 → n = bs.length → a + n ≤ 0x900000000 →
        ∃ t, exec (.bar2Access chan addr len (some bs)) s = .next t ∧
          (∀ x < 0x900000000, hbmByteAt ch x t = (if a ≤ x ∧ x < a + n then (bs.getD (x - a) none).getD (hbmByteAt ch x s)
            else hbmByteAt ch x s)) ∧
          SameBytes (fun y => ∃ x, a / 64 * 64 ≤ x ∧ x < (a + n + 63) / 64 * 64 ∧ y = hbmAddr ch x) s t ∧
          SameFields (fun f x _ => x = ch ∧ f = .detCauses) s t ∧
          t = { s with reg := t.reg, mem := t.mem, hbmBad := t.hbmBad, hbmKey := t.hbmKey })

/-- Owner messages bind, grant, load keys, set policy and kill; a binding times out; a kill completes (R424, R425, R427, R433, R438, R439, R442, R443, R446, R472). -/
def Obligations.OwnersBindGrantAndEnd : Prop :=
  (∀ (ses : BitVec 4) (sel : BitVec 16) (chan : BitVec 8) (body : List (BitVec 8)) (s : State) (n c : Nat), Sound s → n = ses.toNat →
    c = chan.toNat →
    (∀ x ∈ ownerMessages ses sel chan body,
      (¬ SessionUp n s → exec x.1 s = .next { s with out := s.out ++ [.spdm .doe (.error .unexpectedRequest)] }) ∧
      (SessionUp n s → sel ≠ 1 → exec x.1 s = .next { s with out := s.out ++ [ownerReply n sel.toNat x.2 c 2 [] s] }) ∧
      (SessionUp n s → sel = 1 → x.2 ≠ 1 ∨ 8 ≤ c → (8 ≤ c ∨ s.get .ownChStatState c 0 ≠ 3 ∧ s.get .ownChStatState c 0 ≠ 4 ∨
          s.get .ownChOid c 0 + s.get .ownChOid c 1 * 2 ^ 64 ≠ s.get .sesOid n 0) →
        exec x.1 s = .next { s with out := s.out ++ [ownerReply n 1 x.2 c 1 [] s] })) ∧
    (SessionUp n s → sel = 1 →
      (c < 8 →
        (∀ status, (s.get .ownChStatState c 0 ≠ 2 ∧ status = 3 ∨ s.get .ownChStatState c 0 = 2 ∧
            (s.get .ownChOid c 0 + s.get .ownChOid c 1 * 2 ^ 64 ≠ s.get .sesOid n 0 ∧ status = 4 ∨
              s.get .ownChOid c 0 + s.get .ownChOid c 1 * 2 ^ 64 = s.get .sesOid n 0 ∧ obindGood body = false ∧ status = 2)) →
          ∃ t, exec (.obind ses sel chan body) s = .next t ∧ t.out = s.out ++ [ownerReply n 1 1 c status [] s] ∧
            (Recording s → t.evq = s.evq ++ [⟨0x0C04, c, [c, status]⟩]) ∧ t = { s with out := t.out, evq := t.evq }) ∧
        (∀ src, s.get .ownChStatState c 0 = 2 → s.get .ownChOid c 0 + s.get .ownChOid c 1 * 2 ^ 64 = s.get .sesOid n 0 →
          obindGood body = true → src = (if (body.getD 0 0#8) = 1#8 then 3 else 2) →
          ∃ t, exec (.obind ses sel chan body) s = .next t ∧ t.get .ownChStatState c 0 = 3 ∧ t.get .ownChStatKeysrc c 0 = src ∧
            t.get .ownChOid c 0 + t.get .ownChOid c 1 * 2 ^ 64 = s.get .sesOid n 0 ∧ PolicyIs c (body.getD 1 0#8).toNat t ∧
            (∀ e < 32, GrantIs c e 0 t) ∧ t.get .ownChStatSkeys c 0 = 0 ∧ (∀ k < 16, t.get .ownSkey c k = 0) ∧
            ((body.getD 2 0#8) = 1#8 → t.get .ownChStatRdkey c 0 = 1) ∧
            t.out.getLast? = some (ownerReply n 1 1 c 0 [] s) ∧
            (Recording s → t.evq = s.evq ++ [⟨0x0C01, c, [c, 2, 3]⟩, ⟨0x0C03, c, [c, s.get .sesOid n 0 % 2 ^ 32, src]⟩]) ∧
            SameFields (fun f a b => irqPlaces c f a b ∨ a = c ∧ f ∈ [Fld.xtsKey, .ownChStatState, .ownChStatKeysrc, .ownChOid,
              .ownCfgHostio, .ownCfgEvrVisible, .ownCfgSvcTagged, .ownGrantChip, .ownGrantCh, .ownGrantSend, .ownGrantRecv, .ownGrantRead,
              .ownGrantServe, .ownSkey, .ownChStatSkeys, .rdKey, .ownChStatRdkey]) s t ∧
            t = { s with reg := t.reg, evq := t.evq, out := t.out, ctr := t.ctr })) ∧
      (OwnedBy n c s →
        (∀ k, k = (body.getD 0 0#8).toNat → ∀ i op st data,
          ((i, op, st, data) ∈ [((.ogrant ses sel chan body, 2, 2, []) : Instr × Nat × Nat × List (BitVec 8))] ∧ (32 < k ∨ body.length ≠ 1 + 4 * k) ∨
            (i, op, st, data) ∈ [((.oskey ses sel chan body, 3, 2, []) : Instr × Nat × Nat × List (BitVec 8))] ∧ (k = 0 ∨ 15 < k ∨ body.length ≠ 33) ∨
            (i, op, st, data) ∈ [((.opolicy ses sel chan body, 4, 2, []) : Instr × Nat × Nat × List (BitVec 8))] ∧ (body.length < 2 ∨ k % 4 = 3 ∨
              rdGood (body.getD 1 0#8).toNat (body.drop 2) = false) ∨
            (i, op, st, data) ∈ [((.oend ses sel chan body, 5, 2, []) : Instr × Nat × Nat × List (BitVec 8)), (.ostat ses sel chan body, 6, 2, [])] ∧
              body ≠ [] ∨
            (i, op, st, data) = (.ostat ses sel chan body, 6, 0, leBytes 4 (ownStat c s) ++ leBytes 16 (s.get .sesOid n 0) ++
              leBytes 8 (s.get .ownFiltTx c 0) ++ leBytes 8 (s.get .ownFiltRx c 0)) ∧ body = []) →
          exec i s = .next { s with out := s.out ++ [ownerReply n 1 op c st data s] }) ∧
        (∀ k, k = (body.getD 0 0#8).toNat → k ≤ 32 → body.length = 1 + 4 * k →
          ∃ t, exec (.ogrant ses sel chan body) s = .next t ∧ t.out = s.out ++ [ownerReply n 1 2 c 0 [] s] ∧
            (∀ e < 32, GrantIs c e (if e < k then bodyLe body (1 + 4 * e) 4 else 0) t) ∧
            (Recording s → t.evq = s.evq ++ [⟨0x0C09, c, [c, 0]⟩]) ∧ SameFields (fun f a _ => a = c ∧ f ∈ grantFlds) s t ∧
            t = { s with reg := t.reg, evq := t.evq, out := t.out }) ∧
        (∀ k, k = (body.getD 0 0#8).toNat → 1 ≤ k → k ≤ 15 → body.length = 33 →
          ∃ t, exec (.oskey ses sel chan body) s = .next t ∧ t.out = s.out ++ [ownerReply n 1 3 c 0 [] s] ∧
            t.get .ownSkey c k = beNat (body.drop 1) ∧ ((t.get .ownChStatSkeys c 0).testBit k = true ↔ beNat (body.drop 1) ≠ 0) ∧
            (Recording s → t.evq = s.evq ++ [⟨0x0C0A, c, [c, k]⟩]) ∧
            SameFields (fun f a b => a = c ∧ (f = .ownSkey ∧ b = k ∨ f = .ownChStatSkeys)) s t ∧
            t = { s with reg := t.reg, evq := t.evq, out := t.out }) ∧
        (2 ≤ body.length → (body.getD 0 0#8).toNat % 4 < 3 → rdGood (body.getD 1 0#8).toNat (body.drop 2) = true →
          ∃ t, exec (.opolicy ses sel chan body) s = .next t ∧ t.out = s.out ++ [ownerReply n 1 4 c 0 [] s] ∧
            PolicyIs c (body.getD 0 0#8).toNat t ∧ ((body.getD 1 0#8) = 1#8 → t.get .ownChStatRdkey c 0 = 1) ∧
            (Recording s → t.evq = s.evq ++ (⟨0x0C09, c, [c, 1]⟩ :: if (body.getD 1 0#8) = 1#8 then [⟨0x0C09, c, [c, 2]⟩] else [])) ∧
            (∀ k, tget? t.svcPend k = (if s.get .ownCfgSvcTagged c 0 = 0 ∧ field (body.getD 0 0#8).toNat 3 1 = 1 ∧ k ∈ boundTo (· == c) s ∧
              taggedGood k s = false then some ⟨true, 0, 0, 0⟩ else tget? s.svcPend k)) ∧
            SameFields (fun f a _ => a = c ∧ f ∈ [Fld.ownCfgHostio, .ownCfgEvrVisible, .ownCfgSvcTagged, .rdKey, .ownChStatRdkey]) s t ∧
            t = { s with reg := t.reg, evq := t.evq, out := t.out, svcPend := t.svcPend }) ∧
        (body = [] → ∃ t, exec (.oend ses sel chan body) s = .next t ∧ t.get .ownChStatState c 0 = 4 ∧ t.get .ownChStatKeysrc c 0 = 0 ∧
          t.get .ownChStatSkeys c 0 = 0 ∧ t.get .killThen c 0 = 0 ∧ t.out.getLast? = some (ownerReply n 1 5 c 0 [] s) ∧
          (Recording s → ⟨0x0C01, c, [c, 3, 4]⟩ ∈ t.evq ∧ ⟨0x0C05, c, [c, 1]⟩ ∈ t.evq))))) ∧
  (∀ (chan : Chan) (s : State) (c : Nat) due, Sound s → c = chan.val →
    (due ↔ s.get .ownChStatState c 0 = 2 ∧ s.get .bindAt c 0 + s.get .bindTmo c 0 * 1000000000 ≤ s.get .gtc 0 0) →
    (¬ due → exec (.bindingTimeout chan) s = .next s) ∧
    (due → ∃ t x, exec (.bindingTimeout chan) s = .next t ∧ t.get .ownChStatState c 0 = 1 ∧ t.get .ownChStatKeysrc c 0 = 1 ∧
      t.get .ownChOid c 0 = 0 ∧ t.get .ownChOid c 1 = 0 ∧ (Recording s → t.evq = s.evq ++ [⟨0x0C01, c, [c, 2, 1]⟩, ⟨0x0C04, c, [c, x]⟩]) ∧
      SameFields (fun f a b => irqPlaces c f a b ∨ a = c ∧ f ∈ [Fld.xtsKey, .ownChStatState, .ownChStatKeysrc, .ownChOid]) s t ∧
      t = { s with reg := t.reg, evq := t.evq, out := t.out, ctr := t.ctr }) ∧
    (s.get .ownChStatState c 0 ≠ 4 ∨ chanFrozen c s = true → exec (.killSequenceComplete chan) s = .next s) ∧
    (s.get .ownChStatState c 0 = 4 → chanFrozen c s = false →
      ∃ t, exec (.killSequenceComplete chan) s = .next t ∧ t.get .ownKills c 0 = (s.get .ownKills c 0 + 1) % 2 ^ 64 ∧
        t.get .ownChStatState c 0 = (if s.get .killThen c 0 = 2 then 0 else if s.get .killThen c 0 = 1 then 2 else 1) ∧
        (s.get .killThen c 0 ≠ 2 → t.get .ownChStatKeysrc c 0 = 1) ∧
        (∀ w < 2, t.get .ownChOid c w = if s.get .killThen c 0 = 1 then s.get .mbxCopy (2 + 2 * w) 0 + s.get .mbxCopy (3 + 2 * w) 0 * 2 ^ 32 else 0) ∧
        PolicyIs c 4 t ∧ (∀ e < 32, GrantIs c e 0 t) ∧ (∀ k < 2560, t.get .rteRoute c k = 0) ∧ t.get .rteCtlActive c 0 = 0 ∧
        (s.get .chPwrStatState c 0 = 0 → ∀ k ∈ s.coresOf c, ∀ i < 2 ^ 17, t.byte (imemAddr k 0 0 + i) = 0#8) ∧
        (s.get .chPwrStatState c 0 ≠ 0 → t.get .ownChStatPending c 0 = 1) ∧
        (mbxIs 0x04 c s = true ∨ mbxIs 0x02 c s = true ∨ mbxIs 0x03 c s = true → MbxEnded 0 0 s t))) ∧
  ∀ (svc : BitVec 12) (s : State) (k a n : Nat), Sound s → k = svc.toNat → a = poolAddr (s.get .svcZeroCell k 0 * 64) →
    n = (s.get .svcZeroLen k 0 + 63) / 64 * 64 →
    (s.get .svcZero k 0 = 0 → exec (.fallbackCellsZeroed svc) s = .next s) ∧
    (s.get .svcZero k 0 ≠ 0 → ∃ t, exec (.fallbackCellsZeroed svc) s = .next t ∧ (∀ i < n, t.byte (a + i) = 0#8) ∧
      SameBytes (fun y => a ≤ y ∧ y < a + n) s t ∧ t.get .svcZero k 0 = 0 ∧
      SameFields (fun f x _ => x = k ∧ f ∈ [Fld.svcZero, .svcZeroCell, .svcZeroLen]) s t ∧ t = { s with reg := t.reg, mem := t.mem })

/-- Channels enter and leave DOZE and DARK, the chip STANDBY; heat, power and droop act on clocks; a trip cuts power (R237, R354, R484, R489, R494, R495, R499, R500, R502, R507, R508, R511). -/
def Obligations.PowerStatesAndSafetyActionsFollow : Prop :=
  ∀ (chan : Chan) (s : State) (ch st why : Nat), Sound s → ch = chan.val → st = s.get .chPwrStatState ch 0 →
    why = s.get .chPwrStatWcause ch 0 →
    (st = 1 → chanFrozen ch s = false → s.get .chPwrWbatch ch 0 = 0 ∨ s.queue ch = [] →
      (s.get .pwrDark ch 0 = 0 → ∃ t, exec (.dozeEntryDone chan) s = .next t ∧ t.get .chPwrStatState ch 0 = 2 ∧
        (t.get .chIrqStatCause ch 0).testBit 3 = true ∧ (Recording s → t.evq = s.evq ++ [powerEvent ch 1 2 why]) ∧
        SameFields (powerPlaces ch) s t ∧ t = { s with reg := t.reg, evq := t.evq, out := t.out }) ∧
      (s.get .pwrDark ch 0 ≠ 0 → ∃ t, exec (.dozeEntryDone chan) s = .next t ∧ t.get .chPwrStatState ch 0 = 3 ∧
        (∀ c ∈ s.coresOf ch, (∀ n < 32, t.g c n = 0#64) ∧ t.get .corePc c 0 = 0 ∧ t.coreState c = stStopped ∧ tget? t.held c = none ∧
          (∀ e < 8, t.fifoAt c e = []) ∧ (∀ k < 16, t.get .synCnt c k = 0) ∧ ∀ i < 2 ^ 19, t.byte (spdAddr c i) = 0#8) ∧
        t.transitOf ch = [] ∧ (Recording s → t.evq = s.evq ++ [powerEvent ch 1 3 why]) ∧
        (mbxIs 0x08 ch s = false → s.get .chPwrHbmoff ch 0 = 0 → ∀ a < 0x900000000, t.byte (hbmAddr ch a) = s.byte (hbmAddr ch a)) ∧
        (mbxIs 0x08 ch s = false → s.get .chPwrHbmoff ch 0 ≠ 0 → t.get .hbmOff ch 0 = 1))) ∧
    (s.get .chPwrWgtc ch 0 ≠ 0 → s.get .chWakeGtc ch 0 ≤ s.get .gtc 0 0 → st = 2 ∨ st = 3 → s.frozen = false →
      s.get .pwrStatChip 0 0 = 0 → s.cut = false →
      ∃ t, exec (.gtcWakeMatch chan) s = .next t ∧ WakeBegun ch 2 s t ∧ t.get .chPwrWgtc ch 0 = 0 ∧
        (Recording s → t.evq = s.evq ++ [powerEvent ch st 4 2]) ∧
        SameFields (fun f a _ => a = ch ∧ (f ∈ wakeFlds ∨ f = .chPwrWgtc)) s t ∧ t = { s with reg := t.reg, evq := t.evq }) ∧
    (st = 4 → chanFrozen ch s = false → s.get .wakeAt ch 0 ≤ s.get .gtc 0 0 →
      ∃ t, exec (.channelWakeDone chan) s = .next t ∧ t.get .chPwrStatState ch 0 = 0 ∧ t.get .pwrDark ch 0 = 0 ∧ t.get .hbmOff ch 0 = 0 ∧
        t.get .chPwrStatWakeNs ch 0 = (s.get .gtc 0 0 - s.get .wakeAt ch 0) % 2 ^ 32 ∧
        (mbxIs 0x08 ch s = true → MbxEnded 0 0 s t) ∧
        (s.get .pwrDark ch 0 = 0 →
          SameFields (fun f a b => powerPlaces ch f a b ∨ a = ch ∧ f ∈ [Fld.chPwrStatWakeNs, .hbmOff, .chLfreqEff]) s t ∧
          t = { s with reg := t.reg, evq := t.evq, out := t.out }) ∧
        (s.get .pwrDark ch 0 ≠ 0 → t.get .ownChStatPending ch 0 = 0 ∧
          (∀ r < 256, t.get .foxRingPtrGen ch r = (s.get .foxRingPtrGen ch r + 1) % 256 ∧ t.get .foxRingPtrHead ch r = 0 ∧
            t.get .foxRingPtrTail ch r = 0) ∧
          (∀ c ∈ s.coresOf ch, t.get .corePc c 0 = (if s.get .ownChStatPending ch 0 = 0 then s.get .corePc c 0 else 0) ∧
            (s.get .chPwrAutorun ch 0 ≠ 0 → s.get .ownChStatPending ch 0 = 0 →
              t.coreState c = stRunning ∨ t.coreState c = stWaiting ∧ t.get .coreStartWait c 0 = 1) ∧
            (s.get .chPwrAutorun ch 0 = 0 → s.get .ownChStatPending ch 0 = 0 → t.coreState c = s.coreState c) ∧
            (s.get .ownChStatPending ch 0 ≠ 0 → t.coreState c = stStopped ∧ ∀ i < 2 ^ 17, t.byte (imemAddr c 0 0 + i) = 0#8)))) ∧
    (∀ step : BitVec 8,
      (∀ tgt : Fin 9, tgt.val = ch → st = 4 → chanFrozen ch s = false →
        ∃ t, exec (.wakeFailure tgt step) s = .next t ∧ t.get .chPwrStatState ch 0 = (if s.get .pwrDark ch 0 = 0 then 2 else 3) ∧
          t.get .chPwrStatWfail ch 0 = 1 ∧ (Recording s → t.evq = s.evq ++ [powerEvent ch 4 (if s.get .pwrDark ch 0 = 0 then 2 else 3) why,
            ⟨0x0E02, ch, [ch, if s.get .pwrDark ch 0 = 0 then 1 else if s.get .hbmOff ch 0 = 0 then 2 else 3, step.toNat]⟩]) ∧
          (mbxIs 0x08 ch s = true → t.get .mbxStatBusy 0 0 = 0) ∧
          SameFields (fun f a b => powerPlaces ch f a b ∨ a = ch ∧ f = .chPwrStatWfail) s t ∧
          t = { s with reg := t.reg, evq := t.evq, out := t.out, ctr := t.ctr }) ∧
      (s.get .pwrStatChip 0 0 = 3 → ∃ t, exec (.wakeFailure 8 step) s = .next t ∧ t.get .pwrStatChip 0 0 = 2 ∧ t.get .pwrStatWfail 0 0 = 1 ∧
        (mbxIs 0x08 8 s = true → t.get .mbxStatBusy 0 0 = 0) ∧
        SameFields (fun f a _ => a = 0 ∧ (f ∈ [Fld.pwrStatChip, .pwrStatWfail] ∨ f ∈ mbxFlds)) s t ∧
        t = { s with reg := t.reg, evq := t.evq, out := t.out, ctr := t.ctr })) ∧
    (s.get .pwrStatChip 0 0 = 1 → ∃ t, exec .standbyEntryDone s = .next t ∧ t.get .pwrStatChip 0 0 = 2 ∧ LinksDown t ∧
      (∀ k < 8, t.get .chPwrStatState k 0 = 3 ∧ t.get .pwrDark k 0 = 1 ∧ t.transitOf k = [] ∧ t.get .ownChStatState k 0 = s.get .ownChStatState k 0) ∧
      (mbxIs 0x08 8 s = true → MbxEnded 0 0 s t)) ∧
    (s.get .pwrStatChip 0 0 = 3 → ∃ t, exec .standbyWakeDone s = .next t ∧ t.get .pwrStatChip 0 0 = 0 ∧ t.get .tunStatState 0 0 = 3 ∧
      t.get .gtc 0 0 = (s.get .gtc 0 0 + s.get .gtcAway 0 0) % 2 ^ 64 ∧ t.get .gtcAway 0 0 = 0 ∧ t.get .evrLostStb 0 0 = 0 ∧
      (Recording s → ⟨0x0D21, 8, [2, s.get .evrLostStb 0 0]⟩ ∈ t.evq) ∧ (mbxIs 0x08 8 s = true → MbxEnded 0 0 s t) ∧
      (∀ k < 8, t.get .chPwrStatState k 0 = s.get .chPwrStatState k 0)) ∧
    (s.get .pllRelock ch 0 ≠ 0 → ∃ t, exec (.pllRelockDone chan) s = .next t ∧ t.get .pllRelock ch 0 = 0 ∧
      t.get .chLfreqEff ch 0 = s.get .chLfreqNext ch 0 ∧
      (s.get .chCfgRefalign ch 0 = 0 → t.get .foxServK ch 0 = 0 ∧ t.get .foxRsvcEff ch 0 = min 4 (s.get .foxCtlRsvc ch 0)) ∧
      SameFields (fun f a _ => a = ch ∧ (f ∈ clockFlds ∨ f ∈ [Fld.pllRelock, .chLfreqEff, .foxServK, .foxRsvcEff])) s t ∧ OnlyReg s t) ∧
    (∀ hot cap th, atMark ch s = true → s.get .markAt ch 0 ≠ s.get .sveChBatches ch 0 + 1 → s.get .pwrStatHalved 0 0 = 0 →
      (hot ↔ (s.get .pwrStatThrottle 0 0).testBit ch = true ∧ 1568 ≤ s.signed .telChTj ch) →
      (hot ∨ (s.get .pwrStatThrottle 0 0).testBit ch = false) →
      (hot → th = min (s.get .thLimL ch 0) (s.get .chLfreqEff ch 0) - 1) → (¬ hot → th = s.get .thLimL ch 0) →
      cap = (if s.get .capPend ch 0 = 1 then max (min (min 2 (s.get .chPctlLmin ch 0)) (s.get .chLfreqEff ch 0))
          (min (s.get .capLimL ch 0) (s.get .chLfreqEff ch 0) - 1)
        else if s.get .capPend ch 0 = 2 then min 2 (s.get .capLimL ch 0 + 1) else s.get .capLimL ch 0) →
      ∃ t, exec (.batchMark chan) s = .next t ∧ t.get .thLimL ch 0 = th ∧ t.get .capLimL ch 0 = cap ∧ t.get .capPend ch 0 = 0 ∧
        t.get .markAt ch 0 = s.get .sveChBatches ch 0 + 1 ∧
        (wantedL (s.get .chCfgLfreq ch 0) cap th ≠ s.get .chLfreqEff ch 0 → t.get .pllRelock ch 0 = 1 ∧
          t.get .chLfreqNext ch 0 = wantedL (s.get .chCfgLfreq ch 0) cap th) ∧
        (wantedL (s.get .chCfgLfreq ch 0) cap th = s.get .chLfreqEff ch 0 → t.get .pllRelock ch 0 = s.get .pllRelock ch 0) ∧
        SameFields (fun f a _ => a = ch ∧ (f ∈ clockFlds ∨ f ∈ [Fld.markAt, .thLimL, .capLimL, .capPend, .pllRelock, .chLfreqNext])) s t ∧
        OnlyReg s t) ∧
    (∀ (pairs : List (BitVec 8 × Reading × Reading)) (hbm : List (Chan × BitVec 16)), (pairs.map Prod.fst).Nodup → (hbm.map Prod.fst).Nodup →
      ∃ t, exec (.thermalSample pairs hbm) s = .next t ∧ (∀ r < 256, t.get .regTemp r 0 = sampledTemp pairs r s) ∧
        (∀ k < 8, ∀ m < 2 ^ 15, IsHottest (fun r => regionOf k r = true) (sampledTemp pairs · s) m → TempIs .telChTj k m t ∧
          ((t.get .pwrStatThrottle 0 0).testBit k = true ↔ (s.get .pwrStatThrottle 0 0).testBit k = true ∨ 1568 ≤ m) ∧
          (1680 ≤ m → (t.get .pwrStatHalved 0 0).testBit k = true)) ∧
        (∀ m < 2 ^ 15, IsHottest (fun _ => True) (sampledTemp pairs · s) m → TempIs .telChipTj 0 m t) ∧
        (∀ p ∈ pairs, p.1.toNat < 0x80 → sensorGood p.2.1 = false ∨ sensorGood p.2.2 = false →
          (t.get .pwrSuspectIsl (p.1.toNat / 16) 0).testBit (p.1.toNat % 16) = decide (p.1.toNat % 16 < 10) ∧ t.get .pwrStatSensorSuspect 0 0 = 1) ∧
        (∀ p ∈ hbm, t.get .telChHbmTj p.1.val 0 = p.2.toNat ∧ t.get .refPend p.1.val 0 =
          (if 1360 < p.2.toInt then 1 else if p.2.toInt < 1280 then 0 else s.get .refPend p.1.val 0)) ∧
        t = { s with reg := t.reg, evq := t.evq, out := t.out }) ∧
    (∃ t, exec .throttleLoop s = .next t ∧ t = { s with reg := t.reg, evq := t.evq, out := t.out } ∧
      ∀ k < 8, ((s.get .pwrStatThrottle 0 0).testBit k = false ∨ s.get .chCfgLockstep k 0 ≠ 0 →
          (∀ i < 10, t.get .thLim k i = s.get .thLim k i) ∧
          (t.get .pwrStatThrottle 0 0).testBit k = (s.get .pwrStatThrottle 0 0).testBit k) ∧
        ((s.get .pwrStatThrottle 0 0).testBit k = true → s.get .chCfgLockstep k 0 = 0 →
          (1568 ≤ s.signed .telChTj k → ∀ i < 10, t.get .thLim k i = stepDown .thLim k i 800 s) ∧
          (s.signed .telChTj k < 1568 → Ran10ms .thCoolAt k s →
            ∀ free, (free ↔ ∀ i < 10, min (setpoint k i s) (s.get .capLim k i) ≤ min 1650 (s.get .thLim k i + 50)) →
              ((t.get .pwrStatThrottle 0 0).testBit k = true ↔ ¬ free) ∧
              (∀ i < 10, (free → t.get .thLim k i = 1650) ∧ (¬ free → t.get .thLim k i = min 1650 (s.get .thLim k i + 50)))))) ∧
    (∀ (power : List (BitVec 32)) (chip : BitVec 32), power.length = 8 → ∃ t, exec (.capLoop power chip) s = .next t ∧
      t.get .telChipPwrMw 0 0 = chip.toNat ∧ t = { s with reg := t.reg, evq := t.evq, out := t.out } ∧
      ∀ k < 8, ∀ mw, mw = (power.getD k 0#32).toNat → t.get .telChPwrMw k 0 = mw ∧
        (s.get .chPwrStatState k 0 = 0 →
          (overCap mw (s.get .chPctlPcapW k 0) = true ∨ overCap chip.toNat (s.get .pwrCapWatts 0 0) = true →
            (s.get .chCfgLockstep k 0 ≠ 0 → t.get .capPend k 0 = 1) ∧
            (s.get .chCfgLockstep k 0 = 0 → ∀ i < 10, t.get .capLim k i =
              stepDown .capLim k i (min (max 800 (min 1650 (s.get .chFsetFmin k i))) (setpoint k i s)) s)) ∧
          (underCap mw (s.get .chPctlPcapW k 0) = true → underCap chip.toNat (s.get .pwrCapWatts 0 0) = true → Ran10ms .capCoolAt k s →
            (s.get .chCfgLockstep k 0 ≠ 0 → t.get .capPend k 0 = 2) ∧
            (s.get .chCfgLockstep k 0 = 0 → ∀ i < 10, t.get .capLim k i = min 1650 (s.get .capLim k i + 50))))) ∧
    (∀ (dom six : BitVec 4) (periods : BitVec 32) (n : Nat),
      (st = 0 → droopDomain ch dom.toNat s = true → 1 ≤ six.toNat → six.toNat ≤ 8 → ∃ t, exec (.droopDetect chan dom six) s = .next t ∧
        t.get .droop ch dom.toNat = six.toNat ∧ SameFields (fun f a b => f = .droop ∧ a = ch ∧ b = dom.toNat) s t ∧ OnlyReg s t) ∧
      (s.get .droop ch dom.toNat ≠ 0 → n = s.get .droop ch dom.toNat * periods.toNat *
          (if (s.get .pwrStatHalved 0 0).testBit ch = true then 2 else 1) →
        ∃ t, exec (.droopRecover chan dom periods) s = .next t ∧ t.get .droop ch dom.toNat = 0 ∧
          (dom = 10 → (t.get .stretchCyclesWhole ch 0 * 16 + t.get .stretchCyclesFrac ch 0) =
            (s.get .stretchCyclesWhole ch 0 * 16 + s.get .stretchCyclesFrac ch 0 + n) % 2 ^ 64) ∧
          (dom ≠ 10 → (t.get .detIslStretchWhole ch dom.toNat * 16 + t.get .detIslStretchFrac ch dom.toNat) =
            (s.get .detIslStretchWhole ch dom.toNat * 16 + s.get .detIslStretchFrac ch dom.toNat + n) % 2 ^ 64) ∧
          (Recording s → t.evq = s.evq ++ [⟨0x0E09, ch, [ch, 0, n]⟩]) ∧
          SameFields (fun f a b => a = ch ∧ (f = .droop ∧ b = dom.toNat ∨ f ∈ [Fld.stretchCyclesWhole, .stretchCyclesFrac] ∧ b = 0 ∧ dom = 10 ∨
            f ∈ [Fld.detIslStretchWhole, .detIslStretchFrac] ∧ b = dom.toNat ∧ dom ≠ 10)) s t ∧
          t = { s with reg := t.reg, evq := t.evq })) ∧
    (∀ mv : BitVec 10, ∃ t, exec (.adaptiveVoltage chan mv) s = .next t ∧
      t.get .telChRailMv ch 0 = max (s.get .pwrVfloor ch 0) (max 620 (min 880 mv.toNat)) ∧
      SameFields (fun f a _ => a = ch ∧ f ∈ [Fld.telChRailMv, .envExt]) s t ∧ OnlyReg s t) ∧
    ∀ region : BitVec 8, (s.get .pwrTripTripped 0 0 ≠ 0 ∨ s.get .regTemp region.toNat 0 < 1840 + 32768 →
        exec (.thermalTrip region) s = .next s) ∧
      (s.get .pwrTripTripped 0 0 = 0 → 1840 + 32768 ≤ s.get .regTemp region.toNat 0 →
        ∃ t, exec (.thermalTrip region) s = .next t ∧ t.get .pwrTripTripped 0 0 = 1 ∧
          t.get .pwrTripRegion 0 0 = (if 0xF8 ≤ region.toNat then 0xFF else region.toNat) ∧
          t.get .pwrTripTj 0 0 = (s.get .regTemp region.toNat 0 + 2 ^ 15) % 2 ^ 16 ∧ LinksDown t ∧
          (∀ k < 8, t.get .chPwrStatState k 0 = 3 ∧ t.get .pwrDark k 0 = 1 ∧ t.transitOf k = []))

/-- Every mailbox command is dropped, refused or takes effect, and ends with the status the tables of R587 and R588 give (R317, R329, R331, R386, R410, R411, R420, R426, R442, R492, R500, R588). -/
def Obligations.MailboxCommandsActAndEnd : Prop :=
  (∀ (i : Instr) (m : MbxCmd) (s : State), Sound s → mbxOf i = some m →
    (s.mgWrite = false → exec i s = .next s) ∧
    ∀ status, (MbxFree s ∧ s.get .msrBootStage 0 0 ≠ 3 ∧ status = 1 ∨
        MbxFree s ∧ s.get .msrBootStage 0 0 = 3 ∧ s.frozen = true ∧ m.code ∉ frozenAccepts ∧ status = 2 ∨
        MbxActs m.code s ∧ MbxBadArg s i ∧ status = 4 ∨ MbxActs m.code s ∧ ¬ MbxBadArg s i ∧ MbxKilling s i ∧ status = 2) →
      ∃ t, exec i s = .next t ∧ MbxDone m status 0 t ∧ MbxOnly none s t) ∧
  (∀ (seq code : BitVec 8) (s : State), Sound s →
    (s.mgWrite = false ∨ s.get .mbxStatBusy 0 0 = 0 → exec (.mailboxOverrun seq code) s = .next s) ∧
    (code = 0 ∨ 0x0E < code.toNat → MbxFree s → ∃ t, exec (.unknownCommand seq code) s = .next t ∧
      MbxDone ⟨code.toNat, 0, seq, []⟩ (if s.get .msrBootStage 0 0 = 3 then 3 else 1) 0 t ∧ MbxOnly none s t)) ∧
  ∀ (q : BitVec 8) (chan : Chan) (s : State) (c own ph pw : Nat), Sound s → c = chan.val → own = s.get .ownChStatState c 0 →
    ph = s.get .exchStatPhase c 0 → pw = s.get .chPwrStatState c 0 →
    (MbxActs 1 s → ∃ t, exec (.identify q) s = .next t ∧ MbxDone ⟨1, 0, q, []⟩ 0 0 t ∧ MbxOnly none s t ∧
      ∀ k < 14, t.get .mbxRsp k 0 = (identityWords s).getD k 0 % 2 ^ 32) ∧
    (∀ i m awake, i = Instr.channelAssign q chan → mbxOf i = some m → MbxActs 2 s → ¬ MbxBadArg s i →
      (awake ↔ s.get .pwrStatChip 0 0 = 0 ∧ s.cut = false) →
      (own ≠ 0 → own ≠ 4 → ∃ t, exec i s = .next t ∧ MbxDone m 5 0 t ∧ MbxOnly (some (ownStat c s)) s t) ∧
      (own = 0 → pw ≠ 0 → ¬ awake → ∃ t, exec i s = .next t ∧ MbxDone m 2 0 t ∧ MbxOnly none s t) ∧
      (own = 0 → pw = 0 ∨ awake → ∃ t, exec i s = .next t ∧ t.get .ownChStatState c 0 = 1 ∧ t.get .ownChStatKeysrc c 0 = 1 ∧
        (pw = 0 → MbxDone m 0 0 t ∧ t.get .mbxRsp 0 0 = ownStat c t % 2 ^ 32) ∧
        (pw ≠ 0 → MbxRuns m t ∧ WakeBegun c 4 s t) ∧
        (Recording s → ⟨0x0C01, c, [c, 0, 1]⟩ ∈ t.evq) ∧
        SameFields (fun f a b => mbxPlaces f a b ∨ irqPlaces c f a b ∨
          a = c ∧ f ∈ [Fld.xtsKey, .ownChStatState, .ownChStatKeysrc] ∨ a = c ∧ pw ≠ 0 ∧ f ∈ wakeFlds) s t ∧
        t = { s with reg := t.reg, evq := t.evq, out := t.out, ctr := t.ctr })) ∧
    (∀ i m src next oid tmo, (i, src, next) ∈ [(Instr.channelRelease q chan, 3, 2), (.ownerBind q chan tmo oid, 2, 1),
        (.ownerKill q chan, 0, 0)] → mbxOf i = some m → MbxActs m.code s → ¬ MbxBadArg s i → ∀ wrong,
      (wrong ↔ (if next = 1 then own ≠ 1 else own = 0 ∨ own = 5)) →
      (wrong → own ≠ 4 → ∃ t, exec i s = .next t ∧ MbxDone m 5 0 t ∧ MbxOnly (if next = 2 then some (ownStat c s) else none) s t) ∧
      (¬ wrong → own ≠ 4 → ∃ t, exec i s = .next t ∧ MbxRuns m t ∧ KillBegun c src next s t) ∧
      (next = 0 → own = 4 → ∃ t, exec i s = .next t ∧ MbxRuns m t ∧ MbxOnly none s t)) ∧
    (∀ i m, i = Instr.exchangeArm q chan → mbxOf i = some m → MbxActs 5 s → ¬ MbxBadArg s i →
      (own ≠ 1 → own ≠ 3 → own ≠ 4 → ∃ t, exec i s = .next t ∧ MbxDone m 5 0 t ∧ MbxOnly none s t) ∧
      (own = 1 ∨ own = 3 → ph ∈ [1, 2, 3] ∨ pw ≠ 0 → ∃ t, exec i s = .next t ∧ MbxDone m 2 0 t ∧ MbxOnly none s t) ∧
      (own = 1 ∨ own = 3 → ph ∉ [1, 2, 3] → pw = 0 → ∃ t cfg, exec i s = .next t ∧ MbxDone m 0 0 t ∧ t.get .exchStatPhase c 0 = 1 ∧
        (Recording s → t.evq = s.evq ++ [⟨0x0801, c, [c, cfg, s.get .exchSeamTag c 0 + s.get .exchSeamEpoch c 0 * 2 ^ 32]⟩]) ∧
        MbxFrame (fun f a _ => a = c ∧ f = .exchStatPhase) s t)) ∧
    (∀ i m, i = Instr.exchangeAbort q chan → mbxOf i = some m → MbxActs 6 s → ¬ MbxBadArg s i → own ≠ 4 →
      (ph ≠ 1 → ph ≠ 2 → ∃ t, exec i s = .next t ∧ MbxDone m 8 0 t ∧ MbxOnly none s t) ∧
      (ph = 1 ∨ ph = 2 → ∃ t n, exec i s = .next t ∧ MbxDone m 0 0 t ∧ t.get .exchStatPhase c 0 = 0 ∧ t.get .exchStatResult c 0 = 3 ∧
        t.get .mbxRsp 0 0 = 3 * 2 ^ 3 + s.get .exchStatSeamTag c 0 * 2 ^ 16 ∧ (t.get .chIrqStatCause c 0).testBit 2 = true ∧
        (Recording s → t.evq = s.evq ++ [⟨0x0804, c, [c, 3, n]⟩]) ∧
        MbxFrame (fun f a b => irqPlaces c f a b ∨ a = c ∧ f ∈ [Fld.exchStatPhase, .exchStatResult, .exchStatNotready]) s t)) ∧
    (∀ i m (svc : BitVec 12) (epoch : BitVec 32), i = Instr.epochFlip q svc epoch → mbxOf i = some m → MbxActs 7 s → ¬ MbxBadArg s i →
      (s.get .sveSvcW0Bound svc.toNat 0 = 0 → ∃ t, exec i s = .next t ∧ MbxDone m 5 0 t ∧ MbxOnly none s t) ∧
      (s.get .sveSvcW0Bound svc.toNat 0 ≠ 0 → ∃ t, exec i s = .next t ∧ MbxRuns m t ∧
        tget? t.epochPend svc.toNat = some epoch.toNat ∧ TabElse State.epochPend svc.toNat s t ∧ SameFields mbxPlaces s t ∧
        t = { s with reg := t.reg, epochPend := t.epochPend })) ∧
    (∀ i m (scope : BitVec 4) (st : BitVec 2) (force off : Bool) dark, i = Instr.powerSet q scope st force off → mbxOf i = some m →
      MbxActs 8 s → ¬ MbxBadArg s i → scope.toNat = c → own ≠ 4 → (dark ↔ st = 2) →
      (pw ∈ [1, 4] ∨ pw = 3 ∧ ¬ dark ∨ pw ∈ [0, 2] ∧ ¬ (dark ∧ force = true) ∧ ¬ (pw = 2 ∧ ¬ dark) ∧ mayDoze c s = false →
        ∃ t, exec i s = .next t ∧ MbxDone m 2 0 t ∧ MbxOnly (some (chPwrWord c s)) s t) ∧
      (pw = 2 ∧ ¬ dark ∨ pw = 3 ∧ dark → ∃ t, exec i s = .next t ∧ MbxDone m 0 0 t ∧ MbxOnly (some (chPwrWord c s)) s t) ∧
      (pw = 0 ∨ pw = 2 ∧ dark → ¬ (dark ∧ force = true) → mayDoze c s = true →
        ∃ t, exec i s = .next t ∧ MbxRuns m t ∧ t.get .chPwrStatState c 0 = 1 ∧ (t.get .pwrDark c 0 = 1 ↔ dark) ∧
          (Recording s → t.evq = s.evq ++ [powerEvent c pw 1 (s.get .chPwrStatWcause c 0)]) ∧
          MbxFrame (fun f a _ => a = c ∧ f ∈ [Fld.chPwrStatState, .pwrDark]) s t) ∧
      (pw = 0 ∨ pw = 2 → dark → force = true → ∃ t, exec i s = .next t ∧ MbxRuns m t ∧ t.get .chPwrStatState c 0 = 1 ∧
        t.get .pwrDark c 0 = 1 ∧ t.queue c = [] ∧ t.transitOf c = [] ∧
        ∀ k ∈ s.coresOf c, t.coreState k = stStopped ∧ t.get .corePc k 0 = 0 ∧ (∀ n < 32, t.g k n = 0#64) ∧ ∀ e < 8, t.fifoAt k e = [])) ∧
    (∀ i m (scope : BitVec 4) (force off : Bool), i = Instr.powerSetRun q scope force off → mbxOf i = some m → MbxActs 8 s →
      ¬ MbxBadArg s i → scope.toNat = c → own ≠ 4 → ∀ awake, (awake ↔ s.get .pwrStatChip 0 0 = 0 ∧ s.cut = false) →
      (pw = 0 → ∃ t, exec i s = .next t ∧ MbxDone m 0 0 t ∧ MbxOnly (some (chPwrWord c s)) s t) ∧
      (pw = 4 → ∃ t, exec i s = .next t ∧ MbxRuns m t ∧ MbxOnly none s t) ∧
      (pw = 1 ∨ pw ∉ [0, 4] ∧ ¬ awake → ∃ t, exec i s = .next t ∧ MbxDone m 2 0 t ∧ MbxOnly (some (chPwrWord c s)) s t) ∧
      (pw = 2 ∨ pw = 3 → awake → ∃ t, exec i s = .next t ∧ MbxRuns m t ∧ WakeBegun c 4 s t ∧
        MbxFrame (fun f a _ => a = c ∧ f ∈ wakeFlds) s t)) ∧
    (∀ i m (force off : Bool) chip, i ∈ [Instr.powerSetRun q 8#4 force off, .powerSetChipRun q force off] → mbxOf i = some m →
      MbxActs 8 s → chip = s.get .pwrStatChip 0 0 →
      (chip ≠ 2 → ∃ t, exec i s = .next t ∧ MbxDone m (if chip = 0 then 0 else 2) 0 t ∧ MbxOnly (some (pwrWord s)) s t) ∧
      (chip = 2 → ∃ t, exec i s = .next t ∧ MbxRuns m t ∧ t.get .pwrStatChip 0 0 = 3 ∧
        t.get .stbAt 0 0 = (s.get .gtc 0 0 + s.get .gtcAway 0 0) % 2 ^ 64 ∧
        MbxFrame (fun f a _ => a = 0 ∧ f ∈ [Fld.pwrStatChip, .stbAt]) s t)) ∧
    (∀ i m (force off : Bool) chip busy, i = Instr.powerSetStandby q 8#4 force off → mbxOf i = some m → MbxActs 8 s →
      chip = s.get .pwrStatChip 0 0 →
      (busy ↔ standbyBusy s = true ∨ ∃ k < 8, s.get .exchStatPhase k 0 ∈ [1, 2, 3]) →
      (chip = 2 → ∃ t, exec i s = .next t ∧ MbxDone m 0 0 t ∧ MbxOnly (some (pwrWord s)) s t) ∧
      (chip = 1 ∨ chip = 3 ∨ chip = 0 ∧ force = false ∧ busy → ∃ t, exec i s = .next t ∧ MbxDone m 2 0 t ∧
        MbxOnly (some (pwrWord s)) s t) ∧
      (chip = 0 → force = true ∨ ¬ busy → ∃ t, exec i s = .next t ∧ MbxRuns m t ∧ t.get .pwrStatChip 0 0 = 1 ∧
        (t.get .stbHbmoff 0 0 = 1 ↔ off = true) ∧ (t.get .stbForce 0 0 = 1 ↔ force = true) ∧ t.get .stbAt 0 0 = s.get .gtc 0 0 ∧
        (s.get .evrStatMounted 0 0 ≠ 0 → t.get .evrStatFlushing 0 0 = 1) ∧ (∀ k < 8, t.get .sveChAdmit k 0 = 0) ∧
        (force = true → t.requests = [] ∧ t.get .sveInflight 0 0 = 0) ∧
        ∀ k < 8, s.get .chPwrStatState k 0 = 0 → ∀ x ∈ s.coresOf k, s.coreState x ≠ stStopped → t.coreState x = stHalted)) ∧
    (∀ i m (mask : BitVec 32) (ws : List (BitVec 32)), i = Instr.timePolicy q mask ws → mbxOf i = some m → MbxActs 9 s →
      (s.get .pwrStatChip 0 0 < 2 → ∃ t, exec i s = .next t ∧ MbxRuns m t ∧ MbxOnly none s t) ∧
      (2 ≤ s.get .pwrStatChip 0 0 → ∃ t, exec i s = .next t ∧ MbxDone m 2 0 t ∧ MbxOnly (some (tunStatWord s)) s t)) ∧
    (∀ (link : BitVec 6) (cert meas : BitVec 384) l, l = link.toNat →
      (∀ i m mode, (i, mode) ∈ [(Instr.linkAdmit q link, 0), (.linkAdmitAttest q link, 1), (.linkAdmitAttestMatch q link cert meas, 2)] →
        mbxOf i = some m → MbxActs 0x0A s → ¬ MbxBadArg s i →
        (admitRefusal l s ≠ 0 → ∃ t, exec i s = .next t ∧ MbxDone m 6 (admitRefusal l s) t ∧ t.get .mbxMode 0 0 = mode ∧
          t.get .mbxRsp 0 0 = s.get .lnkAttStatAtt l 0 ∧
          (Recording s → t.evq = s.evq ++ [⟨0x0B05, 8, [l, admitRefusal l s, s.get .lnkAttStatAtt l 0]⟩]) ∧
          MbxFrame (fun f a _ => a = 0 ∧ f = .mbxMode) s t) ∧
        (admitRefusal l s = 0 → mode = 0 → ∃ t f, exec i s = .next t ∧ MbxDone m 0 0 t ∧ t.get .mbxMode 0 0 = 0 ∧
          t.get .mbxRsp 0 0 = s.get .lnkAttStatAtt l 0 ∧ t.get .lnkStatLadmit l 0 = 1 ∧
          t.get .lnkStatState l 0 = (if s.get .lnkStatPadmit l 0 = 0 then lkIsolated else lkAdmitted) ∧
          waiting l 0 t = waiting l 0 s ++ [f] ∧ f.kind = 11 ∧ f.arg = 2 ^ 12 ∧ TabElse State.txq (l * 8) s t ∧
          SameFields (fun g a b => mbxPlaces g a b ∨ a = 0 ∧ g = .mbxMode ∨
            a = l ∧ g ∈ [Fld.lnkStatLadmit, .lnkStatState, .lnkEverAdm]) s t ∧
          t = { s with reg := t.reg, txq := t.txq, evq := t.evq, out := t.out }) ∧
        (admitRefusal l s = 0 → mode ≠ 0 → ∃ t f, exec i s = .next t ∧ MbxRuns m t ∧ t.get .mbxMode 0 0 = mode ∧
          t.get .lnkAttStatAtt l 0 = 1 ∧ waiting l 5 t = waiting l 5 s ++ [f] ∧ f.kind = 10 ∧ f.last = true ∧
          f.payload = payload (beBytes 2 4 ++ [0x10#8, 0x84#8, 0#8, 0#8]) ∧ TabElse State.txq (l * 8 + 5) s t ∧
          SameFields (fun g a b => mbxPlaces g a b ∨ a = 0 ∧ g = .mbxMode ∨ a = l ∧ g = .lnkAttStatAtt) s t ∧
          t = { s with reg := t.reg, txq := t.txq, ctr := s.ctr + 1 })) ∧
      (∀ i m go, i = Instr.linkAdmitRestore q link → mbxOf i = some m → MbxActs 0x0A s → ¬ MbxBadArg s i →
        (go ↔ s.get .lnkCfgEn l 0 ≠ 0 ∧ s.get .lnkStatSignal l 0 ≠ 0 ∧ s.get .lnkStatCable l 0 ≠ 0 ∧ linksPowered s = true ∧
          overClass l s = false) →
        (s.get .lnkStatState l 0 ≠ lkRetired → ∃ t, exec i s = .next t ∧ MbxDone m 6 6 t ∧
          (Recording s → t.evq = s.evq ++ [⟨0x0B05, 8, [l, 6, s.get .lnkAttStatAtt l 0]⟩]) ∧
          MbxFrame (fun f a _ => a = 0 ∧ f = .mbxMode) s t) ∧
        (s.get .lnkStatState l 0 = lkRetired → ∃ t, exec i s = .next t ∧ MbxDone m 0 0 t ∧ LinkEmpty l t ∧
          (go → t.get .lnkStatState l 0 = lkTraining) ∧ (¬ go → t.get .lnkStatState l 0 = lkDown) ∧
          (Recording s → ⟨0x0B01, 8, [l, lkRetired, lkDown, s.get .lnkStatFcause l 0]⟩ ∈ t.evq))) ∧
      (∀ i m, i = Instr.linkRetire q link → mbxOf i = some m → MbxActs 0x0B s → ¬ MbxBadArg s i →
        (¬ LinkOn l s → ∃ t, exec i s = .next t ∧ MbxDone m 5 0 t ∧ MbxOnly (some (retryOf l s).length) s t) ∧
        (LinkOn l s → ∃ t f, exec i s = .next t ∧ MbxRuns m t ∧ t.get .lnkRetiring l 0 = 1 ∧ t.get .lnkRetireAt l 0 = s.get .gtc 0 0 ∧
          waiting l 0 t = waiting l 0 s ++ [f] ∧ f.kind = 11 ∧ f.arg = 2 * 2 ^ 12 ∧ TabElse State.txq (l * 8) s t ∧
          SameFields (fun g a b => mbxPlaces g a b ∨ a = l ∧ g ∈ [Fld.lnkRetiring, .lnkRetireAt]) s t ∧
          t = { s with reg := t.reg, txq := t.txq }))) ∧
    (∀ i m (b0 b1 b2 b3 b4 b5 : BitVec 32) (w0 w1 w2 w3 w4 svc bound : Nat), i = Instr.serviceBind q b0 b1 b2 b3 b4 b5 →
      mbxOf i = some m → MbxActs 0x0C s → ¬ MbxBadArg s i → w0 = b0.toNat → w1 = b1.toNat → w2 = b2.toNat → w3 = b3.toNat →
      w4 = b4.toNat → svc = field w0 0 12 → c = field w0 12 3 → bound = s.get .sveSvcW0Bound svc 0 →
      (own ∉ [1, 3, 4] → ∃ t, exec i s = .next t ∧ MbxDone m 5 0 t ∧ MbxOnly none s t) ∧
      (own = 1 ∨ own = 3 → ¬ BindTagged c w0 s → ∃ t, exec i s = .next t ∧ MbxDone m 6 1 t ∧ MbxOnly none s t) ∧
      (own = 1 ∨ own = 3 → BindTagged c w0 s →
        (¬ BindLegal w1 w2 w3 w4 → ∃ t, exec i s = .next t ∧ (MbxDone m 0 0 t ∨ MbxRuns m t)) ∧
        (BindLegal w1 w2 w3 w4 → bound = 0 → ∃ t, exec i s = .next t ∧ MbxDone m 0 0 t ∧
          (∀ x ∈ svcRows w0 w1 w2 w3 w4, t.get x.1 svc 0 = x.2) ∧ t.get .sveSvcW1Epoch svc 0 = b5.toNat ∧
          tget? t.windows svc = some ⟨s.get .gtc 0 0, none, false, false⟩ ∧ TabElse State.windows svc s t ∧
          (Recording s → t.evq = s.evq ++ [⟨0x0708, 8, [svc, 8, c]⟩]) ∧
          SameFields (fun f a b => mbxPlaces f a b ∨ a = svc ∧ (f = .sveSvcW1Epoch ∨ f ∈ (svcRows 0 0 0 0 0).map Prod.fst)) s t ∧
          t = { s with reg := t.reg, windows := t.windows, evq := t.evq, out := t.out }) ∧
        (BindLegal w1 w2 w3 w4 → bound ≠ 0 → ∃ t, exec i s = .next t ∧ MbxRuns m t ∧
          tget? t.svcPend svc = some ⟨false, bindW0 w0 w1 w2, field w3 0 17, field w4 0 13⟩ ∧ TabElse State.svcPend svc s t ∧
          SameFields mbxPlaces s t ∧ t = { s with reg := t.reg, svcPend := t.svcPend }))) ∧
    (∀ i m (b0 : BitVec 32) svc, i = Instr.serviceUnbind q b0 → mbxOf i = some m → MbxActs 0x0C s → ¬ MbxBadArg s i →
      svc = field b0.toNat 0 12 →
      (s.get .sveSvcW0Bound svc 0 = 0 → ∃ t, exec i s = .next t ∧ MbxDone m 5 0 t ∧ MbxOnly none s t) ∧
      (s.get .sveSvcW0Bound svc 0 ≠ 0 → ∃ t, exec i s = .next t ∧ MbxRuns m t ∧ tget? t.svcPend svc = some ⟨true, 0, 0, 0⟩ ∧
        TabElse State.svcPend svc s t ∧ SameFields mbxPlaces s t ∧ t = { s with reg := t.reg, svcPend := t.svcPend })) ∧
    ∀ i m (pin trig : Bool) same, i = Instr.freezeArm q pin trig → mbxOf i = some m → MbxActs 0x0E s →
      (same ↔ (s.get .frzArmPin 0 0 = 1 ↔ pin = true) ∧ (s.get .frzArmTrig 0 0 = 1 ↔ trig = true)) →
      ∃ t, exec i s = .next t ∧ MbxDone m 0 0 t ∧ (t.get .frzArmPin 0 0 = 1 ↔ pin = true) ∧ (t.get .frzArmTrig 0 0 = 1 ↔ trig = true) ∧
        (same → t.evq = s.evq) ∧
        (¬ same → Recording s → t.evq = s.evq ++ [⟨0x1002, 8, [(if pin then 1 else 0) + if trig then 2 else 0]⟩]) ∧
        MbxFrame (fun f a _ => a = 0 ∧ f ∈ [Fld.frzArmPin, .frzArmTrig]) s t

/-- The recorder takes events by R524's rule, writes NOR pages, erases, refills, summarises, moves its cursor and clears (R517, R518, R519, R524, R526, R528, R530, R531, R532, R541, R544, R546). -/
def Obligations.RecorderTakesWritesAndSummarises : Prop :=
  ∀ (s : State) (ops pcyc : Nat), Sound s → ops = ctrValue 0 s → pcyc = ctrValue 1 s →
    (s.get .evrStatMounted 0 0 = 0 → ∀ i fail, i ∈ [Instr.recordEvent, .norPageWrite fail, .sectorErase fail, .rateRefill, .summaryPeriodEnd,
      .hourlyPeriodEnd, .opsecMinute] → exec i s = .next s) ∧
    (s.evq = [] → exec .recordEvent s = .next s) ∧
    (s.get .evrStatMounted 0 0 ≠ 0 →
      (∀ (e : Event) (es : List Event) (ix lim : Nat), s.evq = e :: es → ix = rlimIx e.code → lim = s.get .evrRlim ix 0 →
        ((∀ k < 32, slotMatches k e s = false) →
          (e.code ∈ summaryCodes → ∃ t, exec .recordEvent s = .next t ∧
            (e.code = 0x0407 → t.get .evrStale (e.ctx.getD 0 0) 0 = min 0xFFFF (s.get .evrStale (e.ctx.getD 0 0) 0 + e.ctx.getD 2 0)) ∧
            (e.code ≠ 0x0407 → ∀ a b, a = cntKey e.code (e.ctx.getD 0 0) → b = e.ctx.getD 1 0 →
              t.get .evrCnt a b = (s.get .evrCnt a b + e.ctx.getD 2 0) % 2 ^ 32) ∧
            SameFields (fun f _ _ => f ∈ [Fld.evrStale, .evrCnt]) s t ∧ t = { s with reg := t.reg, evq := es }) ∧
          (e.code ∉ summaryCodes → e.code ∈ criticalCodes → RoomFor 2 s → ∃ t, exec .recordEvent s = .next t ∧
            IsEventRecord (t.bytes (nextPlace s) 64) true e 0 ops pcyc 0 ∧
            SameBytes (fun y => nextPlace s ≤ y ∧ y < nextPlace s + 64) s t ∧ t.get .evrUnit 0 0 = s.get .evrUnit 0 0 + 2 ∧
            t.get .evrWritten 0 0 = (s.get .evrWritten 0 0 + 1) % 2 ^ 64 ∧ (t.get .mbxIrqStatCause 0 0).testBit 2 = true ∧
            t.get .evrStatFlushing 0 0 = 1 ∧
            SameFields (fun f a _ => f ∈ [Fld.evrUnit, .evrWritten, .evrStatFlushing] ∨ a = 0 ∧ f ∈ mgIrqFlds) s t ∧
            t = { s with reg := t.reg, mem := t.mem, evq := es, out := t.out }) ∧
          (e.code ∉ summaryCodes → e.code ∉ criticalCodes → e.code ≠ 0x0604 →
            (∀ r, RepeatOf e r s → ∃ t bs, exec .recordEvent s = .next t ∧
              IsEventRecord bs false e (leNat ((r.bytes.drop 6).take 2) + 1) (leNat ((r.bytes.drop 8).take 5))
                (leNat ((r.bytes.drop 13).take 3)) (min (2 ^ 32 - 1) (ops - leNat ((r.bytes.drop 8).take 5))) ∧
              t = { s with evq := es, evrBuf := s.evrBuf.map fun x => if x.addr = r.addr then { x with bytes := bs } else x }) ∧
            ((∀ r, ¬ RepeatOf e r s) →
              (lim = 0 ∨ lim ≠ 255 ∧ s.get .evrTok ix e.src = 0 → ∃ t, exec .recordEvent s = .next t ∧
                t.get .evrSup ix e.src = (s.get .evrSup ix e.src + 1) % 2 ^ 32 ∧
                t.get .evrSuppressed 0 0 = (s.get .evrSuppressed 0 0 + 1) % 2 ^ 64 ∧
                SameFields (fun f _ _ => f ∈ [Fld.evrSup, .evrSuppressed]) s t ∧ t = { s with reg := t.reg, evq := es }) ∧
              (lim = 255 ∨ lim ≠ 0 ∧ s.get .evrTok ix e.src ≠ 0 →
                (7168 < unwritten s + 64 → ∃ t, exec .recordEvent s = .next t ∧
                  (lim ≠ 255 → t.get .evrTok ix e.src = s.get .evrTok ix e.src - 1) ∧
                  t.get .evrLost 0 0 = (s.get .evrLost 0 0 + 1) % 2 ^ 64 ∧ t.get .evrLostSec 0 0 = (s.get .evrLostSec 0 0 + 1) % 2 ^ 32 ∧
                  SameFields (fun f _ _ => f ∈ [Fld.evrTok, .evrLost, .evrLostSec]) s t ∧ t = { s with reg := t.reg, evq := es }) ∧
                (unwritten s + 64 ≤ 7168 → RoomFor 2 s → ∃ t bs, exec .recordEvent s = .next t ∧
                  (lim ≠ 255 → t.get .evrTok ix e.src = s.get .evrTok ix e.src - 1) ∧ IsEventRecord bs false e 0 ops pcyc 0 ∧
                  t.get .evrUnit 0 0 = s.get .evrUnit 0 0 + 2 ∧ SameFields (fun f _ _ => f ∈ [Fld.evrTok, .evrUnit]) s t ∧
                  t = { s with reg := t.reg, evq := es, evrBuf := s.evrBuf ++ [⟨nextPlace s, bs, 0, some e⟩] }))))) ∧
        (∀ k < 32, slotMatches k e s = true → (∀ j < 32, j ≠ k → slotMatches j e s = false) → e.code ∈ summaryCodes →
          ∀ go, (go ↔ s.get .evrTrigFrz k 0 ≠ 0 ∧ s.get .frzArmTrig 0 0 ≠ 0 ∧ s.frozen = false) →
          ∃ t, exec .recordEvent s = .next t ∧ (go → FreezeBegun 3 k s t) ∧ (¬ go → t.get .frzStatFrozen 0 0 = s.get .frzStatFrozen 0 0) ∧
            (s.get .evrSnapTok k 0 = 0 → t.get .evrTrigMissed k 0 = (s.get .evrTrigMissed k 0 + 1) % 2 ^ 16 ∧ t.evrBuf = s.evrBuf) ∧
            (s.get .evrSnapTok k 0 ≠ 0 → t.get .evrSnapTok k 0 = s.get .evrSnapTok k 0 - 1 ∧
              (unwritten s + 224 ≤ 7168 → RoomFor 7 s → ∃ bs, t.evrBuf = s.evrBuf ++ [⟨nextPlace s, bs, 0, none⟩] ∧
                IsRecord bs 7 2 false e.src e.code 0 ops pcyc ∧ bs.getD 16 0#8 = BitVec.ofNat 8 k ∧
                bs.getD 17 0#8 = BitVec.ofNat 8 (min 16 (s.get .evrTrigN k 0)))))) ∧
      (∀ r rest, s.evrBuf = r :: rest →
        (s.get .evrStatFlushing 0 0 = 0 → erasedSectors s ≤ 4 → ∀ fail, exec (.norPageWrite fail) s = .next s) ∧
        (s.get .evrStatFlushing 0 0 ≠ 0 ∨ 4 < erasedSectors s → ∀ p, p = (r.addr - (2 ^ 47 + 2 ^ 25)) / 4096 →
          ∃ t, exec (.norPageWrite true) s = .next t ∧ t.get .evrSecBad p 0 = 1 ∧
            t.get .evrBadsect 0 0 = (s.get .evrBadsect 0 0 + 1) % 2 ^ 64 ∧ (Recording s → t.evq = s.evq ++ [⟨0x0D22, 8, [p, 1]⟩])) ∧
        (s.get .evrStatFlushing 0 0 = 0 → 4 < erasedSectors s → rest = [] → s.evrStaged = [] → r.done < r.bytes.length →
          (r.addr + r.bytes.length - 1) / 256 = (r.addr + r.done) / 256 →
          ∃ t, exec (.norPageWrite false) s = .next t ∧ t.bytes (r.addr + r.done) (r.bytes.length - r.done) = r.bytes.drop r.done ∧
            SameBytes (fun y => r.addr + r.done ≤ y ∧ y < r.addr + r.bytes.length) s t ∧
            t.get .evrWritten 0 0 = (s.get .evrWritten 0 0 + 1) % 2 ^ 64 ∧ SameFields (fun f _ _ => f = .evrWritten) s t ∧
            t = { s with reg := t.reg, mem := t.mem, evrBuf := [] })) ∧
      (s.evrBuf = [] → s.get .evrStatFlushing 0 0 ≠ 0 → ∀ fail, ∃ t, exec (.norPageWrite fail) s = .next t ∧
        t.get .evrStatFlushing 0 0 = 0 ∧ t.get .ctrB 0 0 = ops ∧ t.get .ctrB 1 0 = pcyc ∧ t.get .opsS 0 0 = 0 ∧
        (∀ k < 2, t.get .ctrA k 0 = s.get .ctrC k 0 ∧ t.get .ctrSeq k 0 = (s.get .ctrSeq k 0 + 1) % 2 ^ 32) ∧
        (s.get .evrFlushIn 0 0 ≠ 0 → s.get .inLost 0 0 = 0 → t.get .evrFlushIn 0 0 = 0) ∧
        SameBytes (fun y => 2 ^ 47 + 2 ^ 25 ≤ y ∧ y < 2 ^ 47 + 2 ^ 25 + 8 * 4096) s t ∧
        SameFields (fun f _ _ => f ∈ [Fld.evrStatFlushing, .ctrB, .ctrA, .ctrF, .ctrSeq, .ctrSec, .ctrN, .opsS, .evrFlushIn]) s t ∧
        t = { s with reg := t.reg, mem := t.mem, evq := t.evq }) ∧
      (∀ p fail, lowestSector s = some p →
        (p = s.get .evrSec 0 0 ∨ 64 ≤ erasedSectors s → exec (.sectorErase fail) s = .next s) ∧
        (p ≠ s.get .evrSec 0 0 → erasedSectors s < 64 → ∃ t, exec (.sectorErase fail) s = .next t ∧
          (∀ x < 4096, t.byte (2 ^ 47 + 2 ^ 25 + p * 4096 + x) = 0xFF#8) ∧ t.get .evrSecSseq p 0 = 0 ∧
          SameBytes (fun y => 2 ^ 47 + 2 ^ 25 + p * 4096 ≤ y ∧ y < 2 ^ 47 + 2 ^ 25 + (p + 1) * 4096) s t ∧
          (fail = true → t.get .evrSecBad p 0 = 1 ∧ (Recording s → t.evq = s.evq ++ [⟨0x0D22, 8, [p, 0]⟩])) ∧
          (fail = false → t.evq = s.evq) ∧
          SameFields (fun f a _ => a = p ∧ f ∈ [Fld.evrSecSseq, .evrSecEnd] ∨ fail = true ∧ f ∈ [Fld.evrSecBad, .evrBadsect]) s t ∧
          t = { s with reg := t.reg, mem := t.mem, evq := t.evq })) ∧
      (∃ t, exec .rateRefill s = .next t ∧ t.get .opsS 0 0 = (s.get .opsS 0 0 + 1) % 2 ^ 32 ∧ (∀ k < 32, t.get .evrSnapTok k 0 = 16) ∧
        (∀ ix < 4096, rlimCode ix ∉ criticalCodes → ∀ src < 9, t.get .evrTok ix src = s.get .evrRlim ix 0) ∧
        t.get .evrLostSec 0 0 = 0 ∧
        (Recording s → t.evq = s.evq ++ if s.get .evrLostSec 0 0 = 0 then [] else [⟨0x0D21, 8, [0, s.get .evrLostSec 0 0]⟩]) ∧
        SameFields (fun f _ _ => f ∈ [Fld.opsS, .evrTok, .evrSnapTok, .evrLostSec]) s t ∧ t = { s with reg := t.reg, evq := t.evq }) ∧
      (s.get .pwrStatChip 0 0 ≠ 2 →
        (∃ t rs, exec .summaryPeriodEnd s = .next t ∧ t.evrStaged = s.evrStaged ++ rs ∧
          (∀ r ∈ rs, ∃ units src code, IsRecord r units 3 false src code 0 ops pcyc) ∧
          ((latServices s).length ≤ 255 → ∀ svc ∈ latServices s, ∃ r ∈ rs, IsRecord r 10 3 false 8 0 0 ops pcyc ∧ r.getD 16 0#8 = 1#8 ∧
            leNat ((r.drop 18).take 2) = svc) ∧
          (∀ f ∈ [Fld.svcLat, .svcFbN, .svcMaxUs, .evrStale, .evrCnt, .evrSup], ∀ a b, t.get f a b = 0) ∧
          SameFields (fun f _ _ => f ∈ [Fld.svcLat, .svcFbN, .svcMaxUs, .evrStale, .evrCnt, .evrSup]) s t ∧
          t = { s with reg := t.reg, evrStaged := t.evrStaged }) ∧
        ∃ t r, exec .hourlyPeriodEnd s = .next t ∧ t.evrStaged = s.evrStaged ++ [r] ∧ IsRecord r 5 3 false 8 0 0 ops pcyc ∧
          r.getD 16 0#8 = 2#8 ∧ leNat ((r.drop 20).take 5) = ops / 3600 * 3600 - 3600 ∧ leNat ((r.drop 25).take 3) = 3600 ∧
          (∀ a b, t.get .envExt a b = 0) ∧ SameFields (fun f _ _ => f = .envExt) s t ∧
          t = { s with reg := t.reg, evrStaged := t.evrStaged }) ∧
      (∀ c f a, c = s.get .ctrC 0 0 + 1 → f = s.get .ctrF 0 0 → a = 2 ^ 47 + 2 ^ 25 + (2 + f) * 4096 →
        (s.get .opsS 0 0 < 60 → exec .opsecMinute s = .next s) ∧
        (60 ≤ s.get .opsS 0 0 → c < 64 → ∃ t, exec .opsecMinute s = .next t ∧ t.get .opsS 0 0 = 0 ∧ t.get .ctrC 0 0 = c ∧
          t.bytes a 8 = leBytes 8 (2 ^ 64 - 2 ^ c) ∧ SameBytes (fun y => a ≤ y ∧ y < a + 8) s t ∧
          SameFields (fun g x _ => g = .opsS ∨ g = .ctrC ∧ x = 0) s t ∧ t = { s with reg := t.reg, mem := t.mem }) ∧
        (60 ≤ s.get .opsS 0 0 → c = 64 → ∃ t, exec .opsecMinute s = .next t ∧ t.get .opsS 0 0 = 0 ∧ t.get .ctrC 0 0 = 0 ∧
          t.get .ctrA 0 0 = 0 ∧ t.get .ctrF 0 0 = 1 - f ∧
          t.get .ctrB 0 0 = min (2 ^ 40 - 1) (s.get .ctrB 0 0 + 60 * (64 - s.get .ctrA 0 0)) ∧
          (∀ x < 4096, t.byte (a + x) = 0xFF#8) ∧
          SameFields (fun g x _ => g = .opsS ∨ x = 0 ∧ g ∈ [Fld.ctrC, .ctrA, .ctrF, .ctrB, .ctrSeq, .ctrSec, .ctrN]) s t ∧
          t = { s with reg := t.reg, mem := t.mem }))) ∧
    (∀ (bytes : BitVec 16) n, (bytes ≠ 0 ∧ n = bytes.toNat / 32 ∨ bytes = 0 ∧ evrEnd s = false ∧
        n = if windowByte 0 s = 0xA5#8 ∧ 1 ≤ (windowByte 2 s).toNat ∧ (windowByte 2 s).toNat ≤ 16 then (windowByte 2 s).toNat else 1) →
      s.mgWrite = true → ∃ t, exec (.evrAdv bytes) s = .next t ∧ t.get .evrCurPos 0 0 = cursorAfter n s ∧
        SameFields (fun f _ _ => f = .evrCurPos) s t ∧ OnlyReg s t) ∧
    (∀ bytes : BitVec 16, s.mgWrite = false ∨ bytes = 0 ∧ evrEnd s = true → exec (.evrAdv bytes) s = .next s) ∧
    (∀ (off : BitVec 15) (wide : Bool) (value : BitVec 64) (o v n : Nat), o = off.toNat → v = value.toNat → n = (if wide then 8 else 4) →
      (s.mgWrite = false ∨ o % n ≠ 0 ∨ o < 0x1000 ∨ 0x2000 ≤ o ∧ o < 0x4000 ∨ 0x5000 ≤ o →
        exec (.evrConfigWrite off wide value) s = .next s) ∧
      (∀ k r rows, s.mgWrite = true → o % n = 0 → k < 32 → r < 0x80 → o = 0x1000 + 0x80 * k + r → rows = trigRows r wide v →
        ∃ t, exec (.evrConfigWrite off wide value) s = .next t ∧ (∀ x ∈ rows, t.get x.1 k x.2.1 = x.2.2) ∧
          ((∃ x ∈ rows, s.get x.1 k x.2.1 ≠ x.2.2) → Recording s → t.evq = s.evq ++ [⟨0x0D24, 8, [k, v]⟩]) ∧
          SameFields (fun f a b => a = k ∧ ∃ x ∈ rows, f = x.1 ∧ b = x.2.1) s t ∧ t = { s with reg := t.reg, evq := t.evq }) ∧
      (s.mgWrite = true → o % n = 0 → 0x4000 ≤ o → o < 0x5000 → ∃ t, exec (.evrConfigWrite off wide value) s = .next t ∧
        (∀ j < n, ∀ ix, ix = o - 0x4000 + j →
          t.get .evrRlim ix 0 = if rlimCode ix ∈ criticalCodes then s.get .evrRlim ix 0 else field v (8 * j) 8) ∧
        (Recording s → t.evq = s.evq ++ (List.range n).filterMap fun j =>
          if rlimCode (o - 0x4000 + j) ∈ criticalCodes ∨ s.get .evrRlim (o - 0x4000 + j) 0 = field v (8 * j) 8 then none
          else some ⟨0x0D24, 8, [rlimCode (o - 0x4000 + j), field v (8 * j) 8, 0]⟩) ∧
        SameFields (fun f a b => f = .evrRlim ∧ b = 0 ∧ o ≤ a + 0x4000 ∧ a + 0x4000 < o + n) s t ∧
        t = { s with reg := t.reg, evq := t.evq })) ∧
    ∀ q : BitVec 8, MbxActs 0x0D s → s.get .evrStatMounted 0 0 ≠ 0 → (∀ k < 32, ∀ x, slotMatches k ⟨0x0D20, 8, x⟩ s = false) →
      s.get .evrSseq 0 0 + 2 < 2 ^ 32 → 0 < erasedSectors s → ∃ t, exec (.evrClear q) s = .next t ∧ MbxDone ⟨0x0D, 0, q, []⟩ 0 0 t ∧
        t.get .mbxRsp 0 0 = t.get .evrSseq 0 0 ∧ t.get .evrClear 0 0 = t.get .evrSseq 0 0 + 1 ∧ s.get .evrSseq 0 0 < t.get .evrSseq 0 0 ∧
        t.get .evrUnit 0 0 = 3 ∧ t.get .evrStatFlushing 0 0 = 1 ∧
        ∃ o p, IsEventRecord (t.bytes (2 ^ 47 + 2 ^ 25 + t.get .evrSec 0 0 * 4096 + 32) 64) true ⟨0x0D20, 8, [0, t.get .evrSseq 0 0]⟩ 0 o p 0

/-- A freeze begins by its three sources, and the image streams through the window or JTAG to its end or a stop (R549, R551, R552, R562, R563, R564, R565). -/
def Obligations.FreezesBeginAndReadOut : Prop :=
  ∀ (s : State), Sound s →
    (∀ mgc : Bool, (mgc = false ∧ s.mgWrite = false ∨ s.frozen = true → exec (.frzCtrlGo mgc) s = .next s) ∧
      (mgc = true ∨ s.mgWrite = true → s.frozen = false → ∃ t, exec (.frzCtrlGo mgc) s = .next t ∧ OnlyFreeze 2 0 s t)) ∧
    (∀ ns : BitVec 16, (s.get .frzArmPin 0 0 = 0 ∨ 20 ≤ ns.toNat ∧ s.frozen = true → exec (.freezeN ns) s = .next s) ∧
      (s.get .frzArmPin 0 0 ≠ 0 → 20 ≤ ns.toNat → s.frozen = false → ∃ t, exec (.freezeN ns) s = .next t ∧ OnlyFreeze 1 0 s t) ∧
      (s.get .frzArmPin 0 0 ≠ 0 → ns.toNat < 20 → ∃ u, exec (.freezeN ns) s = .next { u with ctr := s.ctr + 1 } ∧
        (u = s ∨ s.frozen = false ∧ OnlyFreeze 1 0 s u))) ∧
    (∀ i path, (i, path) ∈ [(Instr.readoutStart, 0), (.rdout, 1)] →
      (s.frozen = false ∨ s.get .frzStatRo 0 0 = 1 ∨ path = 0 ∧ s.mgWrite = false → exec i s = .next s) ∧
      (s.frozen = true → s.get .frzStatRo 0 0 ≠ 1 → path = 1 ∨ s.mgWrite = true → ∃ t, exec i s = .next t ∧ ReadoutOn path s t)) ∧
    (∀ onWin, (onWin ↔ s.get .frzStatRo 0 0 = 1 ∧ s.get .frzStatPath 0 0 = 0) →
      (s.mgWrite = false ∨ ¬ onWin ∨ s.get .frzRoLenReady 0 0 = 0 ∨ s.get .frzRoLenLast 0 0 ≠ 0 → exec .readoutNext s = .next s) ∧
      (s.mgWrite = true → onWin → s.get .frzRoLenReady 0 0 ≠ 0 → s.get .frzRoLenLast 0 0 = 0 → ∃ t, exec .readoutNext s = .next t ∧
        t.get .frzRoPosOffset 0 0 = (s.get .frzRoPosOffset 0 0 + 32768) % 2 ^ 64 ∧ t.get .frzRoLenReady 0 0 = 0 ∧
        SameFields (fun f _ _ => f ∈ [Fld.frzRoPosOffset, .frzRoLenReady]) s t ∧ OnlyReg s t) ∧
      (¬ onWin ∨ s.get .frzRoLenReady 0 0 ≠ 0 → exec .readoutWindowReady s = .next s) ∧
      (onWin → s.get .frzRoLenReady 0 0 = 0 → ∃ t, exec .readoutWindowReady s = .next t ∧ t.get .frzRoLenReady 0 0 = 1 ∧
        t.get .frzRoLenBytes 0 0 ≤ 32768 ∧ (t.get .frzRoLenLast 0 0 = 1 ↔ t.get .frzStatRo 0 0 = 2) ∧
        (t.get .frzRoLenLast 0 0 = 1 → ReadoutOver 2 t) ∧ t.get .frzRoPosOffset 0 0 = s.get .frzRoPosOffset 0 0 ∧
        (32768 < s.roTail.length → t.get .frzRoLenBytes 0 0 = 32768 ∧ t.get .frzRoLenLast 0 0 = 0 ∧ t.roTail = s.roTail.drop 32768 ∧
          (∀ k < 32768, t.get .frzRowin k 0 = (s.roTail.getD k 0#8).toNat) ∧
          t.get .roSent 0 0 = (s.get .roSent 0 0 + 32768) % 2 ^ 64 ∧
          SameFields (fun f _ _ => f ∈ [Fld.frzRowin, .frzRoLenBytes, .frzRoLenLast, .frzRoLenReady, .roCrc, .roSent, .roLast]) s t ∧
          t = { s with reg := t.reg, roTail := t.roTail }))) ∧
    (s.mgWrite = false ∨ s.get .frzStatRo 0 0 ≠ 1 → exec .readoutStop s = .next s) ∧
    (s.mgWrite = true → s.get .frzStatRo 0 0 = 1 → ∃ t, exec .readoutStop s = .next t ∧ ReadoutOver 3 t ∧
      (Recording s → t.evq = s.evq ++ [⟨0x1005, 8, [1, s.get .roSent 0 0]⟩]) ∧
      SameFields (fun f a _ => f = .frzStatRo ∨ a = 0 ∧ f ∈ mgIrqFlds) s t ∧
      t = { s with reg := t.reg, evq := t.evq, out := t.out, roTail := [] }) ∧
    (s.get .frzStatRo 0 0 ≠ 1 ∨ s.get .frzStatPath 0 0 ≠ 1 → exec .rdoutCaptureDr s = .next { s with out := s.out ++ [.jtag 0] }) ∧
    (s.get .frzStatRo 0 0 = 1 → s.get .frzStatPath 0 0 = 1 → ∃ (t : State) (v : Nat) (more : Bool), exec .rdoutCaptureDr s = .next t ∧
      (∃ l, t.out = s.out ++ .jtag (v + if more = true then 2 ^ 32 else 0) :: l) ∧ (more = false → ReadoutOver 2 t) ∧
      (4 < s.roTail.length → more = true ∧ v = leNat (s.roTail.take 4) ∧ t.roTail = s.roTail.drop 4 ∧
        t.get .roSent 0 0 = (s.get .roSent 0 0 + 4) % 2 ^ 64 ∧ SameFields (fun f _ _ => f ∈ [Fld.roCrc, .roSent, .roLast]) s t ∧
        t = { s with reg := t.reg, roTail := t.roTail, out := t.out }))

/-- Power, MOD_RST_N, the watchdog and MSR_RST restart the part, CH_RST and FLR a channel; firmware and the hold-up act (R445, R449, R456, R460, R461, R462, R476, R477, R478, R480, R613, R616). -/
def Obligations.ResetsRestartAndStartUpReachesItsStage : Prop :=
  ∀ (s : State) (env : BootEnv), Sound s → RecordsPlaced s →
    (∀ vin iin vbank : BitVec 16,
      (s.get .modOn 0 0 = 1 ∨ vin.toNat < 48000 ∨ 57000 < vin.toNat → exec (.inputPowerGood vin iin vbank env) s = .next s) ∧
      (s.get .modOn 0 0 ≠ 1 → 48000 ≤ vin.toNat → vin.toNat ≤ 57000 → ∃ t, exec (.inputPowerGood vin iin vbank env) s = .next t ∧
        StartedCold 1 env s t ∧ t.get .inLost 0 0 = 0 ∧ t.get .fpnPwrVin 0 0 = vin.toNat ∧ t.get .fpnPwrIin 0 0 = iin.toNat ∧
        t.get .fpnPwrVbank 0 0 = vbank.toNat)) ∧
    (∀ ms : BitVec 16, (s.get .modOn 0 0 = 0 ∨ ms.toNat < 10 → exec (.modRstN ms env) s = .next s) ∧
      (s.get .modOn 0 0 ≠ 0 → 10 ≤ ms.toNat → ∃ t, exec (.modRstN ms env) s = .next t ∧ StartedCold 2 env s t)) ∧
    (∀ runs, (runs ↔ s.get .modOn 0 0 ≠ 0 ∧ s.get .msrBootStage 0 0 ≠ 7) →
      (∀ (who : Fin 3) (key : BitVec 8) (warm : Bool) go, (go ↔ runs ∧ (who = 0 → s.mgWrite = true) ∧
          (who = 2 ∨ key = 0x57 ∧ warm = true)) →
        (¬ go → exec (.warmReset who key warm env) s = .next s) ∧
        (go → ∃ t, exec (.warmReset who key warm env) s = .next t ∧
          StartedWarm (if who = 2 then 5 else 3) (s.get .msrBootWdcount 0 0) 3 env s t)) ∧
      ∀ reach : Fin 4, (¬ runs → exec (.watchdogExpiry reach env) s = .next s) ∧
        (runs → ∃ t, exec (.watchdogExpiry reach env) s = .next t ∧
          StartedWarm 4 (min 15 (s.get .msrBootWdcount 0 0 + 1)) reach.val env s t)) ∧
    (s.mgWrite = false ∨ s.get .msrBootStage 0 0 ≠ 6 → exec (.recoveryGo env) s = .next s) ∧
    (s.mgWrite = true → s.get .msrBootStage 0 0 = 6 → ∃ t, exec (.recoveryGo env) s = .next t ∧
      (t.get .msrDbgState 0 0).testBit 1 = true ∧ (t.get .msrLockLocked 0 0).testBit 2 = true ∧
      (Bootable 2 s → t.get .msrBootStage 0 0 = 3 ∧ t.get .mbxStatReady 0 0 = 1) ∧ (¬ Bootable 2 s → t.get .msrBootStage 0 0 = 1) ∧
      (Recording s → ⟨0x0D04, 8, [2, s.get .msrFwLenBytes 0 0]⟩ ∈ t.evq)) ∧
    (∃ t, exec .perst s = .next t ∧ DoeEnded (· < 9) s t) ∧ (∃ t, exec (.flr 0) s = .next t ∧ DoeEnded (· = 0) s t) ∧
    (∀ (chan : Chan) ch fz, ch = chan.val → (fz ↔ chanFrozen ch s = true) →
      (s.get .fnD3 (1 + ch) 0 ≠ 0 ∨ 2 ≤ s.get .pwrStatChip 0 0 ∨ ¬ fz ∧ s.get .ownChStatState ch 0 = 4 →
        exec (.chRst chan) s = .next s) ∧
      (∀ i, i = Instr.chRst chan ∧ s.get .fnD3 (1 + ch) 0 = 0 ∧ s.get .pwrStatChip 0 0 < 2 ∨ i = .flr ⟨chan.val + 1, by omega⟩ →
        (¬ fz → s.get .ownChStatState ch 0 ≠ 4 → ∃ t, exec i s = .next t ∧ ChanReset ch s t ∧ ResetKeeps s t ∧
          (i ≠ .chRst chan → PcieReset (ch + 1) t)) ∧
        (¬ fz → s.get .ownChStatState ch 0 = 4 → i ≠ .chRst chan → ∃ t, exec i s = .next t ∧ PcieReset (ch + 1) t ∧
          SameFields (fun f a _ => a = ch + 1 ∧ f ∈ pcieFlds) s t ∧ OnlyReg s t) ∧
        (fz → ∃ t, exec i s = .next t ∧ (t.get .frzStatChfrozen 0 0).testBit ch = false ∧
          (∀ k < 8, k ≠ ch → (t.get .frzStatChfrozen 0 0).testBit k = (s.get .frzStatChfrozen 0 0).testBit k) ∧
          (t.get .frzStatChfrozen 0 0 = 0 → t.get .frzStatFrozen 0 0 = 0 ∧ t.requests = []) ∧
          (∀ c ∈ s.coresOf ch, t.coreState c = stStopped ∧ t.get .corePc c 0 = 0) ∧
          t.get .ownChStatState ch 0 = s.get .ownChStatState ch 0))) ∧
    (∀ (image : BitVec 3) (slot : Bool) (offset : BitVec 12) (k len : Nat), k = image.toNat → len = s.get .msrFwLenBytes 0 0 →
      (s.mgWrite = false → exec (.fwProgram image slot offset) s = .next s) ∧
      ∀ bad, (bad ↔ 6 ≤ k ∨ len = 0 ∨ 32768 < len ∨ (slotPlace k slot).2 < offset.toNat * 4096 + len ∨ slotInUse k slot s = true) →
      (s.mgWrite = true → ∃ t, exec (.fwProgram image slot offset) s = .next t ∧ t.get .msrFwCmdImage 0 0 = k ∧
        t.get .msrFwCmdSlot 0 0 = (if slot then 1 else 0) ∧ t.get .msrFwCmdOffset 0 0 = offset.toNat ∧
        (s.get .msrFwStatBusy 0 0 = 0 → bad → t.get .msrFwStatResult 0 0 = 4 ∧ t.get .msrFwStatBusy 0 0 = 0) ∧
        (s.get .msrFwStatBusy 0 0 = 0 → ¬ bad → t.get .msrFwStatBusy 0 0 = 1 ∧ t.get .fwJobImage 0 0 = k ∧
          t.get .fwJobSlot 0 0 = (if slot then 1 else 0) ∧ t.get .fwJobOffset 0 0 = offset.toNat ∧ t.get .fwJobLen 0 0 = len) ∧
        SameFields (fun f _ _ => f ∈ [Fld.msrFwCmdImage, .msrFwCmdSlot, .msrFwCmdOffset] ∨ s.get .msrFwStatBusy 0 0 = 0 ∧
          (bad ∧ f = .msrFwStatResult ∨ ¬ bad ∧ f ∈ [Fld.msrFwStatBusy, .fwJobImage, .fwJobSlot, .fwJobOffset, .fwJobLen])) s t ∧
        OnlyReg s t)) ∧
    (∀ (result : Fin 4) (a len span : Nat), a = norAddr ((slotPlace (s.get .fwJobImage 0 0) (s.get .fwJobSlot 0 0 != 0)).1 +
        s.get .fwJobOffset 0 0 * 4096) → len = s.get .fwJobLen 0 0 → span = (len + 4095) / 4096 * 4096 →
      (s.get .msrFwStatBusy 0 0 = 0 → exec (.fwProgramDone result) s = .next s) ∧
      (s.get .msrFwStatBusy 0 0 ≠ 0 → ∃ t, exec (.fwProgramDone result) s = .next t ∧ t.get .msrFwStatBusy 0 0 = 0 ∧
        t.get .msrFwStatResult 0 0 = result.val ∧ (t.get .mbxIrqStatCause 0 0).testBit 10 = true ∧
        (result = 0 → ∀ j < span, t.byte (a + j) = if j < len then BitVec.ofNat 8 (s.get .msrFwwin j 0) else 0xFF#8) ∧
        SameBytes (fun y => a ≤ y ∧ y < a + span) s t ∧
        SameFields (fun f x _ => f ∈ [Fld.msrFwStatBusy, .msrFwStatResult] ∨ x = 0 ∧ f ∈ mgIrqFlds) s t ∧
        t = { s with reg := t.reg, mem := t.mem, evq := t.evq, out := t.out, ctr := s.ctr + 1 })) ∧
    (∀ op : BitVec 8, (op.toNat ∈ [0x00, 0x01, 0x02, 0x30, 0xFF] ∨ (s.get .msrDbgState 0 0).testBit 0 = true →
        exec (.jtagDebugInstruction op) s = .next s) ∧
      (op.toNat ∉ [0x00, 0x01, 0x02, 0x30, 0xFF] → (s.get .msrDbgState 0 0).testBit 0 = false →
        ∃ t, exec (.jtagDebugInstruction op) s = .next t ∧ (t.get .msrDbgState 0 0).testBit 0 = true ∧
          (Recording s → ⟨0x0D0A, 8, [s.get .msrDbgState 0 0 + 1]⟩ ∈ t.evq) ∧
          ∀ k < 8, t.get .ownChStatState k 0 =
            if s.get .ownChStatState k 0 = 2 ∨ s.get .ownChStatState k 0 = 3 then 4 else s.get .ownChStatState k 0)) ∧
    (∀ (presence : Bool) (mv : BitVec 16) go, (go ↔ s.get .modOn 0 0 ≠ 0 ∧ s.get .inLost 0 0 = 0 ∧ (presence = true ∨ mv.toNat < 44000)) →
      (¬ go → exec (.inputLoss presence mv) s = .next s) ∧
      (go → ∃ t, exec (.inputLoss presence mv) s = .next t ∧ t.get .inLost 0 0 = 1 ∧ t.get .inLostAt 0 0 = s.get .gtc 0 0 ∧
        t.get .fpnPwrVin 0 0 = mv.toNat ∧ t.get .fpnPwrLosses 0 0 = (s.get .fpnPwrLosses 0 0 + 1) % 2 ^ 16 ∧
        t.get .evrFlushIn 0 0 = 1 ∧ (s.get .evrStatMounted 0 0 ≠ 0 → t.get .evrStatFlushing 0 0 = 1) ∧
        t.get .frzStatRo 0 0 ≠ 1 ∧ (t.get .fpnAlertCause 0 0).testBit 2 = true)) ∧
    (s.get .inLost 0 0 = 0 ∨ s.get .compOff 0 0 ≠ 0 ∨ s.get .modOn 0 0 = 0 → exec .bankLow s = .next s) ∧
    (s.get .inLost 0 0 ≠ 0 → s.get .compOff 0 0 = 0 → s.get .modOn 0 0 ≠ 0 → ∃ t, exec .bankLow s = .next t ∧ t.get .compOff 0 0 = 1 ∧
      t.get .fpnPwrVbank 0 0 = 38000 ∧ LinksDown t ∧
      ∀ k < 8, t.get .chPwrStatState k 0 = 3 ∧ t.get .pwrDark k 0 = 1 ∧ t.transitOf k = []) ∧
    (s.get .inLost 0 0 = 0 ∨ s.get .modOn 0 0 = 0 → exec .bankExhausted s = .next s) ∧
    (s.get .inLost 0 0 ≠ 0 → s.get .modOn 0 0 ≠ 0 → ∃ t, exec .bankExhausted s = .next t ∧ t.get .modOn 0 0 = 0 ∧
      t.get .fpnPwrVbank 0 0 = 33000 ∧ t.get .evrStatMounted 0 0 = 0 ∧ t.evrBuf = [] ∧ t.evrStaged = [] ∧ t.evq = []) ∧
    ∀ mv : BitVec 16, (s.get .inLost 0 0 = 0 ∨ mv.toNat < 48000 → exec (.inputRestore mv env) s = .next s) ∧
      (s.get .inLost 0 0 ≠ 0 → 48000 ≤ mv.toNat → ∃ t, exec (.inputRestore mv env) s = .next t ∧ t.get .inLost 0 0 = 0 ∧
        t.get .fpnPwrVin 0 0 = mv.toNat ∧
        (s.get .compOff 0 0 ≠ 0 ∨ s.get .modOn 0 0 = 0 → StartedCold 1 env s t) ∧
        (s.get .compOff 0 0 = 0 → s.get .modOn 0 0 ≠ 0 →
          (s.get .evrStatFlushing 0 0 = 0 → t.get .evrFlushIn 0 0 = 0 ∧
            (s.get .pwrStatChip 0 0 ≠ 2 → t.evq = s.evq ++ [⟨0x0F02, 8, [(s.get .gtc 0 0 - s.get .inLostAt 0 0) / 1000]⟩])) ∧
          (s.get .evrStatFlushing 0 0 ≠ 0 → t.evq = s.evq ∧ t.get .evrFlushIn 0 0 = s.get .evrFlushIn 0 0) ∧
          SameFields (fun f _ _ => f ∈ [Fld.inLost, .fpnPwrVin, .evrFlushIn]) s t ∧ t = { s with reg := t.reg, evq := t.evq }))

/-- ATTN, PAGE, FPN_RMV, the removal drain, the latch, the cages and their alarms act on the panel's state (R595, R596, R597, R598, R599, R600, R601, R602, R604, R610, R612, R620). -/
def Obligations.ThePanelTheCagesAndTheDrainAct : Prop :=
  ∀ s fw rmv, Sound s → (fw ↔ FirmwareUp s) → rmv = s.get .fpnStatRmv 0 0 →
    (¬ fw → ∀ timedOut, ∀ i ∈ [Instr.attnPress, .attnHold, .removalDrain timedOut, .pageTouch, .pageHold, .displayTimeout],
      exec i s = .next s) ∧
    (fw → (∀ k, ¬ ShowsCage k s) → s.get .fpnStatView 0 0 < 7 →
      (rmv = 0 ∨ rmv = 4 → ∃ t, exec .attnPress s = .next t ∧ ModuleRequested 1 s t) ∧
      (rmv ≠ 0 → rmv ≠ 4 → exec .attnPress s = .next s) ∧ (rmv = 0 → exec .attnHold s = .next s) ∧
      (rmv ≠ 0 → ∃ t, exec .attnHold s = .next t ∧ t.get .fpnStatRmv 0 0 = 0 ∧ Panelled 0x0F04 1 s t)) ∧
    (∀ k, fw → ShowsCage k s →
      (∃ t, exec .attnPress s = .next t ∧ CageRequested k s t) ∧ (s.get .fpnCageRreq k 0 = 0 → exec .attnHold s = .next s) ∧
      (s.get .fpnCageRreq k 0 ≠ 0 → ∃ t, exec .attnHold s = .next t ∧ t.get .fpnCageRreq k 0 = 0 ∧
        (t.get .mbxIrqStatCause 0 0).testBit 7 = true ∧ (Recording s → t.evq = s.evq ++ [⟨0x0F04, 8, [2 + k]⟩]) ∧
        SameFields (fun f a _ => f = .fpnCageRreq ∧ a = k ∨ a = 0 ∧ f ∈ mgIrqFlds) s t ∧ OnlyRegOut s t)) ∧
    (s.mgWrite = false → ∀ i ∈ [Instr.fpnRmvReq, .fpnRmvSafe, .fpnRmvDeny, .fpnRmvCancel], exec i s = .next s) ∧
    (s.mgWrite = true →
      (rmv = 0 ∨ rmv = 4 → ∃ t, exec .fpnRmvReq s = .next t ∧ ModuleRequested 0 s t) ∧
      (rmv ≠ 0 → rmv ≠ 4 → exec .fpnRmvReq s = .next s) ∧
      (rmv = 1 → (∃ t, exec .fpnRmvSafe s = .next t ∧ RmvIs 3 s t) ∧
        ∃ t, exec .fpnRmvDeny s = .next t ∧ t.get .fpnStatRmv 0 0 = 4 ∧ Panelled 0x0F04 0 s t) ∧
      (rmv ≠ 1 → exec .fpnRmvSafe s = .next s ∧ exec .fpnRmvDeny s = .next s) ∧ (rmv = 0 → exec .fpnRmvCancel s = .next s) ∧
      (rmv ≠ 0 → ∃ t, exec .fpnRmvCancel s = .next t ∧ t.get .fpnStatRmv 0 0 = 0 ∧ Panelled 0x0F04 0 s t)) ∧
    (rmv = 4 → ∃ t, exec .deniedTimeout s = .next t ∧ RmvIs 0 s t) ∧ (rmv ≠ 4 → exec .deniedTimeout s = .next s) ∧
    (∀ (timedOut : Bool) step, step = s.get .rmvStep 0 0 → fw →
      (rmv ≠ 2 → exec (.removalDrain timedOut) s = .next s) ∧
      (rmv = 2 → step ≤ 58 → timedOut = true ∨ s.get .sveInflight 0 0 = 0 ∨ 1 < step →
        (∀ l < 48, linkRuns l s = false ∧ s.get .lnkRetiring l 0 = 0) →
        (∀ ch < 8, s.get .ownChStatState ch 0 = 0 ∨ s.get .ownChStatState ch 0 = 5 ∨ s.get .chPwrStatState ch 0 = 3) →
        ∃ t, exec (.removalDrain timedOut) s = .next t ∧ t.get .fpnStatRmv 0 0 = 3 ∧
          (step = 0 → ∀ ch < 8, t.get .sveChAdmit ch 0 = 0) ∧
          SameFields (fun f _ _ => f ∈ [Fld.fpnStatRmv, .rmvStep, .sveChAdmit]) s t ∧ t = { s with reg := t.reg, out := t.out }) ∧
      (rmv = 2 → step = 1 → timedOut = false → s.get .sveInflight 0 0 ≠ 0 → exec (.removalDrain timedOut) s = .next s) ∧
      (∀ l < 48, rmv = 2 → step = l + 2 →
        (s.get .lnkRetiring l 0 ≠ 0 ∨ linkRuns l s = true ∧ s.get .mbxStatBusy 0 0 ≠ 0 → exec (.removalDrain timedOut) s = .next s) ∧
        (s.get .lnkRetiring l 0 = 0 → linkRuns l s = true → s.get .mbxStatBusy 0 0 = 0 → ∃ t f, exec (.removalDrain timedOut) s = .next t ∧
          t.get .lnkRetiring l 0 = 1 ∧ t.get .fpnStatRmv 0 0 = 2 ∧ waiting l 0 t = waiting l 0 s ++ [f] ∧ f.kind = 11 ∧
          f.arg = 2 * 2 ^ 12 ∧ SameFields (fun f a _ => a = l ∧ f ∈ [Fld.lnkRetiring, .lnkRetireAt]) s t)) ∧
      ∀ ch < 8, rmv = 2 → step = ch + 50 → s.get .ownChStatState ch 0 ≠ 0 → s.get .ownChStatState ch 0 ≠ 5 →
        s.get .chPwrStatState ch 0 ≠ 3 →
        (s.get .chPwrStatState ch 0 = 1 ∨ s.get .chPwrStatState ch 0 = 4 ∨ s.get .mbxStatBusy 0 0 ≠ 0 ∨ s.frozen = true →
          exec (.removalDrain timedOut) s = .next s) ∧
        (s.get .chPwrStatState ch 0 ≠ 1 → s.get .chPwrStatState ch 0 ≠ 4 → s.get .mbxStatBusy 0 0 = 0 → s.frozen = false →
          ∃ t, exec (.removalDrain timedOut) s = .next t ∧ t.get .chPwrStatState ch 0 = 1 ∧ t.get .pwrDark ch 0 = 1 ∧
            ∀ c ∈ s.coresOf ch, t.coreState c = stStopped)) ∧
    (∀ p v : Nat, p = s.get .fpnStatPage 0 0 → v = s.get .fpnStatView 0 0 → p ≤ 5 → fw →
      (∃ t, exec .pageTouch s = .next t ∧ t.get .fpnStatDisp 0 0 = (if s.get .fpnStatDisp 0 0 = 0 then 1 else s.get .fpnStatDisp 0 0) ∧
        (s.get .fpnStatDisp 0 0 = 0 → t.get .fpnStatPage 0 0 = 0 ∧ t.get .fpnStatView 0 0 = 0) ∧
        (s.get .fpnStatDisp 0 0 ≠ 0 → p = 2 → v < 6 → t.get .fpnStatPage 0 0 = 2 ∧ t.get .fpnStatView 0 0 = v + 1) ∧
        (s.get .fpnStatDisp 0 0 ≠ 0 → p ≠ 2 ∨ 6 ≤ v → t.get .fpnStatPage 0 0 = (p + 1) % 6 ∧ t.get .fpnStatView 0 0 = 0) ∧
        SameFields (fun f _ _ => f ∈ [Fld.fpnStatDisp, .fpnStatPage, .fpnStatView]) s t ∧ OnlyReg s t) ∧
      (∀ i, i = Instr.pageHold ∨ i = .displayTimeout ∧ s.get .fpnCtlDtimeout 0 0 ≠ 0 ∧ (rmv = 0 ∨ rmv = 4) → ∃ t, exec i s = .next t ∧
        t.get .fpnStatDisp 0 0 = 0 ∧ SameFields (fun f _ _ => f = .fpnStatDisp) s t ∧ OnlyReg s t) ∧
      (s.get .fpnCtlDtimeout 0 0 = 0 ∨ rmv ≠ 0 ∧ rmv ≠ 4 → exec .displayTimeout s = .next s)) ∧
    (∀ (closed : Bool) v, v = (if closed = true then 1 else 0) →
      (s.get .fpnStatLatch 0 0 = v → exec (.latchChange closed) s = .next s) ∧
      (s.get .fpnStatLatch 0 0 ≠ v → ∃ t, exec (.latchChange closed) s = .next t ∧ t.get .fpnStatLatch 0 0 = v ∧
        (fw → (t.get .mbxIrqStatCause 0 0).testBit 7 = true ∧ (Recording s → t.evq = s.evq ++ [⟨0x0F05, 8, [v]⟩])) ∧
        SameFields (fun f a _ => f = .fpnStatLatch ∨ fw ∧ a = 0 ∧ f ∈ mgIrqFlds) s t ∧ OnlyRegOut s t)) ∧
    (∀ (cage : Fin 6) (present : Bool) (pwr : BitVec 8) (k v : Nat), k = cage.val → v = (if present = true then 1 else 0) →
      (s.get .fpnCagePresent k 0 = v → exec (.osfpCageChange cage present pwr) s = .next s) ∧
      (s.get .fpnCagePresent k 0 ≠ v → ∃ t, exec (.osfpCageChange cage present pwr) s = .next t ∧ t.get .fpnCagePresent k 0 = v ∧
        (¬ fw → SameFields (fun f a _ => f = .fpnCagePresent ∧ a = k) s t ∧ OnlyReg s t) ∧
        (fw → present = true → CageShows k pwr t ∧ ∀ l ∈ linksOf k, t.get .lnkStatCable l 0 = 1 ∧
          (t.get .lnkStatState l 0 = s.get .lnkStatState l 0 ∨ s.get .lnkStatState l 0 = lkDown ∧ t.get .lnkStatState l 0 = lkTraining ∧
            pwr.toNat ≤ 15) ∧ (Recording s → ⟨0x0B04, 8, [l, 1]⟩ ∈ t.evq)) ∧
        (fw → present = false → CageEmpty k t ∧ ∀ l ∈ linksOf k, t.get .lnkStatCable l 0 = 0 ∧ t.get .lnkStatSignal l 0 = 0 ∧
          (s.get .lnkStatState l 0 ≤ lkFault → t.get .lnkStatState l 0 = lkDown) ∧
          (s.get .lnkStatState l 0 = lkRetired → t.get .lnkStatState l 0 = lkRetired) ∧
          (Recording s → ⟨0x0B04, 8, [l, 0]⟩ ∈ t.evq)))) ∧
    (∀ (port : BitVec 1) (present : Bool) (pwr : BitVec 8) (k v : Nat), k = 6 + port.toNat → v = (if present = true then 1 else 0) →
      (s.get .fpnCagePresent k 0 = v → exec (.qsfpCageChange port present pwr) s = .next s) ∧
      (s.get .fpnCagePresent k 0 ≠ v → ∃ t, exec (.qsfpCageChange port present pwr) s = .next t ∧ t.get .fpnCagePresent k 0 = v ∧
        (present = false → CageEmpty k t ∧ t.get .pcsLock port.toNat 0 = 0) ∧ (fw → present = true → CageShows k pwr t) ∧
        (fw → Recording s → ∃ l, t.evq = s.evq ++ ⟨0x0F06, 8, [port.toNat, v]⟩ :: l) ∧
        SameFields (fun f a _ => a = k ∧ f ∈ cageFlds ∨ present = false ∧ f = .pcsLock ∧ a = port.toNat) s t ∧
        t = { s with reg := t.reg, evq := t.evq })) ∧
    (∀ (port : BitVec 1) (lock : Bool),
      (lock = true → s.get .fpnCageHighpwr (6 + port.toNat) 0 = 0 → exec (.pcsLockChange port lock) s = .next s) ∧
      (lock = false ∨ s.get .fpnCageHighpwr (6 + port.toNat) 0 ≠ 0 → ∃ t, exec (.pcsLockChange port lock) s = .next t ∧
        t.get .pcsLock port.toNat 0 = (if lock = true then 1 else 0) ∧ SameFields (fun f a _ => f = .pcsLock ∧ a = port.toNat) s t ∧
        OnlyReg s t)) ∧
    (∀ (cage : Fin 8) (flags : BitVec 8) (pwr : Option (BitVec 8)) (k : Nat) on, k = cage.val →
      (on ↔ fw ∧ s.get .fpnCagePresent k 0 ≠ 0) →
      (¬ on ∨ flags = 0#8 ∧ pwr = none → exec (.cageAlarm cage flags pwr) s = .next s) ∧
      (on → flags ≠ 0#8 ∨ pwr ≠ none → ∃ t, exec (.cageAlarm cage flags pwr) s = .next t ∧ (∀ w, pwr = some w → CageShows k w t) ∧
        (flags ≠ 0#8 → t.get .fpnCageAlarm k 0 = 1 ∧ (t.get .fpnAlertCause 0 0).testBit 5 = true ∧
          (Recording s → ⟨0x0F07, 8, [k, flags.toNat]⟩ ∈ t.evq)) ∧
        SameFields (fun f a _ => a = k ∧ (f ∈ [Fld.fpnCagePwrW, .fpnCageHighpwr, .fpnCageOverclass] ∧ pwr ≠ none ∨
          f = .fpnCageAlarm ∧ flags ≠ 0#8) ∨ flags ≠ 0#8 ∧ (f = .fpnAlertCause ∨ f = .alertPin)) s t ∧
        t = { s with reg := t.reg, evq := t.evq })) ∧
    (s.get .alertPin 0 0 = 0 → exec .alertResponseRead s = .next s) ∧
    (s.get .alertPin 0 0 ≠ 0 → ∃ t, exec .alertResponseRead s = .next t ∧
      SetAndSaid .alertPin 0 (.alertAddress (0x40 + s.get .gaPins 0 0 % 16)) s t)

/-- Every SPDM, DOE, MCTP and PLDM request is answered as the chapters say, and only while the firmware serves (R423, R465, R466, R467, R468, R469, R470, R471, R473, R474, R475, R621). -/
def Obligations.TheManagementEndpointsAnswer : Prop :=
  ∀ s, Sound s →
    (∀ (via : SpdmVia) (offer : AlgOffer) (slot ses : BitVec 4) (offset length : BitVec 16) (good signed : Bool)
        (key : List (BitVec 8)) (index : BitVec 8) (n : Nat), n = ses.toNat →
      (¬ Heard via s → ∀ i, (∃ r, SpdmRow via offer slot offset length s i r) ∨ SessionRequest via ses good key i ∨ i = .challenge via ∨
        i = .getMeasurements via signed index → exec i s = .next s) ∧
      (Heard via s → ∀ i r, SpdmRow via offer slot offset length s i r → ∃ t, exec i s = .next t ∧ Answered via r s t) ∧
      (Heard via s → ∃ t sig, exec (.challenge via) s = .next t ∧ sig.length = 96 ∧ Answered via (.challengeAuth sig) s t) ∧
      (Heard via s → 10 < index.toNat → index.toNat < 255 → ∃ t, exec (.getMeasurements via signed index) s = .next t ∧
        Answered via (.error .invalidRequest) s t) ∧
      (∀ (block : Nat → Nat × Nat × List (BitVec 8)) bs,
        (∀ k, block k = (k + 1, [0, 2, 1, 1, 3, 1, 1, 1, 3, 2].getD k 0, (List.range 6).flatMap fun w => leBytes 8 (s.get .msrVal (k + 1) w))) →
        index = 0#8 ∧ bs = [] ∨ index = 255#8 ∧ bs = (List.range 10).map block ∨
          0 < index.toNat ∧ index.toNat ≤ 10 ∧ bs = [block (index.toNat - 1)] →
        Heard via s → ∃ t sig, exec (.getMeasurements via signed index) s = .next t ∧ Answered via (.measurements 10 bs sig) s t ∧
          (signed = false → sig = none) ∧ (signed = true → ∃ x, sig = some x ∧ x.length = 96)) ∧
      (Heard via s → ∀ l, via = .tlail l → ∀ i, SessionRequest via ses good key i → ∃ t, exec i s = .next t ∧
        Answered via (.error .unsupportedRequest) s t) ∧
      (Heard via s → (∀ l, via ≠ .tlail l) →
        (∀ i stage, AtStage via ses good key i stage → ¬ SessionAt via ses stage s → ∃ t, exec i s = .next t ∧
          Answered via (.error .unexpectedRequest) s t) ∧
        ((∀ k < 8, s.get .sesState k 0 ≠ 0) → ∃ t, exec (.keyExchange via) s = .next t ∧
          Answered via (.error .sessionLimitExceeded) s t) ∧
        (∀ k < 8, s.get .sesState k 0 = 0 → (∀ j < k, s.get .sesState j 0 ≠ 0) → ∃ t sig, exec (.keyExchange via) s = .next t ∧
          sig.length = 96 ∧ t.out = s.out ++ [.spdm via (.keyExchange k true 0 sig)] ∧ t.get .sesState k 0 = 1 ∧
          t.get .sesVia k 0 = viaNumber via ∧ SameFields (fun f a _ => a = k ∧ f ∈ [Fld.sesState, .sesVia]) s t ∧
          t = { s with reg := t.reg, out := t.out, ctr := s.ctr + 1 }) ∧
        (SessionAt via ses 1 s →
          (∃ t, exec (.getEncapsulatedRequest via ses) s = .next t ∧ SessionAnswered via ses (.encapsulatedRequest n false) s t ∧
            t.get .sesAsk n 0 = 1 ∧ SessionAt via ses 1 t) ∧
          (s.get .sesAsk n 0 = 0 → ∃ t, exec (.deliverEncapsulatedResponse via ses good key) s = .next t ∧
            Answered via (.error .unexpectedRequest) s t) ∧
          (s.get .sesAsk n 0 = 1 → ∃ t, exec (.deliverEncapsulatedResponse via ses good key) s = .next t ∧
            SessionAnswered via ses (.encapsulatedRequest n true) s t ∧ t.get .sesAsk n 0 = 2 ∧ SessionAt via ses 1 t) ∧
          (2 ≤ s.get .sesAsk n 0 → ∃ t, exec (.deliverEncapsulatedResponse via ses good key) s = .next t ∧
            (good = false → SessionAnswered via ses (.error .invalidRequest) s t ∧ t.get .sesState n 0 = 0) ∧
            (good = true → SessionAnswered via ses (.encapsulatedAck n) s t ∧ SessionAt via ses 2 t ∧
              t.get .sesOid n 0 = leNat ((sha384 key).take 16)))) ∧
        (SessionAt via ses 2 s → ∃ t, exec (.finish via ses good) s = .next t ∧
          (good = false → SessionAnswered via ses (.error .invalidRequest) s t ∧ t.get .sesState n 0 = 0 ∧ t.evq = s.evq) ∧
          (good = true → SessionAnswered via ses (.finish n) s t ∧ SessionAt via ses 3 t ∧ t.get .sesOid n 0 = s.get .sesOid n 0 ∧
            (Recording s → t.evq = s.evq ++ [⟨0x0D07, 8, [viaNumber via, n, s.get .sesOid n 0 % 2 ^ 32]⟩]))) ∧
        (SessionAt via ses 3 s →
          (∃ t, exec (.heartbeat via ses) s = .next t ∧ Answered via (.heartbeatAck n) s t) ∧
          (∃ t, exec (.keyUpdate via ses) s = .next t ∧ Answered via (.keyUpdateAck n) s t) ∧
          ∃ t, exec (.endSession via ses) s = .next t ∧ SessionAnswered via ses (.endSessionAck n) s t ∧ t.get .sesState n 0 = 0 ∧
            (Recording s → t.evq = s.evq ++ [⟨0x0D07, 8, [viaNumber via, n, s.get .sesOid n 0 % 2 ^ 32]⟩])))) ∧
    exec .doeAbort s = .next s ∧
    ∀ (fw : Prop) (x y : BitVec 8) (id : BitVec 16) (record : BitVec 32) (on : Bool), (fw ↔ FirmwareUp s) →
      (¬ fw → exec (.doeDiscovery x) s = .next s) ∧
      (fw → x.toNat < 3 → exec (.doeDiscovery x) s = .next (Says (.doe 1 x.toNat ((x.toNat + 1) % 3)) s)) ∧
      (fw → 3 ≤ x.toNat → ∃ v ty nx, v < 65536 ∧ ty < 256 ∧ nx < 256 ∧
        exec (.doeDiscovery x) s = .next { Says (.doe v ty nx) s with ctr := s.ctr + 3 }) ∧
      (∀ i o, EndpointRow s y id x i o → (fw → exec i s = .next (Says o s)) ∧ (¬ fw → exec i s = .next s)) ∧
      (∀ i (mk : List (BitVec 8) → Output), (i, mk) ∈ [(Instr.getMctpVersionSupport x, fun b => .mctp (.versions b)),
          (.getVendorDefinedMessageSupport x, fun b => .mctp (.vendor b)), (.getPldmVersion x, fun b => .pldm (.open b)),
          (.getPdrRepositoryInfo, fun b => .pldm (.open b)), (.getPdr record, fun b => .pldm (.open b))] →
        (fw → ∃ b, exec i s = .next { Says (mk b) s with ctr := s.ctr + 1 }) ∧ (¬ fw → exec i s = .next { s with ctr := s.ctr + 1 })) ∧
      (∀ i f v o, (i, f, v, o) ∈ [(Instr.setEndpointId x, Fld.mctpEid, x.toNat, Output.mctp (.setEid x.toNat)),
          (.setTid x, .pldmTid, x.toNat, .pldm .done), (.setEventReceiver on x, .pldmRx, if on = true then x.toNat + 1 else 0, .pldm .done)] ∨
          (i, f, v, o) = (.setStateEffecterStates id x, .fpnLocMode, x.toNat, .pldm .done) ∧ id = 200#16 ∧ x.toNat < 3 →
        (¬ fw → exec i s = .next s) ∧ (fw → ∃ t, exec i s = .next t ∧ SetAndSaid f v o s t)) ∧
      (∃ r, SensorReads id.toNat s r ∧ (fw → exec (.getSensorReading id) s = .next (Says (.pldm r) s)) ∧
        (¬ fw → exec (.getSensorReading id) s = .next s)) ∧
      (fw → exec (.getStateSensorReadings id) s = .next (Says (.pldm (stateReading id.toNat s)) s)) ∧
      (¬ fw → exec (.getStateSensorReadings id) s = .next s)

/-- A GO written while BUSY is 1 is dropped and sets OVERRUN, and the command in progress is unaffected (R585). -/
def Obligations.AGoWhileBusyIsDroppedWithOverrun : Prop :=
  ∀ s : State, Sound s → s.mgWrite = true → s.get .mbxStatBusy 0 0 ≠ 0 → ∀ seq code : BitVec 8,
    (∀ i, (∃ m, mbxOf i = some m) ∨ i = .unknownCommand seq code ∧ (code = 0 ∨ 0x0E < code.toNat) → ∃ t, exec i s = .next t ∧
      t.get .mbxStatOverrun 0 0 = 1 ∧ SameFields (fun f a _ => f = .mbxStatOverrun ∧ a = 0) s t ∧ OnlyReg s t) ∧
    ∃ t, exec (.mailboxOverrun seq code) s = .next t ∧ t.get .mbxStatOverrun 0 0 = 1 ∧ t.get .mbxCmdCode 0 0 = code.toNat ∧
      t.get .mbxCmdSeq 0 0 = seq.toNat ∧
      SameFields (fun f a _ => f ∈ [Fld.mbxStatOverrun, .mbxCmdCode, .mbxCmdSeq] ∧ a = 0) s t ∧ OnlyReg s t

/-- A freeze acts on the whole chip; a source that acts while the chip is frozen has no effect and raises no event (R551). -/
def Obligations.AFreezeActsOnTheWholeChipOnce : Prop :=
  ∀ (s : State) (mgc : Bool) (ns : BitVec 16), Sound s →
    (s.frozen = false →
      (mgc = true ∨ s.mgWrite = true → ∃ t, exec (.frzCtrlGo mgc) s = .next t ∧ t.frozen = true ∧ ∀ ch < 8, chanFrozen ch t = true) ∧
      (s.get .frzArmPin 0 0 ≠ 0 → 20 ≤ ns.toNat → ∃ t, exec (.freezeN ns) s = .next t ∧ t.frozen = true ∧
        ∀ ch < 8, chanFrozen ch t = true) ∧
      (∀ e es k, s.evq = e :: es → s.get .evrStatMounted 0 0 ≠ 0 → s.get .frzArmTrig 0 0 ≠ 0 → k < 32 →
        slotMatches k e s = true → s.get .evrTrigFrz k 0 ≠ 0 →
        ∃ t, exec .recordEvent s = .next t ∧ t.frozen = true ∧ ∀ ch < 8, chanFrozen ch t = true)) ∧
    (s.frozen = true → exec (.frzCtrlGo mgc) s = .next s ∧ (∃ n, exec (.freezeN ns) s = .next { s with ctr := n }) ∧
      ∃ t, exec .recordEvent s = .next t ∧ (t = s ∨ t.evq = s.evq.tail) ∧
        SameFields (fun f _ _ => f ∉ [Fld.frzStatFrozen, .frzStatSrc, .frzStatSlot, .frzStatChfrozen, .frzStatRo, .frzStatPath, .frzGtc,
          .frzOpsec, .frzPcyc, .frzCause]) s t)
end

