-- ==== Sys2Proof/Laws/Fields.lean ====
section
/-!
SUPPORT. What a field's number and width are, and that each number names one field: the rewriting that reading one field past
a write to another needs.
-/
namespace Sys2Proof.Machine

namespace Fld

/-- The table of fields in its parts of forty. -/
def parts : List (List Fld) := [all0, all1, all2, all3, all4, all5, all6, all7, all8, all9, all10, all11, all12, all13, all14, all15, all16, all17, all18]

theorem all_eq_parts : all = parts.flatten := by simp [all, parts, List.append_assoc]

/-- The field that a number names. -/
def at? (id : Nat) : Option Fld := (parts.getD (id / 40) [])[id % 40]?

/-- In a list of parts that are all of forty but the last, place i stands in part i / 40. -/
theorem flatten_getElem? (ps : List (List Fld)) (h : ∀ k, k + 1 < ps.length → (ps.getD k []).length = 40)
    (hl : ∀ k, (ps.getD k []).length ≤ 40) (i : Nat) : ps.flatten[i]? = (ps.getD (i / 40) [])[i % 40]? := by
  induction ps generalizing i with
  | nil => simp
  | cons p ps ih =>
    have hp : p.length ≤ 40 := by simpa using hl 0
    have ih := ih (fun k hk => by simpa using h (k + 1) (by simpa using hk)) (fun k => by simpa using hl (k + 1))
    rw [List.flatten_cons]
    by_cases hi : i < 40
    · rw [Nat.div_eq_of_lt hi, Nat.mod_eq_of_lt hi]
      by_cases hip : i < p.length
      · rw [List.getElem?_append_left hip]; rfl
      · rw [List.getElem?_append_right (by omega)]
        cases ps with
        | nil => simp; omega
        | cons q qs => have := h 0 (by simp); simp at this; omega
    · cases ps with
      | nil =>
        have h0 : i / 40 = i / 40 - 1 + 1 := by omega
        rw [h0]
        simp
        omega
      | cons q qs =>
        have hp : p.length = 40 := by simpa using h 0 (by simp)
        rw [List.getElem?_append_right (by omega), hp, ih]
        have h0 : i / 40 = (i - 40) / 40 + 1 := by omega
        have h1 : i % 40 = (i - 40) % 40 := by omega
        rw [h0, h1, List.getD_cons_succ]

theorem all_getElem? (i : Nat) : all[i]? = at? i := by
  rw [all_eq_parts]
  refine flatten_getElem? parts ?_ ?_ i
  · intro k hk
    have hk : k < 18 := by simpa [parts] using Nat.lt_of_succ_lt_succ (n := k) (m := 18) hk
    exact (by decide : ∀ k < 18, (parts.getD k []).length = 40) k hk
  · intro k
    by_cases hk : k < 19
    · exact (by decide : ∀ k < 19, (parts.getD k []).length ≤ 40) k hk
    · have h : parts[k]? = none := List.getElem?_eq_none (by simpa [parts] using hk)
      simp [List.getD, h]

/-- The field is the one that its number names. -/
def Ok (f : Fld) : Prop := at? f.id = some f


@[simp] theorem id_idPartPart : idPartPart.id = 0 := rfl
@[simp] theorem id_idPartStep : idPartStep.id = 1 := rfl
@[simp] theorem id_idGradeIslands : idGradeIslands.id = 2 := rfl
@[simp] theorem id_idGradeChannels : idGradeChannels.id = 3 := rfl
@[simp] theorem id_idGradeLinks : idGradeLinks.id = 4 := rfl
@[simp] theorem id_idGradeSve : idGradeSve.id = 5 := rfl
@[simp] theorem id_idIslmapPhysEn : idIslmapPhysEn.id = 6 := rfl
@[simp] theorem id_coreStatState : coreStatState.id = 7 := rfl
@[simp] theorem id_coreStatOnfic : coreStatOnfic.id = 8 := rfl
@[simp] theorem id_coreStatDbell : coreStatDbell.id = 9 := rfl
@[simp] theorem id_coreStatLdepth : coreStatLdepth.id = 10 := rfl
@[simp] theorem id_coreStatInreplay : coreStatInreplay.id = 11 := rfl
@[simp] theorem id_corePc : corePc.id = 12 := rfl
@[simp] theorem id_coreHaltCode : coreHaltCode.id = 13 := rfl
@[simp] theorem id_coreHaltCause : coreHaltCause.id = 14 := rfl
@[simp] theorem id_coreHaltPc : coreHaltPc.id = 15 := rfl
@[simp] theorem id_coreCyc : coreCyc.id = 16 := rfl
@[simp] theorem id_coreG : coreG.id = 17 := rfl
@[simp] theorem id_coreP : coreP.id = 18 := rfl
@[simp] theorem id_coreSqf : coreSqf.id = 19 := rfl
@[simp] theorem id_mxF : mxF.id = 20 := rfl
@[simp] theorem id_mxStatDrainwait : mxStatDrainwait.id = 21 := rfl
@[simp] theorem id_mxStatRetained : mxStatRetained.id = 22 := rfl
@[simp] theorem id_mxStatNan : mxStatNan.id = 23 := rfl
@[simp] theorem id_mxStatInf : mxStatInf.id = 24 := rfl
@[simp] theorem id_mxStatPoison : mxStatPoison.id = 25 := rfl
@[simp] theorem id_mxTiles : mxTiles.id = 26 := rfl
@[simp] theorem id_mxStallc : mxStallc.id = 27 := rfl
@[simp] theorem id_mxBistDone : mxBistDone.id = 28 := rfl
@[simp] theorem id_mxBistPass : mxBistPass.id = 29 := rfl
@[simp] theorem id_mxBistRow : mxBistRow.id = 30 := rfl
@[simp] theorem id_mxBistCol : mxBistCol.id = 31 := rfl
@[simp] theorem id_vxF : vxF.id = 32 := rfl
@[simp] theorem id_vxStatTqwait : vxStatTqwait.id = 33 := rfl
@[simp] theorem id_vxStatPoison : vxStatPoison.id = 34 := rfl
@[simp] theorem id_vxStatSat8 : vxStatSat8.id = 35 := rfl
@[simp] theorem id_vxStatInf8 : vxStatInf8.id = 36 := rfl
@[simp] theorem id_vxStatNan : vxStatNan.id = 37 := rfl
@[simp] theorem id_tqPops : tqPops.id = 38 := rfl
@[simp] theorem id_spdKindWbank : spdKindWbank.id = 39 := rfl
@[simp] theorem id_spdKindNextWbank : spdKindNextWbank.id = 40 := rfl
@[simp] theorem id_spdPwrOn : spdPwrOn.id = 41 := rfl
@[simp] theorem id_spdPwrReady : spdPwrReady.id = 42 := rfl
@[simp] theorem id_spdPwrNextOn : spdPwrNextOn.id = 43 := rfl
@[simp] theorem id_spdStatConflict : spdStatConflict.id = 44 := rfl
@[simp] theorem id_spdStatAerr : spdStatAerr.id = 45 := rfl
@[simp] theorem id_spdStatUe : spdStatUe.id = 46 := rfl
@[simp] theorem id_spdStatInit : spdStatInit.id = 47 := rfl
@[simp] theorem id_spdStatClean : spdStatClean.id = 48 := rfl
@[simp] theorem id_spdStatAttempt : spdStatAttempt.id = 49 := rfl
@[simp] theorem id_spdStatSwept : spdStatSwept.id = 50 := rfl
@[simp] theorem id_spdConfBank : spdConfBank.id = 51 := rfl
@[simp] theorem id_spdConfWin : spdConfWin.id = 52 := rfl
@[simp] theorem id_spdConfLost : spdConfLost.id = 53 := rfl
@[simp] theorem id_spdConfWrite : spdConfWrite.id = 54 := rfl
@[simp] theorem id_spdConfWord : spdConfWord.id = 55 := rfl
@[simp] theorem id_spdConfCyc : spdConfCyc.id = 56 := rfl
@[simp] theorem id_spdStalec : spdStalec.id = 57 := rfl
@[simp] theorem id_spdCecnt : spdCecnt.id = 58 := rfl
@[simp] theorem id_spdReruns : spdReruns.id = 59 := rfl
@[simp] theorem id_chSpdEpoch : chSpdEpoch.id = 60 := rfl
@[simp] theorem id_foxCtlRaEn : foxCtlRaEn.id = 61 := rfl
@[simp] theorem id_foxCtlRsvc : foxCtlRsvc.id = 62 := rfl
@[simp] theorem id_foxRtimeoutUs : foxRtimeoutUs.id = 63 := rfl
@[simp] theorem id_foxHsqTailIndex : foxHsqTailIndex.id = 64 := rfl
@[simp] theorem id_foxHsqHeadIndex : foxHsqHeadIndex.id = 65 := rfl
@[simp] theorem id_foxHsqDone : foxHsqDone.id = 66 := rfl
@[simp] theorem id_foxSpecServed : foxSpecServed.id = 67 := rfl
@[simp] theorem id_foxRaCancels : foxRaCancels.id = 68 := rfl
@[simp] theorem id_foxRaRetries : foxRaRetries.id = 69 := rfl
@[simp] theorem id_foxRaDiscard : foxRaDiscard.id = 70 := rfl
@[simp] theorem id_foxPoisonWords : foxPoisonWords.id = 71 := rfl
@[simp] theorem id_foxRemoteFail : foxRemoteFail.id = 72 := rfl
@[simp] theorem id_foxRefused : foxRefused.id = 73 := rfl
@[simp] theorem id_foxRaHist : foxRaHist.id = 74 := rfl
@[simp] theorem id_foxRaTabValid : foxRaTabValid.id = 75 := rfl
@[simp] theorem id_foxRaTabRemote : foxRaTabRemote.id = 76 := rfl
@[simp] theorem id_foxRaTabRing : foxRaTabRing.id = 77 := rfl
@[simp] theorem id_foxRaTabRowWords : foxRaTabRowWords.id = 78 := rfl
@[simp] theorem id_foxRaTabBase : foxRaTabBase.id = 79 := rfl
@[simp] theorem id_foxRaTabStride : foxRaTabStride.id = 80 := rfl
@[simp] theorem id_foxRaTabPeer : foxRaTabPeer.id = 81 := rfl
@[simp] theorem id_foxRingCfgEn : foxRingCfgEn.id = 82 := rfl
@[simp] theorem id_foxRingCfgDir : foxRingCfgDir.id = 83 := rfl
@[simp] theorem id_foxRingCfgCore : foxRingCfgCore.id = 84 := rfl
@[simp] theorem id_foxRingCfgSlots : foxRingCfgSlots.id = 85 := rfl
@[simp] theorem id_foxRingCfgSlotWords : foxRingCfgSlotWords.id = 86 := rfl
@[simp] theorem id_foxRingCfgBase : foxRingCfgBase.id = 87 := rfl
@[simp] theorem id_foxRingPtrTail : foxRingPtrTail.id = 88 := rfl
@[simp] theorem id_foxRingPtrHead : foxRingPtrHead.id = 89 := rfl
@[simp] theorem id_foxRingPtrFill : foxRingPtrFill.id = 90 := rfl
@[simp] theorem id_foxRingPtrPub : foxRingPtrPub.id = 91 := rfl
@[simp] theorem id_foxRingPtrTent : foxRingPtrTent.id = 92 := rfl
@[simp] theorem id_foxRingPtrGen : foxRingPtrGen.id = 93 := rfl
@[simp] theorem id_syF : syF.id = 94 := rfl
@[simp] theorem id_synCnt : synCnt.id = 95 := rfl
@[simp] theorem id_synFlagsSatHi : synFlagsSatHi.id = 96 := rfl
@[simp] theorem id_synFlagsSatLo : synFlagsSatLo.id = 97 := rfl
@[simp] theorem id_synFlagsMisuse : synFlagsMisuse.id = 98 := rfl
@[simp] theorem id_epRoom : epRoom.id = 99 := rfl
@[simp] theorem id_rteCtlActive : rteCtlActive.id = 100 := rfl
@[simp] theorem id_rteLinkfDown : rteLinkfDown.id = 101 := rfl
@[simp] theorem id_rteDrops : rteDrops.id = 102 := rfl
@[simp] theorem id_bdgCtlEn : bdgCtlEn.id = 103 := rfl
@[simp] theorem id_bdgWindowCycles : bdgWindowCycles.id = 104 := rfl
@[simp] theorem id_bdgStatDeadlock : bdgStatDeadlock.id = 105 := rfl
@[simp] theorem id_bdgStatQuiet : bdgStatQuiet.id = 106 := rfl
@[simp] theorem id_bdgStatSilent : bdgStatSilent.id = 107 := rfl
@[simp] theorem id_bdgStatQcount : bdgStatQcount.id = 108 := rfl
@[simp] theorem id_bdgWhen : bdgWhen.id = 109 := rfl
@[simp] theorem id_bdgReports : bdgReports.id = 110 := rfl
@[simp] theorem id_bdgCoreState : bdgCoreState.id = 111 := rfl
@[simp] theorem id_bdgCoreExt : bdgCoreExt.id = 112 := rfl
@[simp] theorem id_bdgCoreWkind : bdgCoreWkind.id = 113 := rfl
@[simp] theorem id_bdgCoreObj : bdgCoreObj.id = 114 := rfl
@[simp] theorem id_bdgCorePc : bdgCorePc.id = 115 := rfl
@[simp] theorem id_synBarTimeoutUs : synBarTimeoutUs.id = 116 := rfl
@[simp] theorem id_synChipbarChans : synChipbarChans.id = 117 := rfl
@[simp] theorem id_synBarFaults : synBarFaults.id = 118 := rfl
@[simp] theorem id_hbqWtail : hbqWtail.id = 119 := rfl
@[simp] theorem id_hbqWhead : hbqWhead.id = 120 := rfl
@[simp] theorem id_hbqRtail : hbqRtail.id = 121 := rfl
@[simp] theorem id_hbqRhead : hbqRhead.id = 122 := rfl
@[simp] theorem id_hbqBatches : hbqBatches.id = 123 := rfl
@[simp] theorem id_sveCtlEn0 : sveCtlEn0.id = 124 := rfl
@[simp] theorem id_sveCtlEn1 : sveCtlEn1.id = 125 := rfl
@[simp] theorem id_sveInflight : sveInflight.id = 126 := rfl
@[simp] theorem id_svePortMac : svePortMac.id = 127 := rfl
@[simp] theorem id_svePortVlan : svePortVlan.id = 128 := rfl
@[simp] theorem id_svePortVtag : svePortVtag.id = 129 := rfl
@[simp] theorem id_svePortIpv4 : svePortIpv4.id = 130 := rfl
@[simp] theorem id_svePortUdpPort : svePortUdpPort.id = 131 := rfl
@[simp] theorem id_svePortIpv6Hi : svePortIpv6Hi.id = 132 := rfl
@[simp] theorem id_svePortIpv6Lo : svePortIpv6Lo.id = 133 := rfl
@[simp] theorem id_svePortRxOk : svePortRxOk.id = 134 := rfl
@[simp] theorem id_svePortRxDrop : svePortRxDrop.id = 135 := rfl
@[simp] theorem id_svePortRxSlow : svePortRxSlow.id = 136 := rfl
@[simp] theorem id_svePortTx : svePortTx.id = 137 := rfl
@[simp] theorem id_sveSvcSelId : sveSvcSelId.id = 138 := rfl
@[simp] theorem id_sveSvcW0Bound : sveSvcW0Bound.id = 139 := rfl
@[simp] theorem id_sveSvcW0Channel : sveSvcW0Channel.id = 140 := rfl
@[simp] theorem id_sveSvcW0TagReq : sveSvcW0TagReq.id = 141 := rfl
@[simp] theorem id_sveSvcW0Errq : sveSvcW0Errq.id = 142 := rfl
@[simp] theorem id_sveSvcW0Sync : sveSvcW0Sync.id = 143 := rfl
@[simp] theorem id_sveSvcW0WindowUs : sveSvcW0WindowUs.id = 144 := rfl
@[simp] theorem id_sveSvcW0Maxb : sveSvcW0Maxb.id = 145 := rfl
@[simp] theorem id_sveSvcW0DeadlineUs : sveSvcW0DeadlineUs.id = 146 := rfl
@[simp] theorem id_sveSvcW0Kdef : sveSvcW0Kdef.id = 147 := rfl
@[simp] theorem id_sveSvcW0Keyslot : sveSvcW0Keyslot.id = 148 := rfl
@[simp] theorem id_sveSvcW1Epoch : sveSvcW1Epoch.id = 149 := rfl
@[simp] theorem id_sveSvcW1FbCell : sveSvcW1FbCell.id = 150 := rfl
@[simp] theorem id_sveSvcW1FbLen : sveSvcW1FbLen.id = 151 := rfl
@[simp] theorem id_sveSvcW2Admitted : sveSvcW2Admitted.id = 152 := rfl
@[simp] theorem id_sveSvcW2Fallbacks : sveSvcW2Fallbacks.id = 153 := rfl
@[simp] theorem id_sveSvcW3Errors : sveSvcW3Errors.id = 154 := rfl
@[simp] theorem id_sveSvcW3Tagfail : sveSvcW3Tagfail.id = 155 := rfl
@[simp] theorem id_sveFbwinBase : sveFbwinBase.id = 156 := rfl
@[simp] theorem id_sveChAdmit : sveChAdmit.id = 157 := rfl
@[simp] theorem id_sveChQuota : sveChQuota.id = 158 := rfl
@[simp] theorem id_sveChHeld : sveChHeld.id = 159 := rfl
@[simp] theorem id_sveChNextTag : sveChNextTag.id = 160 := rfl
@[simp] theorem id_sveChQueued : sveChQueued.id = 161 := rfl
@[simp] theorem id_sveChBatches : sveChBatches.id = 162 := rfl
@[simp] theorem id_sveChLate : sveChLate.id = 163 := rfl
@[simp] theorem id_sveChTagGrace : sveChTagGrace.id = 164 := rfl
@[simp] theorem id_sveChLive : sveChLive.id = 165 := rfl
@[simp] theorem id_exchCfgMode : exchCfgMode.id = 166 := rfl
@[simp] theorem id_exchCfgPcarry : exchCfgPcarry.id = 167 := rfl
@[simp] theorem id_exchCfgRflip : exchCfgRflip.id = 168 := rfl
@[simp] theorem id_exchCfgRatab : exchCfgRatab.id = 169 := rfl
@[simp] theorem id_exchCfgForce : exchCfgForce.id = 170 := rfl
@[simp] theorem id_exchSeamTag : exchSeamTag.id = 171 := rfl
@[simp] theorem id_exchSeamEpoch : exchSeamEpoch.id = 172 := rfl
@[simp] theorem id_exchTimeoutUs : exchTimeoutUs.id = 173 := rfl
@[simp] theorem id_exchStatPhase : exchStatPhase.id = 174 := rfl
@[simp] theorem id_exchStatResult : exchStatResult.id = 175 := rfl
@[simp] theorem id_exchStatSeamTag : exchStatSeamTag.id = 176 := rfl
@[simp] theorem id_exchStatNotready : exchStatNotready.id = 177 := rfl
@[simp] theorem id_exchStatSyncdrop : exchStatSyncdrop.id = 178 := rfl
@[simp] theorem id_exchCount : exchCount.id = 179 := rfl
@[simp] theorem id_exchLastGtc : exchLastGtc.id = 180 := rfl
@[simp] theorem id_exchRsel : exchRsel.id = 181 := rfl
@[simp] theorem id_exchRatabValid : exchRatabValid.id = 182 := rfl
@[simp] theorem id_exchRatabRemote : exchRatabRemote.id = 183 := rfl
@[simp] theorem id_exchRatabRing : exchRatabRing.id = 184 := rfl
@[simp] theorem id_exchRatabRowWords : exchRatabRowWords.id = 185 := rfl
@[simp] theorem id_exchRatabBase : exchRatabBase.id = 186 := rfl
@[simp] theorem id_exchRatabStride : exchRatabStride.id = 187 := rfl
@[simp] theorem id_exchRatabPeer : exchRatabPeer.id = 188 := rfl
@[simp] theorem id_exchRingCfgEn : exchRingCfgEn.id = 189 := rfl
@[simp] theorem id_exchRingCfgDir : exchRingCfgDir.id = 190 := rfl
@[simp] theorem id_exchRingCfgCore : exchRingCfgCore.id = 191 := rfl
@[simp] theorem id_exchRingCfgSlots : exchRingCfgSlots.id = 192 := rfl
@[simp] theorem id_exchRingCfgSlotWords : exchRingCfgSlotWords.id = 193 := rfl
@[simp] theorem id_exchRingCfgBase : exchRingCfgBase.id = 194 := rfl
@[simp] theorem id_epochCtlRapar : epochCtlRapar.id = 195 := rfl
@[simp] theorem id_epochInflEven : epochInflEven.id = 196 := rfl
@[simp] theorem id_epochInflOdd : epochInflOdd.id = 197 := rfl
@[simp] theorem id_epochRabaseBase : epochRabaseBase.id = 198 := rfl
@[simp] theorem id_chCfgLockstep : chCfgLockstep.id = 199 := rfl
@[simp] theorem id_chCfgLfreq : chCfgLfreq.id = 200 := rfl
@[simp] theorem id_chCfgAllowRace : chCfgAllowRace.id = 201 := rfl
@[simp] theorem id_chCfgRefalign : chCfgRefalign.id = 202 := rfl
@[simp] theorem id_retryCount : retryCount.id = 203 := rfl
@[simp] theorem id_raceCount : raceCount.id = 204 := rfl
@[simp] theorem id_stretchCyclesFrac : stretchCyclesFrac.id = 205 := rfl
@[simp] theorem id_stretchCyclesWhole : stretchCyclesWhole.id = 206 := rfl
@[simp] theorem id_detIslStretchFrac : detIslStretchFrac.id = 207 := rfl
@[simp] theorem id_detIslStretchWhole : detIslStretchWhole.id = 208 := rfl
@[simp] theorem id_detCtlExpect : detCtlExpect.id = 209 := rfl
@[simp] theorem id_detLogHeadNext : detLogHeadNext.id = 210 := rfl
@[simp] theorem id_detLogHeadWritten : detLogHeadWritten.id = 211 := rfl
@[simp] theorem id_detLogTag : detLogTag.id = 212 := rfl
@[simp] theorem id_detLogKept : detLogKept.id = 213 := rfl
@[simp] theorem id_detLogFreq : detLogFreq.id = 214 := rfl
@[simp] theorem id_detLogRef2x : detLogRef2x.id = 215 := rfl
@[simp] theorem id_detLogCauses : detLogCauses.id = 216 := rfl
@[simp] theorem id_detLogSegs : detLogSegs.id = 217 := rfl
@[simp] theorem id_detLogPhase : detLogPhase.id = 218 := rfl
@[simp] theorem id_detLogCsig : detLogCsig.id = 219 := rfl
@[simp] theorem id_detLogOsig : detLogOsig.id = 220 := rfl
@[simp] theorem id_detLogDretry : detLogDretry.id = 221 := rfl
@[simp] theorem id_detLogDrace : detLogDrace.id = 222 := rfl
@[simp] theorem id_detLogDstretch : detLogDstretch.id = 223 := rfl
@[simp] theorem id_detCoreDcyc : detCoreDcyc.id = 224 := rfl
@[simp] theorem id_detCoreSegs : detCoreSegs.id = 225 := rfl
@[simp] theorem id_detCoreOpen : detCoreOpen.id = 226 := rfl
@[simp] theorem id_tunStatState : tunStatState.id = 227 := rfl
@[simp] theorem id_tunStatContested : tunStatContested.id = 228 := rfl
@[simp] theorem id_tunStatForced : tunStatForced.id = 229 := rfl
@[simp] theorem id_tunStatSlewing : tunStatSlewing.id = 230 := rfl
@[simp] theorem id_tunStatStepped : tunStatStepped.id = 231 := rfl
@[simp] theorem id_tunStatNagree : tunStatNagree.id = 232 := rfl
@[simp] theorem id_tunStatNelig : tunStatNelig.id = 233 := rfl
@[simp] theorem id_tunStatLevel : tunStatLevel.id = 234 := rfl
@[simp] theorem id_tunStatAgeMs : tunStatAgeMs.id = 235 := rfl
@[simp] theorem id_tunTrim : tunTrim.id = 236 := rfl
@[simp] theorem id_tunFest : tunFest.id = 237 := rfl
@[simp] theorem id_tunOffset : tunOffset.id = 238 := rfl
@[simp] theorem id_tunPolSyncEn : tunPolSyncEn.id = 239 := rfl
@[simp] theorem id_tunPolSyncRef : tunPolSyncRef.id = 240 := rfl
@[simp] theorem id_tunPolPtmEn : tunPolPtmEn.id = 241 := rfl
@[simp] theorem id_tunPolPtmRef : tunPolPtmRef.id = 242 := rfl
@[simp] theorem id_tunPolForce : tunPolForce.id = 243 := rfl
@[simp] theorem id_tunPolStepNs : tunPolStepNs.id = 244 := rfl
@[simp] theorem id_tunLnkenEn : tunLnkenEn.id = 245 := rfl
@[simp] theorem id_tunLrefused : tunLrefused.id = 246 := rfl
@[simp] theorem id_tunQuar : tunQuar.id = 247 := rfl
@[simp] theorem id_tunFbarLate : tunFbarLate.id = 248 := rfl
@[simp] theorem id_tunFbarUntimed : tunFbarUntimed.id = 249 := rfl
@[simp] theorem id_tunSrcOffset : tunSrcOffset.id = 250 := rfl
@[simp] theorem id_tunSrcPlevel : tunSrcPlevel.id = 251 := rfl
@[simp] theorem id_tunSrcUsable : tunSrcUsable.id = 252 := rfl
@[simp] theorem id_tunSrcFresh : tunSrcFresh.id = 253 := rfl
@[simp] theorem id_tunSrcElig : tunSrcElig.id = 254 := rfl
@[simp] theorem id_tunSrcAgree : tunSrcAgree.id = 255 := rfl
@[simp] theorem id_tunSrcQuar : tunSrcQuar.id = 256 := rfl
@[simp] theorem id_tunSrcQleft : tunSrcQleft.id = 257 := rfl
@[simp] theorem id_tunSrcDelay : tunSrcDelay.id = 258 := rfl
@[simp] theorem id_tunSrcSamples : tunSrcSamples.id = 259 := rfl
@[simp] theorem id_tunSrcDiscards : tunSrcDiscards.id = 260 := rfl
@[simp] theorem id_tunAsym : tunAsym.id = 261 := rfl
@[simp] theorem id_tunFbarChans : tunFbarChans.id = 262 := rfl
@[simp] theorem id_tunFbarUpch : tunFbarUpch.id = 263 := rfl
@[simp] theorem id_tunFbarUpl : tunFbarUpl.id = 264 := rfl
@[simp] theorem id_tunFbarDown : tunFbarDown.id = 265 := rfl
@[simp] theorem id_tunFbarLeadNs : tunFbarLeadNs.id = 266 := rfl
@[simp] theorem id_lnkCfgEn : lnkCfgEn.id = 267 := rfl
@[simp] theorem id_lnkStatState : lnkStatState.id = 268 := rfl
@[simp] theorem id_lnkStatLadmit : lnkStatLadmit.id = 269 := rfl
@[simp] theorem id_lnkStatPadmit : lnkStatPadmit.id = 270 := rfl
@[simp] theorem id_lnkStatCable : lnkStatCable.id = 271 := rfl
@[simp] theorem id_lnkStatSignal : lnkStatSignal.id = 272 := rfl
@[simp] theorem id_lnkStatLock : lnkStatLock.id = 273 := rfl
@[simp] theorem id_lnkStatFcause : lnkStatFcause.id = 274 := rfl
@[simp] theorem id_lnkPeerChip : lnkPeerChip.id = 275 := rfl
@[simp] theorem id_lnkPeerValid : lnkPeerValid.id = 276 := rfl
@[simp] theorem id_lnkPeerPlink : lnkPeerPlink.id = 277 := rfl
@[simp] theorem id_lnkPeerPart : lnkPeerPart.id = 278 := rfl
@[simp] theorem id_lnkPeerStep : lnkPeerStep.id = 279 := rfl
@[simp] theorem id_lnkPnonce : lnkPnonce.id = 280 := rfl
@[simp] theorem id_lnkTxFlits : lnkTxFlits.id = 281 := rfl
@[simp] theorem id_lnkRxFlits : lnkRxFlits.id = 282 := rfl
@[simp] theorem id_lnkCrcErr : lnkCrcErr.id = 283 := rfl
@[simp] theorem id_lnkFecCorr : lnkFecCorr.id = 284 := rfl
@[simp] theorem id_lnkFecUncorr : lnkFecUncorr.id = 285 := rfl
@[simp] theorem id_lnkEpisodes : lnkEpisodes.id = 286 := rfl
@[simp] theorem id_lnkIsoDrop : lnkIsoDrop.id = 287 := rfl
@[simp] theorem id_lnkRxDrop : lnkRxDrop.id = 288 := rfl
@[simp] theorem id_lnkAttStatAtt : lnkAttStatAtt.id = 289 := rfl
@[simp] theorem id_lnkCertDigest : lnkCertDigest.id = 290 := rfl
@[simp] theorem id_lnkMeasDigest : lnkMeasDigest.id = 291 := rfl
@[simp] theorem id_fabCtlChipId : fabCtlChipId.id = 292 := rfl
@[simp] theorem id_fabCtlValid : fabCtlValid.id = 293 := rfl
@[simp] theorem id_fabCtlHopmax : fabCtlHopmax.id = 294 := rfl
@[simp] theorem id_fabFwdAddrChip : fabFwdAddrChip.id = 295 := rfl
@[simp] theorem id_fabFwdAddrCh : fabFwdAddrCh.id = 296 := rfl
@[simp] theorem id_fabFwdFrames : fabFwdFrames.id = 297 := rfl
@[simp] theorem id_fabFwdDrop : fabFwdDrop.id = 298 := rfl
@[simp] theorem id_fabHopfailTx : fabHopfailTx.id = 299 := rfl
@[simp] theorem id_fabHopfailRx : fabHopfailRx.id = 300 := rfl
@[simp] theorem id_ownChStatState : ownChStatState.id = 301 := rfl
@[simp] theorem id_ownChStatKeysrc : ownChStatKeysrc.id = 302 := rfl
@[simp] theorem id_ownChStatRdkey : ownChStatRdkey.id = 303 := rfl
@[simp] theorem id_ownChStatPending : ownChStatPending.id = 304 := rfl
@[simp] theorem id_ownChStatSkeys : ownChStatSkeys.id = 305 := rfl
@[simp] theorem id_ownChOid : ownChOid.id = 306 := rfl
@[simp] theorem id_ownCfgHostio : ownCfgHostio.id = 307 := rfl
@[simp] theorem id_ownCfgEvrVisible : ownCfgEvrVisible.id = 308 := rfl
@[simp] theorem id_ownCfgSvcTagged : ownCfgSvcTagged.id = 309 := rfl
@[simp] theorem id_ownGrantChip : ownGrantChip.id = 310 := rfl
@[simp] theorem id_ownGrantCh : ownGrantCh.id = 311 := rfl
@[simp] theorem id_ownGrantSend : ownGrantSend.id = 312 := rfl
@[simp] theorem id_ownGrantRecv : ownGrantRecv.id = 313 := rfl
@[simp] theorem id_ownGrantRead : ownGrantRead.id = 314 := rfl
@[simp] theorem id_ownGrantServe : ownGrantServe.id = 315 := rfl
@[simp] theorem id_ownSkeyLoadKey : ownSkeyLoadKey.id = 316 := rfl
@[simp] theorem id_ownFiltTx : ownFiltTx.id = 317 := rfl
@[simp] theorem id_ownFiltRx : ownFiltRx.id = 318 := rfl
@[simp] theorem id_ownBar2Deny : ownBar2Deny.id = 319 := rfl
@[simp] theorem id_ownKills : ownKills.id = 320 := rfl
@[simp] theorem id_msrBootStage : msrBootStage.id = 321 := rfl
@[simp] theorem id_msrBootFallback : msrBootFallback.id = 322 := rfl
@[simp] theorem id_msrBootSlotb : msrBootSlotb.id = 323 := rfl
@[simp] theorem id_msrBootRcause : msrBootRcause.id = 324 := rfl
@[simp] theorem id_msrBootWdcount : msrBootWdcount.id = 325 := rfl
@[simp] theorem id_msrBootReadyMs : msrBootReadyMs.id = 326 := rfl
@[simp] theorem id_msrBootselPreferB : msrBootselPreferB.id = 327 := rfl
@[simp] theorem id_msrLockLocked : msrLockLocked.id = 328 := rfl
@[simp] theorem id_msrDbgState : msrDbgState.id = 329 := rfl
@[simp] theorem id_msrVal : msrVal.id = 330 := rfl
@[simp] theorem id_msrImgverVersion : msrImgverVersion.id = 331 := rfl
@[simp] theorem id_msrFwCmdImage : msrFwCmdImage.id = 332 := rfl
@[simp] theorem id_msrFwCmdSlot : msrFwCmdSlot.id = 333 := rfl
@[simp] theorem id_msrFwCmdOffset : msrFwCmdOffset.id = 334 := rfl
@[simp] theorem id_msrFwLenBytes : msrFwLenBytes.id = 335 := rfl
@[simp] theorem id_msrFwStatBusy : msrFwStatBusy.id = 336 := rfl
@[simp] theorem id_msrFwStatResult : msrFwStatResult.id = 337 := rfl
@[simp] theorem id_msrFwwin : msrFwwin.id = 338 := rfl
@[simp] theorem id_chPwrReq : chPwrReq.id = 339 := rfl
@[simp] theorem id_chPwrHbmoff : chPwrHbmoff.id = 340 := rfl
@[simp] theorem id_chPwrAutorun : chPwrAutorun.id = 341 := rfl
@[simp] theorem id_chPwrWbatch : chPwrWbatch.id = 342 := rfl
@[simp] theorem id_chPwrWgtc : chPwrWgtc.id = 343 := rfl
@[simp] theorem id_chPwrStatState : chPwrStatState.id = 344 := rfl
@[simp] theorem id_chPwrStatWcause : chPwrStatWcause.id = 345 := rfl
@[simp] theorem id_chPwrStatWfail : chPwrStatWfail.id = 346 := rfl
@[simp] theorem id_chPwrStatDefer : chPwrStatDefer.id = 347 := rfl
@[simp] theorem id_chPwrStatWakeNs : chPwrStatWakeNs.id = 348 := rfl
@[simp] theorem id_chWakeGtc : chWakeGtc.id = 349 := rfl
@[simp] theorem id_chPwrDrops : chPwrDrops.id = 350 := rfl
@[simp] theorem id_chFsetFset : chFsetFset.id = 351 := rfl
@[simp] theorem id_chFsetFmin : chFsetFmin.id = 352 := rfl
@[simp] theorem id_chPctlPcapW : chPctlPcapW.id = 353 := rfl
@[simp] theorem id_chPctlLmin : chPctlLmin.id = 354 := rfl
@[simp] theorem id_chClkStatFeff : chClkStatFeff.id = 355 := rfl
@[simp] theorem id_chClkStatHalved : chClkStatHalved.id = 356 := rfl
@[simp] theorem id_chClkStatThrottled : chClkStatThrottled.id = 357 := rfl
@[simp] theorem id_chClkStatCapped : chClkStatCapped.id = 358 := rfl
@[simp] theorem id_pwrCapWatts : pwrCapWatts.id = 359 := rfl
@[simp] theorem id_pwrStatThrottle : pwrStatThrottle.id = 360 := rfl
@[simp] theorem id_pwrStatHalved : pwrStatHalved.id = 361 := rfl
@[simp] theorem id_pwrStatSensorSuspect : pwrStatSensorSuspect.id = 362 := rfl
@[simp] theorem id_pwrStatCapmiss : pwrStatCapmiss.id = 363 := rfl
@[simp] theorem id_pwrStatWfail : pwrStatWfail.id = 364 := rfl
@[simp] theorem id_pwrStatChip : pwrStatChip.id = 365 := rfl
@[simp] theorem id_pwrSuspectIsl : pwrSuspectIsl.id = 366 := rfl
@[simp] theorem id_pwrSuspectUnits : pwrSuspectUnits.id = 367 := rfl
@[simp] theorem id_pwrTripTripped : pwrTripTripped.id = 368 := rfl
@[simp] theorem id_pwrTripChipsus : pwrTripChipsus.id = 369 := rfl
@[simp] theorem id_pwrTripRegion : pwrTripRegion.id = 370 := rfl
@[simp] theorem id_pwrTripTj : pwrTripTj.id = 371 := rfl
@[simp] theorem id_pwrVfloor : pwrVfloor.id = 372 := rfl
@[simp] theorem id_pwrWtDirFirst : pwrWtDirFirst.id = 373 := rfl
@[simp] theorem id_pwrWtDirRecords : pwrWtDirRecords.id = 374 := rfl
@[simp] theorem id_pwrWt : pwrWt.id = 375 := rfl
@[simp] theorem id_telChPwrMw : telChPwrMw.id = 376 := rfl
@[simp] theorem id_telChRailMv : telChRailMv.id = 377 := rfl
@[simp] theorem id_telChTj : telChTj.id = 378 := rfl
@[simp] theorem id_telChHbmTj : telChHbmTj.id = 379 := rfl
@[simp] theorem id_telChipPwrMw : telChipPwrMw.id = 380 := rfl
@[simp] theorem id_telChipTj : telChipTj.id = 381 := rfl
@[simp] theorem id_evrStatMounted : evrStatMounted.id = 382 := rfl
@[simp] theorem id_evrStatFlushing : evrStatFlushing.id = 383 := rfl
@[simp] theorem id_evrCurPos : evrCurPos.id = 384 := rfl
@[simp] theorem id_evrWritten : evrWritten.id = 385 := rfl
@[simp] theorem id_evrLost : evrLost.id = 386 := rfl
@[simp] theorem id_evrSuppressed : evrSuppressed.id = 387 := rfl
@[simp] theorem id_evrBadsect : evrBadsect.id = 388 := rfl
@[simp] theorem id_evrTrigCode : evrTrigCode.id = 389 := rfl
@[simp] theorem id_evrTrigMask : evrTrigMask.id = 390 := rfl
@[simp] theorem id_evrTrigSrc : evrTrigSrc.id = 391 := rfl
@[simp] theorem id_evrTrigN : evrTrigN.id = 392 := rfl
@[simp] theorem id_evrTrigFrz : evrTrigFrz.id = 393 := rfl
@[simp] theorem id_evrTrigEn : evrTrigEn.id = 394 := rfl
@[simp] theorem id_evrTrigMissed : evrTrigMissed.id = 395 := rfl
@[simp] theorem id_evrTrigSel : evrTrigSel.id = 396 := rfl
@[simp] theorem id_evrRlim : evrRlim.id = 397 := rfl
@[simp] theorem id_frzArmPin : frzArmPin.id = 398 := rfl
@[simp] theorem id_frzArmTrig : frzArmTrig.id = 399 := rfl
@[simp] theorem id_frzStatFrozen : frzStatFrozen.id = 400 := rfl
@[simp] theorem id_frzStatSrc : frzStatSrc.id = 401 := rfl
@[simp] theorem id_frzStatSlot : frzStatSlot.id = 402 := rfl
@[simp] theorem id_frzStatChfrozen : frzStatChfrozen.id = 403 := rfl
@[simp] theorem id_frzStatRo : frzStatRo.id = 404 := rfl
@[simp] theorem id_frzStatPath : frzStatPath.id = 405 := rfl
@[simp] theorem id_frzGtc : frzGtc.id = 406 := rfl
@[simp] theorem id_frzRoPosOffset : frzRoPosOffset.id = 407 := rfl
@[simp] theorem id_frzRoLenBytes : frzRoLenBytes.id = 408 := rfl
@[simp] theorem id_frzRoLenLast : frzRoLenLast.id = 409 := rfl
@[simp] theorem id_frzRoLenReady : frzRoLenReady.id = 410 := rfl
@[simp] theorem id_frzHbmBase : frzHbmBase.id = 411 := rfl
@[simp] theorem id_frzHbmLen : frzHbmLen.id = 412 := rfl
@[simp] theorem id_frzRowin : frzRowin.id = 413 := rfl
@[simp] theorem id_idSerial : idSerial.id = 414 := rfl
@[simp] theorem id_idSlot : idSlot.id = 415 := rfl
@[simp] theorem id_idTopoConn : idTopoConn.id = 416 := rfl
@[simp] theorem id_idTopoPos : idTopoPos.id = 417 := rfl
@[simp] theorem id_idTopoBpair : idTopoBpair.id = 418 := rfl
@[simp] theorem id_mbxCmdCode : mbxCmdCode.id = 419 := rfl
@[simp] theorem id_mbxCmdSeq : mbxCmdSeq.id = 420 := rfl
@[simp] theorem id_mbxStatBusy : mbxStatBusy.id = 421 := rfl
@[simp] theorem id_mbxStatDone : mbxStatDone.id = 422 := rfl
@[simp] theorem id_mbxStatReady : mbxStatReady.id = 423 := rfl
@[simp] theorem id_mbxStatOverrun : mbxStatOverrun.id = 424 := rfl
@[simp] theorem id_mbxStatStatus : mbxStatStatus.id = 425 := rfl
@[simp] theorem id_mbxStatSeq : mbxStatSeq.id = 426 := rfl
@[simp] theorem id_mbxStatCode : mbxStatCode.id = 427 := rfl
@[simp] theorem id_mbxStatDetail : mbxStatDetail.id = 428 := rfl
@[simp] theorem id_mbxArg : mbxArg.id = 429 := rfl
@[simp] theorem id_mbxRsp : mbxRsp.id = 430 := rfl
@[simp] theorem id_mbxIrqStatCause : mbxIrqStatCause.id = 431 := rfl
@[simp] theorem id_mbxIrqMask : mbxIrqMask.id = 432 := rfl
@[simp] theorem id_chIrqStatCause : chIrqStatCause.id = 433 := rfl
@[simp] theorem id_chIrqMask : chIrqMask.id = 434 := rfl
@[simp] theorem id_fpnStatLatch : fpnStatLatch.id = 435 := rfl
@[simp] theorem id_fpnStatAttn : fpnStatAttn.id = 436 := rfl
@[simp] theorem id_fpnStatDisp : fpnStatDisp.id = 437 := rfl
@[simp] theorem id_fpnStatPage : fpnStatPage.id = 438 := rfl
@[simp] theorem id_fpnStatView : fpnStatView.id = 439 := rfl
@[simp] theorem id_fpnStatRmv : fpnStatRmv.id = 440 := rfl
@[simp] theorem id_fpnCtlRmvAuto : fpnCtlRmvAuto.id = 441 := rfl
@[simp] theorem id_fpnCtlAutoret : fpnCtlAutoret.id = 442 := rfl
@[simp] theorem id_fpnCtlDtimeout : fpnCtlDtimeout.id = 443 := rfl
@[simp] theorem id_fpnCtlRmvTmoMs : fpnCtlRmvTmoMs.id = 444 := rfl
@[simp] theorem id_fpnLocMode : fpnLocMode.id = 445 := rfl
@[simp] theorem id_fpnAlertCause : fpnAlertCause.id = 446 := rfl
@[simp] theorem id_fpnAlertEn : fpnAlertEn.id = 447 := rfl
@[simp] theorem id_fpnPwrVin : fpnPwrVin.id = 448 := rfl
@[simp] theorem id_fpnPwrIin : fpnPwrIin.id = 449 := rfl
@[simp] theorem id_fpnPwrVbank : fpnPwrVbank.id = 450 := rfl
@[simp] theorem id_fpnPwrLosses : fpnPwrLosses.id = 451 := rfl
@[simp] theorem id_fpnCagePresent : fpnCagePresent.id = 452 := rfl
@[simp] theorem id_fpnCageHighpwr : fpnCageHighpwr.id = 453 := rfl
@[simp] theorem id_fpnCageOverclass : fpnCageOverclass.id = 454 := rfl
@[simp] theorem id_fpnCageAlarm : fpnCageAlarm.id = 455 := rfl
@[simp] theorem id_fpnCageRreq : fpnCageRreq.id = 456 := rfl
@[simp] theorem id_fpnCagePwrW : fpnCagePwrW.id = 457 := rfl
@[simp] theorem id_tunSyncCfgPeriodNs : tunSyncCfgPeriodNs.id = 458 := rfl
@[simp] theorem id_tunSyncCfgOffsetNs : tunSyncCfgOffsetNs.id = 459 := rfl
@[simp] theorem id_tunSyncDly : tunSyncDly.id = 460 := rfl
@[simp] theorem id_tunSoutCfgPeriodNs : tunSoutCfgPeriodNs.id = 461 := rfl
@[simp] theorem id_tunSoutCfgOffsetNs : tunSoutCfgOffsetNs.id = 462 := rfl
@[simp] theorem id_tunPtmCfgPeriod : tunPtmCfgPeriod.id = 463 := rfl
@[simp] theorem id_tunPtmOfs : tunPtmOfs.id = 464 := rfl
@[simp] theorem id_rteRank : rteRank.id = 465 := rfl
@[simp] theorem id_rteExt : rteExt.id = 466 := rfl
@[simp] theorem id_rteRoute : rteRoute.id = 467 := rfl
@[simp] theorem id_rteBarMem : rteBarMem.id = 468 := rfl
@[simp] theorem id_coreLoopStart : coreLoopStart.id = 469 := rfl
@[simp] theorem id_coreLoopLast : coreLoopLast.id = 470 := rfl
@[simp] theorem id_coreLoopCount : coreLoopCount.id = 471 := rfl
@[simp] theorem id_coreLoopIdx : coreLoopIdx.id = 472 := rfl
@[simp] theorem id_coreRepStart : coreRepStart.id = 473 := rfl
@[simp] theorem id_coreRepLen : coreRepLen.id = 474 := rfl
@[simp] theorem id_coreRepCount : coreRepCount.id = 475 := rfl
@[simp] theorem id_coreRepIdx : coreRepIdx.id = 476 := rfl
@[simp] theorem id_coreRepRet : coreRepRet.id = 477 := rfl
@[simp] theorem id_corePatchArm : corePatchArm.id = 478 := rfl
@[simp] theorem id_corePatchPd : corePatchPd.id = 479 := rfl
@[simp] theorem id_corePatchPs : corePatchPs.id = 480 := rfl
@[simp] theorem id_coreGRdy : coreGRdy.id = 481 := rfl
@[simp] theorem id_coreVRdy : coreVRdy.id = 482 := rfl
@[simp] theorem id_coreWkind : coreWkind.id = 483 := rfl
@[simp] theorem id_coreWobj : coreWobj.id = 484 := rfl
@[simp] theorem id_coreClkPend : coreClkPend.id = 485 := rfl
@[simp] theorem id_coreAlign : coreAlign.id = 486 := rfl
@[simp] theorem id_coreBank : coreBank.id = 487 := rfl
@[simp] theorem id_mxDoneAt : mxDoneAt.id = 488 := rfl
@[simp] theorem id_mxRetPlane : mxRetPlane.id = 489 := rfl
@[simp] theorem id_mxRetInt : mxRetInt.id = 490 := rfl
@[simp] theorem id_vxDoneAt : vxDoneAt.id = 491 := rfl
@[simp] theorem id_tqHead : tqHead.id = 492 := rfl
@[simp] theorem id_tqEnt : tqEnt.id = 493 := rfl
@[simp] theorem id_tqFreeAt : tqFreeAt.id = 494 := rfl
@[simp] theorem id_tqFullAt : tqFullAt.id = 495 := rfl
@[simp] theorem id_spdTag : spdTag.id = 496 := rfl
@[simp] theorem id_spdErr : spdErr.id = 497 := rfl
@[simp] theorem id_spdInitMask : spdInitMask.id = 498 := rfl
@[simp] theorem id_spdUpMask : spdUpMask.id = 499 := rfl
@[simp] theorem id_spdSweepPos : spdSweepPos.id = 500 := rfl
@[simp] theorem id_spdVisited : spdVisited.id = 501 := rfl
@[simp] theorem id_spdHaltPend : spdHaltPend.id = 502 := rfl
@[simp] theorem id_spdCeSec : spdCeSec.id = 503 := rfl
@[simp] theorem id_coreStartWait : coreStartWait.id = 504 := rfl
@[simp] theorem id_msixEn : msixEn.id = 505 := rfl
@[simp] theorem id_msixFmask : msixFmask.id = 506 := rfl
@[simp] theorem id_msixVmask : msixVmask.id = 507 := rfl
@[simp] theorem id_msixPba : msixPba.id = 508 := rfl
@[simp] theorem id_fnD3 : fnD3.id = 509 := rfl
@[simp] theorem id_gtc : gtc.id = 510 := rfl
@[simp] theorem id_ringPubv : ringPubv.id = 511 := rfl
@[simp] theorem id_ringFreev : ringFreev.id = 512 := rfl
@[simp] theorem id_ringCorePtr : ringCorePtr.id = 513 := rfl
@[simp] theorem id_ringSlotSt : ringSlotSt.id = 514 := rfl
@[simp] theorem id_ringSlotLanded : ringSlotLanded.id = 515 := rfl
@[simp] theorem id_ringSlotWords : ringSlotWords.id = 516 := rfl
@[simp] theorem id_ringSlotEos : ringSlotEos.id = 517 := rfl
@[simp] theorem id_ringSlotPoison : ringSlotPoison.id = 518 := rfl
@[simp] theorem id_ringSlotLeft : ringSlotLeft.id = 519 := rfl
@[simp] theorem id_ringSlotGen : ringSlotGen.id = 520 := rfl
@[simp] theorem id_fxWait : fxWait.id = 521 := rfl
@[simp] theorem id_fxDoneAt : fxDoneAt.id = 522 := rfl
@[simp] theorem id_fxF : fxF.id = 523 := rfl
@[simp] theorem id_syLeft : syLeft.id = 524 := rfl
@[simp] theorem id_syIdx : syIdx.id = 525 := rfl
@[simp] theorem id_syEp : syEp.id = 526 := rfl
@[simp] theorem id_syAddr : syAddr.id = 527 := rfl
@[simp] theorem id_syDoneAt : syDoneAt.id = 528 := rfl
@[simp] theorem id_barCount : barCount.id = 529 := rfl
@[simp] theorem id_barWait : barWait.id = 530 := rfl
@[simp] theorem id_barFault : barFault.id = 531 := rfl
@[simp] theorem id_barFaultGen : barFaultGen.id = 532 := rfl
@[simp] theorem id_barTimer : barTimer.id = 533 := rfl
@[simp] theorem id_ringViewPend : ringViewPend.id = 534 := rfl
@[simp] theorem id_ringReadSlot : ringReadSlot.id = 535 := rfl
@[simp] theorem id_foxLead : foxLead.id = 536 := rfl
@[simp] theorem id_foxSeq : foxSeq.id = 537 := rfl
@[simp] theorem id_foxServK : foxServK.id = 538 := rfl
@[simp] theorem id_foxRsvcEff : foxRsvcEff.id = 539 := rfl
@[simp] theorem id_foxHsqSeen : foxHsqSeen.id = 540 := rfl
@[simp] theorem id_foxHsqWay : foxHsqWay.id = 541 := rfl
@[simp] theorem id_fabFwd : fabFwd.id = 542 := rfl
@[simp] theorem id_lnkTxSeq : lnkTxSeq.id = 543 := rfl
@[simp] theorem id_lnkExp : lnkExp.id = 544 := rfl
@[simp] theorem id_lnkNakPend : lnkNakPend.id = 545 := rfl
@[simp] theorem id_lnkNakDue : lnkNakDue.id = 546 := rfl
@[simp] theorem id_lnkRxEp : lnkRxEp.id = 547 := rfl
@[simp] theorem id_lnkTxEp : lnkTxEp.id = 548 := rfl
@[simp] theorem id_lnkTxEpSeq : lnkTxEpSeq.id = 549 := rfl
@[simp] theorem id_lnkReplay : lnkReplay.id = 550 := rfl
@[simp] theorem id_lnkRot : lnkRot.id = 551 := rfl
@[simp] theorem id_lnkNonce : lnkNonce.id = 552 := rfl
@[simp] theorem id_lnkHello : lnkHello.id = 553 := rfl
@[simp] theorem id_lnkRetiring : lnkRetiring.id = 554 := rfl
@[simp] theorem id_lnkEverAdm : lnkEverAdm.id = 555 := rfl
@[simp] theorem id_lnkBseq : lnkBseq.id = 556 := rfl
@[simp] theorem id_lnkBcnDue : lnkBcnDue.id = 557 := rfl
@[simp] theorem id_lnkPeerBseq : lnkPeerBseq.id = 558 := rfl
@[simp] theorem id_lnkPeerTx : lnkPeerTx.id = 559 := rfl
@[simp] theorem id_lnkPeerRx : lnkPeerRx.id = 560 := rfl
@[simp] theorem id_fabHfTime : fabHfTime.id = 561 := rfl
@[simp] theorem id_barLast : barLast.id = 562 := rfl
@[simp] theorem id_fbarGen : fbarGen.id = 563 := rfl
@[simp] theorem id_fbarArr : fbarArr.id = 564 := rfl
@[simp] theorem id_fbarSent : fbarSent.id = 565 := rfl
@[simp] theorem id_fbarRel : fbarRel.id = 566 := rfl
@[simp] theorem id_fbarT : fbarT.id = 567 := rfl
@[simp] theorem id_syExact : syExact.id = 568 := rfl
@[simp] theorem id_detOpen : detOpen.id = 569 := rfl
@[simp] theorem id_detTag : detTag.id = 570 := rfl
@[simp] theorem id_detCauses : detCauses.id = 571 := rfl
@[simp] theorem id_detRetry0 : detRetry0.id = 572 := rfl
@[simp] theorem id_detRace0 : detRace0.id = 573 := rfl
@[simp] theorem id_detStretch0 : detStretch0.id = 574 := rfl
@[simp] theorem id_detOsig : detOsig.id = 575 := rfl
@[simp] theorem id_detRingExt : detRingExt.id = 576 := rfl
@[simp] theorem id_detSegOpen : detSegOpen.id = 577 := rfl
@[simp] theorem id_detSegStart : detSegStart.id = 578 := rfl
@[simp] theorem id_detSegExt : detSegExt.id = 579 := rfl
@[simp] theorem id_detSegOpens : detSegOpens.id = 580 := rfl
@[simp] theorem id_synRem : synRem.id = 581 := rfl
@[simp] theorem id_refHalf : refHalf.id = 582 := rfl
@[simp] theorem id_refPend : refPend.id = 583 := rfl
@[simp] theorem id_chLfreqEff : chLfreqEff.id = 584 := rfl
@[simp] theorem id_svcLat : svcLat.id = 585 := rfl
@[simp] theorem id_slowSec : slowSec.id = 586 := rfl
@[simp] theorem id_slowCnt : slowCnt.id = 587 := rfl
@[simp] theorem id_sveSerial : sveSerial.id = 588 := rfl
@[simp] theorem id_exchHeldAt : exchHeldAt.id = 589 := rfl
@[simp] theorem id_exchSeam : exchSeam.id = 590 := rfl
@[simp] theorem id_exchSync : exchSync.id = 591 := rfl
@[simp] theorem id_mbxCur : mbxCur.id = 592 := rfl
@[simp] theorem id_mbxCurObj : mbxCurObj.id = 593 := rfl
@[simp] theorem id_pwrDark : pwrDark.id = 594 := rfl
@[simp] theorem id_ownSkey : ownSkey.id = 595 := rfl
@[simp] theorem id_coreLaunchT : coreLaunchT.id = 596 := rfl
@[simp] theorem id_foxRings : foxRings.id = 597 := rfl
@[simp] theorem id_mxRetPoison : mxRetPoison.id = 598 := rfl
@[simp] theorem id_mxRetAddr : mxRetAddr.id = 599 := rfl
@[simp] theorem id_mbxSeq : mbxSeq.id = 600 := rfl
@[simp] theorem id_hbqLeft : hbqLeft.id = 601 := rfl
@[simp] theorem id_hbqTag : hbqTag.id = 602 := rfl
@[simp] theorem id_gtcFrac : gtcFrac.id = 603 := rfl
@[simp] theorem id_gtcAway : gtcAway.id = 604 := rfl
@[simp] theorem id_gtcLatch : gtcLatch.id = 605 := rfl
@[simp] theorem id_tunTicks : tunTicks.id = 606 := rfl
@[simp] theorem id_tunRun : tunRun.id = 607 := rfl
@[simp] theorem id_tunEpochs : tunEpochs.id = 608 := rfl
@[simp] theorem id_tunEpochAt : tunEpochAt.id = 609 := rfl
@[simp] theorem id_tunAge : tunAge.id = 610 := rfl
@[simp] theorem id_tunSrcOff : tunSrcOff.id = 611 := rfl
@[simp] theorem id_tunSrcDly : tunSrcDly.id = 612 := rfl
@[simp] theorem id_tunSrcRun : tunSrcRun.id = 613 := rfl
@[simp] theorem id_tunSrcEp : tunSrcEp.id = 614 := rfl
@[simp] theorem id_tunSrcTick : tunSrcTick.id = 615 := rfl
@[simp] theorem id_tunFestX : tunFestX.id = 616 := rfl
@[simp] theorem id_tunFestY : tunFestY.id = 617 := rfl
@[simp] theorem id_tunFestN : tunFestN.id = 618 := rfl
@[simp] theorem id_tunFestNext : tunFestNext.id = 619 := rfl
@[simp] theorem id_tunAsymEff : tunAsymEff.id = 620 := rfl
@[simp] theorem id_tunPtmNext : tunPtmNext.id = 621 := rfl
@[simp] theorem id_tunSoutLast : tunSoutLast.id = 622 := rfl
@[simp] theorem id_mbxCopy : mbxCopy.id = 623 := rfl
@[simp] theorem id_refBase : refBase.id = 624 := rfl
@[simp] theorem id_refRestart : refRestart.id = 625 := rfl
@[simp] theorem id_lnkRxEpAt : lnkRxEpAt.id = 626 := rfl
@[simp] theorem id_lnkTxEpAt : lnkTxEpAt.id = 627 := rfl
@[simp] theorem id_lnkEpTime : lnkEpTime.id = 628 := rfl
@[simp] theorem id_lnkEpNext : lnkEpNext.id = 629 := rfl
@[simp] theorem id_lnkAckAt : lnkAckAt.id = 630 := rfl
@[simp] theorem id_lnkBcnSent : lnkBcnSent.id = 631 := rfl
@[simp] theorem id_lnkBcnAt : lnkBcnAt.id = 632 := rfl
@[simp] theorem id_lnkRetireAt : lnkRetireAt.id = 633 := rfl
@[simp] theorem id_lnkAttGot : lnkAttGot.id = 634 := rfl
@[simp] theorem id_lnkAttXid : lnkAttXid.id = 635 := rfl
@[simp] theorem id_mbxMode : mbxMode.id = 636 := rfl
@[simp] theorem id_pllRelock : pllRelock.id = 637 := rfl
@[simp] theorem id_chLfreqNext : chLfreqNext.id = 638 := rfl
@[simp] theorem id_wakeAt : wakeAt.id = 639 := rfl
@[simp] theorem id_capLimL : capLimL.id = 640 := rfl
@[simp] theorem id_thLimL : thLimL.id = 641 := rfl
@[simp] theorem id_xtsKey : xtsKey.id = 642 := rfl
@[simp] theorem id_hbmGen : hbmGen.id = 643 := rfl
@[simp] theorem id_rdKey : rdKey.id = 644 := rfl
@[simp] theorem id_killThen : killThen.id = 645 := rfl
@[simp] theorem id_killAt : killAt.id = 646 := rfl
@[simp] theorem id_killPass : killPass.id = 647 := rfl
@[simp] theorem id_killDue : killDue.id = 648 := rfl
@[simp] theorem id_bindTmo : bindTmo.id = 649 := rfl
@[simp] theorem id_bindAt : bindAt.id = 650 := rfl
@[simp] theorem id_svcZero : svcZero.id = 651 := rfl
@[simp] theorem id_svcZeroCell : svcZeroCell.id = 652 := rfl
@[simp] theorem id_svcZeroLen : svcZeroLen.id = 653 := rfl
@[simp] theorem id_msixD3 : msixD3.id = 654 := rfl
@[simp] theorem id_frzCause : frzCause.id = 655 := rfl
@[simp] theorem id_sesState : sesState.id = 656 := rfl
@[simp] theorem id_sesVia : sesVia.id = 657 := rfl
@[simp] theorem id_sesOid : sesOid.id = 658 := rfl
@[simp] theorem id_capLim : capLim.id = 659 := rfl
@[simp] theorem id_thLim : thLim.id = 660 := rfl
@[simp] theorem id_thCoolAt : thCoolAt.id = 661 := rfl
@[simp] theorem id_hvCoolAt : hvCoolAt.id = 662 := rfl
@[simp] theorem id_capCoolAt : capCoolAt.id = 663 := rfl
@[simp] theorem id_capPend : capPend.id = 664 := rfl
@[simp] theorem id_markAt : markAt.id = 665 := rfl
@[simp] theorem id_regTemp : regTemp.id = 666 := rfl
@[simp] theorem id_susAt : susAt.id = 667 := rfl
@[simp] theorem id_droop : droop.id = 668 := rfl
@[simp] theorem id_hbmOff : hbmOff.id = 669 := rfl
@[simp] theorem id_stbHbmoff : stbHbmoff.id = 670 := rfl
@[simp] theorem id_stbForce : stbForce.id = 671 := rfl
@[simp] theorem id_stbAt : stbAt.id = 672 := rfl
@[simp] theorem id_evrTok : evrTok.id = 673 := rfl
@[simp] theorem id_evrSup : evrSup.id = 674 := rfl
@[simp] theorem id_evrLostSec : evrLostSec.id = 675 := rfl
@[simp] theorem id_evrSnapTok : evrSnapTok.id = 676 := rfl
@[simp] theorem id_evrCnt : evrCnt.id = 677 := rfl
@[simp] theorem id_evrStale : evrStale.id = 678 := rfl
@[simp] theorem id_evrFlushIn : evrFlushIn.id = 679 := rfl
@[simp] theorem id_evrSec : evrSec.id = 680 := rfl
@[simp] theorem id_evrSseq : evrSseq.id = 681 := rfl
@[simp] theorem id_evrUnit : evrUnit.id = 682 := rfl
@[simp] theorem id_evrSecSseq : evrSecSseq.id = 683 := rfl
@[simp] theorem id_evrSecBad : evrSecBad.id = 684 := rfl
@[simp] theorem id_evrClear : evrClear.id = 685 := rfl
@[simp] theorem id_evrLostIn : evrLostIn.id = 686 := rfl
@[simp] theorem id_evrLostStb : evrLostStb.id = 687 := rfl
@[simp] theorem id_ctrB : ctrB.id = 688 := rfl
@[simp] theorem id_ctrA : ctrA.id = 689 := rfl
@[simp] theorem id_ctrF : ctrF.id = 690 := rfl
@[simp] theorem id_ctrC : ctrC.id = 691 := rfl
@[simp] theorem id_ctrSeq : ctrSeq.id = 692 := rfl
@[simp] theorem id_ctrSec : ctrSec.id = 693 := rfl
@[simp] theorem id_ctrN : ctrN.id = 694 := rfl
@[simp] theorem id_opsS : opsS.id = 695 := rfl
@[simp] theorem id_envExt : envExt.id = 696 := rfl
@[simp] theorem id_svcFbN : svcFbN.id = 697 := rfl
@[simp] theorem id_svcMaxUs : svcMaxUs.id = 698 := rfl
@[simp] theorem id_alertPin : alertPin.id = 699 := rfl
@[simp] theorem id_modOn : modOn.id = 700 := rfl
@[simp] theorem id_inLost : inLost.id = 701 := rfl
@[simp] theorem id_inLostAt : inLostAt.id = 702 := rfl
@[simp] theorem id_compOff : compOff.id = 703 := rfl
@[simp] theorem id_rmvStep : rmvStep.id = 704 := rfl
@[simp] theorem id_pldmTid : pldmTid.id = 705 := rfl
@[simp] theorem id_pldmRx : pldmRx.id = 706 := rfl
@[simp] theorem id_mctpEid : mctpEid.id = 707 := rfl
@[simp] theorem id_roNext : roNext.id = 708 := rfl
@[simp] theorem id_roCrc : roCrc.id = 709 := rfl
@[simp] theorem id_roSent : roSent.id = 710 := rfl
@[simp] theorem id_roLast : roLast.id = 711 := rfl
@[simp] theorem id_roForm : roForm.id = 712 := rfl
@[simp] theorem id_roOn : roOn.id = 713 := rfl
@[simp] theorem id_mxFail : mxFail.id = 714 := rfl
@[simp] theorem id_msixTab : msixTab.id = 715 := rfl
@[simp] theorem id_evrSecEnd : evrSecEnd.id = 716 := rfl
@[simp] theorem id_evrTorn : evrTorn.id = 717 := rfl
@[simp] theorem id_frzOpsec : frzOpsec.id = 718 := rfl
@[simp] theorem id_frzPcyc : frzPcyc.id = 719 := rfl
@[simp] theorem id_pcsLock : pcsLock.id = 720 := rfl
@[simp] theorem id_sveBad : sveBad.id = 721 := rfl
@[simp] theorem id_tlailBad : tlailBad.id = 722 := rfl
@[simp] theorem id_fwJobImage : fwJobImage.id = 723 := rfl
@[simp] theorem id_fwJobSlot : fwJobSlot.id = 724 := rfl
@[simp] theorem id_fwJobOffset : fwJobOffset.id = 725 := rfl
@[simp] theorem id_fwJobLen : fwJobLen.id = 726 := rfl
@[simp] theorem id_chainEmpty : chainEmpty.id = 727 := rfl
@[simp] theorem id_gaPins : gaPins.id = 728 := rfl
@[simp] theorem id_sesAsk : sesAsk.id = 729 := rfl

@[simp] theorem width_idPartPart : idPartPart.width = 16 := rfl
@[simp] theorem width_idPartStep : idPartStep.width = 8 := rfl
@[simp] theorem width_idGradeIslands : idGradeIslands.width = 4 := rfl
@[simp] theorem width_idGradeChannels : idGradeChannels.width = 4 := rfl
@[simp] theorem width_idGradeLinks : idGradeLinks.width = 8 := rfl
@[simp] theorem width_idGradeSve : idGradeSve.width = 1 := rfl
@[simp] theorem width_idIslmapPhysEn : idIslmapPhysEn.width = 10 := rfl
@[simp] theorem width_coreStatState : coreStatState.width = 3 := rfl
@[simp] theorem width_coreStatOnfic : coreStatOnfic.width = 1 := rfl
@[simp] theorem width_coreStatDbell : coreStatDbell.width = 1 := rfl
@[simp] theorem width_coreStatLdepth : coreStatLdepth.width = 3 := rfl
@[simp] theorem width_coreStatInreplay : coreStatInreplay.width = 1 := rfl
@[simp] theorem width_corePc : corePc.width = 13 := rfl
@[simp] theorem width_coreHaltCode : coreHaltCode.width = 16 := rfl
@[simp] theorem width_coreHaltCause : coreHaltCause.width = 3 := rfl
@[simp] theorem width_coreHaltPc : coreHaltPc.width = 13 := rfl
@[simp] theorem width_coreCyc : coreCyc.width = 64 := rfl
@[simp] theorem width_coreG : coreG.width = 64 := rfl
@[simp] theorem width_coreP : coreP.width = 64 := rfl
@[simp] theorem width_coreSqf : coreSqf.width = 64 := rfl
@[simp] theorem width_mxF : mxF.width = 64 := rfl
@[simp] theorem width_mxStatDrainwait : mxStatDrainwait.width = 1 := rfl
@[simp] theorem width_mxStatRetained : mxStatRetained.width = 1 := rfl
@[simp] theorem width_mxStatNan : mxStatNan.width = 1 := rfl
@[simp] theorem width_mxStatInf : mxStatInf.width = 1 := rfl
@[simp] theorem width_mxStatPoison : mxStatPoison.width = 1 := rfl
@[simp] theorem width_mxTiles : mxTiles.width = 64 := rfl
@[simp] theorem width_mxStallc : mxStallc.width = 64 := rfl
@[simp] theorem width_mxBistDone : mxBistDone.width = 1 := rfl
@[simp] theorem width_mxBistPass : mxBistPass.width = 1 := rfl
@[simp] theorem width_mxBistRow : mxBistRow.width = 5 := rfl
@[simp] theorem width_mxBistCol : mxBistCol.width = 5 := rfl
@[simp] theorem width_vxF : vxF.width = 64 := rfl
@[simp] theorem width_vxStatTqwait : vxStatTqwait.width = 1 := rfl
@[simp] theorem width_vxStatPoison : vxStatPoison.width = 1 := rfl
@[simp] theorem width_vxStatSat8 : vxStatSat8.width = 1 := rfl
@[simp] theorem width_vxStatInf8 : vxStatInf8.width = 1 := rfl
@[simp] theorem width_vxStatNan : vxStatNan.width = 1 := rfl
@[simp] theorem width_tqPops : tqPops.width = 64 := rfl
@[simp] theorem width_spdKindWbank : spdKindWbank.width = 16 := rfl
@[simp] theorem width_spdKindNextWbank : spdKindNextWbank.width = 16 := rfl
@[simp] theorem width_spdPwrOn : spdPwrOn.width = 4 := rfl
@[simp] theorem width_spdPwrReady : spdPwrReady.width = 4 := rfl
@[simp] theorem width_spdPwrNextOn : spdPwrNextOn.width = 4 := rfl
@[simp] theorem width_spdStatConflict : spdStatConflict.width = 1 := rfl
@[simp] theorem width_spdStatAerr : spdStatAerr.width = 1 := rfl
@[simp] theorem width_spdStatUe : spdStatUe.width = 1 := rfl
@[simp] theorem width_spdStatInit : spdStatInit.width = 1 := rfl
@[simp] theorem width_spdStatClean : spdStatClean.width = 1 := rfl
@[simp] theorem width_spdStatAttempt : spdStatAttempt.width = 2 := rfl
@[simp] theorem width_spdStatSwept : spdStatSwept.width = 1 := rfl
@[simp] theorem width_spdConfBank : spdConfBank.width = 4 := rfl
@[simp] theorem width_spdConfWin : spdConfWin.width = 2 := rfl
@[simp] theorem width_spdConfLost : spdConfLost.width = 4 := rfl
@[simp] theorem width_spdConfWrite : spdConfWrite.width = 1 := rfl
@[simp] theorem width_spdConfWord : spdConfWord.width = 9 := rfl
@[simp] theorem width_spdConfCyc : spdConfCyc.width = 32 := rfl
@[simp] theorem width_spdStalec : spdStalec.width = 64 := rfl
@[simp] theorem width_spdCecnt : spdCecnt.width = 64 := rfl
@[simp] theorem width_spdReruns : spdReruns.width = 64 := rfl
@[simp] theorem width_chSpdEpoch : chSpdEpoch.width = 4 := rfl
@[simp] theorem width_foxCtlRaEn : foxCtlRaEn.width = 1 := rfl
@[simp] theorem width_foxCtlRsvc : foxCtlRsvc.width = 3 := rfl
@[simp] theorem width_foxRtimeoutUs : foxRtimeoutUs.width = 16 := rfl
@[simp] theorem width_foxHsqTailIndex : foxHsqTailIndex.width = 6 := rfl
@[simp] theorem width_foxHsqHeadIndex : foxHsqHeadIndex.width = 6 := rfl
@[simp] theorem width_foxHsqDone : foxHsqDone.width = 64 := rfl
@[simp] theorem width_foxSpecServed : foxSpecServed.width = 64 := rfl
@[simp] theorem width_foxRaCancels : foxRaCancels.width = 64 := rfl
@[simp] theorem width_foxRaRetries : foxRaRetries.width = 64 := rfl
@[simp] theorem width_foxRaDiscard : foxRaDiscard.width = 64 := rfl
@[simp] theorem width_foxPoisonWords : foxPoisonWords.width = 64 := rfl
@[simp] theorem width_foxRemoteFail : foxRemoteFail.width = 64 := rfl
@[simp] theorem width_foxRefused : foxRefused.width = 64 := rfl
@[simp] theorem width_foxRaHist : foxRaHist.width = 64 := rfl
@[simp] theorem width_foxRaTabValid : foxRaTabValid.width = 1 := rfl
@[simp] theorem width_foxRaTabRemote : foxRaTabRemote.width = 1 := rfl
@[simp] theorem width_foxRaTabRing : foxRaTabRing.width = 8 := rfl
@[simp] theorem width_foxRaTabRowWords : foxRaTabRowWords.width = 7 := rfl
@[simp] theorem width_foxRaTabBase : foxRaTabBase.width = 40 := rfl
@[simp] theorem width_foxRaTabStride : foxRaTabStride.width = 40 := rfl
@[simp] theorem width_foxRaTabPeer : foxRaTabPeer.width = 18 := rfl
@[simp] theorem width_foxRingCfgEn : foxRingCfgEn.width = 1 := rfl
@[simp] theorem width_foxRingCfgDir : foxRingCfgDir.width = 1 := rfl
@[simp] theorem width_foxRingCfgCore : foxRingCfgCore.width = 8 := rfl
@[simp] theorem width_foxRingCfgSlots : foxRingCfgSlots.width = 7 := rfl
@[simp] theorem width_foxRingCfgSlotWords : foxRingCfgSlotWords.width = 7 := rfl
@[simp] theorem width_foxRingCfgBase : foxRingCfgBase.width = 19 := rfl
@[simp] theorem width_foxRingPtrTail : foxRingPtrTail.width = 6 := rfl
@[simp] theorem width_foxRingPtrHead : foxRingPtrHead.width = 6 := rfl
@[simp] theorem width_foxRingPtrFill : foxRingPtrFill.width = 6 := rfl
@[simp] theorem width_foxRingPtrPub : foxRingPtrPub.width = 7 := rfl
@[simp] theorem width_foxRingPtrTent : foxRingPtrTent.width = 7 := rfl
@[simp] theorem width_foxRingPtrGen : foxRingPtrGen.width = 8 := rfl
@[simp] theorem width_syF : syF.width = 64 := rfl
@[simp] theorem width_synCnt : synCnt.width = 16 := rfl
@[simp] theorem width_synFlagsSatHi : synFlagsSatHi.width = 16 := rfl
@[simp] theorem width_synFlagsSatLo : synFlagsSatLo.width = 16 := rfl
@[simp] theorem width_synFlagsMisuse : synFlagsMisuse.width = 16 := rfl
@[simp] theorem width_epRoom : epRoom.width = 7 := rfl
@[simp] theorem width_rteCtlActive : rteCtlActive.width = 1 := rfl
@[simp] theorem width_rteLinkfDown : rteLinkfDown.width = 6 := rfl
@[simp] theorem width_rteDrops : rteDrops.width = 64 := rfl
@[simp] theorem width_bdgCtlEn : bdgCtlEn.width = 1 := rfl
@[simp] theorem width_bdgWindowCycles : bdgWindowCycles.width = 32 := rfl
@[simp] theorem width_bdgStatDeadlock : bdgStatDeadlock.width = 1 := rfl
@[simp] theorem width_bdgStatQuiet : bdgStatQuiet.width = 1 := rfl
@[simp] theorem width_bdgStatSilent : bdgStatSilent.width = 1 := rfl
@[simp] theorem width_bdgStatQcount : bdgStatQcount.width = 32 := rfl
@[simp] theorem width_bdgWhen : bdgWhen.width = 64 := rfl
@[simp] theorem width_bdgReports : bdgReports.width = 64 := rfl
@[simp] theorem width_bdgCoreState : bdgCoreState.width = 3 := rfl
@[simp] theorem width_bdgCoreExt : bdgCoreExt.width = 1 := rfl
@[simp] theorem width_bdgCoreWkind : bdgCoreWkind.width = 4 := rfl
@[simp] theorem width_bdgCoreObj : bdgCoreObj.width = 8 := rfl
@[simp] theorem width_bdgCorePc : bdgCorePc.width = 13 := rfl
@[simp] theorem width_synBarTimeoutUs : synBarTimeoutUs.width = 16 := rfl
@[simp] theorem width_synChipbarChans : synChipbarChans.width = 8 := rfl
@[simp] theorem width_synBarFaults : synBarFaults.width = 64 := rfl
@[simp] theorem width_hbqWtail : hbqWtail.width = 12 := rfl
@[simp] theorem width_hbqWhead : hbqWhead.width = 12 := rfl
@[simp] theorem width_hbqRtail : hbqRtail.width = 5 := rfl
@[simp] theorem width_hbqRhead : hbqRhead.width = 5 := rfl
@[simp] theorem width_hbqBatches : hbqBatches.width = 64 := rfl
@[simp] theorem width_sveCtlEn0 : sveCtlEn0.width = 1 := rfl
@[simp] theorem width_sveCtlEn1 : sveCtlEn1.width = 1 := rfl
@[simp] theorem width_sveInflight : sveInflight.width = 17 := rfl
@[simp] theorem width_svePortMac : svePortMac.width = 48 := rfl
@[simp] theorem width_svePortVlan : svePortVlan.width = 12 := rfl
@[simp] theorem width_svePortVtag : svePortVtag.width = 1 := rfl
@[simp] theorem width_svePortIpv4 : svePortIpv4.width = 32 := rfl
@[simp] theorem width_svePortUdpPort : svePortUdpPort.width = 16 := rfl
@[simp] theorem width_svePortIpv6Hi : svePortIpv6Hi.width = 64 := rfl
@[simp] theorem width_svePortIpv6Lo : svePortIpv6Lo.width = 64 := rfl
@[simp] theorem width_svePortRxOk : svePortRxOk.width = 64 := rfl
@[simp] theorem width_svePortRxDrop : svePortRxDrop.width = 64 := rfl
@[simp] theorem width_svePortRxSlow : svePortRxSlow.width = 64 := rfl
@[simp] theorem width_svePortTx : svePortTx.width = 64 := rfl
@[simp] theorem width_sveSvcSelId : sveSvcSelId.width = 12 := rfl
@[simp] theorem width_sveSvcW0Bound : sveSvcW0Bound.width = 1 := rfl
@[simp] theorem width_sveSvcW0Channel : sveSvcW0Channel.width = 3 := rfl
@[simp] theorem width_sveSvcW0TagReq : sveSvcW0TagReq.width = 1 := rfl
@[simp] theorem width_sveSvcW0Errq : sveSvcW0Errq.width = 1 := rfl
@[simp] theorem width_sveSvcW0Sync : sveSvcW0Sync.width = 2 := rfl
@[simp] theorem width_sveSvcW0WindowUs : sveSvcW0WindowUs.width = 11 := rfl
@[simp] theorem width_sveSvcW0Maxb : sveSvcW0Maxb.width = 9 := rfl
@[simp] theorem width_sveSvcW0DeadlineUs : sveSvcW0DeadlineUs.width = 20 := rfl
@[simp] theorem width_sveSvcW0Kdef : sveSvcW0Kdef.width = 9 := rfl
@[simp] theorem width_sveSvcW0Keyslot : sveSvcW0Keyslot.width = 4 := rfl
@[simp] theorem width_sveSvcW1Epoch : sveSvcW1Epoch.width = 32 := rfl
@[simp] theorem width_sveSvcW1FbCell : sveSvcW1FbCell.width = 17 := rfl
@[simp] theorem width_sveSvcW1FbLen : sveSvcW1FbLen.width = 13 := rfl
@[simp] theorem width_sveSvcW2Admitted : sveSvcW2Admitted.width = 32 := rfl
@[simp] theorem width_sveSvcW2Fallbacks : sveSvcW2Fallbacks.width = 32 := rfl
@[simp] theorem width_sveSvcW3Errors : sveSvcW3Errors.width = 32 := rfl
@[simp] theorem width_sveSvcW3Tagfail : sveSvcW3Tagfail.width = 32 := rfl
@[simp] theorem width_sveFbwinBase : sveFbwinBase.width = 17 := rfl
@[simp] theorem width_sveChAdmit : sveChAdmit.width = 1 := rfl
@[simp] theorem width_sveChQuota : sveChQuota.width = 19 := rfl
@[simp] theorem width_sveChHeld : sveChHeld.width = 19 := rfl
@[simp] theorem width_sveChNextTag : sveChNextTag.width = 16 := rfl
@[simp] theorem width_sveChQueued : sveChQueued.width = 8 := rfl
@[simp] theorem width_sveChBatches : sveChBatches.width = 64 := rfl
@[simp] theorem width_sveChLate : sveChLate.width = 64 := rfl
@[simp] theorem width_sveChTagGrace : sveChTagGrace.width = 16 := rfl
@[simp] theorem width_sveChLive : sveChLive.width = 17 := rfl
@[simp] theorem width_exchCfgMode : exchCfgMode.width = 2 := rfl
@[simp] theorem width_exchCfgPcarry : exchCfgPcarry.width = 1 := rfl
@[simp] theorem width_exchCfgRflip : exchCfgRflip.width = 1 := rfl
@[simp] theorem width_exchCfgRatab : exchCfgRatab.width = 1 := rfl
@[simp] theorem width_exchCfgForce : exchCfgForce.width = 1 := rfl
@[simp] theorem width_exchSeamTag : exchSeamTag.width = 16 := rfl
@[simp] theorem width_exchSeamEpoch : exchSeamEpoch.width = 32 := rfl
@[simp] theorem width_exchTimeoutUs : exchTimeoutUs.width = 16 := rfl
@[simp] theorem width_exchStatPhase : exchStatPhase.width = 3 := rfl
@[simp] theorem width_exchStatResult : exchStatResult.width = 3 := rfl
@[simp] theorem width_exchStatSeamTag : exchStatSeamTag.width = 16 := rfl
@[simp] theorem width_exchStatNotready : exchStatNotready.width = 8 := rfl
@[simp] theorem width_exchStatSyncdrop : exchStatSyncdrop.width = 8 := rfl
@[simp] theorem width_exchCount : exchCount.width = 64 := rfl
@[simp] theorem width_exchLastGtc : exchLastGtc.width = 64 := rfl
@[simp] theorem width_exchRsel : exchRsel.width = 32 := rfl
@[simp] theorem width_exchRatabValid : exchRatabValid.width = 1 := rfl
@[simp] theorem width_exchRatabRemote : exchRatabRemote.width = 1 := rfl
@[simp] theorem width_exchRatabRing : exchRatabRing.width = 8 := rfl
@[simp] theorem width_exchRatabRowWords : exchRatabRowWords.width = 7 := rfl
@[simp] theorem width_exchRatabBase : exchRatabBase.width = 40 := rfl
@[simp] theorem width_exchRatabStride : exchRatabStride.width = 40 := rfl
@[simp] theorem width_exchRatabPeer : exchRatabPeer.width = 18 := rfl
@[simp] theorem width_exchRingCfgEn : exchRingCfgEn.width = 1 := rfl
@[simp] theorem width_exchRingCfgDir : exchRingCfgDir.width = 1 := rfl
@[simp] theorem width_exchRingCfgCore : exchRingCfgCore.width = 8 := rfl
@[simp] theorem width_exchRingCfgSlots : exchRingCfgSlots.width = 7 := rfl
@[simp] theorem width_exchRingCfgSlotWords : exchRingCfgSlotWords.width = 7 := rfl
@[simp] theorem width_exchRingCfgBase : exchRingCfgBase.width = 19 := rfl
@[simp] theorem width_epochCtlRapar : epochCtlRapar.width = 1 := rfl
@[simp] theorem width_epochInflEven : epochInflEven.width = 17 := rfl
@[simp] theorem width_epochInflOdd : epochInflOdd.width = 17 := rfl
@[simp] theorem width_epochRabaseBase : epochRabaseBase.width = 40 := rfl
@[simp] theorem width_chCfgLockstep : chCfgLockstep.width = 1 := rfl
@[simp] theorem width_chCfgLfreq : chCfgLfreq.width = 2 := rfl
@[simp] theorem width_chCfgAllowRace : chCfgAllowRace.width = 1 := rfl
@[simp] theorem width_chCfgRefalign : chCfgRefalign.width = 1 := rfl
@[simp] theorem width_retryCount : retryCount.width = 64 := rfl
@[simp] theorem width_raceCount : raceCount.width = 64 := rfl
@[simp] theorem width_stretchCyclesFrac : stretchCyclesFrac.width = 4 := rfl
@[simp] theorem width_stretchCyclesWhole : stretchCyclesWhole.width = 60 := rfl
@[simp] theorem width_detIslStretchFrac : detIslStretchFrac.width = 4 := rfl
@[simp] theorem width_detIslStretchWhole : detIslStretchWhole.width = 60 := rfl
@[simp] theorem width_detCtlExpect : detCtlExpect.width = 2 := rfl
@[simp] theorem width_detLogHeadNext : detLogHeadNext.width = 6 := rfl
@[simp] theorem width_detLogHeadWritten : detLogHeadWritten.width = 32 := rfl
@[simp] theorem width_detLogTag : detLogTag.width = 16 := rfl
@[simp] theorem width_detLogKept : detLogKept.width = 2 := rfl
@[simp] theorem width_detLogFreq : detLogFreq.width = 2 := rfl
@[simp] theorem width_detLogRef2x : detLogRef2x.width = 1 := rfl
@[simp] theorem width_detLogCauses : detLogCauses.width = 8 := rfl
@[simp] theorem width_detLogSegs : detLogSegs.width = 16 := rfl
@[simp] theorem width_detLogPhase : detLogPhase.width = 16 := rfl
@[simp] theorem width_detLogCsig : detLogCsig.width = 64 := rfl
@[simp] theorem width_detLogOsig : detLogOsig.width = 64 := rfl
@[simp] theorem width_detLogDretry : detLogDretry.width = 16 := rfl
@[simp] theorem width_detLogDrace : detLogDrace.width = 16 := rfl
@[simp] theorem width_detLogDstretch : detLogDstretch.width = 32 := rfl
@[simp] theorem width_detCoreDcyc : detCoreDcyc.width = 32 := rfl
@[simp] theorem width_detCoreSegs : detCoreSegs.width = 16 := rfl
@[simp] theorem width_detCoreOpen : detCoreOpen.width = 16 := rfl
@[simp] theorem width_tunStatState : tunStatState.width = 2 := rfl
@[simp] theorem width_tunStatContested : tunStatContested.width = 1 := rfl
@[simp] theorem width_tunStatForced : tunStatForced.width = 1 := rfl
@[simp] theorem width_tunStatSlewing : tunStatSlewing.width = 1 := rfl
@[simp] theorem width_tunStatStepped : tunStatStepped.width = 1 := rfl
@[simp] theorem width_tunStatNagree : tunStatNagree.width = 6 := rfl
@[simp] theorem width_tunStatNelig : tunStatNelig.width = 6 := rfl
@[simp] theorem width_tunStatLevel : tunStatLevel.width = 6 := rfl
@[simp] theorem width_tunStatAgeMs : tunStatAgeMs.width = 16 := rfl
@[simp] theorem width_tunTrim : tunTrim.width = 32 := rfl
@[simp] theorem width_tunFest : tunFest.width = 32 := rfl
@[simp] theorem width_tunOffset : tunOffset.width = 32 := rfl
@[simp] theorem width_tunPolSyncEn : tunPolSyncEn.width = 1 := rfl
@[simp] theorem width_tunPolSyncRef : tunPolSyncRef.width = 1 := rfl
@[simp] theorem width_tunPolPtmEn : tunPolPtmEn.width = 1 := rfl
@[simp] theorem width_tunPolPtmRef : tunPolPtmRef.width = 1 := rfl
@[simp] theorem width_tunPolForce : tunPolForce.width = 7 := rfl
@[simp] theorem width_tunPolStepNs : tunPolStepNs.width = 32 := rfl
@[simp] theorem width_tunLnkenEn : tunLnkenEn.width = 48 := rfl
@[simp] theorem width_tunLrefused : tunLrefused.width = 64 := rfl
@[simp] theorem width_tunQuar : tunQuar.width = 64 := rfl
@[simp] theorem width_tunFbarLate : tunFbarLate.width = 64 := rfl
@[simp] theorem width_tunFbarUntimed : tunFbarUntimed.width = 64 := rfl
@[simp] theorem width_tunSrcOffset : tunSrcOffset.width = 32 := rfl
@[simp] theorem width_tunSrcPlevel : tunSrcPlevel.width = 6 := rfl
@[simp] theorem width_tunSrcUsable : tunSrcUsable.width = 1 := rfl
@[simp] theorem width_tunSrcFresh : tunSrcFresh.width = 1 := rfl
@[simp] theorem width_tunSrcElig : tunSrcElig.width = 1 := rfl
@[simp] theorem width_tunSrcAgree : tunSrcAgree.width = 1 := rfl
@[simp] theorem width_tunSrcQuar : tunSrcQuar.width = 1 := rfl
@[simp] theorem width_tunSrcQleft : tunSrcQleft.width = 8 := rfl
@[simp] theorem width_tunSrcDelay : tunSrcDelay.width = 32 := rfl
@[simp] theorem width_tunSrcSamples : tunSrcSamples.width = 16 := rfl
@[simp] theorem width_tunSrcDiscards : tunSrcDiscards.width = 16 := rfl
@[simp] theorem width_tunAsym : tunAsym.width = 32 := rfl
@[simp] theorem width_tunFbarChans : tunFbarChans.width = 8 := rfl
@[simp] theorem width_tunFbarUpch : tunFbarUpch.width = 3 := rfl
@[simp] theorem width_tunFbarUpl : tunFbarUpl.width = 3 := rfl
@[simp] theorem width_tunFbarDown : tunFbarDown.width = 48 := rfl
@[simp] theorem width_tunFbarLeadNs : tunFbarLeadNs.width = 16 := rfl
@[simp] theorem width_lnkCfgEn : lnkCfgEn.width = 1 := rfl
@[simp] theorem width_lnkStatState : lnkStatState.width = 3 := rfl
@[simp] theorem width_lnkStatLadmit : lnkStatLadmit.width = 1 := rfl
@[simp] theorem width_lnkStatPadmit : lnkStatPadmit.width = 1 := rfl
@[simp] theorem width_lnkStatCable : lnkStatCable.width = 1 := rfl
@[simp] theorem width_lnkStatSignal : lnkStatSignal.width = 1 := rfl
@[simp] theorem width_lnkStatLock : lnkStatLock.width = 1 := rfl
@[simp] theorem width_lnkStatFcause : lnkStatFcause.width = 4 := rfl
@[simp] theorem width_lnkPeerChip : lnkPeerChip.width = 15 := rfl
@[simp] theorem width_lnkPeerValid : lnkPeerValid.width = 1 := rfl
@[simp] theorem width_lnkPeerPlink : lnkPeerPlink.width = 6 := rfl
@[simp] theorem width_lnkPeerPart : lnkPeerPart.width = 16 := rfl
@[simp] theorem width_lnkPeerStep : lnkPeerStep.width = 8 := rfl
@[simp] theorem width_lnkPnonce : lnkPnonce.width = 64 := rfl
@[simp] theorem width_lnkTxFlits : lnkTxFlits.width = 64 := rfl
@[simp] theorem width_lnkRxFlits : lnkRxFlits.width = 64 := rfl
@[simp] theorem width_lnkCrcErr : lnkCrcErr.width = 64 := rfl
@[simp] theorem width_lnkFecCorr : lnkFecCorr.width = 64 := rfl
@[simp] theorem width_lnkFecUncorr : lnkFecUncorr.width = 64 := rfl
@[simp] theorem width_lnkEpisodes : lnkEpisodes.width = 64 := rfl
@[simp] theorem width_lnkIsoDrop : lnkIsoDrop.width = 64 := rfl
@[simp] theorem width_lnkRxDrop : lnkRxDrop.width = 64 := rfl
@[simp] theorem width_lnkAttStatAtt : lnkAttStatAtt.width = 3 := rfl
@[simp] theorem width_lnkCertDigest : lnkCertDigest.width = 64 := rfl
@[simp] theorem width_lnkMeasDigest : lnkMeasDigest.width = 64 := rfl
@[simp] theorem width_fabCtlChipId : fabCtlChipId.width = 15 := rfl
@[simp] theorem width_fabCtlValid : fabCtlValid.width = 1 := rfl
@[simp] theorem width_fabCtlHopmax : fabCtlHopmax.width = 4 := rfl
@[simp] theorem width_fabFwdAddrChip : fabFwdAddrChip.width = 15 := rfl
@[simp] theorem width_fabFwdAddrCh : fabFwdAddrCh.width = 3 := rfl
@[simp] theorem width_fabFwdFrames : fabFwdFrames.width = 64 := rfl
@[simp] theorem width_fabFwdDrop : fabFwdDrop.width = 64 := rfl
@[simp] theorem width_fabHopfailTx : fabHopfailTx.width = 64 := rfl
@[simp] theorem width_fabHopfailRx : fabHopfailRx.width = 64 := rfl
@[simp] theorem width_ownChStatState : ownChStatState.width = 3 := rfl
@[simp] theorem width_ownChStatKeysrc : ownChStatKeysrc.width = 2 := rfl
@[simp] theorem width_ownChStatRdkey : ownChStatRdkey.width = 1 := rfl
@[simp] theorem width_ownChStatPending : ownChStatPending.width = 1 := rfl
@[simp] theorem width_ownChStatSkeys : ownChStatSkeys.width = 16 := rfl
@[simp] theorem width_ownChOid : ownChOid.width = 64 := rfl
@[simp] theorem width_ownCfgHostio : ownCfgHostio.width = 2 := rfl
@[simp] theorem width_ownCfgEvrVisible : ownCfgEvrVisible.width = 1 := rfl
@[simp] theorem width_ownCfgSvcTagged : ownCfgSvcTagged.width = 1 := rfl
@[simp] theorem width_ownGrantChip : ownGrantChip.width = 15 := rfl
@[simp] theorem width_ownGrantCh : ownGrantCh.width = 3 := rfl
@[simp] theorem width_ownGrantSend : ownGrantSend.width = 1 := rfl
@[simp] theorem width_ownGrantRecv : ownGrantRecv.width = 1 := rfl
@[simp] theorem width_ownGrantRead : ownGrantRead.width = 1 := rfl
@[simp] theorem width_ownGrantServe : ownGrantServe.width = 1 := rfl
@[simp] theorem width_ownSkeyLoadKey : ownSkeyLoadKey.width = 64 := rfl
@[simp] theorem width_ownFiltTx : ownFiltTx.width = 64 := rfl
@[simp] theorem width_ownFiltRx : ownFiltRx.width = 64 := rfl
@[simp] theorem width_ownBar2Deny : ownBar2Deny.width = 64 := rfl
@[simp] theorem width_ownKills : ownKills.width = 64 := rfl
@[simp] theorem width_msrBootStage : msrBootStage.width = 3 := rfl
@[simp] theorem width_msrBootFallback : msrBootFallback.width = 1 := rfl
@[simp] theorem width_msrBootSlotb : msrBootSlotb.width = 6 := rfl
@[simp] theorem width_msrBootRcause : msrBootRcause.width = 4 := rfl
@[simp] theorem width_msrBootWdcount : msrBootWdcount.width = 4 := rfl
@[simp] theorem width_msrBootReadyMs : msrBootReadyMs.width = 32 := rfl
@[simp] theorem width_msrBootselPreferB : msrBootselPreferB.width = 6 := rfl
@[simp] theorem width_msrLockLocked : msrLockLocked.width = 9 := rfl
@[simp] theorem width_msrDbgState : msrDbgState.width = 2 := rfl
@[simp] theorem width_msrVal : msrVal.width = 64 := rfl
@[simp] theorem width_msrImgverVersion : msrImgverVersion.width = 32 := rfl
@[simp] theorem width_msrFwCmdImage : msrFwCmdImage.width = 3 := rfl
@[simp] theorem width_msrFwCmdSlot : msrFwCmdSlot.width = 1 := rfl
@[simp] theorem width_msrFwCmdOffset : msrFwCmdOffset.width = 12 := rfl
@[simp] theorem width_msrFwLenBytes : msrFwLenBytes.width = 16 := rfl
@[simp] theorem width_msrFwStatBusy : msrFwStatBusy.width = 1 := rfl
@[simp] theorem width_msrFwStatResult : msrFwStatResult.width = 3 := rfl
@[simp] theorem width_msrFwwin : msrFwwin.width = 8 := rfl
@[simp] theorem width_chPwrReq : chPwrReq.width = 2 := rfl
@[simp] theorem width_chPwrHbmoff : chPwrHbmoff.width = 1 := rfl
@[simp] theorem width_chPwrAutorun : chPwrAutorun.width = 1 := rfl
@[simp] theorem width_chPwrWbatch : chPwrWbatch.width = 1 := rfl
@[simp] theorem width_chPwrWgtc : chPwrWgtc.width = 1 := rfl
@[simp] theorem width_chPwrStatState : chPwrStatState.width = 3 := rfl
@[simp] theorem width_chPwrStatWcause : chPwrStatWcause.width = 3 := rfl
@[simp] theorem width_chPwrStatWfail : chPwrStatWfail.width = 1 := rfl
@[simp] theorem width_chPwrStatDefer : chPwrStatDefer.width = 16 := rfl
@[simp] theorem width_chPwrStatWakeNs : chPwrStatWakeNs.width = 32 := rfl
@[simp] theorem width_chWakeGtc : chWakeGtc.width = 64 := rfl
@[simp] theorem width_chPwrDrops : chPwrDrops.width = 64 := rfl
@[simp] theorem width_chFsetFset : chFsetFset.width = 11 := rfl
@[simp] theorem width_chFsetFmin : chFsetFmin.width = 11 := rfl
@[simp] theorem width_chPctlPcapW : chPctlPcapW.width = 16 := rfl
@[simp] theorem width_chPctlLmin : chPctlLmin.width = 2 := rfl
@[simp] theorem width_chClkStatFeff : chClkStatFeff.width = 11 := rfl
@[simp] theorem width_chClkStatHalved : chClkStatHalved.width = 1 := rfl
@[simp] theorem width_chClkStatThrottled : chClkStatThrottled.width = 1 := rfl
@[simp] theorem width_chClkStatCapped : chClkStatCapped.width = 1 := rfl
@[simp] theorem width_pwrCapWatts : pwrCapWatts.width = 16 := rfl
@[simp] theorem width_pwrStatThrottle : pwrStatThrottle.width = 8 := rfl
@[simp] theorem width_pwrStatHalved : pwrStatHalved.width = 8 := rfl
@[simp] theorem width_pwrStatSensorSuspect : pwrStatSensorSuspect.width = 1 := rfl
@[simp] theorem width_pwrStatCapmiss : pwrStatCapmiss.width = 1 := rfl
@[simp] theorem width_pwrStatWfail : pwrStatWfail.width = 1 := rfl
@[simp] theorem width_pwrStatChip : pwrStatChip.width = 2 := rfl
@[simp] theorem width_pwrSuspectIsl : pwrSuspectIsl.width = 10 := rfl
@[simp] theorem width_pwrSuspectUnits : pwrSuspectUnits.width = 1 := rfl
@[simp] theorem width_pwrTripTripped : pwrTripTripped.width = 1 := rfl
@[simp] theorem width_pwrTripChipsus : pwrTripChipsus.width = 1 := rfl
@[simp] theorem width_pwrTripRegion : pwrTripRegion.width = 8 := rfl
@[simp] theorem width_pwrTripTj : pwrTripTj.width = 16 := rfl
@[simp] theorem width_pwrVfloor : pwrVfloor.width = 10 := rfl
@[simp] theorem width_pwrWtDirFirst : pwrWtDirFirst.width = 8 := rfl
@[simp] theorem width_pwrWtDirRecords : pwrWtDirRecords.width = 8 := rfl
@[simp] theorem width_pwrWt : pwrWt.width = 64 := rfl
@[simp] theorem width_telChPwrMw : telChPwrMw.width = 32 := rfl
@[simp] theorem width_telChRailMv : telChRailMv.width = 32 := rfl
@[simp] theorem width_telChTj : telChTj.width = 16 := rfl
@[simp] theorem width_telChHbmTj : telChHbmTj.width = 16 := rfl
@[simp] theorem width_telChipPwrMw : telChipPwrMw.width = 32 := rfl
@[simp] theorem width_telChipTj : telChipTj.width = 16 := rfl
@[simp] theorem width_evrStatMounted : evrStatMounted.width = 1 := rfl
@[simp] theorem width_evrStatFlushing : evrStatFlushing.width = 1 := rfl
@[simp] theorem width_evrCurPos : evrCurPos.width = 44 := rfl
@[simp] theorem width_evrWritten : evrWritten.width = 64 := rfl
@[simp] theorem width_evrLost : evrLost.width = 64 := rfl
@[simp] theorem width_evrSuppressed : evrSuppressed.width = 64 := rfl
@[simp] theorem width_evrBadsect : evrBadsect.width = 64 := rfl
@[simp] theorem width_evrTrigCode : evrTrigCode.width = 16 := rfl
@[simp] theorem width_evrTrigMask : evrTrigMask.width = 16 := rfl
@[simp] theorem width_evrTrigSrc : evrTrigSrc.width = 9 := rfl
@[simp] theorem width_evrTrigN : evrTrigN.width = 5 := rfl
@[simp] theorem width_evrTrigFrz : evrTrigFrz.width = 1 := rfl
@[simp] theorem width_evrTrigEn : evrTrigEn.width = 1 := rfl
@[simp] theorem width_evrTrigMissed : evrTrigMissed.width = 16 := rfl
@[simp] theorem width_evrTrigSel : evrTrigSel.width = 32 := rfl
@[simp] theorem width_evrRlim : evrRlim.width = 8 := rfl
@[simp] theorem width_frzArmPin : frzArmPin.width = 1 := rfl
@[simp] theorem width_frzArmTrig : frzArmTrig.width = 1 := rfl
@[simp] theorem width_frzStatFrozen : frzStatFrozen.width = 1 := rfl
@[simp] theorem width_frzStatSrc : frzStatSrc.width = 2 := rfl
@[simp] theorem width_frzStatSlot : frzStatSlot.width = 5 := rfl
@[simp] theorem width_frzStatChfrozen : frzStatChfrozen.width = 8 := rfl
@[simp] theorem width_frzStatRo : frzStatRo.width = 3 := rfl
@[simp] theorem width_frzStatPath : frzStatPath.width = 1 := rfl
@[simp] theorem width_frzGtc : frzGtc.width = 64 := rfl
@[simp] theorem width_frzRoPosOffset : frzRoPosOffset.width = 64 := rfl
@[simp] theorem width_frzRoLenBytes : frzRoLenBytes.width = 17 := rfl
@[simp] theorem width_frzRoLenLast : frzRoLenLast.width = 1 := rfl
@[simp] theorem width_frzRoLenReady : frzRoLenReady.width = 1 := rfl
@[simp] theorem width_frzHbmBase : frzHbmBase.width = 40 := rfl
@[simp] theorem width_frzHbmLen : frzHbmLen.width = 15 := rfl
@[simp] theorem width_frzRowin : frzRowin.width = 8 := rfl
@[simp] theorem width_idSerial : idSerial.width = 64 := rfl
@[simp] theorem width_idSlot : idSlot.width = 8 := rfl
@[simp] theorem width_idTopoConn : idTopoConn.width = 3 := rfl
@[simp] theorem width_idTopoPos : idTopoPos.width = 1 := rfl
@[simp] theorem width_idTopoBpair : idTopoBpair.width = 8 := rfl
@[simp] theorem width_mbxCmdCode : mbxCmdCode.width = 8 := rfl
@[simp] theorem width_mbxCmdSeq : mbxCmdSeq.width = 8 := rfl
@[simp] theorem width_mbxStatBusy : mbxStatBusy.width = 1 := rfl
@[simp] theorem width_mbxStatDone : mbxStatDone.width = 1 := rfl
@[simp] theorem width_mbxStatReady : mbxStatReady.width = 1 := rfl
@[simp] theorem width_mbxStatOverrun : mbxStatOverrun.width = 1 := rfl
@[simp] theorem width_mbxStatStatus : mbxStatStatus.width = 8 := rfl
@[simp] theorem width_mbxStatSeq : mbxStatSeq.width = 8 := rfl
@[simp] theorem width_mbxStatCode : mbxStatCode.width = 8 := rfl
@[simp] theorem width_mbxStatDetail : mbxStatDetail.width = 16 := rfl
@[simp] theorem width_mbxArg : mbxArg.width = 32 := rfl
@[simp] theorem width_mbxRsp : mbxRsp.width = 32 := rfl
@[simp] theorem width_mbxIrqStatCause : mbxIrqStatCause.width = 11 := rfl
@[simp] theorem width_mbxIrqMask : mbxIrqMask.width = 11 := rfl
@[simp] theorem width_chIrqStatCause : chIrqStatCause.width = 8 := rfl
@[simp] theorem width_chIrqMask : chIrqMask.width = 8 := rfl
@[simp] theorem width_fpnStatLatch : fpnStatLatch.width = 1 := rfl
@[simp] theorem width_fpnStatAttn : fpnStatAttn.width = 1 := rfl
@[simp] theorem width_fpnStatDisp : fpnStatDisp.width = 1 := rfl
@[simp] theorem width_fpnStatPage : fpnStatPage.width = 3 := rfl
@[simp] theorem width_fpnStatView : fpnStatView.width = 3 := rfl
@[simp] theorem width_fpnStatRmv : fpnStatRmv.width = 3 := rfl
@[simp] theorem width_fpnCtlRmvAuto : fpnCtlRmvAuto.width = 1 := rfl
@[simp] theorem width_fpnCtlAutoret : fpnCtlAutoret.width = 1 := rfl
@[simp] theorem width_fpnCtlDtimeout : fpnCtlDtimeout.width = 8 := rfl
@[simp] theorem width_fpnCtlRmvTmoMs : fpnCtlRmvTmoMs.width = 16 := rfl
@[simp] theorem width_fpnLocMode : fpnLocMode.width = 2 := rfl
@[simp] theorem width_fpnAlertCause : fpnAlertCause.width = 6 := rfl
@[simp] theorem width_fpnAlertEn : fpnAlertEn.width = 6 := rfl
@[simp] theorem width_fpnPwrVin : fpnPwrVin.width = 16 := rfl
@[simp] theorem width_fpnPwrIin : fpnPwrIin.width = 16 := rfl
@[simp] theorem width_fpnPwrVbank : fpnPwrVbank.width = 16 := rfl
@[simp] theorem width_fpnPwrLosses : fpnPwrLosses.width = 16 := rfl
@[simp] theorem width_fpnCagePresent : fpnCagePresent.width = 1 := rfl
@[simp] theorem width_fpnCageHighpwr : fpnCageHighpwr.width = 1 := rfl
@[simp] theorem width_fpnCageOverclass : fpnCageOverclass.width = 1 := rfl
@[simp] theorem width_fpnCageAlarm : fpnCageAlarm.width = 1 := rfl
@[simp] theorem width_fpnCageRreq : fpnCageRreq.width = 1 := rfl
@[simp] theorem width_fpnCagePwrW : fpnCagePwrW.width = 8 := rfl
@[simp] theorem width_tunSyncCfgPeriodNs : tunSyncCfgPeriodNs.width = 32 := rfl
@[simp] theorem width_tunSyncCfgOffsetNs : tunSyncCfgOffsetNs.width = 32 := rfl
@[simp] theorem width_tunSyncDly : tunSyncDly.width = 32 := rfl
@[simp] theorem width_tunSoutCfgPeriodNs : tunSoutCfgPeriodNs.width = 32 := rfl
@[simp] theorem width_tunSoutCfgOffsetNs : tunSoutCfgOffsetNs.width = 32 := rfl
@[simp] theorem width_tunPtmCfgPeriod : tunPtmCfgPeriod.width = 16 := rfl
@[simp] theorem width_tunPtmOfs : tunPtmOfs.width = 64 := rfl
@[simp] theorem width_rteRank : rteRank.width = 8 := rfl
@[simp] theorem width_rteExt : rteExt.width = 8 := rfl
@[simp] theorem width_rteRoute : rteRoute.width = 64 := rfl
@[simp] theorem width_rteBarMem : rteBarMem.width = 32 := rfl
@[simp] theorem width_coreLoopStart : coreLoopStart.width = 13 := rfl
@[simp] theorem width_coreLoopLast : coreLoopLast.width = 13 := rfl
@[simp] theorem width_coreLoopCount : coreLoopCount.width = 32 := rfl
@[simp] theorem width_coreLoopIdx : coreLoopIdx.width = 32 := rfl
@[simp] theorem width_coreRepStart : coreRepStart.width = 13 := rfl
@[simp] theorem width_coreRepLen : coreRepLen.width = 13 := rfl
@[simp] theorem width_coreRepCount : coreRepCount.width = 32 := rfl
@[simp] theorem width_coreRepIdx : coreRepIdx.width = 32 := rfl
@[simp] theorem width_coreRepRet : coreRepRet.width = 13 := rfl
@[simp] theorem width_corePatchArm : corePatchArm.width = 1 := rfl
@[simp] theorem width_corePatchPd : corePatchPd.width = 6 := rfl
@[simp] theorem width_corePatchPs : corePatchPs.width = 6 := rfl
@[simp] theorem width_coreGRdy : coreGRdy.width = 64 := rfl
@[simp] theorem width_coreVRdy : coreVRdy.width = 64 := rfl
@[simp] theorem width_coreWkind : coreWkind.width = 4 := rfl
@[simp] theorem width_coreWobj : coreWobj.width = 8 := rfl
@[simp] theorem width_coreClkPend : coreClkPend.width = 1 := rfl
@[simp] theorem width_coreAlign : coreAlign.width = 1 := rfl
@[simp] theorem width_coreBank : coreBank.width = 1 := rfl
@[simp] theorem width_mxDoneAt : mxDoneAt.width = 64 := rfl
@[simp] theorem width_mxRetPlane : mxRetPlane.width = 1 := rfl
@[simp] theorem width_mxRetInt : mxRetInt.width = 1 := rfl
@[simp] theorem width_vxDoneAt : vxDoneAt.width = 64 := rfl
@[simp] theorem width_tqHead : tqHead.width = 3 := rfl
@[simp] theorem width_tqEnt : tqEnt.width = 2 := rfl
@[simp] theorem width_tqFreeAt : tqFreeAt.width = 64 := rfl
@[simp] theorem width_tqFullAt : tqFullAt.width = 64 := rfl
@[simp] theorem width_spdTag : spdTag.width = 4 := rfl
@[simp] theorem width_spdErr : spdErr.width = 1 := rfl
@[simp] theorem width_spdInitMask : spdInitMask.width = 16 := rfl
@[simp] theorem width_spdUpMask : spdUpMask.width = 4 := rfl
@[simp] theorem width_spdSweepPos : spdSweepPos.width = 9 := rfl
@[simp] theorem width_spdVisited : spdVisited.width = 10 := rfl
@[simp] theorem width_spdHaltPend : spdHaltPend.width = 1 := rfl
@[simp] theorem width_spdCeSec : spdCeSec.width = 64 := rfl
@[simp] theorem width_coreStartWait : coreStartWait.width = 1 := rfl
@[simp] theorem width_msixEn : msixEn.width = 1 := rfl
@[simp] theorem width_msixFmask : msixFmask.width = 1 := rfl
@[simp] theorem width_msixVmask : msixVmask.width = 1 := rfl
@[simp] theorem width_msixPba : msixPba.width = 1 := rfl
@[simp] theorem width_fnD3 : fnD3.width = 1 := rfl
@[simp] theorem width_gtc : gtc.width = 64 := rfl
@[simp] theorem width_ringPubv : ringPubv.width = 7 := rfl
@[simp] theorem width_ringFreev : ringFreev.width = 7 := rfl
@[simp] theorem width_ringCorePtr : ringCorePtr.width = 6 := rfl
@[simp] theorem width_ringSlotSt : ringSlotSt.width = 2 := rfl
@[simp] theorem width_ringSlotLanded : ringSlotLanded.width = 1 := rfl
@[simp] theorem width_ringSlotWords : ringSlotWords.width = 7 := rfl
@[simp] theorem width_ringSlotEos : ringSlotEos.width = 1 := rfl
@[simp] theorem width_ringSlotPoison : ringSlotPoison.width = 1 := rfl
@[simp] theorem width_ringSlotLeft : ringSlotLeft.width = 7 := rfl
@[simp] theorem width_ringSlotGen : ringSlotGen.width = 8 := rfl
@[simp] theorem width_fxWait : fxWait.width = 1 := rfl
@[simp] theorem width_fxDoneAt : fxDoneAt.width = 64 := rfl
@[simp] theorem width_fxF : fxF.width = 64 := rfl
@[simp] theorem width_syLeft : syLeft.width = 64 := rfl
@[simp] theorem width_syIdx : syIdx.width = 16 := rfl
@[simp] theorem width_syEp : syEp.width = 3 := rfl
@[simp] theorem width_syAddr : syAddr.width = 19 := rfl
@[simp] theorem width_syDoneAt : syDoneAt.width = 64 := rfl
@[simp] theorem width_barCount : barCount.width = 32 := rfl
@[simp] theorem width_barWait : barWait.width = 1 := rfl
@[simp] theorem width_barFault : barFault.width = 2 := rfl
@[simp] theorem width_barFaultGen : barFaultGen.width = 32 := rfl
@[simp] theorem width_barTimer : barTimer.width = 1 := rfl
@[simp] theorem width_ringViewPend : ringViewPend.width = 7 := rfl
@[simp] theorem width_ringReadSlot : ringReadSlot.width = 6 := rfl
@[simp] theorem width_foxLead : foxLead.width = 6 := rfl
@[simp] theorem width_foxSeq : foxSeq.width = 32 := rfl
@[simp] theorem width_foxServK : foxServK.width = 32 := rfl
@[simp] theorem width_foxRsvcEff : foxRsvcEff.width = 3 := rfl
@[simp] theorem width_foxHsqSeen : foxHsqSeen.width = 6 := rfl
@[simp] theorem width_foxHsqWay : foxHsqWay.width = 1 := rfl
@[simp] theorem width_fabFwd : fabFwd.width = 3 := rfl
@[simp] theorem width_lnkTxSeq : lnkTxSeq.width = 12 := rfl
@[simp] theorem width_lnkExp : lnkExp.width = 12 := rfl
@[simp] theorem width_lnkNakPend : lnkNakPend.width = 1 := rfl
@[simp] theorem width_lnkNakDue : lnkNakDue.width = 1 := rfl
@[simp] theorem width_lnkRxEp : lnkRxEp.width = 1 := rfl
@[simp] theorem width_lnkTxEp : lnkTxEp.width = 1 := rfl
@[simp] theorem width_lnkTxEpSeq : lnkTxEpSeq.width = 12 := rfl
@[simp] theorem width_lnkReplay : lnkReplay.width = 10 := rfl
@[simp] theorem width_lnkRot : lnkRot.width = 2 := rfl
@[simp] theorem width_lnkNonce : lnkNonce.width = 64 := rfl
@[simp] theorem width_lnkHello : lnkHello.width = 1 := rfl
@[simp] theorem width_lnkRetiring : lnkRetiring.width = 1 := rfl
@[simp] theorem width_lnkEverAdm : lnkEverAdm.width = 1 := rfl
@[simp] theorem width_lnkBseq : lnkBseq.width = 8 := rfl
@[simp] theorem width_lnkBcnDue : lnkBcnDue.width = 1 := rfl
@[simp] theorem width_lnkPeerBseq : lnkPeerBseq.width = 8 := rfl
@[simp] theorem width_lnkPeerTx : lnkPeerTx.width = 64 := rfl
@[simp] theorem width_lnkPeerRx : lnkPeerRx.width = 64 := rfl
@[simp] theorem width_fabHfTime : fabHfTime.width = 64 := rfl
@[simp] theorem width_barLast : barLast.width = 8 := rfl
@[simp] theorem width_fbarGen : fbarGen.width = 32 := rfl
@[simp] theorem width_fbarArr : fbarArr.width = 1 := rfl
@[simp] theorem width_fbarSent : fbarSent.width = 1 := rfl
@[simp] theorem width_fbarRel : fbarRel.width = 1 := rfl
@[simp] theorem width_fbarT : fbarT.width = 64 := rfl
@[simp] theorem width_syExact : syExact.width = 1 := rfl
@[simp] theorem width_detOpen : detOpen.width = 1 := rfl
@[simp] theorem width_detTag : detTag.width = 16 := rfl
@[simp] theorem width_detCauses : detCauses.width = 8 := rfl
@[simp] theorem width_detRetry0 : detRetry0.width = 64 := rfl
@[simp] theorem width_detRace0 : detRace0.width = 64 := rfl
@[simp] theorem width_detStretch0 : detStretch0.width = 60 := rfl
@[simp] theorem width_detOsig : detOsig.width = 64 := rfl
@[simp] theorem width_detRingExt : detRingExt.width = 1 := rfl
@[simp] theorem width_detSegOpen : detSegOpen.width = 1 := rfl
@[simp] theorem width_detSegStart : detSegStart.width = 64 := rfl
@[simp] theorem width_detSegExt : detSegExt.width = 1 := rfl
@[simp] theorem width_detSegOpens : detSegOpens.width = 16 := rfl
@[simp] theorem width_synRem : synRem.width = 1 := rfl
@[simp] theorem width_refHalf : refHalf.width = 1 := rfl
@[simp] theorem width_refPend : refPend.width = 1 := rfl
@[simp] theorem width_chLfreqEff : chLfreqEff.width = 2 := rfl
@[simp] theorem width_svcLat : svcLat.width = 32 := rfl
@[simp] theorem width_slowSec : slowSec.width = 64 := rfl
@[simp] theorem width_slowCnt : slowCnt.width = 16 := rfl
@[simp] theorem width_sveSerial : sveSerial.width = 48 := rfl
@[simp] theorem width_exchHeldAt : exchHeldAt.width = 64 := rfl
@[simp] theorem width_exchSeam : exchSeam.width = 1 := rfl
@[simp] theorem width_exchSync : exchSync.width = 1 := rfl
@[simp] theorem width_mbxCur : mbxCur.width = 8 := rfl
@[simp] theorem width_mbxCurObj : mbxCurObj.width = 16 := rfl
@[simp] theorem width_pwrDark : pwrDark.width = 1 := rfl
@[simp] theorem width_ownSkey : ownSkey.width = 256 := rfl
@[simp] theorem width_coreLaunchT : coreLaunchT.width = 97 := rfl
@[simp] theorem width_foxRings : foxRings.width = 256 := rfl
@[simp] theorem width_mxRetPoison : mxRetPoison.width = 1 := rfl
@[simp] theorem width_mxRetAddr : mxRetAddr.width = 19 := rfl
@[simp] theorem width_mbxSeq : mbxSeq.width = 8 := rfl
@[simp] theorem width_hbqLeft : hbqLeft.width = 32 := rfl
@[simp] theorem width_hbqTag : hbqTag.width = 16 := rfl
@[simp] theorem width_gtcFrac : gtcFrac.width = 32 := rfl
@[simp] theorem width_gtcAway : gtcAway.width = 64 := rfl
@[simp] theorem width_gtcLatch : gtcLatch.width = 32 := rfl
@[simp] theorem width_tunTicks : tunTicks.width = 64 := rfl
@[simp] theorem width_tunRun : tunRun.width = 128 := rfl
@[simp] theorem width_tunEpochs : tunEpochs.width = 64 := rfl
@[simp] theorem width_tunEpochAt : tunEpochAt.width = 64 := rfl
@[simp] theorem width_tunAge : tunAge.width = 64 := rfl
@[simp] theorem width_tunSrcOff : tunSrcOff.width = 128 := rfl
@[simp] theorem width_tunSrcDly : tunSrcDly.width = 128 := rfl
@[simp] theorem width_tunSrcRun : tunSrcRun.width = 128 := rfl
@[simp] theorem width_tunSrcEp : tunSrcEp.width = 64 := rfl
@[simp] theorem width_tunSrcTick : tunSrcTick.width = 64 := rfl
@[simp] theorem width_tunFestX : tunFestX.width = 64 := rfl
@[simp] theorem width_tunFestY : tunFestY.width = 128 := rfl
@[simp] theorem width_tunFestN : tunFestN.width = 7 := rfl
@[simp] theorem width_tunFestNext : tunFestNext.width = 6 := rfl
@[simp] theorem width_tunAsymEff : tunAsymEff.width = 32 := rfl
@[simp] theorem width_tunPtmNext : tunPtmNext.width = 64 := rfl
@[simp] theorem width_tunSoutLast : tunSoutLast.width = 65 := rfl
@[simp] theorem width_mbxCopy : mbxCopy.width = 32 := rfl
@[simp] theorem width_refBase : refBase.width = 64 := rfl
@[simp] theorem width_refRestart : refRestart.width = 1 := rfl
@[simp] theorem width_lnkRxEpAt : lnkRxEpAt.width = 64 := rfl
@[simp] theorem width_lnkTxEpAt : lnkTxEpAt.width = 64 := rfl
@[simp] theorem width_lnkEpTime : lnkEpTime.width = 65 := rfl
@[simp] theorem width_lnkEpNext : lnkEpNext.width = 8 := rfl
@[simp] theorem width_lnkAckAt : lnkAckAt.width = 64 := rfl
@[simp] theorem width_lnkBcnSent : lnkBcnSent.width = 1 := rfl
@[simp] theorem width_lnkBcnAt : lnkBcnAt.width = 64 := rfl
@[simp] theorem width_lnkRetireAt : lnkRetireAt.width = 64 := rfl
@[simp] theorem width_lnkAttGot : lnkAttGot.width = 1 := rfl
@[simp] theorem width_lnkAttXid : lnkAttXid.width = 8 := rfl
@[simp] theorem width_mbxMode : mbxMode.width = 2 := rfl
@[simp] theorem width_pllRelock : pllRelock.width = 1 := rfl
@[simp] theorem width_chLfreqNext : chLfreqNext.width = 2 := rfl
@[simp] theorem width_wakeAt : wakeAt.width = 64 := rfl
@[simp] theorem width_capLimL : capLimL.width = 2 := rfl
@[simp] theorem width_thLimL : thLimL.width = 2 := rfl
@[simp] theorem width_xtsKey : xtsKey.width = 520 := rfl
@[simp] theorem width_hbmGen : hbmGen.width = 64 := rfl
@[simp] theorem width_rdKey : rdKey.width = 776 := rfl
@[simp] theorem width_killThen : killThen.width = 2 := rfl
@[simp] theorem width_killAt : killAt.width = 64 := rfl
@[simp] theorem width_killPass : killPass.width = 1 := rfl
@[simp] theorem width_killDue : killDue.width = 1 := rfl
@[simp] theorem width_bindTmo : bindTmo.width = 10 := rfl
@[simp] theorem width_bindAt : bindAt.width = 64 := rfl
@[simp] theorem width_svcZero : svcZero.width = 1 := rfl
@[simp] theorem width_svcZeroCell : svcZeroCell.width = 17 := rfl
@[simp] theorem width_svcZeroLen : svcZeroLen.width = 13 := rfl
@[simp] theorem width_msixD3 : msixD3.width = 1 := rfl
@[simp] theorem width_frzCause : frzCause.width = 3 := rfl
@[simp] theorem width_sesState : sesState.width = 2 := rfl
@[simp] theorem width_sesVia : sesVia.width = 1 := rfl
@[simp] theorem width_sesOid : sesOid.width = 128 := rfl
@[simp] theorem width_capLim : capLim.width = 11 := rfl
@[simp] theorem width_thLim : thLim.width = 11 := rfl
@[simp] theorem width_thCoolAt : thCoolAt.width = 65 := rfl
@[simp] theorem width_hvCoolAt : hvCoolAt.width = 65 := rfl
@[simp] theorem width_capCoolAt : capCoolAt.width = 65 := rfl
@[simp] theorem width_capPend : capPend.width = 2 := rfl
@[simp] theorem width_markAt : markAt.width = 65 := rfl
@[simp] theorem width_regTemp : regTemp.width = 17 := rfl
@[simp] theorem width_susAt : susAt.width = 65 := rfl
@[simp] theorem width_droop : droop.width = 4 := rfl
@[simp] theorem width_hbmOff : hbmOff.width = 1 := rfl
@[simp] theorem width_stbHbmoff : stbHbmoff.width = 1 := rfl
@[simp] theorem width_stbForce : stbForce.width = 1 := rfl
@[simp] theorem width_stbAt : stbAt.width = 64 := rfl
@[simp] theorem width_evrTok : evrTok.width = 8 := rfl
@[simp] theorem width_evrSup : evrSup.width = 32 := rfl
@[simp] theorem width_evrLostSec : evrLostSec.width = 32 := rfl
@[simp] theorem width_evrSnapTok : evrSnapTok.width = 5 := rfl
@[simp] theorem width_evrCnt : evrCnt.width = 32 := rfl
@[simp] theorem width_evrStale : evrStale.width = 16 := rfl
@[simp] theorem width_evrFlushIn : evrFlushIn.width = 1 := rfl
@[simp] theorem width_evrSec : evrSec.width = 13 := rfl
@[simp] theorem width_evrSseq : evrSseq.width = 32 := rfl
@[simp] theorem width_evrUnit : evrUnit.width = 8 := rfl
@[simp] theorem width_evrSecSseq : evrSecSseq.width = 33 := rfl
@[simp] theorem width_evrSecBad : evrSecBad.width = 1 := rfl
@[simp] theorem width_evrClear : evrClear.width = 33 := rfl
@[simp] theorem width_evrLostIn : evrLostIn.width = 32 := rfl
@[simp] theorem width_evrLostStb : evrLostStb.width = 32 := rfl
@[simp] theorem width_ctrB : ctrB.width = 40 := rfl
@[simp] theorem width_ctrA : ctrA.width = 7 := rfl
@[simp] theorem width_ctrF : ctrF.width = 1 := rfl
@[simp] theorem width_ctrC : ctrC.width = 7 := rfl
@[simp] theorem width_ctrSeq : ctrSeq.width = 32 := rfl
@[simp] theorem width_ctrSec : ctrSec.width = 1 := rfl
@[simp] theorem width_ctrN : ctrN.width = 8 := rfl
@[simp] theorem width_opsS : opsS.width = 32 := rfl
@[simp] theorem width_envExt : envExt.width = 33 := rfl
@[simp] theorem width_svcFbN : svcFbN.width = 32 := rfl
@[simp] theorem width_svcMaxUs : svcMaxUs.width = 32 := rfl
@[simp] theorem width_alertPin : alertPin.width = 1 := rfl
@[simp] theorem width_modOn : modOn.width = 2 := rfl
@[simp] theorem width_inLost : inLost.width = 1 := rfl
@[simp] theorem width_inLostAt : inLostAt.width = 64 := rfl
@[simp] theorem width_compOff : compOff.width = 1 := rfl
@[simp] theorem width_rmvStep : rmvStep.width = 6 := rfl
@[simp] theorem width_pldmTid : pldmTid.width = 8 := rfl
@[simp] theorem width_pldmRx : pldmRx.width = 9 := rfl
@[simp] theorem width_mctpEid : mctpEid.width = 8 := rfl
@[simp] theorem width_roNext : roNext.width = 4 := rfl
@[simp] theorem width_roCrc : roCrc.width = 32 := rfl
@[simp] theorem width_roSent : roSent.width = 64 := rfl
@[simp] theorem width_roLast : roLast.width = 27 := rfl
@[simp] theorem width_roForm : roForm.width = 2 := rfl
@[simp] theorem width_roOn : roOn.width = 4 := rfl
@[simp] theorem width_mxFail : mxFail.width = 1 := rfl
@[simp] theorem width_msixTab : msixTab.width = 32 := rfl
@[simp] theorem width_evrSecEnd : evrSecEnd.width = 8 := rfl
@[simp] theorem width_evrTorn : evrTorn.width = 1 := rfl
@[simp] theorem width_frzOpsec : frzOpsec.width = 40 := rfl
@[simp] theorem width_frzPcyc : frzPcyc.width = 24 := rfl
@[simp] theorem width_pcsLock : pcsLock.width = 1 := rfl
@[simp] theorem width_sveBad : sveBad.width = 1 := rfl
@[simp] theorem width_tlailBad : tlailBad.width = 1 := rfl
@[simp] theorem width_fwJobImage : fwJobImage.width = 3 := rfl
@[simp] theorem width_fwJobSlot : fwJobSlot.width = 1 := rfl
@[simp] theorem width_fwJobOffset : fwJobOffset.width = 12 := rfl
@[simp] theorem width_fwJobLen : fwJobLen.width = 16 := rfl
@[simp] theorem width_chainEmpty : chainEmpty.width = 1 := rfl
@[simp] theorem width_gaPins : gaPins.width = 8 := rfl
@[simp] theorem width_sesAsk : sesAsk.width = 2 := rfl

@[simp] theorem ok_idPartPart : idPartPart.Ok := rfl
@[simp] theorem ok_idPartStep : idPartStep.Ok := rfl
@[simp] theorem ok_idGradeIslands : idGradeIslands.Ok := rfl
@[simp] theorem ok_idGradeChannels : idGradeChannels.Ok := rfl
@[simp] theorem ok_idGradeLinks : idGradeLinks.Ok := rfl
@[simp] theorem ok_idGradeSve : idGradeSve.Ok := rfl
@[simp] theorem ok_idIslmapPhysEn : idIslmapPhysEn.Ok := rfl
@[simp] theorem ok_coreStatState : coreStatState.Ok := rfl
@[simp] theorem ok_coreStatOnfic : coreStatOnfic.Ok := rfl
@[simp] theorem ok_coreStatDbell : coreStatDbell.Ok := rfl
@[simp] theorem ok_coreStatLdepth : coreStatLdepth.Ok := rfl
@[simp] theorem ok_coreStatInreplay : coreStatInreplay.Ok := rfl
@[simp] theorem ok_corePc : corePc.Ok := rfl
@[simp] theorem ok_coreHaltCode : coreHaltCode.Ok := rfl
@[simp] theorem ok_coreHaltCause : coreHaltCause.Ok := rfl
@[simp] theorem ok_coreHaltPc : coreHaltPc.Ok := rfl
@[simp] theorem ok_coreCyc : coreCyc.Ok := rfl
@[simp] theorem ok_coreG : coreG.Ok := rfl
@[simp] theorem ok_coreP : coreP.Ok := rfl
@[simp] theorem ok_coreSqf : coreSqf.Ok := rfl
@[simp] theorem ok_mxF : mxF.Ok := rfl
@[simp] theorem ok_mxStatDrainwait : mxStatDrainwait.Ok := rfl
@[simp] theorem ok_mxStatRetained : mxStatRetained.Ok := rfl
@[simp] theorem ok_mxStatNan : mxStatNan.Ok := rfl
@[simp] theorem ok_mxStatInf : mxStatInf.Ok := rfl
@[simp] theorem ok_mxStatPoison : mxStatPoison.Ok := rfl
@[simp] theorem ok_mxTiles : mxTiles.Ok := rfl
@[simp] theorem ok_mxStallc : mxStallc.Ok := rfl
@[simp] theorem ok_mxBistDone : mxBistDone.Ok := rfl
@[simp] theorem ok_mxBistPass : mxBistPass.Ok := rfl
@[simp] theorem ok_mxBistRow : mxBistRow.Ok := rfl
@[simp] theorem ok_mxBistCol : mxBistCol.Ok := rfl
@[simp] theorem ok_vxF : vxF.Ok := rfl
@[simp] theorem ok_vxStatTqwait : vxStatTqwait.Ok := rfl
@[simp] theorem ok_vxStatPoison : vxStatPoison.Ok := rfl
@[simp] theorem ok_vxStatSat8 : vxStatSat8.Ok := rfl
@[simp] theorem ok_vxStatInf8 : vxStatInf8.Ok := rfl
@[simp] theorem ok_vxStatNan : vxStatNan.Ok := rfl
@[simp] theorem ok_tqPops : tqPops.Ok := rfl
@[simp] theorem ok_spdKindWbank : spdKindWbank.Ok := rfl
@[simp] theorem ok_spdKindNextWbank : spdKindNextWbank.Ok := rfl
@[simp] theorem ok_spdPwrOn : spdPwrOn.Ok := rfl
@[simp] theorem ok_spdPwrReady : spdPwrReady.Ok := rfl
@[simp] theorem ok_spdPwrNextOn : spdPwrNextOn.Ok := rfl
@[simp] theorem ok_spdStatConflict : spdStatConflict.Ok := rfl
@[simp] theorem ok_spdStatAerr : spdStatAerr.Ok := rfl
@[simp] theorem ok_spdStatUe : spdStatUe.Ok := rfl
@[simp] theorem ok_spdStatInit : spdStatInit.Ok := rfl
@[simp] theorem ok_spdStatClean : spdStatClean.Ok := rfl
@[simp] theorem ok_spdStatAttempt : spdStatAttempt.Ok := rfl
@[simp] theorem ok_spdStatSwept : spdStatSwept.Ok := rfl
@[simp] theorem ok_spdConfBank : spdConfBank.Ok := rfl
@[simp] theorem ok_spdConfWin : spdConfWin.Ok := rfl
@[simp] theorem ok_spdConfLost : spdConfLost.Ok := rfl
@[simp] theorem ok_spdConfWrite : spdConfWrite.Ok := rfl
@[simp] theorem ok_spdConfWord : spdConfWord.Ok := rfl
@[simp] theorem ok_spdConfCyc : spdConfCyc.Ok := rfl
@[simp] theorem ok_spdStalec : spdStalec.Ok := rfl
@[simp] theorem ok_spdCecnt : spdCecnt.Ok := rfl
@[simp] theorem ok_spdReruns : spdReruns.Ok := rfl
@[simp] theorem ok_chSpdEpoch : chSpdEpoch.Ok := rfl
@[simp] theorem ok_foxCtlRaEn : foxCtlRaEn.Ok := rfl
@[simp] theorem ok_foxCtlRsvc : foxCtlRsvc.Ok := rfl
@[simp] theorem ok_foxRtimeoutUs : foxRtimeoutUs.Ok := rfl
@[simp] theorem ok_foxHsqTailIndex : foxHsqTailIndex.Ok := rfl
@[simp] theorem ok_foxHsqHeadIndex : foxHsqHeadIndex.Ok := rfl
@[simp] theorem ok_foxHsqDone : foxHsqDone.Ok := rfl
@[simp] theorem ok_foxSpecServed : foxSpecServed.Ok := rfl
@[simp] theorem ok_foxRaCancels : foxRaCancels.Ok := rfl
@[simp] theorem ok_foxRaRetries : foxRaRetries.Ok := rfl
@[simp] theorem ok_foxRaDiscard : foxRaDiscard.Ok := rfl
@[simp] theorem ok_foxPoisonWords : foxPoisonWords.Ok := rfl
@[simp] theorem ok_foxRemoteFail : foxRemoteFail.Ok := rfl
@[simp] theorem ok_foxRefused : foxRefused.Ok := rfl
@[simp] theorem ok_foxRaHist : foxRaHist.Ok := rfl
@[simp] theorem ok_foxRaTabValid : foxRaTabValid.Ok := rfl
@[simp] theorem ok_foxRaTabRemote : foxRaTabRemote.Ok := rfl
@[simp] theorem ok_foxRaTabRing : foxRaTabRing.Ok := rfl
@[simp] theorem ok_foxRaTabRowWords : foxRaTabRowWords.Ok := rfl
@[simp] theorem ok_foxRaTabBase : foxRaTabBase.Ok := rfl
@[simp] theorem ok_foxRaTabStride : foxRaTabStride.Ok := rfl
@[simp] theorem ok_foxRaTabPeer : foxRaTabPeer.Ok := rfl
@[simp] theorem ok_foxRingCfgEn : foxRingCfgEn.Ok := rfl
@[simp] theorem ok_foxRingCfgDir : foxRingCfgDir.Ok := rfl
@[simp] theorem ok_foxRingCfgCore : foxRingCfgCore.Ok := rfl
@[simp] theorem ok_foxRingCfgSlots : foxRingCfgSlots.Ok := rfl
@[simp] theorem ok_foxRingCfgSlotWords : foxRingCfgSlotWords.Ok := rfl
@[simp] theorem ok_foxRingCfgBase : foxRingCfgBase.Ok := rfl
@[simp] theorem ok_foxRingPtrTail : foxRingPtrTail.Ok := rfl
@[simp] theorem ok_foxRingPtrHead : foxRingPtrHead.Ok := rfl
@[simp] theorem ok_foxRingPtrFill : foxRingPtrFill.Ok := rfl
@[simp] theorem ok_foxRingPtrPub : foxRingPtrPub.Ok := rfl
@[simp] theorem ok_foxRingPtrTent : foxRingPtrTent.Ok := rfl
@[simp] theorem ok_foxRingPtrGen : foxRingPtrGen.Ok := rfl
@[simp] theorem ok_syF : syF.Ok := rfl
@[simp] theorem ok_synCnt : synCnt.Ok := rfl
@[simp] theorem ok_synFlagsSatHi : synFlagsSatHi.Ok := rfl
@[simp] theorem ok_synFlagsSatLo : synFlagsSatLo.Ok := rfl
@[simp] theorem ok_synFlagsMisuse : synFlagsMisuse.Ok := rfl
@[simp] theorem ok_epRoom : epRoom.Ok := rfl
@[simp] theorem ok_rteCtlActive : rteCtlActive.Ok := rfl
@[simp] theorem ok_rteLinkfDown : rteLinkfDown.Ok := rfl
@[simp] theorem ok_rteDrops : rteDrops.Ok := rfl
@[simp] theorem ok_bdgCtlEn : bdgCtlEn.Ok := rfl
@[simp] theorem ok_bdgWindowCycles : bdgWindowCycles.Ok := rfl
@[simp] theorem ok_bdgStatDeadlock : bdgStatDeadlock.Ok := rfl
@[simp] theorem ok_bdgStatQuiet : bdgStatQuiet.Ok := rfl
@[simp] theorem ok_bdgStatSilent : bdgStatSilent.Ok := rfl
@[simp] theorem ok_bdgStatQcount : bdgStatQcount.Ok := rfl
@[simp] theorem ok_bdgWhen : bdgWhen.Ok := rfl
@[simp] theorem ok_bdgReports : bdgReports.Ok := rfl
@[simp] theorem ok_bdgCoreState : bdgCoreState.Ok := rfl
@[simp] theorem ok_bdgCoreExt : bdgCoreExt.Ok := rfl
@[simp] theorem ok_bdgCoreWkind : bdgCoreWkind.Ok := rfl
@[simp] theorem ok_bdgCoreObj : bdgCoreObj.Ok := rfl
@[simp] theorem ok_bdgCorePc : bdgCorePc.Ok := rfl
@[simp] theorem ok_synBarTimeoutUs : synBarTimeoutUs.Ok := rfl
@[simp] theorem ok_synChipbarChans : synChipbarChans.Ok := rfl
@[simp] theorem ok_synBarFaults : synBarFaults.Ok := rfl
@[simp] theorem ok_hbqWtail : hbqWtail.Ok := rfl
@[simp] theorem ok_hbqWhead : hbqWhead.Ok := rfl
@[simp] theorem ok_hbqRtail : hbqRtail.Ok := rfl
@[simp] theorem ok_hbqRhead : hbqRhead.Ok := rfl
@[simp] theorem ok_hbqBatches : hbqBatches.Ok := rfl
@[simp] theorem ok_sveCtlEn0 : sveCtlEn0.Ok := rfl
@[simp] theorem ok_sveCtlEn1 : sveCtlEn1.Ok := rfl
@[simp] theorem ok_sveInflight : sveInflight.Ok := rfl
@[simp] theorem ok_svePortMac : svePortMac.Ok := rfl
@[simp] theorem ok_svePortVlan : svePortVlan.Ok := rfl
@[simp] theorem ok_svePortVtag : svePortVtag.Ok := rfl
@[simp] theorem ok_svePortIpv4 : svePortIpv4.Ok := rfl
@[simp] theorem ok_svePortUdpPort : svePortUdpPort.Ok := rfl
@[simp] theorem ok_svePortIpv6Hi : svePortIpv6Hi.Ok := rfl
@[simp] theorem ok_svePortIpv6Lo : svePortIpv6Lo.Ok := rfl
@[simp] theorem ok_svePortRxOk : svePortRxOk.Ok := rfl
@[simp] theorem ok_svePortRxDrop : svePortRxDrop.Ok := rfl
@[simp] theorem ok_svePortRxSlow : svePortRxSlow.Ok := rfl
@[simp] theorem ok_svePortTx : svePortTx.Ok := rfl
@[simp] theorem ok_sveSvcSelId : sveSvcSelId.Ok := rfl
@[simp] theorem ok_sveSvcW0Bound : sveSvcW0Bound.Ok := rfl
@[simp] theorem ok_sveSvcW0Channel : sveSvcW0Channel.Ok := rfl
@[simp] theorem ok_sveSvcW0TagReq : sveSvcW0TagReq.Ok := rfl
@[simp] theorem ok_sveSvcW0Errq : sveSvcW0Errq.Ok := rfl
@[simp] theorem ok_sveSvcW0Sync : sveSvcW0Sync.Ok := rfl
@[simp] theorem ok_sveSvcW0WindowUs : sveSvcW0WindowUs.Ok := rfl
@[simp] theorem ok_sveSvcW0Maxb : sveSvcW0Maxb.Ok := rfl
@[simp] theorem ok_sveSvcW0DeadlineUs : sveSvcW0DeadlineUs.Ok := rfl
@[simp] theorem ok_sveSvcW0Kdef : sveSvcW0Kdef.Ok := rfl
@[simp] theorem ok_sveSvcW0Keyslot : sveSvcW0Keyslot.Ok := rfl
@[simp] theorem ok_sveSvcW1Epoch : sveSvcW1Epoch.Ok := rfl
@[simp] theorem ok_sveSvcW1FbCell : sveSvcW1FbCell.Ok := rfl
@[simp] theorem ok_sveSvcW1FbLen : sveSvcW1FbLen.Ok := rfl
@[simp] theorem ok_sveSvcW2Admitted : sveSvcW2Admitted.Ok := rfl
@[simp] theorem ok_sveSvcW2Fallbacks : sveSvcW2Fallbacks.Ok := rfl
@[simp] theorem ok_sveSvcW3Errors : sveSvcW3Errors.Ok := rfl
@[simp] theorem ok_sveSvcW3Tagfail : sveSvcW3Tagfail.Ok := rfl
@[simp] theorem ok_sveFbwinBase : sveFbwinBase.Ok := rfl
@[simp] theorem ok_sveChAdmit : sveChAdmit.Ok := rfl
@[simp] theorem ok_sveChQuota : sveChQuota.Ok := rfl
@[simp] theorem ok_sveChHeld : sveChHeld.Ok := rfl
@[simp] theorem ok_sveChNextTag : sveChNextTag.Ok := rfl
@[simp] theorem ok_sveChQueued : sveChQueued.Ok := rfl
@[simp] theorem ok_sveChBatches : sveChBatches.Ok := rfl
@[simp] theorem ok_sveChLate : sveChLate.Ok := rfl
@[simp] theorem ok_sveChTagGrace : sveChTagGrace.Ok := rfl
@[simp] theorem ok_sveChLive : sveChLive.Ok := rfl
@[simp] theorem ok_exchCfgMode : exchCfgMode.Ok := rfl
@[simp] theorem ok_exchCfgPcarry : exchCfgPcarry.Ok := rfl
@[simp] theorem ok_exchCfgRflip : exchCfgRflip.Ok := rfl
@[simp] theorem ok_exchCfgRatab : exchCfgRatab.Ok := rfl
@[simp] theorem ok_exchCfgForce : exchCfgForce.Ok := rfl
@[simp] theorem ok_exchSeamTag : exchSeamTag.Ok := rfl
@[simp] theorem ok_exchSeamEpoch : exchSeamEpoch.Ok := rfl
@[simp] theorem ok_exchTimeoutUs : exchTimeoutUs.Ok := rfl
@[simp] theorem ok_exchStatPhase : exchStatPhase.Ok := rfl
@[simp] theorem ok_exchStatResult : exchStatResult.Ok := rfl
@[simp] theorem ok_exchStatSeamTag : exchStatSeamTag.Ok := rfl
@[simp] theorem ok_exchStatNotready : exchStatNotready.Ok := rfl
@[simp] theorem ok_exchStatSyncdrop : exchStatSyncdrop.Ok := rfl
@[simp] theorem ok_exchCount : exchCount.Ok := rfl
@[simp] theorem ok_exchLastGtc : exchLastGtc.Ok := rfl
@[simp] theorem ok_exchRsel : exchRsel.Ok := rfl
@[simp] theorem ok_exchRatabValid : exchRatabValid.Ok := rfl
@[simp] theorem ok_exchRatabRemote : exchRatabRemote.Ok := rfl
@[simp] theorem ok_exchRatabRing : exchRatabRing.Ok := rfl
@[simp] theorem ok_exchRatabRowWords : exchRatabRowWords.Ok := rfl
@[simp] theorem ok_exchRatabBase : exchRatabBase.Ok := rfl
@[simp] theorem ok_exchRatabStride : exchRatabStride.Ok := rfl
@[simp] theorem ok_exchRatabPeer : exchRatabPeer.Ok := rfl
@[simp] theorem ok_exchRingCfgEn : exchRingCfgEn.Ok := rfl
@[simp] theorem ok_exchRingCfgDir : exchRingCfgDir.Ok := rfl
@[simp] theorem ok_exchRingCfgCore : exchRingCfgCore.Ok := rfl
@[simp] theorem ok_exchRingCfgSlots : exchRingCfgSlots.Ok := rfl
@[simp] theorem ok_exchRingCfgSlotWords : exchRingCfgSlotWords.Ok := rfl
@[simp] theorem ok_exchRingCfgBase : exchRingCfgBase.Ok := rfl
@[simp] theorem ok_epochCtlRapar : epochCtlRapar.Ok := rfl
@[simp] theorem ok_epochInflEven : epochInflEven.Ok := rfl
@[simp] theorem ok_epochInflOdd : epochInflOdd.Ok := rfl
@[simp] theorem ok_epochRabaseBase : epochRabaseBase.Ok := rfl
@[simp] theorem ok_chCfgLockstep : chCfgLockstep.Ok := rfl
@[simp] theorem ok_chCfgLfreq : chCfgLfreq.Ok := rfl
@[simp] theorem ok_chCfgAllowRace : chCfgAllowRace.Ok := rfl
@[simp] theorem ok_chCfgRefalign : chCfgRefalign.Ok := rfl
@[simp] theorem ok_retryCount : retryCount.Ok := rfl
@[simp] theorem ok_raceCount : raceCount.Ok := rfl
@[simp] theorem ok_stretchCyclesFrac : stretchCyclesFrac.Ok := rfl
@[simp] theorem ok_stretchCyclesWhole : stretchCyclesWhole.Ok := rfl
@[simp] theorem ok_detIslStretchFrac : detIslStretchFrac.Ok := rfl
@[simp] theorem ok_detIslStretchWhole : detIslStretchWhole.Ok := rfl
@[simp] theorem ok_detCtlExpect : detCtlExpect.Ok := rfl
@[simp] theorem ok_detLogHeadNext : detLogHeadNext.Ok := rfl
@[simp] theorem ok_detLogHeadWritten : detLogHeadWritten.Ok := rfl
@[simp] theorem ok_detLogTag : detLogTag.Ok := rfl
@[simp] theorem ok_detLogKept : detLogKept.Ok := rfl
@[simp] theorem ok_detLogFreq : detLogFreq.Ok := rfl
@[simp] theorem ok_detLogRef2x : detLogRef2x.Ok := rfl
@[simp] theorem ok_detLogCauses : detLogCauses.Ok := rfl
@[simp] theorem ok_detLogSegs : detLogSegs.Ok := rfl
@[simp] theorem ok_detLogPhase : detLogPhase.Ok := rfl
@[simp] theorem ok_detLogCsig : detLogCsig.Ok := rfl
@[simp] theorem ok_detLogOsig : detLogOsig.Ok := rfl
@[simp] theorem ok_detLogDretry : detLogDretry.Ok := rfl
@[simp] theorem ok_detLogDrace : detLogDrace.Ok := rfl
@[simp] theorem ok_detLogDstretch : detLogDstretch.Ok := rfl
@[simp] theorem ok_detCoreDcyc : detCoreDcyc.Ok := rfl
@[simp] theorem ok_detCoreSegs : detCoreSegs.Ok := rfl
@[simp] theorem ok_detCoreOpen : detCoreOpen.Ok := rfl
@[simp] theorem ok_tunStatState : tunStatState.Ok := rfl
@[simp] theorem ok_tunStatContested : tunStatContested.Ok := rfl
@[simp] theorem ok_tunStatForced : tunStatForced.Ok := rfl
@[simp] theorem ok_tunStatSlewing : tunStatSlewing.Ok := rfl
@[simp] theorem ok_tunStatStepped : tunStatStepped.Ok := rfl
@[simp] theorem ok_tunStatNagree : tunStatNagree.Ok := rfl
@[simp] theorem ok_tunStatNelig : tunStatNelig.Ok := rfl
@[simp] theorem ok_tunStatLevel : tunStatLevel.Ok := rfl
@[simp] theorem ok_tunStatAgeMs : tunStatAgeMs.Ok := rfl
@[simp] theorem ok_tunTrim : tunTrim.Ok := rfl
@[simp] theorem ok_tunFest : tunFest.Ok := rfl
@[simp] theorem ok_tunOffset : tunOffset.Ok := rfl
@[simp] theorem ok_tunPolSyncEn : tunPolSyncEn.Ok := rfl
@[simp] theorem ok_tunPolSyncRef : tunPolSyncRef.Ok := rfl
@[simp] theorem ok_tunPolPtmEn : tunPolPtmEn.Ok := rfl
@[simp] theorem ok_tunPolPtmRef : tunPolPtmRef.Ok := rfl
@[simp] theorem ok_tunPolForce : tunPolForce.Ok := rfl
@[simp] theorem ok_tunPolStepNs : tunPolStepNs.Ok := rfl
@[simp] theorem ok_tunLnkenEn : tunLnkenEn.Ok := rfl
@[simp] theorem ok_tunLrefused : tunLrefused.Ok := rfl
@[simp] theorem ok_tunQuar : tunQuar.Ok := rfl
@[simp] theorem ok_tunFbarLate : tunFbarLate.Ok := rfl
@[simp] theorem ok_tunFbarUntimed : tunFbarUntimed.Ok := rfl
@[simp] theorem ok_tunSrcOffset : tunSrcOffset.Ok := rfl
@[simp] theorem ok_tunSrcPlevel : tunSrcPlevel.Ok := rfl
@[simp] theorem ok_tunSrcUsable : tunSrcUsable.Ok := rfl
@[simp] theorem ok_tunSrcFresh : tunSrcFresh.Ok := rfl
@[simp] theorem ok_tunSrcElig : tunSrcElig.Ok := rfl
@[simp] theorem ok_tunSrcAgree : tunSrcAgree.Ok := rfl
@[simp] theorem ok_tunSrcQuar : tunSrcQuar.Ok := rfl
@[simp] theorem ok_tunSrcQleft : tunSrcQleft.Ok := rfl
@[simp] theorem ok_tunSrcDelay : tunSrcDelay.Ok := rfl
@[simp] theorem ok_tunSrcSamples : tunSrcSamples.Ok := rfl
@[simp] theorem ok_tunSrcDiscards : tunSrcDiscards.Ok := rfl
@[simp] theorem ok_tunAsym : tunAsym.Ok := rfl
@[simp] theorem ok_tunFbarChans : tunFbarChans.Ok := rfl
@[simp] theorem ok_tunFbarUpch : tunFbarUpch.Ok := rfl
@[simp] theorem ok_tunFbarUpl : tunFbarUpl.Ok := rfl
@[simp] theorem ok_tunFbarDown : tunFbarDown.Ok := rfl
@[simp] theorem ok_tunFbarLeadNs : tunFbarLeadNs.Ok := rfl
@[simp] theorem ok_lnkCfgEn : lnkCfgEn.Ok := rfl
@[simp] theorem ok_lnkStatState : lnkStatState.Ok := rfl
@[simp] theorem ok_lnkStatLadmit : lnkStatLadmit.Ok := rfl
@[simp] theorem ok_lnkStatPadmit : lnkStatPadmit.Ok := rfl
@[simp] theorem ok_lnkStatCable : lnkStatCable.Ok := rfl
@[simp] theorem ok_lnkStatSignal : lnkStatSignal.Ok := rfl
@[simp] theorem ok_lnkStatLock : lnkStatLock.Ok := rfl
@[simp] theorem ok_lnkStatFcause : lnkStatFcause.Ok := rfl
@[simp] theorem ok_lnkPeerChip : lnkPeerChip.Ok := rfl
@[simp] theorem ok_lnkPeerValid : lnkPeerValid.Ok := rfl
@[simp] theorem ok_lnkPeerPlink : lnkPeerPlink.Ok := rfl
@[simp] theorem ok_lnkPeerPart : lnkPeerPart.Ok := rfl
@[simp] theorem ok_lnkPeerStep : lnkPeerStep.Ok := rfl
@[simp] theorem ok_lnkPnonce : lnkPnonce.Ok := rfl
@[simp] theorem ok_lnkTxFlits : lnkTxFlits.Ok := rfl
@[simp] theorem ok_lnkRxFlits : lnkRxFlits.Ok := rfl
@[simp] theorem ok_lnkCrcErr : lnkCrcErr.Ok := rfl
@[simp] theorem ok_lnkFecCorr : lnkFecCorr.Ok := rfl
@[simp] theorem ok_lnkFecUncorr : lnkFecUncorr.Ok := rfl
@[simp] theorem ok_lnkEpisodes : lnkEpisodes.Ok := rfl
@[simp] theorem ok_lnkIsoDrop : lnkIsoDrop.Ok := rfl
@[simp] theorem ok_lnkRxDrop : lnkRxDrop.Ok := rfl
@[simp] theorem ok_lnkAttStatAtt : lnkAttStatAtt.Ok := rfl
@[simp] theorem ok_lnkCertDigest : lnkCertDigest.Ok := rfl
@[simp] theorem ok_lnkMeasDigest : lnkMeasDigest.Ok := rfl
@[simp] theorem ok_fabCtlChipId : fabCtlChipId.Ok := rfl
@[simp] theorem ok_fabCtlValid : fabCtlValid.Ok := rfl
@[simp] theorem ok_fabCtlHopmax : fabCtlHopmax.Ok := rfl
@[simp] theorem ok_fabFwdAddrChip : fabFwdAddrChip.Ok := rfl
@[simp] theorem ok_fabFwdAddrCh : fabFwdAddrCh.Ok := rfl
@[simp] theorem ok_fabFwdFrames : fabFwdFrames.Ok := rfl
@[simp] theorem ok_fabFwdDrop : fabFwdDrop.Ok := rfl
@[simp] theorem ok_fabHopfailTx : fabHopfailTx.Ok := rfl
@[simp] theorem ok_fabHopfailRx : fabHopfailRx.Ok := rfl
@[simp] theorem ok_ownChStatState : ownChStatState.Ok := rfl
@[simp] theorem ok_ownChStatKeysrc : ownChStatKeysrc.Ok := rfl
@[simp] theorem ok_ownChStatRdkey : ownChStatRdkey.Ok := rfl
@[simp] theorem ok_ownChStatPending : ownChStatPending.Ok := rfl
@[simp] theorem ok_ownChStatSkeys : ownChStatSkeys.Ok := rfl
@[simp] theorem ok_ownChOid : ownChOid.Ok := rfl
@[simp] theorem ok_ownCfgHostio : ownCfgHostio.Ok := rfl
@[simp] theorem ok_ownCfgEvrVisible : ownCfgEvrVisible.Ok := rfl
@[simp] theorem ok_ownCfgSvcTagged : ownCfgSvcTagged.Ok := rfl
@[simp] theorem ok_ownGrantChip : ownGrantChip.Ok := rfl
@[simp] theorem ok_ownGrantCh : ownGrantCh.Ok := rfl
@[simp] theorem ok_ownGrantSend : ownGrantSend.Ok := rfl
@[simp] theorem ok_ownGrantRecv : ownGrantRecv.Ok := rfl
@[simp] theorem ok_ownGrantRead : ownGrantRead.Ok := rfl
@[simp] theorem ok_ownGrantServe : ownGrantServe.Ok := rfl
@[simp] theorem ok_ownSkeyLoadKey : ownSkeyLoadKey.Ok := rfl
@[simp] theorem ok_ownFiltTx : ownFiltTx.Ok := rfl
@[simp] theorem ok_ownFiltRx : ownFiltRx.Ok := rfl
@[simp] theorem ok_ownBar2Deny : ownBar2Deny.Ok := rfl
@[simp] theorem ok_ownKills : ownKills.Ok := rfl
@[simp] theorem ok_msrBootStage : msrBootStage.Ok := rfl
@[simp] theorem ok_msrBootFallback : msrBootFallback.Ok := rfl
@[simp] theorem ok_msrBootSlotb : msrBootSlotb.Ok := rfl
@[simp] theorem ok_msrBootRcause : msrBootRcause.Ok := rfl
@[simp] theorem ok_msrBootWdcount : msrBootWdcount.Ok := rfl
@[simp] theorem ok_msrBootReadyMs : msrBootReadyMs.Ok := rfl
@[simp] theorem ok_msrBootselPreferB : msrBootselPreferB.Ok := rfl
@[simp] theorem ok_msrLockLocked : msrLockLocked.Ok := rfl
@[simp] theorem ok_msrDbgState : msrDbgState.Ok := rfl
@[simp] theorem ok_msrVal : msrVal.Ok := rfl
@[simp] theorem ok_msrImgverVersion : msrImgverVersion.Ok := rfl
@[simp] theorem ok_msrFwCmdImage : msrFwCmdImage.Ok := rfl
@[simp] theorem ok_msrFwCmdSlot : msrFwCmdSlot.Ok := rfl
@[simp] theorem ok_msrFwCmdOffset : msrFwCmdOffset.Ok := rfl
@[simp] theorem ok_msrFwLenBytes : msrFwLenBytes.Ok := rfl
@[simp] theorem ok_msrFwStatBusy : msrFwStatBusy.Ok := rfl
@[simp] theorem ok_msrFwStatResult : msrFwStatResult.Ok := rfl
@[simp] theorem ok_msrFwwin : msrFwwin.Ok := rfl
@[simp] theorem ok_chPwrReq : chPwrReq.Ok := rfl
@[simp] theorem ok_chPwrHbmoff : chPwrHbmoff.Ok := rfl
@[simp] theorem ok_chPwrAutorun : chPwrAutorun.Ok := rfl
@[simp] theorem ok_chPwrWbatch : chPwrWbatch.Ok := rfl
@[simp] theorem ok_chPwrWgtc : chPwrWgtc.Ok := rfl
@[simp] theorem ok_chPwrStatState : chPwrStatState.Ok := rfl
@[simp] theorem ok_chPwrStatWcause : chPwrStatWcause.Ok := rfl
@[simp] theorem ok_chPwrStatWfail : chPwrStatWfail.Ok := rfl
@[simp] theorem ok_chPwrStatDefer : chPwrStatDefer.Ok := rfl
@[simp] theorem ok_chPwrStatWakeNs : chPwrStatWakeNs.Ok := rfl
@[simp] theorem ok_chWakeGtc : chWakeGtc.Ok := rfl
@[simp] theorem ok_chPwrDrops : chPwrDrops.Ok := rfl
@[simp] theorem ok_chFsetFset : chFsetFset.Ok := rfl
@[simp] theorem ok_chFsetFmin : chFsetFmin.Ok := rfl
@[simp] theorem ok_chPctlPcapW : chPctlPcapW.Ok := rfl
@[simp] theorem ok_chPctlLmin : chPctlLmin.Ok := rfl
@[simp] theorem ok_chClkStatFeff : chClkStatFeff.Ok := rfl
@[simp] theorem ok_chClkStatHalved : chClkStatHalved.Ok := rfl
@[simp] theorem ok_chClkStatThrottled : chClkStatThrottled.Ok := rfl
@[simp] theorem ok_chClkStatCapped : chClkStatCapped.Ok := rfl
@[simp] theorem ok_pwrCapWatts : pwrCapWatts.Ok := rfl
@[simp] theorem ok_pwrStatThrottle : pwrStatThrottle.Ok := rfl
@[simp] theorem ok_pwrStatHalved : pwrStatHalved.Ok := rfl
@[simp] theorem ok_pwrStatSensorSuspect : pwrStatSensorSuspect.Ok := rfl
@[simp] theorem ok_pwrStatCapmiss : pwrStatCapmiss.Ok := rfl
@[simp] theorem ok_pwrStatWfail : pwrStatWfail.Ok := rfl
@[simp] theorem ok_pwrStatChip : pwrStatChip.Ok := rfl
@[simp] theorem ok_pwrSuspectIsl : pwrSuspectIsl.Ok := rfl
@[simp] theorem ok_pwrSuspectUnits : pwrSuspectUnits.Ok := rfl
@[simp] theorem ok_pwrTripTripped : pwrTripTripped.Ok := rfl
@[simp] theorem ok_pwrTripChipsus : pwrTripChipsus.Ok := rfl
@[simp] theorem ok_pwrTripRegion : pwrTripRegion.Ok := rfl
@[simp] theorem ok_pwrTripTj : pwrTripTj.Ok := rfl
@[simp] theorem ok_pwrVfloor : pwrVfloor.Ok := rfl
@[simp] theorem ok_pwrWtDirFirst : pwrWtDirFirst.Ok := rfl
@[simp] theorem ok_pwrWtDirRecords : pwrWtDirRecords.Ok := rfl
@[simp] theorem ok_pwrWt : pwrWt.Ok := rfl
@[simp] theorem ok_telChPwrMw : telChPwrMw.Ok := rfl
@[simp] theorem ok_telChRailMv : telChRailMv.Ok := rfl
@[simp] theorem ok_telChTj : telChTj.Ok := rfl
@[simp] theorem ok_telChHbmTj : telChHbmTj.Ok := rfl
@[simp] theorem ok_telChipPwrMw : telChipPwrMw.Ok := rfl
@[simp] theorem ok_telChipTj : telChipTj.Ok := rfl
@[simp] theorem ok_evrStatMounted : evrStatMounted.Ok := rfl
@[simp] theorem ok_evrStatFlushing : evrStatFlushing.Ok := rfl
@[simp] theorem ok_evrCurPos : evrCurPos.Ok := rfl
@[simp] theorem ok_evrWritten : evrWritten.Ok := rfl
@[simp] theorem ok_evrLost : evrLost.Ok := rfl
@[simp] theorem ok_evrSuppressed : evrSuppressed.Ok := rfl
@[simp] theorem ok_evrBadsect : evrBadsect.Ok := rfl
@[simp] theorem ok_evrTrigCode : evrTrigCode.Ok := rfl
@[simp] theorem ok_evrTrigMask : evrTrigMask.Ok := rfl
@[simp] theorem ok_evrTrigSrc : evrTrigSrc.Ok := rfl
@[simp] theorem ok_evrTrigN : evrTrigN.Ok := rfl
@[simp] theorem ok_evrTrigFrz : evrTrigFrz.Ok := rfl
@[simp] theorem ok_evrTrigEn : evrTrigEn.Ok := rfl
@[simp] theorem ok_evrTrigMissed : evrTrigMissed.Ok := rfl
@[simp] theorem ok_evrTrigSel : evrTrigSel.Ok := rfl
@[simp] theorem ok_evrRlim : evrRlim.Ok := rfl
@[simp] theorem ok_frzArmPin : frzArmPin.Ok := rfl
@[simp] theorem ok_frzArmTrig : frzArmTrig.Ok := rfl
@[simp] theorem ok_frzStatFrozen : frzStatFrozen.Ok := rfl
@[simp] theorem ok_frzStatSrc : frzStatSrc.Ok := rfl
@[simp] theorem ok_frzStatSlot : frzStatSlot.Ok := rfl
@[simp] theorem ok_frzStatChfrozen : frzStatChfrozen.Ok := rfl
@[simp] theorem ok_frzStatRo : frzStatRo.Ok := rfl
@[simp] theorem ok_frzStatPath : frzStatPath.Ok := rfl
@[simp] theorem ok_frzGtc : frzGtc.Ok := rfl
@[simp] theorem ok_frzRoPosOffset : frzRoPosOffset.Ok := rfl
@[simp] theorem ok_frzRoLenBytes : frzRoLenBytes.Ok := rfl
@[simp] theorem ok_frzRoLenLast : frzRoLenLast.Ok := rfl
@[simp] theorem ok_frzRoLenReady : frzRoLenReady.Ok := rfl
@[simp] theorem ok_frzHbmBase : frzHbmBase.Ok := rfl
@[simp] theorem ok_frzHbmLen : frzHbmLen.Ok := rfl
@[simp] theorem ok_frzRowin : frzRowin.Ok := rfl
@[simp] theorem ok_idSerial : idSerial.Ok := rfl
@[simp] theorem ok_idSlot : idSlot.Ok := rfl
@[simp] theorem ok_idTopoConn : idTopoConn.Ok := rfl
@[simp] theorem ok_idTopoPos : idTopoPos.Ok := rfl
@[simp] theorem ok_idTopoBpair : idTopoBpair.Ok := rfl
@[simp] theorem ok_mbxCmdCode : mbxCmdCode.Ok := rfl
@[simp] theorem ok_mbxCmdSeq : mbxCmdSeq.Ok := rfl
@[simp] theorem ok_mbxStatBusy : mbxStatBusy.Ok := rfl
@[simp] theorem ok_mbxStatDone : mbxStatDone.Ok := rfl
@[simp] theorem ok_mbxStatReady : mbxStatReady.Ok := rfl
@[simp] theorem ok_mbxStatOverrun : mbxStatOverrun.Ok := rfl
@[simp] theorem ok_mbxStatStatus : mbxStatStatus.Ok := rfl
@[simp] theorem ok_mbxStatSeq : mbxStatSeq.Ok := rfl
@[simp] theorem ok_mbxStatCode : mbxStatCode.Ok := rfl
@[simp] theorem ok_mbxStatDetail : mbxStatDetail.Ok := rfl
@[simp] theorem ok_mbxArg : mbxArg.Ok := rfl
@[simp] theorem ok_mbxRsp : mbxRsp.Ok := rfl
@[simp] theorem ok_mbxIrqStatCause : mbxIrqStatCause.Ok := rfl
@[simp] theorem ok_mbxIrqMask : mbxIrqMask.Ok := rfl
@[simp] theorem ok_chIrqStatCause : chIrqStatCause.Ok := rfl
@[simp] theorem ok_chIrqMask : chIrqMask.Ok := rfl
@[simp] theorem ok_fpnStatLatch : fpnStatLatch.Ok := rfl
@[simp] theorem ok_fpnStatAttn : fpnStatAttn.Ok := rfl
@[simp] theorem ok_fpnStatDisp : fpnStatDisp.Ok := rfl
@[simp] theorem ok_fpnStatPage : fpnStatPage.Ok := rfl
@[simp] theorem ok_fpnStatView : fpnStatView.Ok := rfl
@[simp] theorem ok_fpnStatRmv : fpnStatRmv.Ok := rfl
@[simp] theorem ok_fpnCtlRmvAuto : fpnCtlRmvAuto.Ok := rfl
@[simp] theorem ok_fpnCtlAutoret : fpnCtlAutoret.Ok := rfl
@[simp] theorem ok_fpnCtlDtimeout : fpnCtlDtimeout.Ok := rfl
@[simp] theorem ok_fpnCtlRmvTmoMs : fpnCtlRmvTmoMs.Ok := rfl
@[simp] theorem ok_fpnLocMode : fpnLocMode.Ok := rfl
@[simp] theorem ok_fpnAlertCause : fpnAlertCause.Ok := rfl
@[simp] theorem ok_fpnAlertEn : fpnAlertEn.Ok := rfl
@[simp] theorem ok_fpnPwrVin : fpnPwrVin.Ok := rfl
@[simp] theorem ok_fpnPwrIin : fpnPwrIin.Ok := rfl
@[simp] theorem ok_fpnPwrVbank : fpnPwrVbank.Ok := rfl
@[simp] theorem ok_fpnPwrLosses : fpnPwrLosses.Ok := rfl
@[simp] theorem ok_fpnCagePresent : fpnCagePresent.Ok := rfl
@[simp] theorem ok_fpnCageHighpwr : fpnCageHighpwr.Ok := rfl
@[simp] theorem ok_fpnCageOverclass : fpnCageOverclass.Ok := rfl
@[simp] theorem ok_fpnCageAlarm : fpnCageAlarm.Ok := rfl
@[simp] theorem ok_fpnCageRreq : fpnCageRreq.Ok := rfl
@[simp] theorem ok_fpnCagePwrW : fpnCagePwrW.Ok := rfl
@[simp] theorem ok_tunSyncCfgPeriodNs : tunSyncCfgPeriodNs.Ok := rfl
@[simp] theorem ok_tunSyncCfgOffsetNs : tunSyncCfgOffsetNs.Ok := rfl
@[simp] theorem ok_tunSyncDly : tunSyncDly.Ok := rfl
@[simp] theorem ok_tunSoutCfgPeriodNs : tunSoutCfgPeriodNs.Ok := rfl
@[simp] theorem ok_tunSoutCfgOffsetNs : tunSoutCfgOffsetNs.Ok := rfl
@[simp] theorem ok_tunPtmCfgPeriod : tunPtmCfgPeriod.Ok := rfl
@[simp] theorem ok_tunPtmOfs : tunPtmOfs.Ok := rfl
@[simp] theorem ok_rteRank : rteRank.Ok := rfl
@[simp] theorem ok_rteExt : rteExt.Ok := rfl
@[simp] theorem ok_rteRoute : rteRoute.Ok := rfl
@[simp] theorem ok_rteBarMem : rteBarMem.Ok := rfl
@[simp] theorem ok_coreLoopStart : coreLoopStart.Ok := rfl
@[simp] theorem ok_coreLoopLast : coreLoopLast.Ok := rfl
@[simp] theorem ok_coreLoopCount : coreLoopCount.Ok := rfl
@[simp] theorem ok_coreLoopIdx : coreLoopIdx.Ok := rfl
@[simp] theorem ok_coreRepStart : coreRepStart.Ok := rfl
@[simp] theorem ok_coreRepLen : coreRepLen.Ok := rfl
@[simp] theorem ok_coreRepCount : coreRepCount.Ok := rfl
@[simp] theorem ok_coreRepIdx : coreRepIdx.Ok := rfl
@[simp] theorem ok_coreRepRet : coreRepRet.Ok := rfl
@[simp] theorem ok_corePatchArm : corePatchArm.Ok := rfl
@[simp] theorem ok_corePatchPd : corePatchPd.Ok := rfl
@[simp] theorem ok_corePatchPs : corePatchPs.Ok := rfl
@[simp] theorem ok_coreGRdy : coreGRdy.Ok := rfl
@[simp] theorem ok_coreVRdy : coreVRdy.Ok := rfl
@[simp] theorem ok_coreWkind : coreWkind.Ok := rfl
@[simp] theorem ok_coreWobj : coreWobj.Ok := rfl
@[simp] theorem ok_coreClkPend : coreClkPend.Ok := rfl
@[simp] theorem ok_coreAlign : coreAlign.Ok := rfl
@[simp] theorem ok_coreBank : coreBank.Ok := rfl
@[simp] theorem ok_mxDoneAt : mxDoneAt.Ok := rfl
@[simp] theorem ok_mxRetPlane : mxRetPlane.Ok := rfl
@[simp] theorem ok_mxRetInt : mxRetInt.Ok := rfl
@[simp] theorem ok_vxDoneAt : vxDoneAt.Ok := rfl
@[simp] theorem ok_tqHead : tqHead.Ok := rfl
@[simp] theorem ok_tqEnt : tqEnt.Ok := rfl
@[simp] theorem ok_tqFreeAt : tqFreeAt.Ok := rfl
@[simp] theorem ok_tqFullAt : tqFullAt.Ok := rfl
@[simp] theorem ok_spdTag : spdTag.Ok := rfl
@[simp] theorem ok_spdErr : spdErr.Ok := rfl
@[simp] theorem ok_spdInitMask : spdInitMask.Ok := rfl
@[simp] theorem ok_spdUpMask : spdUpMask.Ok := rfl
@[simp] theorem ok_spdSweepPos : spdSweepPos.Ok := rfl
@[simp] theorem ok_spdVisited : spdVisited.Ok := rfl
@[simp] theorem ok_spdHaltPend : spdHaltPend.Ok := rfl
@[simp] theorem ok_spdCeSec : spdCeSec.Ok := rfl
@[simp] theorem ok_coreStartWait : coreStartWait.Ok := rfl
@[simp] theorem ok_msixEn : msixEn.Ok := rfl
@[simp] theorem ok_msixFmask : msixFmask.Ok := rfl
@[simp] theorem ok_msixVmask : msixVmask.Ok := rfl
@[simp] theorem ok_msixPba : msixPba.Ok := rfl
@[simp] theorem ok_fnD3 : fnD3.Ok := rfl
@[simp] theorem ok_gtc : gtc.Ok := rfl
@[simp] theorem ok_ringPubv : ringPubv.Ok := rfl
@[simp] theorem ok_ringFreev : ringFreev.Ok := rfl
@[simp] theorem ok_ringCorePtr : ringCorePtr.Ok := rfl
@[simp] theorem ok_ringSlotSt : ringSlotSt.Ok := rfl
@[simp] theorem ok_ringSlotLanded : ringSlotLanded.Ok := rfl
@[simp] theorem ok_ringSlotWords : ringSlotWords.Ok := rfl
@[simp] theorem ok_ringSlotEos : ringSlotEos.Ok := rfl
@[simp] theorem ok_ringSlotPoison : ringSlotPoison.Ok := rfl
@[simp] theorem ok_ringSlotLeft : ringSlotLeft.Ok := rfl
@[simp] theorem ok_ringSlotGen : ringSlotGen.Ok := rfl
@[simp] theorem ok_fxWait : fxWait.Ok := rfl
@[simp] theorem ok_fxDoneAt : fxDoneAt.Ok := rfl
@[simp] theorem ok_fxF : fxF.Ok := rfl
@[simp] theorem ok_syLeft : syLeft.Ok := rfl
@[simp] theorem ok_syIdx : syIdx.Ok := rfl
@[simp] theorem ok_syEp : syEp.Ok := rfl
@[simp] theorem ok_syAddr : syAddr.Ok := rfl
@[simp] theorem ok_syDoneAt : syDoneAt.Ok := rfl
@[simp] theorem ok_barCount : barCount.Ok := rfl
@[simp] theorem ok_barWait : barWait.Ok := rfl
@[simp] theorem ok_barFault : barFault.Ok := rfl
@[simp] theorem ok_barFaultGen : barFaultGen.Ok := rfl
@[simp] theorem ok_barTimer : barTimer.Ok := rfl
@[simp] theorem ok_ringViewPend : ringViewPend.Ok := rfl
@[simp] theorem ok_ringReadSlot : ringReadSlot.Ok := rfl
@[simp] theorem ok_foxLead : foxLead.Ok := rfl
@[simp] theorem ok_foxSeq : foxSeq.Ok := rfl
@[simp] theorem ok_foxServK : foxServK.Ok := rfl
@[simp] theorem ok_foxRsvcEff : foxRsvcEff.Ok := rfl
@[simp] theorem ok_foxHsqSeen : foxHsqSeen.Ok := rfl
@[simp] theorem ok_foxHsqWay : foxHsqWay.Ok := rfl
@[simp] theorem ok_fabFwd : fabFwd.Ok := rfl
@[simp] theorem ok_lnkTxSeq : lnkTxSeq.Ok := rfl
@[simp] theorem ok_lnkExp : lnkExp.Ok := rfl
@[simp] theorem ok_lnkNakPend : lnkNakPend.Ok := rfl
@[simp] theorem ok_lnkNakDue : lnkNakDue.Ok := rfl
@[simp] theorem ok_lnkRxEp : lnkRxEp.Ok := rfl
@[simp] theorem ok_lnkTxEp : lnkTxEp.Ok := rfl
@[simp] theorem ok_lnkTxEpSeq : lnkTxEpSeq.Ok := rfl
@[simp] theorem ok_lnkReplay : lnkReplay.Ok := rfl
@[simp] theorem ok_lnkRot : lnkRot.Ok := rfl
@[simp] theorem ok_lnkNonce : lnkNonce.Ok := rfl
@[simp] theorem ok_lnkHello : lnkHello.Ok := rfl
@[simp] theorem ok_lnkRetiring : lnkRetiring.Ok := rfl
@[simp] theorem ok_lnkEverAdm : lnkEverAdm.Ok := rfl
@[simp] theorem ok_lnkBseq : lnkBseq.Ok := rfl
@[simp] theorem ok_lnkBcnDue : lnkBcnDue.Ok := rfl
@[simp] theorem ok_lnkPeerBseq : lnkPeerBseq.Ok := rfl
@[simp] theorem ok_lnkPeerTx : lnkPeerTx.Ok := rfl
@[simp] theorem ok_lnkPeerRx : lnkPeerRx.Ok := rfl
@[simp] theorem ok_fabHfTime : fabHfTime.Ok := rfl
@[simp] theorem ok_barLast : barLast.Ok := rfl
@[simp] theorem ok_fbarGen : fbarGen.Ok := rfl
@[simp] theorem ok_fbarArr : fbarArr.Ok := rfl
@[simp] theorem ok_fbarSent : fbarSent.Ok := rfl
@[simp] theorem ok_fbarRel : fbarRel.Ok := rfl
@[simp] theorem ok_fbarT : fbarT.Ok := rfl
@[simp] theorem ok_syExact : syExact.Ok := rfl
@[simp] theorem ok_detOpen : detOpen.Ok := rfl
@[simp] theorem ok_detTag : detTag.Ok := rfl
@[simp] theorem ok_detCauses : detCauses.Ok := rfl
@[simp] theorem ok_detRetry0 : detRetry0.Ok := rfl
@[simp] theorem ok_detRace0 : detRace0.Ok := rfl
@[simp] theorem ok_detStretch0 : detStretch0.Ok := rfl
@[simp] theorem ok_detOsig : detOsig.Ok := rfl
@[simp] theorem ok_detRingExt : detRingExt.Ok := rfl
@[simp] theorem ok_detSegOpen : detSegOpen.Ok := rfl
@[simp] theorem ok_detSegStart : detSegStart.Ok := rfl
@[simp] theorem ok_detSegExt : detSegExt.Ok := rfl
@[simp] theorem ok_detSegOpens : detSegOpens.Ok := rfl
@[simp] theorem ok_synRem : synRem.Ok := rfl
@[simp] theorem ok_refHalf : refHalf.Ok := rfl
@[simp] theorem ok_refPend : refPend.Ok := rfl
@[simp] theorem ok_chLfreqEff : chLfreqEff.Ok := rfl
@[simp] theorem ok_svcLat : svcLat.Ok := rfl
@[simp] theorem ok_slowSec : slowSec.Ok := rfl
@[simp] theorem ok_slowCnt : slowCnt.Ok := rfl
@[simp] theorem ok_sveSerial : sveSerial.Ok := rfl
@[simp] theorem ok_exchHeldAt : exchHeldAt.Ok := rfl
@[simp] theorem ok_exchSeam : exchSeam.Ok := rfl
@[simp] theorem ok_exchSync : exchSync.Ok := rfl
@[simp] theorem ok_mbxCur : mbxCur.Ok := rfl
@[simp] theorem ok_mbxCurObj : mbxCurObj.Ok := rfl
@[simp] theorem ok_pwrDark : pwrDark.Ok := rfl
@[simp] theorem ok_ownSkey : ownSkey.Ok := rfl
@[simp] theorem ok_coreLaunchT : coreLaunchT.Ok := rfl
@[simp] theorem ok_foxRings : foxRings.Ok := rfl
@[simp] theorem ok_mxRetPoison : mxRetPoison.Ok := rfl
@[simp] theorem ok_mxRetAddr : mxRetAddr.Ok := rfl
@[simp] theorem ok_mbxSeq : mbxSeq.Ok := rfl
@[simp] theorem ok_hbqLeft : hbqLeft.Ok := rfl
@[simp] theorem ok_hbqTag : hbqTag.Ok := rfl
@[simp] theorem ok_gtcFrac : gtcFrac.Ok := rfl
@[simp] theorem ok_gtcAway : gtcAway.Ok := rfl
@[simp] theorem ok_gtcLatch : gtcLatch.Ok := rfl
@[simp] theorem ok_tunTicks : tunTicks.Ok := rfl
@[simp] theorem ok_tunRun : tunRun.Ok := rfl
@[simp] theorem ok_tunEpochs : tunEpochs.Ok := rfl
@[simp] theorem ok_tunEpochAt : tunEpochAt.Ok := rfl
@[simp] theorem ok_tunAge : tunAge.Ok := rfl
@[simp] theorem ok_tunSrcOff : tunSrcOff.Ok := rfl
@[simp] theorem ok_tunSrcDly : tunSrcDly.Ok := rfl
@[simp] theorem ok_tunSrcRun : tunSrcRun.Ok := rfl
@[simp] theorem ok_tunSrcEp : tunSrcEp.Ok := rfl
@[simp] theorem ok_tunSrcTick : tunSrcTick.Ok := rfl
@[simp] theorem ok_tunFestX : tunFestX.Ok := rfl
@[simp] theorem ok_tunFestY : tunFestY.Ok := rfl
@[simp] theorem ok_tunFestN : tunFestN.Ok := rfl
@[simp] theorem ok_tunFestNext : tunFestNext.Ok := rfl
@[simp] theorem ok_tunAsymEff : tunAsymEff.Ok := rfl
@[simp] theorem ok_tunPtmNext : tunPtmNext.Ok := rfl
@[simp] theorem ok_tunSoutLast : tunSoutLast.Ok := rfl
@[simp] theorem ok_mbxCopy : mbxCopy.Ok := rfl
@[simp] theorem ok_refBase : refBase.Ok := rfl
@[simp] theorem ok_refRestart : refRestart.Ok := rfl
@[simp] theorem ok_lnkRxEpAt : lnkRxEpAt.Ok := rfl
@[simp] theorem ok_lnkTxEpAt : lnkTxEpAt.Ok := rfl
@[simp] theorem ok_lnkEpTime : lnkEpTime.Ok := rfl
@[simp] theorem ok_lnkEpNext : lnkEpNext.Ok := rfl
@[simp] theorem ok_lnkAckAt : lnkAckAt.Ok := rfl
@[simp] theorem ok_lnkBcnSent : lnkBcnSent.Ok := rfl
@[simp] theorem ok_lnkBcnAt : lnkBcnAt.Ok := rfl
@[simp] theorem ok_lnkRetireAt : lnkRetireAt.Ok := rfl
@[simp] theorem ok_lnkAttGot : lnkAttGot.Ok := rfl
@[simp] theorem ok_lnkAttXid : lnkAttXid.Ok := rfl
@[simp] theorem ok_mbxMode : mbxMode.Ok := rfl
@[simp] theorem ok_pllRelock : pllRelock.Ok := rfl
@[simp] theorem ok_chLfreqNext : chLfreqNext.Ok := rfl
@[simp] theorem ok_wakeAt : wakeAt.Ok := rfl
@[simp] theorem ok_capLimL : capLimL.Ok := rfl
@[simp] theorem ok_thLimL : thLimL.Ok := rfl
@[simp] theorem ok_xtsKey : xtsKey.Ok := rfl
@[simp] theorem ok_hbmGen : hbmGen.Ok := rfl
@[simp] theorem ok_rdKey : rdKey.Ok := rfl
@[simp] theorem ok_killThen : killThen.Ok := rfl
@[simp] theorem ok_killAt : killAt.Ok := rfl
@[simp] theorem ok_killPass : killPass.Ok := rfl
@[simp] theorem ok_killDue : killDue.Ok := rfl
@[simp] theorem ok_bindTmo : bindTmo.Ok := rfl
@[simp] theorem ok_bindAt : bindAt.Ok := rfl
@[simp] theorem ok_svcZero : svcZero.Ok := rfl
@[simp] theorem ok_svcZeroCell : svcZeroCell.Ok := rfl
@[simp] theorem ok_svcZeroLen : svcZeroLen.Ok := rfl
@[simp] theorem ok_msixD3 : msixD3.Ok := rfl
@[simp] theorem ok_frzCause : frzCause.Ok := rfl
@[simp] theorem ok_sesState : sesState.Ok := rfl
@[simp] theorem ok_sesVia : sesVia.Ok := rfl
@[simp] theorem ok_sesOid : sesOid.Ok := rfl
@[simp] theorem ok_capLim : capLim.Ok := rfl
@[simp] theorem ok_thLim : thLim.Ok := rfl
@[simp] theorem ok_thCoolAt : thCoolAt.Ok := rfl
@[simp] theorem ok_hvCoolAt : hvCoolAt.Ok := rfl
@[simp] theorem ok_capCoolAt : capCoolAt.Ok := rfl
@[simp] theorem ok_capPend : capPend.Ok := rfl
@[simp] theorem ok_markAt : markAt.Ok := rfl
@[simp] theorem ok_regTemp : regTemp.Ok := rfl
@[simp] theorem ok_susAt : susAt.Ok := rfl
@[simp] theorem ok_droop : droop.Ok := rfl
@[simp] theorem ok_hbmOff : hbmOff.Ok := rfl
@[simp] theorem ok_stbHbmoff : stbHbmoff.Ok := rfl
@[simp] theorem ok_stbForce : stbForce.Ok := rfl
@[simp] theorem ok_stbAt : stbAt.Ok := rfl
@[simp] theorem ok_evrTok : evrTok.Ok := rfl
@[simp] theorem ok_evrSup : evrSup.Ok := rfl
@[simp] theorem ok_evrLostSec : evrLostSec.Ok := rfl
@[simp] theorem ok_evrSnapTok : evrSnapTok.Ok := rfl
@[simp] theorem ok_evrCnt : evrCnt.Ok := rfl
@[simp] theorem ok_evrStale : evrStale.Ok := rfl
@[simp] theorem ok_evrFlushIn : evrFlushIn.Ok := rfl
@[simp] theorem ok_evrSec : evrSec.Ok := rfl
@[simp] theorem ok_evrSseq : evrSseq.Ok := rfl
@[simp] theorem ok_evrUnit : evrUnit.Ok := rfl
@[simp] theorem ok_evrSecSseq : evrSecSseq.Ok := rfl
@[simp] theorem ok_evrSecBad : evrSecBad.Ok := rfl
@[simp] theorem ok_evrClear : evrClear.Ok := rfl
@[simp] theorem ok_evrLostIn : evrLostIn.Ok := rfl
@[simp] theorem ok_evrLostStb : evrLostStb.Ok := rfl
@[simp] theorem ok_ctrB : ctrB.Ok := rfl
@[simp] theorem ok_ctrA : ctrA.Ok := rfl
@[simp] theorem ok_ctrF : ctrF.Ok := rfl
@[simp] theorem ok_ctrC : ctrC.Ok := rfl
@[simp] theorem ok_ctrSeq : ctrSeq.Ok := rfl
@[simp] theorem ok_ctrSec : ctrSec.Ok := rfl
@[simp] theorem ok_ctrN : ctrN.Ok := rfl
@[simp] theorem ok_opsS : opsS.Ok := rfl
@[simp] theorem ok_envExt : envExt.Ok := rfl
@[simp] theorem ok_svcFbN : svcFbN.Ok := rfl
@[simp] theorem ok_svcMaxUs : svcMaxUs.Ok := rfl
@[simp] theorem ok_alertPin : alertPin.Ok := rfl
@[simp] theorem ok_modOn : modOn.Ok := rfl
@[simp] theorem ok_inLost : inLost.Ok := rfl
@[simp] theorem ok_inLostAt : inLostAt.Ok := rfl
@[simp] theorem ok_compOff : compOff.Ok := rfl
@[simp] theorem ok_rmvStep : rmvStep.Ok := rfl
@[simp] theorem ok_pldmTid : pldmTid.Ok := rfl
@[simp] theorem ok_pldmRx : pldmRx.Ok := rfl
@[simp] theorem ok_mctpEid : mctpEid.Ok := rfl
@[simp] theorem ok_roNext : roNext.Ok := rfl
@[simp] theorem ok_roCrc : roCrc.Ok := rfl
@[simp] theorem ok_roSent : roSent.Ok := rfl
@[simp] theorem ok_roLast : roLast.Ok := rfl
@[simp] theorem ok_roForm : roForm.Ok := rfl
@[simp] theorem ok_roOn : roOn.Ok := rfl
@[simp] theorem ok_mxFail : mxFail.Ok := rfl
@[simp] theorem ok_msixTab : msixTab.Ok := rfl
@[simp] theorem ok_evrSecEnd : evrSecEnd.Ok := rfl
@[simp] theorem ok_evrTorn : evrTorn.Ok := rfl
@[simp] theorem ok_frzOpsec : frzOpsec.Ok := rfl
@[simp] theorem ok_frzPcyc : frzPcyc.Ok := rfl
@[simp] theorem ok_pcsLock : pcsLock.Ok := rfl
@[simp] theorem ok_sveBad : sveBad.Ok := rfl
@[simp] theorem ok_tlailBad : tlailBad.Ok := rfl
@[simp] theorem ok_fwJobImage : fwJobImage.Ok := rfl
@[simp] theorem ok_fwJobSlot : fwJobSlot.Ok := rfl
@[simp] theorem ok_fwJobOffset : fwJobOffset.Ok := rfl
@[simp] theorem ok_fwJobLen : fwJobLen.Ok := rfl
@[simp] theorem ok_chainEmpty : chainEmpty.Ok := rfl
@[simp] theorem ok_gaPins : gaPins.Ok := rfl
@[simp] theorem ok_sesAsk : sesAsk.Ok := rfl


theorem ok_all0 : all0.all (fun f => decide (at? f.id = some f)) = true := rfl
theorem ok_all1 : all1.all (fun f => decide (at? f.id = some f)) = true := rfl
theorem ok_all2 : all2.all (fun f => decide (at? f.id = some f)) = true := rfl
theorem ok_all3 : all3.all (fun f => decide (at? f.id = some f)) = true := rfl
theorem ok_all4 : all4.all (fun f => decide (at? f.id = some f)) = true := rfl
theorem ok_all5 : all5.all (fun f => decide (at? f.id = some f)) = true := rfl
theorem ok_all6 : all6.all (fun f => decide (at? f.id = some f)) = true := rfl
theorem ok_all7 : all7.all (fun f => decide (at? f.id = some f)) = true := rfl
theorem ok_all8 : all8.all (fun f => decide (at? f.id = some f)) = true := rfl
theorem ok_all9 : all9.all (fun f => decide (at? f.id = some f)) = true := rfl
theorem ok_all10 : all10.all (fun f => decide (at? f.id = some f)) = true := rfl
theorem ok_all11 : all11.all (fun f => decide (at? f.id = some f)) = true := rfl
theorem ok_all12 : all12.all (fun f => decide (at? f.id = some f)) = true := rfl
theorem ok_all13 : all13.all (fun f => decide (at? f.id = some f)) = true := rfl
theorem ok_all14 : all14.all (fun f => decide (at? f.id = some f)) = true := rfl
theorem ok_all15 : all15.all (fun f => decide (at? f.id = some f)) = true := rfl
theorem ok_all16 : all16.all (fun f => decide (at? f.id = some f)) = true := rfl
theorem ok_all17 : all17.all (fun f => decide (at? f.id = some f)) = true := rfl
theorem ok_all18 : all18.all (fun f => decide (at? f.id = some f)) = true := rfl

/-- Every field of the table is the one that its number names. -/
theorem at?_ok {i : Nat} {f : Fld} (h : at? i = some f) : f.Ok := by
  unfold at? at h
  have hf := List.mem_of_getElem? h
  have hp : ∀ p ∈ parts, p.all (fun f => decide (at? f.id = some f)) = true := by
    simp only [parts, List.mem_cons, List.not_mem_nil, or_false, forall_eq_or_imp, forall_eq, ok_all0, ok_all1, ok_all2, ok_all3, ok_all4, ok_all5, ok_all6, ok_all7, ok_all8, ok_all9, ok_all10, ok_all11, ok_all12, ok_all13, ok_all14, ok_all15, ok_all16, ok_all17, ok_all18, and_self]
  by_cases hk : i / 40 < parts.length
  · rw [List.getD_eq_getElem?_getD, List.getElem?_eq_getElem hk, Option.getD_some] at hf
    show at? f.id = some f
    exact of_decide_eq_true (List.all_eq_true.mp (hp _ (List.getElem_mem hk)) f hf)
  · rw [List.getD_eq_getElem?_getD, List.getElem?_eq_none (by omega), Option.getD_none] at hf
    simp at hf

end Fld

/-- The width of the field that a number names. -/
def fldWidth (id : Nat) : Nat := ((Fld.at? id).map (·.width)).getD 0

theorem Fld.Ok.fldWidth {f : Fld} (h : f.Ok) : Sys2Proof.Machine.fldWidth f.id = f.width := by
  unfold Sys2Proof.Machine.fldWidth
  rw [h]
  rfl

end Sys2Proof.Machine
end

