-- ==== Sys2Proof/Laws/Tab.lean ====
section
/-!
SUPPORT. Laws of the sparse tables: what is read after a write or a removal, and that the keys stay strictly rising.
-/
namespace Sys2Proof.Machine

section
variable {α : Type}

/-- Every key of the table is above k. -/
def tabove (k : Nat) (t : Tab α) : Prop := ∀ e ∈ t, k < e.1

@[simp] theorem tget?_nil (k : Nat) : tget? ([] : Tab α) k = none := rfl

@[simp] theorem tget?_tset_self (t : Tab α) (k : Nat) (v : α) : tget? (tset t k v) k = some v := by
  induction t with
  | nil => simp [tset, tget?]
  | cons e t ih =>
    obtain ⟨j, w⟩ := e
    by_cases h : k = j
    · simp [tset, tget?, h]
    · by_cases h2 : k < j
      · simp [tset, tget?, h, h2]
      · simp [tset, tget?, h, h2, ih]

theorem tget?_tset_ne (t : Tab α) {k j : Nat} (v : α) (h : j ≠ k) : tget? (tset t k v) j = tget? t j := by
  induction t with
  | nil => simp [tset, tget?, h]
  | cons e t ih =>
    obtain ⟨i, w⟩ := e
    by_cases hk : k = i
    · subst hk; simp [tset, tget?, h]
    · by_cases h2 : k < i
      · simp [tset, tget?, hk, h2, h]
      · by_cases hj : j = i <;> simp [tset, tget?, hk, h2, hj, ih]

/-- Reading after a removal by a test. -/
theorem tget?_tclear (p : Nat → Bool) (t : Tab α) (k : Nat) :
    tget? (tclear p t) k = if p k then none else tget? t k := by
  induction t with
  | nil => simp [tclear]
  | cons e t ih =>
    obtain ⟨j, w⟩ := e
    simp only [tclear] at ih ⊢
    by_cases hp : p j
    · by_cases hk : k = j
      · subst hk; simp [hp, ih]
      · simp [hp, ih, tget?, hk]
    · by_cases hk : k = j
      · subst hk; simp [hp, tget?]
      · simp [hp, ih, tget?, hk]

@[simp] theorem tget?_tdel_self (t : Tab α) (k : Nat) : tget? (tdel t k) k = none := by simp [tdel, tget?_tclear]

theorem tget?_tdel_ne (t : Tab α) {k j : Nat} (h : j ≠ k) : tget? (tdel t k) j = tget? t j := by
  simp [tdel, tget?_tclear, h]

section
variable [DecidableEq α]

/-- Reading the place written, where an unlisted place reads as d. -/
@[simp] theorem tsetD_get_self (d : α) (t : Tab α) (k : Nat) (v : α) : (tget? (tsetD d t k v) k).getD d = v := by
  unfold tsetD
  split
  · simp_all
  · simp

theorem tget?_tsetD_ne (d : α) (t : Tab α) {k j : Nat} (v : α) (h : j ≠ k) : tget? (tsetD d t k v) j = tget? t j := by
  unfold tsetD
  split
  · exact tget?_tdel_ne t h
  · exact tget?_tset_ne t v h

end

/-! ## The keys stay strictly rising -/

theorem tsorted_cons (e : Nat × α) (t : Tab α) : tsorted (e :: t) = true ↔ tabove e.1 t ∧ tsorted t = true := by
  induction t generalizing e with
  | nil => simp [tsorted, tabove]
  | cons f t ih =>
    simp only [tsorted, Bool.and_eq_true, decide_eq_true_eq, ih, tabove, List.mem_cons, forall_eq_or_imp]
    constructor
    · rintro ⟨h1, h2, h3⟩
      exact ⟨⟨h1, fun x hx => Nat.lt_trans h1 (h2 x hx)⟩, h2, h3⟩
    · rintro ⟨⟨h1, _⟩, h2, h3⟩
      exact ⟨h1, h2, h3⟩

theorem tsorted_filter (p : Nat × α → Bool) {t : Tab α} (h : tsorted t = true) : tsorted (t.filter p) = true := by
  induction t with
  | nil => rfl
  | cons e t ih =>
    rw [tsorted_cons] at h
    rw [List.filter_cons]
    split
    · rw [tsorted_cons]
      exact ⟨fun x hx => h.1 x ((List.mem_filter.mp hx).1), ih h.2⟩
    · exact ih h.2

@[simp] theorem tsorted_tclear (p : Nat → Bool) {t : Tab α} (h : tsorted t = true) : tsorted (tclear p t) = true :=
  tsorted_filter _ h

@[simp] theorem tsorted_tdel {t : Tab α} (k : Nat) (h : tsorted t = true) : tsorted (tdel t k) = true := tsorted_filter _ h

theorem tabove_tset {t : Tab α} {j k : Nat} (v : α) (h : tabove j t) (hk : j < k) : tabove j (tset t k v) := by
  induction t with
  | nil => simpa [tset, tabove] using hk
  | cons e t ih =>
    obtain ⟨i, w⟩ := e
    simp only [tabove, List.mem_cons, forall_eq_or_imp] at h
    simp only [tset]
    split
    · simp only [tabove, List.mem_cons, forall_eq_or_imp]; exact ⟨hk, h.2⟩
    · split
      · simp only [tabove, List.mem_cons, forall_eq_or_imp]; exact ⟨hk, h.1, h.2⟩
      · simp only [tabove, List.mem_cons, forall_eq_or_imp]; exact ⟨h.1, ih h.2⟩

@[simp] theorem tsorted_tset {t : Tab α} (k : Nat) (v : α) (h : tsorted t = true) : tsorted (tset t k v) = true := by
  induction t with
  | nil => rfl
  | cons e t ih =>
    obtain ⟨i, w⟩ := e
    rw [tsorted_cons] at h
    simp only [tset]
    split
    next hk => subst hk; rw [tsorted_cons]; exact h
    next hk =>
      split
      next hlt =>
        rw [tsorted_cons, tsorted_cons]
        refine ⟨?_, h⟩
        simp only [tabove, List.mem_cons, forall_eq_or_imp]
        exact ⟨hlt, fun x hx => Nat.lt_trans hlt (h.1 x hx)⟩
      next hlt =>
        rw [tsorted_cons]
        exact ⟨tabove_tset v h.1 (by omega), ih h.2⟩

@[simp] theorem tsorted_tsetD [DecidableEq α] (d : α) {t : Tab α} (k : Nat) (v : α) (h : tsorted t = true) :
    tsorted (tsetD d t k v) = true := by
  unfold tsetD
  split
  · exact tsorted_tdel k h
  · exact tsorted_tset k v h

/-- Changing the values and not the keys. -/
theorem tsorted_map {β : Type} (f : Nat × α → Nat × β) (hf : ∀ e, (f e).1 = e.1) {t : Tab α} (h : tsorted t = true) :
    tsorted (t.map f) = true := by
  induction t with
  | nil => rfl
  | cons e t ih =>
    rw [tsorted_cons] at h
    rw [List.map_cons, tsorted_cons]
    refine ⟨fun x hx => ?_, ih h.2⟩
    obtain ⟨y, hy, rfl⟩ := List.mem_map.mp hx
    rw [hf, hf]
    exact h.1 y hy

/-! ## What holds of every entry stays so -/

theorem mem_tset {t : Tab α} {k : Nat} {v : α} {e : Nat × α} (h : e ∈ tset t k v) : e = (k, v) ∨ e ∈ t := by
  induction t with
  | nil => simpa [tset] using h
  | cons f t ih =>
    obtain ⟨i, w⟩ := f
    simp only [tset] at h
    split at h
    · simp only [List.mem_cons] at h ⊢
      exact h.imp_right .inr
    · split at h
      · simpa only [List.mem_cons] using h
      · simp only [List.mem_cons] at h ⊢
        rcases h with h | h
        · exact .inr (.inl h)
        · rcases ih h with h | h
          · exact .inl h
          · exact .inr (.inr h)

theorem mem_of_mem_tclear {p : Nat → Bool} {t : Tab α} {e : Nat × α} (h : e ∈ tclear p t) : e ∈ t := (List.mem_filter.mp h).1

theorem mem_tsetD [DecidableEq α] {d : α} {t : Tab α} {k : Nat} {v : α} {e : Nat × α} (h : e ∈ tsetD d t k v) :
    e = (k, v) ∧ v ≠ d ∨ e ∈ t := by
  unfold tsetD at h
  split at h
  · exact .inr (mem_of_mem_tclear h)
  next hv => rcases mem_tset h with h | h
             · exact .inl ⟨h, hv⟩
             · exact .inr h

theorem mem_of_tget? {t : Tab α} {k : Nat} {v : α} (h : tget? t k = some v) : (k, v) ∈ t := by
  induction t with
  | nil => simp at h
  | cons e t ih =>
    obtain ⟨j, w⟩ := e
    simp only [tget?] at h
    split at h
    next hk => cases h; subst hk; exact List.mem_cons_self
    next hk => exact List.mem_cons_of_mem _ (ih h)

end

end Sys2Proof.Machine
end

