-- ==== Sys2Proof/Laws/State.lean ====
section
/-!
SUPPORT. Laws of State: what each primitive update leaves as it was, and what a field or a byte reads as after an update.
-/
namespace Sys2Proof.Machine

/-! ## The list fields past each update -/

@[simp] theorem State.put_mem (s : State) (f : Fld) (a b v : Nat) : (s.put f a b v).mem = s.mem := rfl
@[simp] theorem State.put_vreg (s : State) (f : Fld) (a b v : Nat) : (s.put f a b v).vreg = s.vreg := rfl
@[simp] theorem State.put_planes (s : State) (f : Fld) (a b v : Nat) : (s.put f a b v).planes = s.planes := rfl
@[simp] theorem State.put_tiles (s : State) (f : Fld) (a b v : Nat) : (s.put f a b v).tiles = s.tiles := rfl
@[simp] theorem State.put_mxJobs (s : State) (f : Fld) (a b v : Nat) : (s.put f a b v).mxJobs = s.mxJobs := rfl
@[simp] theorem State.put_vxJobs (s : State) (f : Fld) (a b v : Nat) : (s.put f a b v).vxJobs = s.vxJobs := rfl
@[simp] theorem State.put_rerun (s : State) (f : Fld) (a b v : Nat) : (s.put f a b v).rerun = s.rerun := rfl
@[simp] theorem State.put_fifo (s : State) (f : Fld) (a b v : Nat) : (s.put f a b v).fifo = s.fifo := rfl
@[simp] theorem State.put_transit (s : State) (f : Fld) (a b v : Nat) : (s.put f a b v).transit = s.transit := rfl
@[simp] theorem State.put_foxArr (s : State) (f : Fld) (a b v : Nat) : (s.put f a b v).foxArr = s.foxArr := rfl
@[simp] theorem State.put_foxAct (s : State) (f : Fld) (a b v : Nat) : (s.put f a b v).foxAct = s.foxAct := rfl
@[simp] theorem State.put_foxReqs (s : State) (f : Fld) (a b v : Nat) : (s.put f a b v).foxReqs = s.foxReqs := rfl
@[simp] theorem State.put_foxMsgs (s : State) (f : Fld) (a b v : Nat) : (s.put f a b v).foxMsgs = s.foxMsgs := rfl
@[simp] theorem State.put_foxPeer (s : State) (f : Fld) (a b v : Nat) : (s.put f a b v).foxPeer = s.foxPeer := rfl
@[simp] theorem State.put_hbmBad (s : State) (f : Fld) (a b v : Nat) : (s.put f a b v).hbmBad = s.hbmBad := rfl
@[simp] theorem State.put_hbmKey (s : State) (f : Fld) (a b v : Nat) : (s.put f a b v).hbmKey = s.hbmKey := rfl
@[simp] theorem State.put_txq (s : State) (f : Fld) (a b v : Nat) : (s.put f a b v).txq = s.txq := rfl
@[simp] theorem State.put_retry (s : State) (f : Fld) (a b v : Nat) : (s.put f a b v).retry = s.retry := rfl
@[simp] theorem State.put_attest (s : State) (f : Fld) (a b v : Nat) : (s.put f a b v).attest = s.attest := rfl
@[simp] theorem State.put_segs (s : State) (f : Fld) (a b v : Nat) : (s.put f a b v).segs = s.segs := rfl
@[simp] theorem State.put_segRings (s : State) (f : Fld) (a b v : Nat) : (s.put f a b v).segRings = s.segRings := rfl
@[simp] theorem State.put_requests (s : State) (f : Fld) (a b v : Nat) : (s.put f a b v).requests = s.requests := rfl
@[simp] theorem State.put_windows (s : State) (f : Fld) (a b v : Nat) : (s.put f a b v).windows = s.windows := rfl
@[simp] theorem State.put_batches (s : State) (f : Fld) (a b v : Nat) : (s.put f a b v).batches = s.batches := rfl
@[simp] theorem State.put_resps (s : State) (f : Fld) (a b v : Nat) : (s.put f a b v).resps = s.resps := rfl
@[simp] theorem State.put_liveTags (s : State) (f : Fld) (a b v : Nat) : (s.put f a b v).liveTags = s.liveTags := rfl
@[simp] theorem State.put_svcPend (s : State) (f : Fld) (a b v : Nat) : (s.put f a b v).svcPend = s.svcPend := rfl
@[simp] theorem State.put_epochPend (s : State) (f : Fld) (a b v : Nat) : (s.put f a b v).epochPend = s.epochPend := rfl
@[simp] theorem State.put_slow (s : State) (f : Fld) (a b v : Nat) : (s.put f a b v).slow = s.slow := rfl
@[simp] theorem State.put_checked (s : State) (f : Fld) (a b v : Nat) : (s.put f a b v).checked = s.checked := rfl
@[simp] theorem State.put_held (s : State) (f : Fld) (a b v : Nat) : (s.put f a b v).held = s.held := rfl
@[simp] theorem State.put_evq (s : State) (f : Fld) (a b v : Nat) : (s.put f a b v).evq = s.evq := rfl
@[simp] theorem State.put_evrBuf (s : State) (f : Fld) (a b v : Nat) : (s.put f a b v).evrBuf = s.evrBuf := rfl
@[simp] theorem State.put_evrStaged (s : State) (f : Fld) (a b v : Nat) : (s.put f a b v).evrStaged = s.evrStaged := rfl
@[simp] theorem State.put_roTail (s : State) (f : Fld) (a b v : Nat) : (s.put f a b v).roTail = s.roTail := rfl
@[simp] theorem State.put_out (s : State) (f : Fld) (a b v : Nat) : (s.put f a b v).out = s.out := rfl
@[simp] theorem State.put_ctr (s : State) (f : Fld) (a b v : Nat) : (s.put f a b v).ctr = s.ctr := rfl
@[simp] theorem State.put_pending (s : State) (f : Fld) (a b v : Nat) : (s.put f a b v).pending = s.pending := rfl

@[simp] theorem State.clearFlds_mem (s : State) (fs : List Fld) (p : Nat → Bool) : (s.clearFlds fs p).mem = s.mem := rfl
@[simp] theorem State.clearFlds_vreg (s : State) (fs : List Fld) (p : Nat → Bool) : (s.clearFlds fs p).vreg = s.vreg := rfl
@[simp] theorem State.clearFlds_planes (s : State) (fs : List Fld) (p : Nat → Bool) : (s.clearFlds fs p).planes = s.planes := rfl
@[simp] theorem State.clearFlds_tiles (s : State) (fs : List Fld) (p : Nat → Bool) : (s.clearFlds fs p).tiles = s.tiles := rfl
@[simp] theorem State.clearFlds_mxJobs (s : State) (fs : List Fld) (p : Nat → Bool) : (s.clearFlds fs p).mxJobs = s.mxJobs := rfl
@[simp] theorem State.clearFlds_vxJobs (s : State) (fs : List Fld) (p : Nat → Bool) : (s.clearFlds fs p).vxJobs = s.vxJobs := rfl
@[simp] theorem State.clearFlds_rerun (s : State) (fs : List Fld) (p : Nat → Bool) : (s.clearFlds fs p).rerun = s.rerun := rfl
@[simp] theorem State.clearFlds_fifo (s : State) (fs : List Fld) (p : Nat → Bool) : (s.clearFlds fs p).fifo = s.fifo := rfl
@[simp] theorem State.clearFlds_transit (s : State) (fs : List Fld) (p : Nat → Bool) : (s.clearFlds fs p).transit = s.transit := rfl
@[simp] theorem State.clearFlds_foxArr (s : State) (fs : List Fld) (p : Nat → Bool) : (s.clearFlds fs p).foxArr = s.foxArr := rfl
@[simp] theorem State.clearFlds_foxAct (s : State) (fs : List Fld) (p : Nat → Bool) : (s.clearFlds fs p).foxAct = s.foxAct := rfl
@[simp] theorem State.clearFlds_foxReqs (s : State) (fs : List Fld) (p : Nat → Bool) : (s.clearFlds fs p).foxReqs = s.foxReqs := rfl
@[simp] theorem State.clearFlds_foxMsgs (s : State) (fs : List Fld) (p : Nat → Bool) : (s.clearFlds fs p).foxMsgs = s.foxMsgs := rfl
@[simp] theorem State.clearFlds_foxPeer (s : State) (fs : List Fld) (p : Nat → Bool) : (s.clearFlds fs p).foxPeer = s.foxPeer := rfl
@[simp] theorem State.clearFlds_hbmBad (s : State) (fs : List Fld) (p : Nat → Bool) : (s.clearFlds fs p).hbmBad = s.hbmBad := rfl
@[simp] theorem State.clearFlds_hbmKey (s : State) (fs : List Fld) (p : Nat → Bool) : (s.clearFlds fs p).hbmKey = s.hbmKey := rfl
@[simp] theorem State.clearFlds_txq (s : State) (fs : List Fld) (p : Nat → Bool) : (s.clearFlds fs p).txq = s.txq := rfl
@[simp] theorem State.clearFlds_retry (s : State) (fs : List Fld) (p : Nat → Bool) : (s.clearFlds fs p).retry = s.retry := rfl
@[simp] theorem State.clearFlds_attest (s : State) (fs : List Fld) (p : Nat → Bool) : (s.clearFlds fs p).attest = s.attest := rfl
@[simp] theorem State.clearFlds_segs (s : State) (fs : List Fld) (p : Nat → Bool) : (s.clearFlds fs p).segs = s.segs := rfl
@[simp] theorem State.clearFlds_segRings (s : State) (fs : List Fld) (p : Nat → Bool) : (s.clearFlds fs p).segRings = s.segRings := rfl
@[simp] theorem State.clearFlds_requests (s : State) (fs : List Fld) (p : Nat → Bool) : (s.clearFlds fs p).requests = s.requests := rfl
@[simp] theorem State.clearFlds_windows (s : State) (fs : List Fld) (p : Nat → Bool) : (s.clearFlds fs p).windows = s.windows := rfl
@[simp] theorem State.clearFlds_batches (s : State) (fs : List Fld) (p : Nat → Bool) : (s.clearFlds fs p).batches = s.batches := rfl
@[simp] theorem State.clearFlds_resps (s : State) (fs : List Fld) (p : Nat → Bool) : (s.clearFlds fs p).resps = s.resps := rfl
@[simp] theorem State.clearFlds_liveTags (s : State) (fs : List Fld) (p : Nat → Bool) : (s.clearFlds fs p).liveTags = s.liveTags := rfl
@[simp] theorem State.clearFlds_svcPend (s : State) (fs : List Fld) (p : Nat → Bool) : (s.clearFlds fs p).svcPend = s.svcPend := rfl
@[simp] theorem State.clearFlds_epochPend (s : State) (fs : List Fld) (p : Nat → Bool) : (s.clearFlds fs p).epochPend = s.epochPend := rfl
@[simp] theorem State.clearFlds_slow (s : State) (fs : List Fld) (p : Nat → Bool) : (s.clearFlds fs p).slow = s.slow := rfl
@[simp] theorem State.clearFlds_checked (s : State) (fs : List Fld) (p : Nat → Bool) : (s.clearFlds fs p).checked = s.checked := rfl
@[simp] theorem State.clearFlds_held (s : State) (fs : List Fld) (p : Nat → Bool) : (s.clearFlds fs p).held = s.held := rfl
@[simp] theorem State.clearFlds_evq (s : State) (fs : List Fld) (p : Nat → Bool) : (s.clearFlds fs p).evq = s.evq := rfl
@[simp] theorem State.clearFlds_evrBuf (s : State) (fs : List Fld) (p : Nat → Bool) : (s.clearFlds fs p).evrBuf = s.evrBuf := rfl
@[simp] theorem State.clearFlds_evrStaged (s : State) (fs : List Fld) (p : Nat → Bool) : (s.clearFlds fs p).evrStaged = s.evrStaged := rfl
@[simp] theorem State.clearFlds_roTail (s : State) (fs : List Fld) (p : Nat → Bool) : (s.clearFlds fs p).roTail = s.roTail := rfl
@[simp] theorem State.clearFlds_out (s : State) (fs : List Fld) (p : Nat → Bool) : (s.clearFlds fs p).out = s.out := rfl
@[simp] theorem State.clearFlds_ctr (s : State) (fs : List Fld) (p : Nat → Bool) : (s.clearFlds fs p).ctr = s.ctr := rfl
@[simp] theorem State.clearFlds_pending (s : State) (fs : List Fld) (p : Nat → Bool) : (s.clearFlds fs p).pending = s.pending := rfl

@[simp] theorem State.setByte_reg (s : State) (a : Nat) (v : BitVec 8) : (s.setByte a v).reg = s.reg := rfl
@[simp] theorem State.setByte_vreg (s : State) (a : Nat) (v : BitVec 8) : (s.setByte a v).vreg = s.vreg := rfl
@[simp] theorem State.setByte_planes (s : State) (a : Nat) (v : BitVec 8) : (s.setByte a v).planes = s.planes := rfl
@[simp] theorem State.setByte_tiles (s : State) (a : Nat) (v : BitVec 8) : (s.setByte a v).tiles = s.tiles := rfl
@[simp] theorem State.setByte_mxJobs (s : State) (a : Nat) (v : BitVec 8) : (s.setByte a v).mxJobs = s.mxJobs := rfl
@[simp] theorem State.setByte_vxJobs (s : State) (a : Nat) (v : BitVec 8) : (s.setByte a v).vxJobs = s.vxJobs := rfl
@[simp] theorem State.setByte_rerun (s : State) (a : Nat) (v : BitVec 8) : (s.setByte a v).rerun = s.rerun := rfl
@[simp] theorem State.setByte_fifo (s : State) (a : Nat) (v : BitVec 8) : (s.setByte a v).fifo = s.fifo := rfl
@[simp] theorem State.setByte_transit (s : State) (a : Nat) (v : BitVec 8) : (s.setByte a v).transit = s.transit := rfl
@[simp] theorem State.setByte_foxArr (s : State) (a : Nat) (v : BitVec 8) : (s.setByte a v).foxArr = s.foxArr := rfl
@[simp] theorem State.setByte_foxAct (s : State) (a : Nat) (v : BitVec 8) : (s.setByte a v).foxAct = s.foxAct := rfl
@[simp] theorem State.setByte_foxReqs (s : State) (a : Nat) (v : BitVec 8) : (s.setByte a v).foxReqs = s.foxReqs := rfl
@[simp] theorem State.setByte_foxMsgs (s : State) (a : Nat) (v : BitVec 8) : (s.setByte a v).foxMsgs = s.foxMsgs := rfl
@[simp] theorem State.setByte_foxPeer (s : State) (a : Nat) (v : BitVec 8) : (s.setByte a v).foxPeer = s.foxPeer := rfl
@[simp] theorem State.setByte_hbmBad (s : State) (a : Nat) (v : BitVec 8) : (s.setByte a v).hbmBad = s.hbmBad := rfl
@[simp] theorem State.setByte_hbmKey (s : State) (a : Nat) (v : BitVec 8) : (s.setByte a v).hbmKey = s.hbmKey := rfl
@[simp] theorem State.setByte_txq (s : State) (a : Nat) (v : BitVec 8) : (s.setByte a v).txq = s.txq := rfl
@[simp] theorem State.setByte_retry (s : State) (a : Nat) (v : BitVec 8) : (s.setByte a v).retry = s.retry := rfl
@[simp] theorem State.setByte_attest (s : State) (a : Nat) (v : BitVec 8) : (s.setByte a v).attest = s.attest := rfl
@[simp] theorem State.setByte_segs (s : State) (a : Nat) (v : BitVec 8) : (s.setByte a v).segs = s.segs := rfl
@[simp] theorem State.setByte_segRings (s : State) (a : Nat) (v : BitVec 8) : (s.setByte a v).segRings = s.segRings := rfl
@[simp] theorem State.setByte_requests (s : State) (a : Nat) (v : BitVec 8) : (s.setByte a v).requests = s.requests := rfl
@[simp] theorem State.setByte_windows (s : State) (a : Nat) (v : BitVec 8) : (s.setByte a v).windows = s.windows := rfl
@[simp] theorem State.setByte_batches (s : State) (a : Nat) (v : BitVec 8) : (s.setByte a v).batches = s.batches := rfl
@[simp] theorem State.setByte_resps (s : State) (a : Nat) (v : BitVec 8) : (s.setByte a v).resps = s.resps := rfl
@[simp] theorem State.setByte_liveTags (s : State) (a : Nat) (v : BitVec 8) : (s.setByte a v).liveTags = s.liveTags := rfl
@[simp] theorem State.setByte_svcPend (s : State) (a : Nat) (v : BitVec 8) : (s.setByte a v).svcPend = s.svcPend := rfl
@[simp] theorem State.setByte_epochPend (s : State) (a : Nat) (v : BitVec 8) : (s.setByte a v).epochPend = s.epochPend := rfl
@[simp] theorem State.setByte_slow (s : State) (a : Nat) (v : BitVec 8) : (s.setByte a v).slow = s.slow := rfl
@[simp] theorem State.setByte_checked (s : State) (a : Nat) (v : BitVec 8) : (s.setByte a v).checked = s.checked := rfl
@[simp] theorem State.setByte_held (s : State) (a : Nat) (v : BitVec 8) : (s.setByte a v).held = s.held := rfl
@[simp] theorem State.setByte_evq (s : State) (a : Nat) (v : BitVec 8) : (s.setByte a v).evq = s.evq := rfl
@[simp] theorem State.setByte_evrBuf (s : State) (a : Nat) (v : BitVec 8) : (s.setByte a v).evrBuf = s.evrBuf := rfl
@[simp] theorem State.setByte_evrStaged (s : State) (a : Nat) (v : BitVec 8) : (s.setByte a v).evrStaged = s.evrStaged := rfl
@[simp] theorem State.setByte_roTail (s : State) (a : Nat) (v : BitVec 8) : (s.setByte a v).roTail = s.roTail := rfl
@[simp] theorem State.setByte_out (s : State) (a : Nat) (v : BitVec 8) : (s.setByte a v).out = s.out := rfl
@[simp] theorem State.setByte_ctr (s : State) (a : Nat) (v : BitVec 8) : (s.setByte a v).ctr = s.ctr := rfl
@[simp] theorem State.setByte_pending (s : State) (a : Nat) (v : BitVec 8) : (s.setByte a v).pending = s.pending := rfl

@[simp] theorem State.wipe_reg (s : State) (lo hi : Nat) : (s.wipe lo hi).reg = s.reg := rfl
@[simp] theorem State.wipe_vreg (s : State) (lo hi : Nat) : (s.wipe lo hi).vreg = s.vreg := rfl
@[simp] theorem State.wipe_planes (s : State) (lo hi : Nat) : (s.wipe lo hi).planes = s.planes := rfl
@[simp] theorem State.wipe_tiles (s : State) (lo hi : Nat) : (s.wipe lo hi).tiles = s.tiles := rfl
@[simp] theorem State.wipe_mxJobs (s : State) (lo hi : Nat) : (s.wipe lo hi).mxJobs = s.mxJobs := rfl
@[simp] theorem State.wipe_vxJobs (s : State) (lo hi : Nat) : (s.wipe lo hi).vxJobs = s.vxJobs := rfl
@[simp] theorem State.wipe_rerun (s : State) (lo hi : Nat) : (s.wipe lo hi).rerun = s.rerun := rfl
@[simp] theorem State.wipe_fifo (s : State) (lo hi : Nat) : (s.wipe lo hi).fifo = s.fifo := rfl
@[simp] theorem State.wipe_transit (s : State) (lo hi : Nat) : (s.wipe lo hi).transit = s.transit := rfl
@[simp] theorem State.wipe_foxArr (s : State) (lo hi : Nat) : (s.wipe lo hi).foxArr = s.foxArr := rfl
@[simp] theorem State.wipe_foxAct (s : State) (lo hi : Nat) : (s.wipe lo hi).foxAct = s.foxAct := rfl
@[simp] theorem State.wipe_foxReqs (s : State) (lo hi : Nat) : (s.wipe lo hi).foxReqs = s.foxReqs := rfl
@[simp] theorem State.wipe_foxMsgs (s : State) (lo hi : Nat) : (s.wipe lo hi).foxMsgs = s.foxMsgs := rfl
@[simp] theorem State.wipe_foxPeer (s : State) (lo hi : Nat) : (s.wipe lo hi).foxPeer = s.foxPeer := rfl
@[simp] theorem State.wipe_hbmBad (s : State) (lo hi : Nat) : (s.wipe lo hi).hbmBad = s.hbmBad := rfl
@[simp] theorem State.wipe_hbmKey (s : State) (lo hi : Nat) : (s.wipe lo hi).hbmKey = s.hbmKey := rfl
@[simp] theorem State.wipe_txq (s : State) (lo hi : Nat) : (s.wipe lo hi).txq = s.txq := rfl
@[simp] theorem State.wipe_retry (s : State) (lo hi : Nat) : (s.wipe lo hi).retry = s.retry := rfl
@[simp] theorem State.wipe_attest (s : State) (lo hi : Nat) : (s.wipe lo hi).attest = s.attest := rfl
@[simp] theorem State.wipe_segs (s : State) (lo hi : Nat) : (s.wipe lo hi).segs = s.segs := rfl
@[simp] theorem State.wipe_segRings (s : State) (lo hi : Nat) : (s.wipe lo hi).segRings = s.segRings := rfl
@[simp] theorem State.wipe_requests (s : State) (lo hi : Nat) : (s.wipe lo hi).requests = s.requests := rfl
@[simp] theorem State.wipe_windows (s : State) (lo hi : Nat) : (s.wipe lo hi).windows = s.windows := rfl
@[simp] theorem State.wipe_batches (s : State) (lo hi : Nat) : (s.wipe lo hi).batches = s.batches := rfl
@[simp] theorem State.wipe_resps (s : State) (lo hi : Nat) : (s.wipe lo hi).resps = s.resps := rfl
@[simp] theorem State.wipe_liveTags (s : State) (lo hi : Nat) : (s.wipe lo hi).liveTags = s.liveTags := rfl
@[simp] theorem State.wipe_svcPend (s : State) (lo hi : Nat) : (s.wipe lo hi).svcPend = s.svcPend := rfl
@[simp] theorem State.wipe_epochPend (s : State) (lo hi : Nat) : (s.wipe lo hi).epochPend = s.epochPend := rfl
@[simp] theorem State.wipe_slow (s : State) (lo hi : Nat) : (s.wipe lo hi).slow = s.slow := rfl
@[simp] theorem State.wipe_checked (s : State) (lo hi : Nat) : (s.wipe lo hi).checked = s.checked := rfl
@[simp] theorem State.wipe_held (s : State) (lo hi : Nat) : (s.wipe lo hi).held = s.held := rfl
@[simp] theorem State.wipe_evq (s : State) (lo hi : Nat) : (s.wipe lo hi).evq = s.evq := rfl
@[simp] theorem State.wipe_evrBuf (s : State) (lo hi : Nat) : (s.wipe lo hi).evrBuf = s.evrBuf := rfl
@[simp] theorem State.wipe_evrStaged (s : State) (lo hi : Nat) : (s.wipe lo hi).evrStaged = s.evrStaged := rfl
@[simp] theorem State.wipe_roTail (s : State) (lo hi : Nat) : (s.wipe lo hi).roTail = s.roTail := rfl
@[simp] theorem State.wipe_out (s : State) (lo hi : Nat) : (s.wipe lo hi).out = s.out := rfl
@[simp] theorem State.wipe_ctr (s : State) (lo hi : Nat) : (s.wipe lo hi).ctr = s.ctr := rfl
@[simp] theorem State.wipe_pending (s : State) (lo hi : Nat) : (s.wipe lo hi).pending = s.pending := rfl

@[simp] theorem State.emit_reg (s : State) (o : Output) : (s.emit o).reg = s.reg := rfl
@[simp] theorem State.emit_mem (s : State) (o : Output) : (s.emit o).mem = s.mem := rfl
@[simp] theorem State.emit_vreg (s : State) (o : Output) : (s.emit o).vreg = s.vreg := rfl
@[simp] theorem State.emit_planes (s : State) (o : Output) : (s.emit o).planes = s.planes := rfl
@[simp] theorem State.emit_tiles (s : State) (o : Output) : (s.emit o).tiles = s.tiles := rfl
@[simp] theorem State.emit_mxJobs (s : State) (o : Output) : (s.emit o).mxJobs = s.mxJobs := rfl
@[simp] theorem State.emit_vxJobs (s : State) (o : Output) : (s.emit o).vxJobs = s.vxJobs := rfl
@[simp] theorem State.emit_rerun (s : State) (o : Output) : (s.emit o).rerun = s.rerun := rfl
@[simp] theorem State.emit_fifo (s : State) (o : Output) : (s.emit o).fifo = s.fifo := rfl
@[simp] theorem State.emit_transit (s : State) (o : Output) : (s.emit o).transit = s.transit := rfl
@[simp] theorem State.emit_foxArr (s : State) (o : Output) : (s.emit o).foxArr = s.foxArr := rfl
@[simp] theorem State.emit_foxAct (s : State) (o : Output) : (s.emit o).foxAct = s.foxAct := rfl
@[simp] theorem State.emit_foxReqs (s : State) (o : Output) : (s.emit o).foxReqs = s.foxReqs := rfl
@[simp] theorem State.emit_foxMsgs (s : State) (o : Output) : (s.emit o).foxMsgs = s.foxMsgs := rfl
@[simp] theorem State.emit_foxPeer (s : State) (o : Output) : (s.emit o).foxPeer = s.foxPeer := rfl
@[simp] theorem State.emit_hbmBad (s : State) (o : Output) : (s.emit o).hbmBad = s.hbmBad := rfl
@[simp] theorem State.emit_hbmKey (s : State) (o : Output) : (s.emit o).hbmKey = s.hbmKey := rfl
@[simp] theorem State.emit_txq (s : State) (o : Output) : (s.emit o).txq = s.txq := rfl
@[simp] theorem State.emit_retry (s : State) (o : Output) : (s.emit o).retry = s.retry := rfl
@[simp] theorem State.emit_attest (s : State) (o : Output) : (s.emit o).attest = s.attest := rfl
@[simp] theorem State.emit_segs (s : State) (o : Output) : (s.emit o).segs = s.segs := rfl
@[simp] theorem State.emit_segRings (s : State) (o : Output) : (s.emit o).segRings = s.segRings := rfl
@[simp] theorem State.emit_requests (s : State) (o : Output) : (s.emit o).requests = s.requests := rfl
@[simp] theorem State.emit_windows (s : State) (o : Output) : (s.emit o).windows = s.windows := rfl
@[simp] theorem State.emit_batches (s : State) (o : Output) : (s.emit o).batches = s.batches := rfl
@[simp] theorem State.emit_resps (s : State) (o : Output) : (s.emit o).resps = s.resps := rfl
@[simp] theorem State.emit_liveTags (s : State) (o : Output) : (s.emit o).liveTags = s.liveTags := rfl
@[simp] theorem State.emit_svcPend (s : State) (o : Output) : (s.emit o).svcPend = s.svcPend := rfl
@[simp] theorem State.emit_epochPend (s : State) (o : Output) : (s.emit o).epochPend = s.epochPend := rfl
@[simp] theorem State.emit_slow (s : State) (o : Output) : (s.emit o).slow = s.slow := rfl
@[simp] theorem State.emit_checked (s : State) (o : Output) : (s.emit o).checked = s.checked := rfl
@[simp] theorem State.emit_held (s : State) (o : Output) : (s.emit o).held = s.held := rfl
@[simp] theorem State.emit_evq (s : State) (o : Output) : (s.emit o).evq = s.evq := rfl
@[simp] theorem State.emit_evrBuf (s : State) (o : Output) : (s.emit o).evrBuf = s.evrBuf := rfl
@[simp] theorem State.emit_evrStaged (s : State) (o : Output) : (s.emit o).evrStaged = s.evrStaged := rfl
@[simp] theorem State.emit_roTail (s : State) (o : Output) : (s.emit o).roTail = s.roTail := rfl
@[simp] theorem State.emit_ctr (s : State) (o : Output) : (s.emit o).ctr = s.ctr := rfl
@[simp] theorem State.emit_pending (s : State) (o : Output) : (s.emit o).pending = s.pending := rfl

@[simp] theorem State.draw_reg (s : State) : (s.draw).reg = s.reg := rfl
@[simp] theorem State.draw_mem (s : State) : (s.draw).mem = s.mem := rfl
@[simp] theorem State.draw_vreg (s : State) : (s.draw).vreg = s.vreg := rfl
@[simp] theorem State.draw_planes (s : State) : (s.draw).planes = s.planes := rfl
@[simp] theorem State.draw_tiles (s : State) : (s.draw).tiles = s.tiles := rfl
@[simp] theorem State.draw_mxJobs (s : State) : (s.draw).mxJobs = s.mxJobs := rfl
@[simp] theorem State.draw_vxJobs (s : State) : (s.draw).vxJobs = s.vxJobs := rfl
@[simp] theorem State.draw_rerun (s : State) : (s.draw).rerun = s.rerun := rfl
@[simp] theorem State.draw_fifo (s : State) : (s.draw).fifo = s.fifo := rfl
@[simp] theorem State.draw_transit (s : State) : (s.draw).transit = s.transit := rfl
@[simp] theorem State.draw_foxArr (s : State) : (s.draw).foxArr = s.foxArr := rfl
@[simp] theorem State.draw_foxAct (s : State) : (s.draw).foxAct = s.foxAct := rfl
@[simp] theorem State.draw_foxReqs (s : State) : (s.draw).foxReqs = s.foxReqs := rfl
@[simp] theorem State.draw_foxMsgs (s : State) : (s.draw).foxMsgs = s.foxMsgs := rfl
@[simp] theorem State.draw_foxPeer (s : State) : (s.draw).foxPeer = s.foxPeer := rfl
@[simp] theorem State.draw_hbmBad (s : State) : (s.draw).hbmBad = s.hbmBad := rfl
@[simp] theorem State.draw_hbmKey (s : State) : (s.draw).hbmKey = s.hbmKey := rfl
@[simp] theorem State.draw_txq (s : State) : (s.draw).txq = s.txq := rfl
@[simp] theorem State.draw_retry (s : State) : (s.draw).retry = s.retry := rfl
@[simp] theorem State.draw_attest (s : State) : (s.draw).attest = s.attest := rfl
@[simp] theorem State.draw_segs (s : State) : (s.draw).segs = s.segs := rfl
@[simp] theorem State.draw_segRings (s : State) : (s.draw).segRings = s.segRings := rfl
@[simp] theorem State.draw_requests (s : State) : (s.draw).requests = s.requests := rfl
@[simp] theorem State.draw_windows (s : State) : (s.draw).windows = s.windows := rfl
@[simp] theorem State.draw_batches (s : State) : (s.draw).batches = s.batches := rfl
@[simp] theorem State.draw_resps (s : State) : (s.draw).resps = s.resps := rfl
@[simp] theorem State.draw_liveTags (s : State) : (s.draw).liveTags = s.liveTags := rfl
@[simp] theorem State.draw_svcPend (s : State) : (s.draw).svcPend = s.svcPend := rfl
@[simp] theorem State.draw_epochPend (s : State) : (s.draw).epochPend = s.epochPend := rfl
@[simp] theorem State.draw_slow (s : State) : (s.draw).slow = s.slow := rfl
@[simp] theorem State.draw_checked (s : State) : (s.draw).checked = s.checked := rfl
@[simp] theorem State.draw_held (s : State) : (s.draw).held = s.held := rfl
@[simp] theorem State.draw_evq (s : State) : (s.draw).evq = s.evq := rfl
@[simp] theorem State.draw_evrBuf (s : State) : (s.draw).evrBuf = s.evrBuf := rfl
@[simp] theorem State.draw_evrStaged (s : State) : (s.draw).evrStaged = s.evrStaged := rfl
@[simp] theorem State.draw_roTail (s : State) : (s.draw).roTail = s.roTail := rfl
@[simp] theorem State.draw_out (s : State) : (s.draw).out = s.out := rfl
@[simp] theorem State.draw_pending (s : State) : (s.draw).pending = s.pending := rfl

@[simp] theorem State.setFifo_reg (s : State) (c e : Nat) (ws : List (BitVec 512)) : (s.setFifo c e ws).reg = s.reg := rfl
@[simp] theorem State.setFifo_mem (s : State) (c e : Nat) (ws : List (BitVec 512)) : (s.setFifo c e ws).mem = s.mem := rfl
@[simp] theorem State.setFifo_vreg (s : State) (c e : Nat) (ws : List (BitVec 512)) : (s.setFifo c e ws).vreg = s.vreg := rfl
@[simp] theorem State.setFifo_planes (s : State) (c e : Nat) (ws : List (BitVec 512)) : (s.setFifo c e ws).planes = s.planes := rfl
@[simp] theorem State.setFifo_tiles (s : State) (c e : Nat) (ws : List (BitVec 512)) : (s.setFifo c e ws).tiles = s.tiles := rfl
@[simp] theorem State.setFifo_mxJobs (s : State) (c e : Nat) (ws : List (BitVec 512)) : (s.setFifo c e ws).mxJobs = s.mxJobs := rfl
@[simp] theorem State.setFifo_vxJobs (s : State) (c e : Nat) (ws : List (BitVec 512)) : (s.setFifo c e ws).vxJobs = s.vxJobs := rfl
@[simp] theorem State.setFifo_rerun (s : State) (c e : Nat) (ws : List (BitVec 512)) : (s.setFifo c e ws).rerun = s.rerun := rfl
@[simp] theorem State.setFifo_transit (s : State) (c e : Nat) (ws : List (BitVec 512)) : (s.setFifo c e ws).transit = s.transit := rfl
@[simp] theorem State.setFifo_foxArr (s : State) (c e : Nat) (ws : List (BitVec 512)) : (s.setFifo c e ws).foxArr = s.foxArr := rfl
@[simp] theorem State.setFifo_foxAct (s : State) (c e : Nat) (ws : List (BitVec 512)) : (s.setFifo c e ws).foxAct = s.foxAct := rfl
@[simp] theorem State.setFifo_foxReqs (s : State) (c e : Nat) (ws : List (BitVec 512)) : (s.setFifo c e ws).foxReqs = s.foxReqs := rfl
@[simp] theorem State.setFifo_foxMsgs (s : State) (c e : Nat) (ws : List (BitVec 512)) : (s.setFifo c e ws).foxMsgs = s.foxMsgs := rfl
@[simp] theorem State.setFifo_foxPeer (s : State) (c e : Nat) (ws : List (BitVec 512)) : (s.setFifo c e ws).foxPeer = s.foxPeer := rfl
@[simp] theorem State.setFifo_hbmBad (s : State) (c e : Nat) (ws : List (BitVec 512)) : (s.setFifo c e ws).hbmBad = s.hbmBad := rfl
@[simp] theorem State.setFifo_hbmKey (s : State) (c e : Nat) (ws : List (BitVec 512)) : (s.setFifo c e ws).hbmKey = s.hbmKey := rfl
@[simp] theorem State.setFifo_txq (s : State) (c e : Nat) (ws : List (BitVec 512)) : (s.setFifo c e ws).txq = s.txq := rfl
@[simp] theorem State.setFifo_retry (s : State) (c e : Nat) (ws : List (BitVec 512)) : (s.setFifo c e ws).retry = s.retry := rfl
@[simp] theorem State.setFifo_attest (s : State) (c e : Nat) (ws : List (BitVec 512)) : (s.setFifo c e ws).attest = s.attest := rfl
@[simp] theorem State.setFifo_segs (s : State) (c e : Nat) (ws : List (BitVec 512)) : (s.setFifo c e ws).segs = s.segs := rfl
@[simp] theorem State.setFifo_segRings (s : State) (c e : Nat) (ws : List (BitVec 512)) : (s.setFifo c e ws).segRings = s.segRings := rfl
@[simp] theorem State.setFifo_requests (s : State) (c e : Nat) (ws : List (BitVec 512)) : (s.setFifo c e ws).requests = s.requests := rfl
@[simp] theorem State.setFifo_windows (s : State) (c e : Nat) (ws : List (BitVec 512)) : (s.setFifo c e ws).windows = s.windows := rfl
@[simp] theorem State.setFifo_batches (s : State) (c e : Nat) (ws : List (BitVec 512)) : (s.setFifo c e ws).batches = s.batches := rfl
@[simp] theorem State.setFifo_resps (s : State) (c e : Nat) (ws : List (BitVec 512)) : (s.setFifo c e ws).resps = s.resps := rfl
@[simp] theorem State.setFifo_liveTags (s : State) (c e : Nat) (ws : List (BitVec 512)) : (s.setFifo c e ws).liveTags = s.liveTags := rfl
@[simp] theorem State.setFifo_svcPend (s : State) (c e : Nat) (ws : List (BitVec 512)) : (s.setFifo c e ws).svcPend = s.svcPend := rfl
@[simp] theorem State.setFifo_epochPend (s : State) (c e : Nat) (ws : List (BitVec 512)) : (s.setFifo c e ws).epochPend = s.epochPend := rfl
@[simp] theorem State.setFifo_slow (s : State) (c e : Nat) (ws : List (BitVec 512)) : (s.setFifo c e ws).slow = s.slow := rfl
@[simp] theorem State.setFifo_checked (s : State) (c e : Nat) (ws : List (BitVec 512)) : (s.setFifo c e ws).checked = s.checked := rfl
@[simp] theorem State.setFifo_held (s : State) (c e : Nat) (ws : List (BitVec 512)) : (s.setFifo c e ws).held = s.held := rfl
@[simp] theorem State.setFifo_evq (s : State) (c e : Nat) (ws : List (BitVec 512)) : (s.setFifo c e ws).evq = s.evq := rfl
@[simp] theorem State.setFifo_evrBuf (s : State) (c e : Nat) (ws : List (BitVec 512)) : (s.setFifo c e ws).evrBuf = s.evrBuf := rfl
@[simp] theorem State.setFifo_evrStaged (s : State) (c e : Nat) (ws : List (BitVec 512)) : (s.setFifo c e ws).evrStaged = s.evrStaged := rfl
@[simp] theorem State.setFifo_roTail (s : State) (c e : Nat) (ws : List (BitVec 512)) : (s.setFifo c e ws).roTail = s.roTail := rfl
@[simp] theorem State.setFifo_out (s : State) (c e : Nat) (ws : List (BitVec 512)) : (s.setFifo c e ws).out = s.out := rfl
@[simp] theorem State.setFifo_ctr (s : State) (c e : Nat) (ws : List (BitVec 512)) : (s.setFifo c e ws).ctr = s.ctr := rfl
@[simp] theorem State.setFifo_pending (s : State) (c e : Nat) (ws : List (BitVec 512)) : (s.setFifo c e ws).pending = s.pending := rfl

@[simp] theorem State.setTransit_reg (s : State) (ch : Nat) (l : List Transit) : (s.setTransit ch l).reg = s.reg := rfl
@[simp] theorem State.setTransit_mem (s : State) (ch : Nat) (l : List Transit) : (s.setTransit ch l).mem = s.mem := rfl
@[simp] theorem State.setTransit_vreg (s : State) (ch : Nat) (l : List Transit) : (s.setTransit ch l).vreg = s.vreg := rfl
@[simp] theorem State.setTransit_planes (s : State) (ch : Nat) (l : List Transit) : (s.setTransit ch l).planes = s.planes := rfl
@[simp] theorem State.setTransit_tiles (s : State) (ch : Nat) (l : List Transit) : (s.setTransit ch l).tiles = s.tiles := rfl
@[simp] theorem State.setTransit_mxJobs (s : State) (ch : Nat) (l : List Transit) : (s.setTransit ch l).mxJobs = s.mxJobs := rfl
@[simp] theorem State.setTransit_vxJobs (s : State) (ch : Nat) (l : List Transit) : (s.setTransit ch l).vxJobs = s.vxJobs := rfl
@[simp] theorem State.setTransit_rerun (s : State) (ch : Nat) (l : List Transit) : (s.setTransit ch l).rerun = s.rerun := rfl
@[simp] theorem State.setTransit_fifo (s : State) (ch : Nat) (l : List Transit) : (s.setTransit ch l).fifo = s.fifo := rfl
@[simp] theorem State.setTransit_foxArr (s : State) (ch : Nat) (l : List Transit) : (s.setTransit ch l).foxArr = s.foxArr := rfl
@[simp] theorem State.setTransit_foxAct (s : State) (ch : Nat) (l : List Transit) : (s.setTransit ch l).foxAct = s.foxAct := rfl
@[simp] theorem State.setTransit_foxReqs (s : State) (ch : Nat) (l : List Transit) : (s.setTransit ch l).foxReqs = s.foxReqs := rfl
@[simp] theorem State.setTransit_foxMsgs (s : State) (ch : Nat) (l : List Transit) : (s.setTransit ch l).foxMsgs = s.foxMsgs := rfl
@[simp] theorem State.setTransit_foxPeer (s : State) (ch : Nat) (l : List Transit) : (s.setTransit ch l).foxPeer = s.foxPeer := rfl
@[simp] theorem State.setTransit_hbmBad (s : State) (ch : Nat) (l : List Transit) : (s.setTransit ch l).hbmBad = s.hbmBad := rfl
@[simp] theorem State.setTransit_hbmKey (s : State) (ch : Nat) (l : List Transit) : (s.setTransit ch l).hbmKey = s.hbmKey := rfl
@[simp] theorem State.setTransit_txq (s : State) (ch : Nat) (l : List Transit) : (s.setTransit ch l).txq = s.txq := rfl
@[simp] theorem State.setTransit_retry (s : State) (ch : Nat) (l : List Transit) : (s.setTransit ch l).retry = s.retry := rfl
@[simp] theorem State.setTransit_attest (s : State) (ch : Nat) (l : List Transit) : (s.setTransit ch l).attest = s.attest := rfl
@[simp] theorem State.setTransit_segs (s : State) (ch : Nat) (l : List Transit) : (s.setTransit ch l).segs = s.segs := rfl
@[simp] theorem State.setTransit_segRings (s : State) (ch : Nat) (l : List Transit) : (s.setTransit ch l).segRings = s.segRings := rfl
@[simp] theorem State.setTransit_requests (s : State) (ch : Nat) (l : List Transit) : (s.setTransit ch l).requests = s.requests := rfl
@[simp] theorem State.setTransit_windows (s : State) (ch : Nat) (l : List Transit) : (s.setTransit ch l).windows = s.windows := rfl
@[simp] theorem State.setTransit_batches (s : State) (ch : Nat) (l : List Transit) : (s.setTransit ch l).batches = s.batches := rfl
@[simp] theorem State.setTransit_resps (s : State) (ch : Nat) (l : List Transit) : (s.setTransit ch l).resps = s.resps := rfl
@[simp] theorem State.setTransit_liveTags (s : State) (ch : Nat) (l : List Transit) : (s.setTransit ch l).liveTags = s.liveTags := rfl
@[simp] theorem State.setTransit_svcPend (s : State) (ch : Nat) (l : List Transit) : (s.setTransit ch l).svcPend = s.svcPend := rfl
@[simp] theorem State.setTransit_epochPend (s : State) (ch : Nat) (l : List Transit) : (s.setTransit ch l).epochPend = s.epochPend := rfl
@[simp] theorem State.setTransit_slow (s : State) (ch : Nat) (l : List Transit) : (s.setTransit ch l).slow = s.slow := rfl
@[simp] theorem State.setTransit_checked (s : State) (ch : Nat) (l : List Transit) : (s.setTransit ch l).checked = s.checked := rfl
@[simp] theorem State.setTransit_held (s : State) (ch : Nat) (l : List Transit) : (s.setTransit ch l).held = s.held := rfl
@[simp] theorem State.setTransit_evq (s : State) (ch : Nat) (l : List Transit) : (s.setTransit ch l).evq = s.evq := rfl
@[simp] theorem State.setTransit_evrBuf (s : State) (ch : Nat) (l : List Transit) : (s.setTransit ch l).evrBuf = s.evrBuf := rfl
@[simp] theorem State.setTransit_evrStaged (s : State) (ch : Nat) (l : List Transit) : (s.setTransit ch l).evrStaged = s.evrStaged := rfl
@[simp] theorem State.setTransit_roTail (s : State) (ch : Nat) (l : List Transit) : (s.setTransit ch l).roTail = s.roTail := rfl
@[simp] theorem State.setTransit_out (s : State) (ch : Nat) (l : List Transit) : (s.setTransit ch l).out = s.out := rfl
@[simp] theorem State.setTransit_ctr (s : State) (ch : Nat) (l : List Transit) : (s.setTransit ch l).ctr = s.ctr := rfl
@[simp] theorem State.setTransit_pending (s : State) (ch : Nat) (l : List Transit) : (s.setTransit ch l).pending = s.pending := rfl

@[simp] theorem State.send_reg (s : State) (ch : Nat) (x : Transit) : (s.send ch x).reg = s.reg := rfl
@[simp] theorem State.send_mem (s : State) (ch : Nat) (x : Transit) : (s.send ch x).mem = s.mem := rfl
@[simp] theorem State.send_vreg (s : State) (ch : Nat) (x : Transit) : (s.send ch x).vreg = s.vreg := rfl
@[simp] theorem State.send_planes (s : State) (ch : Nat) (x : Transit) : (s.send ch x).planes = s.planes := rfl
@[simp] theorem State.send_tiles (s : State) (ch : Nat) (x : Transit) : (s.send ch x).tiles = s.tiles := rfl
@[simp] theorem State.send_mxJobs (s : State) (ch : Nat) (x : Transit) : (s.send ch x).mxJobs = s.mxJobs := rfl
@[simp] theorem State.send_vxJobs (s : State) (ch : Nat) (x : Transit) : (s.send ch x).vxJobs = s.vxJobs := rfl
@[simp] theorem State.send_rerun (s : State) (ch : Nat) (x : Transit) : (s.send ch x).rerun = s.rerun := rfl
@[simp] theorem State.send_fifo (s : State) (ch : Nat) (x : Transit) : (s.send ch x).fifo = s.fifo := rfl
@[simp] theorem State.send_foxArr (s : State) (ch : Nat) (x : Transit) : (s.send ch x).foxArr = s.foxArr := rfl
@[simp] theorem State.send_foxAct (s : State) (ch : Nat) (x : Transit) : (s.send ch x).foxAct = s.foxAct := rfl
@[simp] theorem State.send_foxReqs (s : State) (ch : Nat) (x : Transit) : (s.send ch x).foxReqs = s.foxReqs := rfl
@[simp] theorem State.send_foxMsgs (s : State) (ch : Nat) (x : Transit) : (s.send ch x).foxMsgs = s.foxMsgs := rfl
@[simp] theorem State.send_foxPeer (s : State) (ch : Nat) (x : Transit) : (s.send ch x).foxPeer = s.foxPeer := rfl
@[simp] theorem State.send_hbmBad (s : State) (ch : Nat) (x : Transit) : (s.send ch x).hbmBad = s.hbmBad := rfl
@[simp] theorem State.send_hbmKey (s : State) (ch : Nat) (x : Transit) : (s.send ch x).hbmKey = s.hbmKey := rfl
@[simp] theorem State.send_txq (s : State) (ch : Nat) (x : Transit) : (s.send ch x).txq = s.txq := rfl
@[simp] theorem State.send_retry (s : State) (ch : Nat) (x : Transit) : (s.send ch x).retry = s.retry := rfl
@[simp] theorem State.send_attest (s : State) (ch : Nat) (x : Transit) : (s.send ch x).attest = s.attest := rfl
@[simp] theorem State.send_segs (s : State) (ch : Nat) (x : Transit) : (s.send ch x).segs = s.segs := rfl
@[simp] theorem State.send_segRings (s : State) (ch : Nat) (x : Transit) : (s.send ch x).segRings = s.segRings := rfl
@[simp] theorem State.send_requests (s : State) (ch : Nat) (x : Transit) : (s.send ch x).requests = s.requests := rfl
@[simp] theorem State.send_windows (s : State) (ch : Nat) (x : Transit) : (s.send ch x).windows = s.windows := rfl
@[simp] theorem State.send_batches (s : State) (ch : Nat) (x : Transit) : (s.send ch x).batches = s.batches := rfl
@[simp] theorem State.send_resps (s : State) (ch : Nat) (x : Transit) : (s.send ch x).resps = s.resps := rfl
@[simp] theorem State.send_liveTags (s : State) (ch : Nat) (x : Transit) : (s.send ch x).liveTags = s.liveTags := rfl
@[simp] theorem State.send_svcPend (s : State) (ch : Nat) (x : Transit) : (s.send ch x).svcPend = s.svcPend := rfl
@[simp] theorem State.send_epochPend (s : State) (ch : Nat) (x : Transit) : (s.send ch x).epochPend = s.epochPend := rfl
@[simp] theorem State.send_slow (s : State) (ch : Nat) (x : Transit) : (s.send ch x).slow = s.slow := rfl
@[simp] theorem State.send_checked (s : State) (ch : Nat) (x : Transit) : (s.send ch x).checked = s.checked := rfl
@[simp] theorem State.send_held (s : State) (ch : Nat) (x : Transit) : (s.send ch x).held = s.held := rfl
@[simp] theorem State.send_evq (s : State) (ch : Nat) (x : Transit) : (s.send ch x).evq = s.evq := rfl
@[simp] theorem State.send_evrBuf (s : State) (ch : Nat) (x : Transit) : (s.send ch x).evrBuf = s.evrBuf := rfl
@[simp] theorem State.send_evrStaged (s : State) (ch : Nat) (x : Transit) : (s.send ch x).evrStaged = s.evrStaged := rfl
@[simp] theorem State.send_roTail (s : State) (ch : Nat) (x : Transit) : (s.send ch x).roTail = s.roTail := rfl
@[simp] theorem State.send_out (s : State) (ch : Nat) (x : Transit) : (s.send ch x).out = s.out := rfl
@[simp] theorem State.send_ctr (s : State) (ch : Nat) (x : Transit) : (s.send ch x).ctr = s.ctr := rfl
@[simp] theorem State.send_pending (s : State) (ch : Nat) (x : Transit) : (s.send ch x).pending = s.pending := rfl

@[simp] theorem State.inc_mem (s : State) (f : Fld) (a b n : Nat) : (s.inc f a b n).mem = s.mem := rfl
@[simp] theorem State.inc_vreg (s : State) (f : Fld) (a b n : Nat) : (s.inc f a b n).vreg = s.vreg := rfl
@[simp] theorem State.inc_planes (s : State) (f : Fld) (a b n : Nat) : (s.inc f a b n).planes = s.planes := rfl
@[simp] theorem State.inc_tiles (s : State) (f : Fld) (a b n : Nat) : (s.inc f a b n).tiles = s.tiles := rfl
@[simp] theorem State.inc_mxJobs (s : State) (f : Fld) (a b n : Nat) : (s.inc f a b n).mxJobs = s.mxJobs := rfl
@[simp] theorem State.inc_vxJobs (s : State) (f : Fld) (a b n : Nat) : (s.inc f a b n).vxJobs = s.vxJobs := rfl
@[simp] theorem State.inc_rerun (s : State) (f : Fld) (a b n : Nat) : (s.inc f a b n).rerun = s.rerun := rfl
@[simp] theorem State.inc_fifo (s : State) (f : Fld) (a b n : Nat) : (s.inc f a b n).fifo = s.fifo := rfl
@[simp] theorem State.inc_transit (s : State) (f : Fld) (a b n : Nat) : (s.inc f a b n).transit = s.transit := rfl
@[simp] theorem State.inc_foxArr (s : State) (f : Fld) (a b n : Nat) : (s.inc f a b n).foxArr = s.foxArr := rfl
@[simp] theorem State.inc_foxAct (s : State) (f : Fld) (a b n : Nat) : (s.inc f a b n).foxAct = s.foxAct := rfl
@[simp] theorem State.inc_foxReqs (s : State) (f : Fld) (a b n : Nat) : (s.inc f a b n).foxReqs = s.foxReqs := rfl
@[simp] theorem State.inc_foxMsgs (s : State) (f : Fld) (a b n : Nat) : (s.inc f a b n).foxMsgs = s.foxMsgs := rfl
@[simp] theorem State.inc_foxPeer (s : State) (f : Fld) (a b n : Nat) : (s.inc f a b n).foxPeer = s.foxPeer := rfl
@[simp] theorem State.inc_hbmBad (s : State) (f : Fld) (a b n : Nat) : (s.inc f a b n).hbmBad = s.hbmBad := rfl
@[simp] theorem State.inc_hbmKey (s : State) (f : Fld) (a b n : Nat) : (s.inc f a b n).hbmKey = s.hbmKey := rfl
@[simp] theorem State.inc_txq (s : State) (f : Fld) (a b n : Nat) : (s.inc f a b n).txq = s.txq := rfl
@[simp] theorem State.inc_retry (s : State) (f : Fld) (a b n : Nat) : (s.inc f a b n).retry = s.retry := rfl
@[simp] theorem State.inc_attest (s : State) (f : Fld) (a b n : Nat) : (s.inc f a b n).attest = s.attest := rfl
@[simp] theorem State.inc_segs (s : State) (f : Fld) (a b n : Nat) : (s.inc f a b n).segs = s.segs := rfl
@[simp] theorem State.inc_segRings (s : State) (f : Fld) (a b n : Nat) : (s.inc f a b n).segRings = s.segRings := rfl
@[simp] theorem State.inc_requests (s : State) (f : Fld) (a b n : Nat) : (s.inc f a b n).requests = s.requests := rfl
@[simp] theorem State.inc_windows (s : State) (f : Fld) (a b n : Nat) : (s.inc f a b n).windows = s.windows := rfl
@[simp] theorem State.inc_batches (s : State) (f : Fld) (a b n : Nat) : (s.inc f a b n).batches = s.batches := rfl
@[simp] theorem State.inc_resps (s : State) (f : Fld) (a b n : Nat) : (s.inc f a b n).resps = s.resps := rfl
@[simp] theorem State.inc_liveTags (s : State) (f : Fld) (a b n : Nat) : (s.inc f a b n).liveTags = s.liveTags := rfl
@[simp] theorem State.inc_svcPend (s : State) (f : Fld) (a b n : Nat) : (s.inc f a b n).svcPend = s.svcPend := rfl
@[simp] theorem State.inc_epochPend (s : State) (f : Fld) (a b n : Nat) : (s.inc f a b n).epochPend = s.epochPend := rfl
@[simp] theorem State.inc_slow (s : State) (f : Fld) (a b n : Nat) : (s.inc f a b n).slow = s.slow := rfl
@[simp] theorem State.inc_checked (s : State) (f : Fld) (a b n : Nat) : (s.inc f a b n).checked = s.checked := rfl
@[simp] theorem State.inc_held (s : State) (f : Fld) (a b n : Nat) : (s.inc f a b n).held = s.held := rfl
@[simp] theorem State.inc_evq (s : State) (f : Fld) (a b n : Nat) : (s.inc f a b n).evq = s.evq := rfl
@[simp] theorem State.inc_evrBuf (s : State) (f : Fld) (a b n : Nat) : (s.inc f a b n).evrBuf = s.evrBuf := rfl
@[simp] theorem State.inc_evrStaged (s : State) (f : Fld) (a b n : Nat) : (s.inc f a b n).evrStaged = s.evrStaged := rfl
@[simp] theorem State.inc_roTail (s : State) (f : Fld) (a b n : Nat) : (s.inc f a b n).roTail = s.roTail := rfl
@[simp] theorem State.inc_out (s : State) (f : Fld) (a b n : Nat) : (s.inc f a b n).out = s.out := rfl
@[simp] theorem State.inc_ctr (s : State) (f : Fld) (a b n : Nat) : (s.inc f a b n).ctr = s.ctr := rfl
@[simp] theorem State.inc_pending (s : State) (f : Fld) (a b n : Nat) : (s.inc f a b n).pending = s.pending := rfl

@[simp] theorem State.setBit_mem (s : State) (f : Fld) (a b n : Nat) : (s.setBit f a b n).mem = s.mem := rfl
@[simp] theorem State.setBit_vreg (s : State) (f : Fld) (a b n : Nat) : (s.setBit f a b n).vreg = s.vreg := rfl
@[simp] theorem State.setBit_planes (s : State) (f : Fld) (a b n : Nat) : (s.setBit f a b n).planes = s.planes := rfl
@[simp] theorem State.setBit_tiles (s : State) (f : Fld) (a b n : Nat) : (s.setBit f a b n).tiles = s.tiles := rfl
@[simp] theorem State.setBit_mxJobs (s : State) (f : Fld) (a b n : Nat) : (s.setBit f a b n).mxJobs = s.mxJobs := rfl
@[simp] theorem State.setBit_vxJobs (s : State) (f : Fld) (a b n : Nat) : (s.setBit f a b n).vxJobs = s.vxJobs := rfl
@[simp] theorem State.setBit_rerun (s : State) (f : Fld) (a b n : Nat) : (s.setBit f a b n).rerun = s.rerun := rfl
@[simp] theorem State.setBit_fifo (s : State) (f : Fld) (a b n : Nat) : (s.setBit f a b n).fifo = s.fifo := rfl
@[simp] theorem State.setBit_transit (s : State) (f : Fld) (a b n : Nat) : (s.setBit f a b n).transit = s.transit := rfl
@[simp] theorem State.setBit_foxArr (s : State) (f : Fld) (a b n : Nat) : (s.setBit f a b n).foxArr = s.foxArr := rfl
@[simp] theorem State.setBit_foxAct (s : State) (f : Fld) (a b n : Nat) : (s.setBit f a b n).foxAct = s.foxAct := rfl
@[simp] theorem State.setBit_foxReqs (s : State) (f : Fld) (a b n : Nat) : (s.setBit f a b n).foxReqs = s.foxReqs := rfl
@[simp] theorem State.setBit_foxMsgs (s : State) (f : Fld) (a b n : Nat) : (s.setBit f a b n).foxMsgs = s.foxMsgs := rfl
@[simp] theorem State.setBit_foxPeer (s : State) (f : Fld) (a b n : Nat) : (s.setBit f a b n).foxPeer = s.foxPeer := rfl
@[simp] theorem State.setBit_hbmBad (s : State) (f : Fld) (a b n : Nat) : (s.setBit f a b n).hbmBad = s.hbmBad := rfl
@[simp] theorem State.setBit_hbmKey (s : State) (f : Fld) (a b n : Nat) : (s.setBit f a b n).hbmKey = s.hbmKey := rfl
@[simp] theorem State.setBit_txq (s : State) (f : Fld) (a b n : Nat) : (s.setBit f a b n).txq = s.txq := rfl
@[simp] theorem State.setBit_retry (s : State) (f : Fld) (a b n : Nat) : (s.setBit f a b n).retry = s.retry := rfl
@[simp] theorem State.setBit_attest (s : State) (f : Fld) (a b n : Nat) : (s.setBit f a b n).attest = s.attest := rfl
@[simp] theorem State.setBit_segs (s : State) (f : Fld) (a b n : Nat) : (s.setBit f a b n).segs = s.segs := rfl
@[simp] theorem State.setBit_segRings (s : State) (f : Fld) (a b n : Nat) : (s.setBit f a b n).segRings = s.segRings := rfl
@[simp] theorem State.setBit_requests (s : State) (f : Fld) (a b n : Nat) : (s.setBit f a b n).requests = s.requests := rfl
@[simp] theorem State.setBit_windows (s : State) (f : Fld) (a b n : Nat) : (s.setBit f a b n).windows = s.windows := rfl
@[simp] theorem State.setBit_batches (s : State) (f : Fld) (a b n : Nat) : (s.setBit f a b n).batches = s.batches := rfl
@[simp] theorem State.setBit_resps (s : State) (f : Fld) (a b n : Nat) : (s.setBit f a b n).resps = s.resps := rfl
@[simp] theorem State.setBit_liveTags (s : State) (f : Fld) (a b n : Nat) : (s.setBit f a b n).liveTags = s.liveTags := rfl
@[simp] theorem State.setBit_svcPend (s : State) (f : Fld) (a b n : Nat) : (s.setBit f a b n).svcPend = s.svcPend := rfl
@[simp] theorem State.setBit_epochPend (s : State) (f : Fld) (a b n : Nat) : (s.setBit f a b n).epochPend = s.epochPend := rfl
@[simp] theorem State.setBit_slow (s : State) (f : Fld) (a b n : Nat) : (s.setBit f a b n).slow = s.slow := rfl
@[simp] theorem State.setBit_checked (s : State) (f : Fld) (a b n : Nat) : (s.setBit f a b n).checked = s.checked := rfl
@[simp] theorem State.setBit_held (s : State) (f : Fld) (a b n : Nat) : (s.setBit f a b n).held = s.held := rfl
@[simp] theorem State.setBit_evq (s : State) (f : Fld) (a b n : Nat) : (s.setBit f a b n).evq = s.evq := rfl
@[simp] theorem State.setBit_evrBuf (s : State) (f : Fld) (a b n : Nat) : (s.setBit f a b n).evrBuf = s.evrBuf := rfl
@[simp] theorem State.setBit_evrStaged (s : State) (f : Fld) (a b n : Nat) : (s.setBit f a b n).evrStaged = s.evrStaged := rfl
@[simp] theorem State.setBit_roTail (s : State) (f : Fld) (a b n : Nat) : (s.setBit f a b n).roTail = s.roTail := rfl
@[simp] theorem State.setBit_out (s : State) (f : Fld) (a b n : Nat) : (s.setBit f a b n).out = s.out := rfl
@[simp] theorem State.setBit_ctr (s : State) (f : Fld) (a b n : Nat) : (s.setBit f a b n).ctr = s.ctr := rfl
@[simp] theorem State.setBit_pending (s : State) (f : Fld) (a b n : Nat) : (s.setBit f a b n).pending = s.pending := rfl

@[simp] theorem State.clrBit_mem (s : State) (f : Fld) (a b n : Nat) : (s.clrBit f a b n).mem = s.mem := by unfold State.clrBit; split <;> rfl
@[simp] theorem State.clrBit_vreg (s : State) (f : Fld) (a b n : Nat) : (s.clrBit f a b n).vreg = s.vreg := by unfold State.clrBit; split <;> rfl
@[simp] theorem State.clrBit_planes (s : State) (f : Fld) (a b n : Nat) : (s.clrBit f a b n).planes = s.planes := by unfold State.clrBit; split <;> rfl
@[simp] theorem State.clrBit_tiles (s : State) (f : Fld) (a b n : Nat) : (s.clrBit f a b n).tiles = s.tiles := by unfold State.clrBit; split <;> rfl
@[simp] theorem State.clrBit_mxJobs (s : State) (f : Fld) (a b n : Nat) : (s.clrBit f a b n).mxJobs = s.mxJobs := by unfold State.clrBit; split <;> rfl
@[simp] theorem State.clrBit_vxJobs (s : State) (f : Fld) (a b n : Nat) : (s.clrBit f a b n).vxJobs = s.vxJobs := by unfold State.clrBit; split <;> rfl
@[simp] theorem State.clrBit_rerun (s : State) (f : Fld) (a b n : Nat) : (s.clrBit f a b n).rerun = s.rerun := by unfold State.clrBit; split <;> rfl
@[simp] theorem State.clrBit_fifo (s : State) (f : Fld) (a b n : Nat) : (s.clrBit f a b n).fifo = s.fifo := by unfold State.clrBit; split <;> rfl
@[simp] theorem State.clrBit_transit (s : State) (f : Fld) (a b n : Nat) : (s.clrBit f a b n).transit = s.transit := by unfold State.clrBit; split <;> rfl
@[simp] theorem State.clrBit_foxArr (s : State) (f : Fld) (a b n : Nat) : (s.clrBit f a b n).foxArr = s.foxArr := by unfold State.clrBit; split <;> rfl
@[simp] theorem State.clrBit_foxAct (s : State) (f : Fld) (a b n : Nat) : (s.clrBit f a b n).foxAct = s.foxAct := by unfold State.clrBit; split <;> rfl
@[simp] theorem State.clrBit_foxReqs (s : State) (f : Fld) (a b n : Nat) : (s.clrBit f a b n).foxReqs = s.foxReqs := by unfold State.clrBit; split <;> rfl
@[simp] theorem State.clrBit_foxMsgs (s : State) (f : Fld) (a b n : Nat) : (s.clrBit f a b n).foxMsgs = s.foxMsgs := by unfold State.clrBit; split <;> rfl
@[simp] theorem State.clrBit_foxPeer (s : State) (f : Fld) (a b n : Nat) : (s.clrBit f a b n).foxPeer = s.foxPeer := by unfold State.clrBit; split <;> rfl
@[simp] theorem State.clrBit_hbmBad (s : State) (f : Fld) (a b n : Nat) : (s.clrBit f a b n).hbmBad = s.hbmBad := by unfold State.clrBit; split <;> rfl
@[simp] theorem State.clrBit_hbmKey (s : State) (f : Fld) (a b n : Nat) : (s.clrBit f a b n).hbmKey = s.hbmKey := by unfold State.clrBit; split <;> rfl
@[simp] theorem State.clrBit_txq (s : State) (f : Fld) (a b n : Nat) : (s.clrBit f a b n).txq = s.txq := by unfold State.clrBit; split <;> rfl
@[simp] theorem State.clrBit_retry (s : State) (f : Fld) (a b n : Nat) : (s.clrBit f a b n).retry = s.retry := by unfold State.clrBit; split <;> rfl
@[simp] theorem State.clrBit_attest (s : State) (f : Fld) (a b n : Nat) : (s.clrBit f a b n).attest = s.attest := by unfold State.clrBit; split <;> rfl
@[simp] theorem State.clrBit_segs (s : State) (f : Fld) (a b n : Nat) : (s.clrBit f a b n).segs = s.segs := by unfold State.clrBit; split <;> rfl
@[simp] theorem State.clrBit_segRings (s : State) (f : Fld) (a b n : Nat) : (s.clrBit f a b n).segRings = s.segRings := by unfold State.clrBit; split <;> rfl
@[simp] theorem State.clrBit_requests (s : State) (f : Fld) (a b n : Nat) : (s.clrBit f a b n).requests = s.requests := by unfold State.clrBit; split <;> rfl
@[simp] theorem State.clrBit_windows (s : State) (f : Fld) (a b n : Nat) : (s.clrBit f a b n).windows = s.windows := by unfold State.clrBit; split <;> rfl
@[simp] theorem State.clrBit_batches (s : State) (f : Fld) (a b n : Nat) : (s.clrBit f a b n).batches = s.batches := by unfold State.clrBit; split <;> rfl
@[simp] theorem State.clrBit_resps (s : State) (f : Fld) (a b n : Nat) : (s.clrBit f a b n).resps = s.resps := by unfold State.clrBit; split <;> rfl
@[simp] theorem State.clrBit_liveTags (s : State) (f : Fld) (a b n : Nat) : (s.clrBit f a b n).liveTags = s.liveTags := by unfold State.clrBit; split <;> rfl
@[simp] theorem State.clrBit_svcPend (s : State) (f : Fld) (a b n : Nat) : (s.clrBit f a b n).svcPend = s.svcPend := by unfold State.clrBit; split <;> rfl
@[simp] theorem State.clrBit_epochPend (s : State) (f : Fld) (a b n : Nat) : (s.clrBit f a b n).epochPend = s.epochPend := by unfold State.clrBit; split <;> rfl
@[simp] theorem State.clrBit_slow (s : State) (f : Fld) (a b n : Nat) : (s.clrBit f a b n).slow = s.slow := by unfold State.clrBit; split <;> rfl
@[simp] theorem State.clrBit_checked (s : State) (f : Fld) (a b n : Nat) : (s.clrBit f a b n).checked = s.checked := by unfold State.clrBit; split <;> rfl
@[simp] theorem State.clrBit_held (s : State) (f : Fld) (a b n : Nat) : (s.clrBit f a b n).held = s.held := by unfold State.clrBit; split <;> rfl
@[simp] theorem State.clrBit_evq (s : State) (f : Fld) (a b n : Nat) : (s.clrBit f a b n).evq = s.evq := by unfold State.clrBit; split <;> rfl
@[simp] theorem State.clrBit_evrBuf (s : State) (f : Fld) (a b n : Nat) : (s.clrBit f a b n).evrBuf = s.evrBuf := by unfold State.clrBit; split <;> rfl
@[simp] theorem State.clrBit_evrStaged (s : State) (f : Fld) (a b n : Nat) : (s.clrBit f a b n).evrStaged = s.evrStaged := by unfold State.clrBit; split <;> rfl
@[simp] theorem State.clrBit_roTail (s : State) (f : Fld) (a b n : Nat) : (s.clrBit f a b n).roTail = s.roTail := by unfold State.clrBit; split <;> rfl
@[simp] theorem State.clrBit_out (s : State) (f : Fld) (a b n : Nat) : (s.clrBit f a b n).out = s.out := by unfold State.clrBit; split <;> rfl
@[simp] theorem State.clrBit_ctr (s : State) (f : Fld) (a b n : Nat) : (s.clrBit f a b n).ctr = s.ctr := by unfold State.clrBit; split <;> rfl
@[simp] theorem State.clrBit_pending (s : State) (f : Fld) (a b n : Nat) : (s.clrBit f a b n).pending = s.pending := by unfold State.clrBit; split <;> rfl

@[simp] theorem State.raise_reg (s : State) (code src : Nat) (ctx : List Nat) : (s.raise code src ctx).reg = s.reg := by unfold State.raise; split <;> rfl
@[simp] theorem State.raise_mem (s : State) (code src : Nat) (ctx : List Nat) : (s.raise code src ctx).mem = s.mem := by unfold State.raise; split <;> rfl
@[simp] theorem State.raise_vreg (s : State) (code src : Nat) (ctx : List Nat) : (s.raise code src ctx).vreg = s.vreg := by unfold State.raise; split <;> rfl
@[simp] theorem State.raise_planes (s : State) (code src : Nat) (ctx : List Nat) : (s.raise code src ctx).planes = s.planes := by unfold State.raise; split <;> rfl
@[simp] theorem State.raise_tiles (s : State) (code src : Nat) (ctx : List Nat) : (s.raise code src ctx).tiles = s.tiles := by unfold State.raise; split <;> rfl
@[simp] theorem State.raise_mxJobs (s : State) (code src : Nat) (ctx : List Nat) : (s.raise code src ctx).mxJobs = s.mxJobs := by unfold State.raise; split <;> rfl
@[simp] theorem State.raise_vxJobs (s : State) (code src : Nat) (ctx : List Nat) : (s.raise code src ctx).vxJobs = s.vxJobs := by unfold State.raise; split <;> rfl
@[simp] theorem State.raise_rerun (s : State) (code src : Nat) (ctx : List Nat) : (s.raise code src ctx).rerun = s.rerun := by unfold State.raise; split <;> rfl
@[simp] theorem State.raise_fifo (s : State) (code src : Nat) (ctx : List Nat) : (s.raise code src ctx).fifo = s.fifo := by unfold State.raise; split <;> rfl
@[simp] theorem State.raise_transit (s : State) (code src : Nat) (ctx : List Nat) : (s.raise code src ctx).transit = s.transit := by unfold State.raise; split <;> rfl
@[simp] theorem State.raise_foxArr (s : State) (code src : Nat) (ctx : List Nat) : (s.raise code src ctx).foxArr = s.foxArr := by unfold State.raise; split <;> rfl
@[simp] theorem State.raise_foxAct (s : State) (code src : Nat) (ctx : List Nat) : (s.raise code src ctx).foxAct = s.foxAct := by unfold State.raise; split <;> rfl
@[simp] theorem State.raise_foxReqs (s : State) (code src : Nat) (ctx : List Nat) : (s.raise code src ctx).foxReqs = s.foxReqs := by unfold State.raise; split <;> rfl
@[simp] theorem State.raise_foxMsgs (s : State) (code src : Nat) (ctx : List Nat) : (s.raise code src ctx).foxMsgs = s.foxMsgs := by unfold State.raise; split <;> rfl
@[simp] theorem State.raise_foxPeer (s : State) (code src : Nat) (ctx : List Nat) : (s.raise code src ctx).foxPeer = s.foxPeer := by unfold State.raise; split <;> rfl
@[simp] theorem State.raise_hbmBad (s : State) (code src : Nat) (ctx : List Nat) : (s.raise code src ctx).hbmBad = s.hbmBad := by unfold State.raise; split <;> rfl
@[simp] theorem State.raise_hbmKey (s : State) (code src : Nat) (ctx : List Nat) : (s.raise code src ctx).hbmKey = s.hbmKey := by unfold State.raise; split <;> rfl
@[simp] theorem State.raise_txq (s : State) (code src : Nat) (ctx : List Nat) : (s.raise code src ctx).txq = s.txq := by unfold State.raise; split <;> rfl
@[simp] theorem State.raise_retry (s : State) (code src : Nat) (ctx : List Nat) : (s.raise code src ctx).retry = s.retry := by unfold State.raise; split <;> rfl
@[simp] theorem State.raise_attest (s : State) (code src : Nat) (ctx : List Nat) : (s.raise code src ctx).attest = s.attest := by unfold State.raise; split <;> rfl
@[simp] theorem State.raise_segs (s : State) (code src : Nat) (ctx : List Nat) : (s.raise code src ctx).segs = s.segs := by unfold State.raise; split <;> rfl
@[simp] theorem State.raise_segRings (s : State) (code src : Nat) (ctx : List Nat) : (s.raise code src ctx).segRings = s.segRings := by unfold State.raise; split <;> rfl
@[simp] theorem State.raise_requests (s : State) (code src : Nat) (ctx : List Nat) : (s.raise code src ctx).requests = s.requests := by unfold State.raise; split <;> rfl
@[simp] theorem State.raise_windows (s : State) (code src : Nat) (ctx : List Nat) : (s.raise code src ctx).windows = s.windows := by unfold State.raise; split <;> rfl
@[simp] theorem State.raise_batches (s : State) (code src : Nat) (ctx : List Nat) : (s.raise code src ctx).batches = s.batches := by unfold State.raise; split <;> rfl
@[simp] theorem State.raise_resps (s : State) (code src : Nat) (ctx : List Nat) : (s.raise code src ctx).resps = s.resps := by unfold State.raise; split <;> rfl
@[simp] theorem State.raise_liveTags (s : State) (code src : Nat) (ctx : List Nat) : (s.raise code src ctx).liveTags = s.liveTags := by unfold State.raise; split <;> rfl
@[simp] theorem State.raise_svcPend (s : State) (code src : Nat) (ctx : List Nat) : (s.raise code src ctx).svcPend = s.svcPend := by unfold State.raise; split <;> rfl
@[simp] theorem State.raise_epochPend (s : State) (code src : Nat) (ctx : List Nat) : (s.raise code src ctx).epochPend = s.epochPend := by unfold State.raise; split <;> rfl
@[simp] theorem State.raise_slow (s : State) (code src : Nat) (ctx : List Nat) : (s.raise code src ctx).slow = s.slow := by unfold State.raise; split <;> rfl
@[simp] theorem State.raise_checked (s : State) (code src : Nat) (ctx : List Nat) : (s.raise code src ctx).checked = s.checked := by unfold State.raise; split <;> rfl
@[simp] theorem State.raise_held (s : State) (code src : Nat) (ctx : List Nat) : (s.raise code src ctx).held = s.held := by unfold State.raise; split <;> rfl
@[simp] theorem State.raise_evrBuf (s : State) (code src : Nat) (ctx : List Nat) : (s.raise code src ctx).evrBuf = s.evrBuf := by unfold State.raise; split <;> rfl
@[simp] theorem State.raise_evrStaged (s : State) (code src : Nat) (ctx : List Nat) : (s.raise code src ctx).evrStaged = s.evrStaged := by unfold State.raise; split <;> rfl
@[simp] theorem State.raise_roTail (s : State) (code src : Nat) (ctx : List Nat) : (s.raise code src ctx).roTail = s.roTail := by unfold State.raise; split <;> rfl
@[simp] theorem State.raise_out (s : State) (code src : Nat) (ctx : List Nat) : (s.raise code src ctx).out = s.out := by unfold State.raise; split <;> rfl
@[simp] theorem State.raise_ctr (s : State) (code src : Nat) (ctx : List Nat) : (s.raise code src ctx).ctr = s.ctr := by unfold State.raise; split <;> rfl
@[simp] theorem State.raise_pending (s : State) (code src : Nat) (ctx : List Nat) : (s.raise code src ctx).pending = s.pending := by unfold State.raise; split <;> rfl

@[simp] theorem State.setBytes_reg (s : State) (a : Nat) (vs : List (BitVec 8)) : (s.setBytes a vs).reg = s.reg := by
  induction vs generalizing a s with
  | nil => rfl
  | cons v vs ih => exact ih _ _
@[simp] theorem State.setBytes_vreg (s : State) (a : Nat) (vs : List (BitVec 8)) : (s.setBytes a vs).vreg = s.vreg := by
  induction vs generalizing a s with
  | nil => rfl
  | cons v vs ih => exact ih _ _
@[simp] theorem State.setBytes_planes (s : State) (a : Nat) (vs : List (BitVec 8)) : (s.setBytes a vs).planes = s.planes := by
  induction vs generalizing a s with
  | nil => rfl
  | cons v vs ih => exact ih _ _
@[simp] theorem State.setBytes_tiles (s : State) (a : Nat) (vs : List (BitVec 8)) : (s.setBytes a vs).tiles = s.tiles := by
  induction vs generalizing a s with
  | nil => rfl
  | cons v vs ih => exact ih _ _
@[simp] theorem State.setBytes_mxJobs (s : State) (a : Nat) (vs : List (BitVec 8)) : (s.setBytes a vs).mxJobs = s.mxJobs := by
  induction vs generalizing a s with
  | nil => rfl
  | cons v vs ih => exact ih _ _
@[simp] theorem State.setBytes_vxJobs (s : State) (a : Nat) (vs : List (BitVec 8)) : (s.setBytes a vs).vxJobs = s.vxJobs := by
  induction vs generalizing a s with
  | nil => rfl
  | cons v vs ih => exact ih _ _
@[simp] theorem State.setBytes_rerun (s : State) (a : Nat) (vs : List (BitVec 8)) : (s.setBytes a vs).rerun = s.rerun := by
  induction vs generalizing a s with
  | nil => rfl
  | cons v vs ih => exact ih _ _
@[simp] theorem State.setBytes_fifo (s : State) (a : Nat) (vs : List (BitVec 8)) : (s.setBytes a vs).fifo = s.fifo := by
  induction vs generalizing a s with
  | nil => rfl
  | cons v vs ih => exact ih _ _
@[simp] theorem State.setBytes_transit (s : State) (a : Nat) (vs : List (BitVec 8)) : (s.setBytes a vs).transit = s.transit := by
  induction vs generalizing a s with
  | nil => rfl
  | cons v vs ih => exact ih _ _
@[simp] theorem State.setBytes_foxArr (s : State) (a : Nat) (vs : List (BitVec 8)) : (s.setBytes a vs).foxArr = s.foxArr := by
  induction vs generalizing a s with
  | nil => rfl
  | cons v vs ih => exact ih _ _
@[simp] theorem State.setBytes_foxAct (s : State) (a : Nat) (vs : List (BitVec 8)) : (s.setBytes a vs).foxAct = s.foxAct := by
  induction vs generalizing a s with
  | nil => rfl
  | cons v vs ih => exact ih _ _
@[simp] theorem State.setBytes_foxReqs (s : State) (a : Nat) (vs : List (BitVec 8)) : (s.setBytes a vs).foxReqs = s.foxReqs := by
  induction vs generalizing a s with
  | nil => rfl
  | cons v vs ih => exact ih _ _
@[simp] theorem State.setBytes_foxMsgs (s : State) (a : Nat) (vs : List (BitVec 8)) : (s.setBytes a vs).foxMsgs = s.foxMsgs := by
  induction vs generalizing a s with
  | nil => rfl
  | cons v vs ih => exact ih _ _
@[simp] theorem State.setBytes_foxPeer (s : State) (a : Nat) (vs : List (BitVec 8)) : (s.setBytes a vs).foxPeer = s.foxPeer := by
  induction vs generalizing a s with
  | nil => rfl
  | cons v vs ih => exact ih _ _
@[simp] theorem State.setBytes_hbmBad (s : State) (a : Nat) (vs : List (BitVec 8)) : (s.setBytes a vs).hbmBad = s.hbmBad := by
  induction vs generalizing a s with
  | nil => rfl
  | cons v vs ih => exact ih _ _
@[simp] theorem State.setBytes_hbmKey (s : State) (a : Nat) (vs : List (BitVec 8)) : (s.setBytes a vs).hbmKey = s.hbmKey := by
  induction vs generalizing a s with
  | nil => rfl
  | cons v vs ih => exact ih _ _
@[simp] theorem State.setBytes_txq (s : State) (a : Nat) (vs : List (BitVec 8)) : (s.setBytes a vs).txq = s.txq := by
  induction vs generalizing a s with
  | nil => rfl
  | cons v vs ih => exact ih _ _
@[simp] theorem State.setBytes_retry (s : State) (a : Nat) (vs : List (BitVec 8)) : (s.setBytes a vs).retry = s.retry := by
  induction vs generalizing a s with
  | nil => rfl
  | cons v vs ih => exact ih _ _
@[simp] theorem State.setBytes_attest (s : State) (a : Nat) (vs : List (BitVec 8)) : (s.setBytes a vs).attest = s.attest := by
  induction vs generalizing a s with
  | nil => rfl
  | cons v vs ih => exact ih _ _
@[simp] theorem State.setBytes_segs (s : State) (a : Nat) (vs : List (BitVec 8)) : (s.setBytes a vs).segs = s.segs := by
  induction vs generalizing a s with
  | nil => rfl
  | cons v vs ih => exact ih _ _
@[simp] theorem State.setBytes_segRings (s : State) (a : Nat) (vs : List (BitVec 8)) : (s.setBytes a vs).segRings = s.segRings := by
  induction vs generalizing a s with
  | nil => rfl
  | cons v vs ih => exact ih _ _
@[simp] theorem State.setBytes_requests (s : State) (a : Nat) (vs : List (BitVec 8)) : (s.setBytes a vs).requests = s.requests := by
  induction vs generalizing a s with
  | nil => rfl
  | cons v vs ih => exact ih _ _
@[simp] theorem State.setBytes_windows (s : State) (a : Nat) (vs : List (BitVec 8)) : (s.setBytes a vs).windows = s.windows := by
  induction vs generalizing a s with
  | nil => rfl
  | cons v vs ih => exact ih _ _
@[simp] theorem State.setBytes_batches (s : State) (a : Nat) (vs : List (BitVec 8)) : (s.setBytes a vs).batches = s.batches := by
  induction vs generalizing a s with
  | nil => rfl
  | cons v vs ih => exact ih _ _
@[simp] theorem State.setBytes_resps (s : State) (a : Nat) (vs : List (BitVec 8)) : (s.setBytes a vs).resps = s.resps := by
  induction vs generalizing a s with
  | nil => rfl
  | cons v vs ih => exact ih _ _
@[simp] theorem State.setBytes_liveTags (s : State) (a : Nat) (vs : List (BitVec 8)) : (s.setBytes a vs).liveTags = s.liveTags := by
  induction vs generalizing a s with
  | nil => rfl
  | cons v vs ih => exact ih _ _
@[simp] theorem State.setBytes_svcPend (s : State) (a : Nat) (vs : List (BitVec 8)) : (s.setBytes a vs).svcPend = s.svcPend := by
  induction vs generalizing a s with
  | nil => rfl
  | cons v vs ih => exact ih _ _
@[simp] theorem State.setBytes_epochPend (s : State) (a : Nat) (vs : List (BitVec 8)) : (s.setBytes a vs).epochPend = s.epochPend := by
  induction vs generalizing a s with
  | nil => rfl
  | cons v vs ih => exact ih _ _
@[simp] theorem State.setBytes_slow (s : State) (a : Nat) (vs : List (BitVec 8)) : (s.setBytes a vs).slow = s.slow := by
  induction vs generalizing a s with
  | nil => rfl
  | cons v vs ih => exact ih _ _
@[simp] theorem State.setBytes_checked (s : State) (a : Nat) (vs : List (BitVec 8)) : (s.setBytes a vs).checked = s.checked := by
  induction vs generalizing a s with
  | nil => rfl
  | cons v vs ih => exact ih _ _
@[simp] theorem State.setBytes_held (s : State) (a : Nat) (vs : List (BitVec 8)) : (s.setBytes a vs).held = s.held := by
  induction vs generalizing a s with
  | nil => rfl
  | cons v vs ih => exact ih _ _
@[simp] theorem State.setBytes_evq (s : State) (a : Nat) (vs : List (BitVec 8)) : (s.setBytes a vs).evq = s.evq := by
  induction vs generalizing a s with
  | nil => rfl
  | cons v vs ih => exact ih _ _
@[simp] theorem State.setBytes_evrBuf (s : State) (a : Nat) (vs : List (BitVec 8)) : (s.setBytes a vs).evrBuf = s.evrBuf := by
  induction vs generalizing a s with
  | nil => rfl
  | cons v vs ih => exact ih _ _
@[simp] theorem State.setBytes_evrStaged (s : State) (a : Nat) (vs : List (BitVec 8)) : (s.setBytes a vs).evrStaged = s.evrStaged := by
  induction vs generalizing a s with
  | nil => rfl
  | cons v vs ih => exact ih _ _
@[simp] theorem State.setBytes_roTail (s : State) (a : Nat) (vs : List (BitVec 8)) : (s.setBytes a vs).roTail = s.roTail := by
  induction vs generalizing a s with
  | nil => rfl
  | cons v vs ih => exact ih _ _
@[simp] theorem State.setBytes_out (s : State) (a : Nat) (vs : List (BitVec 8)) : (s.setBytes a vs).out = s.out := by
  induction vs generalizing a s with
  | nil => rfl
  | cons v vs ih => exact ih _ _
@[simp] theorem State.setBytes_ctr (s : State) (a : Nat) (vs : List (BitVec 8)) : (s.setBytes a vs).ctr = s.ctr := by
  induction vs generalizing a s with
  | nil => rfl
  | cons v vs ih => exact ih _ _
@[simp] theorem State.setBytes_pending (s : State) (a : Nat) (vs : List (BitVec 8)) : (s.setBytes a vs).pending = s.pending := by
  induction vs generalizing a s with
  | nil => rfl
  | cons v vs ih => exact ih _ _

@[simp] theorem State.sendMsix_mem (s : State) (fn vec : Nat) : (s.sendMsix fn vec).mem = s.mem := by unfold State.sendMsix; split; rfl; split; rfl; split <;> rfl
@[simp] theorem State.sendMsix_vreg (s : State) (fn vec : Nat) : (s.sendMsix fn vec).vreg = s.vreg := by unfold State.sendMsix; split; rfl; split; rfl; split <;> rfl
@[simp] theorem State.sendMsix_planes (s : State) (fn vec : Nat) : (s.sendMsix fn vec).planes = s.planes := by unfold State.sendMsix; split; rfl; split; rfl; split <;> rfl
@[simp] theorem State.sendMsix_tiles (s : State) (fn vec : Nat) : (s.sendMsix fn vec).tiles = s.tiles := by unfold State.sendMsix; split; rfl; split; rfl; split <;> rfl
@[simp] theorem State.sendMsix_mxJobs (s : State) (fn vec : Nat) : (s.sendMsix fn vec).mxJobs = s.mxJobs := by unfold State.sendMsix; split; rfl; split; rfl; split <;> rfl
@[simp] theorem State.sendMsix_vxJobs (s : State) (fn vec : Nat) : (s.sendMsix fn vec).vxJobs = s.vxJobs := by unfold State.sendMsix; split; rfl; split; rfl; split <;> rfl
@[simp] theorem State.sendMsix_rerun (s : State) (fn vec : Nat) : (s.sendMsix fn vec).rerun = s.rerun := by unfold State.sendMsix; split; rfl; split; rfl; split <;> rfl
@[simp] theorem State.sendMsix_fifo (s : State) (fn vec : Nat) : (s.sendMsix fn vec).fifo = s.fifo := by unfold State.sendMsix; split; rfl; split; rfl; split <;> rfl
@[simp] theorem State.sendMsix_transit (s : State) (fn vec : Nat) : (s.sendMsix fn vec).transit = s.transit := by unfold State.sendMsix; split; rfl; split; rfl; split <;> rfl
@[simp] theorem State.sendMsix_foxArr (s : State) (fn vec : Nat) : (s.sendMsix fn vec).foxArr = s.foxArr := by unfold State.sendMsix; split; rfl; split; rfl; split <;> rfl
@[simp] theorem State.sendMsix_foxAct (s : State) (fn vec : Nat) : (s.sendMsix fn vec).foxAct = s.foxAct := by unfold State.sendMsix; split; rfl; split; rfl; split <;> rfl
@[simp] theorem State.sendMsix_foxReqs (s : State) (fn vec : Nat) : (s.sendMsix fn vec).foxReqs = s.foxReqs := by unfold State.sendMsix; split; rfl; split; rfl; split <;> rfl
@[simp] theorem State.sendMsix_foxMsgs (s : State) (fn vec : Nat) : (s.sendMsix fn vec).foxMsgs = s.foxMsgs := by unfold State.sendMsix; split; rfl; split; rfl; split <;> rfl
@[simp] theorem State.sendMsix_foxPeer (s : State) (fn vec : Nat) : (s.sendMsix fn vec).foxPeer = s.foxPeer := by unfold State.sendMsix; split; rfl; split; rfl; split <;> rfl
@[simp] theorem State.sendMsix_hbmBad (s : State) (fn vec : Nat) : (s.sendMsix fn vec).hbmBad = s.hbmBad := by unfold State.sendMsix; split; rfl; split; rfl; split <;> rfl
@[simp] theorem State.sendMsix_hbmKey (s : State) (fn vec : Nat) : (s.sendMsix fn vec).hbmKey = s.hbmKey := by unfold State.sendMsix; split; rfl; split; rfl; split <;> rfl
@[simp] theorem State.sendMsix_txq (s : State) (fn vec : Nat) : (s.sendMsix fn vec).txq = s.txq := by unfold State.sendMsix; split; rfl; split; rfl; split <;> rfl
@[simp] theorem State.sendMsix_retry (s : State) (fn vec : Nat) : (s.sendMsix fn vec).retry = s.retry := by unfold State.sendMsix; split; rfl; split; rfl; split <;> rfl
@[simp] theorem State.sendMsix_attest (s : State) (fn vec : Nat) : (s.sendMsix fn vec).attest = s.attest := by unfold State.sendMsix; split; rfl; split; rfl; split <;> rfl
@[simp] theorem State.sendMsix_segs (s : State) (fn vec : Nat) : (s.sendMsix fn vec).segs = s.segs := by unfold State.sendMsix; split; rfl; split; rfl; split <;> rfl
@[simp] theorem State.sendMsix_segRings (s : State) (fn vec : Nat) : (s.sendMsix fn vec).segRings = s.segRings := by unfold State.sendMsix; split; rfl; split; rfl; split <;> rfl
@[simp] theorem State.sendMsix_requests (s : State) (fn vec : Nat) : (s.sendMsix fn vec).requests = s.requests := by unfold State.sendMsix; split; rfl; split; rfl; split <;> rfl
@[simp] theorem State.sendMsix_windows (s : State) (fn vec : Nat) : (s.sendMsix fn vec).windows = s.windows := by unfold State.sendMsix; split; rfl; split; rfl; split <;> rfl
@[simp] theorem State.sendMsix_batches (s : State) (fn vec : Nat) : (s.sendMsix fn vec).batches = s.batches := by unfold State.sendMsix; split; rfl; split; rfl; split <;> rfl
@[simp] theorem State.sendMsix_resps (s : State) (fn vec : Nat) : (s.sendMsix fn vec).resps = s.resps := by unfold State.sendMsix; split; rfl; split; rfl; split <;> rfl
@[simp] theorem State.sendMsix_liveTags (s : State) (fn vec : Nat) : (s.sendMsix fn vec).liveTags = s.liveTags := by unfold State.sendMsix; split; rfl; split; rfl; split <;> rfl
@[simp] theorem State.sendMsix_svcPend (s : State) (fn vec : Nat) : (s.sendMsix fn vec).svcPend = s.svcPend := by unfold State.sendMsix; split; rfl; split; rfl; split <;> rfl
@[simp] theorem State.sendMsix_epochPend (s : State) (fn vec : Nat) : (s.sendMsix fn vec).epochPend = s.epochPend := by unfold State.sendMsix; split; rfl; split; rfl; split <;> rfl
@[simp] theorem State.sendMsix_slow (s : State) (fn vec : Nat) : (s.sendMsix fn vec).slow = s.slow := by unfold State.sendMsix; split; rfl; split; rfl; split <;> rfl
@[simp] theorem State.sendMsix_checked (s : State) (fn vec : Nat) : (s.sendMsix fn vec).checked = s.checked := by unfold State.sendMsix; split; rfl; split; rfl; split <;> rfl
@[simp] theorem State.sendMsix_held (s : State) (fn vec : Nat) : (s.sendMsix fn vec).held = s.held := by unfold State.sendMsix; split; rfl; split; rfl; split <;> rfl
@[simp] theorem State.sendMsix_evq (s : State) (fn vec : Nat) : (s.sendMsix fn vec).evq = s.evq := by unfold State.sendMsix; split; rfl; split; rfl; split <;> rfl
@[simp] theorem State.sendMsix_evrBuf (s : State) (fn vec : Nat) : (s.sendMsix fn vec).evrBuf = s.evrBuf := by unfold State.sendMsix; split; rfl; split; rfl; split <;> rfl
@[simp] theorem State.sendMsix_evrStaged (s : State) (fn vec : Nat) : (s.sendMsix fn vec).evrStaged = s.evrStaged := by unfold State.sendMsix; split; rfl; split; rfl; split <;> rfl
@[simp] theorem State.sendMsix_roTail (s : State) (fn vec : Nat) : (s.sendMsix fn vec).roTail = s.roTail := by unfold State.sendMsix; split; rfl; split; rfl; split <;> rfl
@[simp] theorem State.sendMsix_ctr (s : State) (fn vec : Nat) : (s.sendMsix fn vec).ctr = s.ctr := by unfold State.sendMsix; split; rfl; split; rfl; split <;> rfl
@[simp] theorem State.sendMsix_pending (s : State) (fn vec : Nat) : (s.sendMsix fn vec).pending = s.pending := by unfold State.sendMsix; split; rfl; split; rfl; split <;> rfl

@[simp] theorem State.putV_reg (s : State) (c n : Nat) (ls : List (BitVec 32)) : (s.putV c n ls).reg = s.reg := rfl
@[simp] theorem State.putV_mem (s : State) (c n : Nat) (ls : List (BitVec 32)) : (s.putV c n ls).mem = s.mem := rfl
@[simp] theorem State.putV_planes (s : State) (c n : Nat) (ls : List (BitVec 32)) : (s.putV c n ls).planes = s.planes := rfl
@[simp] theorem State.putV_tiles (s : State) (c n : Nat) (ls : List (BitVec 32)) : (s.putV c n ls).tiles = s.tiles := rfl
@[simp] theorem State.putV_mxJobs (s : State) (c n : Nat) (ls : List (BitVec 32)) : (s.putV c n ls).mxJobs = s.mxJobs := rfl
@[simp] theorem State.putV_vxJobs (s : State) (c n : Nat) (ls : List (BitVec 32)) : (s.putV c n ls).vxJobs = s.vxJobs := rfl
@[simp] theorem State.putV_rerun (s : State) (c n : Nat) (ls : List (BitVec 32)) : (s.putV c n ls).rerun = s.rerun := rfl
@[simp] theorem State.putV_fifo (s : State) (c n : Nat) (ls : List (BitVec 32)) : (s.putV c n ls).fifo = s.fifo := rfl
@[simp] theorem State.putV_transit (s : State) (c n : Nat) (ls : List (BitVec 32)) : (s.putV c n ls).transit = s.transit := rfl
@[simp] theorem State.putV_foxArr (s : State) (c n : Nat) (ls : List (BitVec 32)) : (s.putV c n ls).foxArr = s.foxArr := rfl
@[simp] theorem State.putV_foxAct (s : State) (c n : Nat) (ls : List (BitVec 32)) : (s.putV c n ls).foxAct = s.foxAct := rfl
@[simp] theorem State.putV_foxReqs (s : State) (c n : Nat) (ls : List (BitVec 32)) : (s.putV c n ls).foxReqs = s.foxReqs := rfl
@[simp] theorem State.putV_foxMsgs (s : State) (c n : Nat) (ls : List (BitVec 32)) : (s.putV c n ls).foxMsgs = s.foxMsgs := rfl
@[simp] theorem State.putV_foxPeer (s : State) (c n : Nat) (ls : List (BitVec 32)) : (s.putV c n ls).foxPeer = s.foxPeer := rfl
@[simp] theorem State.putV_hbmBad (s : State) (c n : Nat) (ls : List (BitVec 32)) : (s.putV c n ls).hbmBad = s.hbmBad := rfl
@[simp] theorem State.putV_hbmKey (s : State) (c n : Nat) (ls : List (BitVec 32)) : (s.putV c n ls).hbmKey = s.hbmKey := rfl
@[simp] theorem State.putV_txq (s : State) (c n : Nat) (ls : List (BitVec 32)) : (s.putV c n ls).txq = s.txq := rfl
@[simp] theorem State.putV_retry (s : State) (c n : Nat) (ls : List (BitVec 32)) : (s.putV c n ls).retry = s.retry := rfl
@[simp] theorem State.putV_attest (s : State) (c n : Nat) (ls : List (BitVec 32)) : (s.putV c n ls).attest = s.attest := rfl
@[simp] theorem State.putV_segs (s : State) (c n : Nat) (ls : List (BitVec 32)) : (s.putV c n ls).segs = s.segs := rfl
@[simp] theorem State.putV_segRings (s : State) (c n : Nat) (ls : List (BitVec 32)) : (s.putV c n ls).segRings = s.segRings := rfl
@[simp] theorem State.putV_requests (s : State) (c n : Nat) (ls : List (BitVec 32)) : (s.putV c n ls).requests = s.requests := rfl
@[simp] theorem State.putV_windows (s : State) (c n : Nat) (ls : List (BitVec 32)) : (s.putV c n ls).windows = s.windows := rfl
@[simp] theorem State.putV_batches (s : State) (c n : Nat) (ls : List (BitVec 32)) : (s.putV c n ls).batches = s.batches := rfl
@[simp] theorem State.putV_resps (s : State) (c n : Nat) (ls : List (BitVec 32)) : (s.putV c n ls).resps = s.resps := rfl
@[simp] theorem State.putV_liveTags (s : State) (c n : Nat) (ls : List (BitVec 32)) : (s.putV c n ls).liveTags = s.liveTags := rfl
@[simp] theorem State.putV_svcPend (s : State) (c n : Nat) (ls : List (BitVec 32)) : (s.putV c n ls).svcPend = s.svcPend := rfl
@[simp] theorem State.putV_epochPend (s : State) (c n : Nat) (ls : List (BitVec 32)) : (s.putV c n ls).epochPend = s.epochPend := rfl
@[simp] theorem State.putV_slow (s : State) (c n : Nat) (ls : List (BitVec 32)) : (s.putV c n ls).slow = s.slow := rfl
@[simp] theorem State.putV_checked (s : State) (c n : Nat) (ls : List (BitVec 32)) : (s.putV c n ls).checked = s.checked := rfl
@[simp] theorem State.putV_held (s : State) (c n : Nat) (ls : List (BitVec 32)) : (s.putV c n ls).held = s.held := rfl
@[simp] theorem State.putV_evq (s : State) (c n : Nat) (ls : List (BitVec 32)) : (s.putV c n ls).evq = s.evq := rfl
@[simp] theorem State.putV_evrBuf (s : State) (c n : Nat) (ls : List (BitVec 32)) : (s.putV c n ls).evrBuf = s.evrBuf := rfl
@[simp] theorem State.putV_evrStaged (s : State) (c n : Nat) (ls : List (BitVec 32)) : (s.putV c n ls).evrStaged = s.evrStaged := rfl
@[simp] theorem State.putV_roTail (s : State) (c n : Nat) (ls : List (BitVec 32)) : (s.putV c n ls).roTail = s.roTail := rfl
@[simp] theorem State.putV_out (s : State) (c n : Nat) (ls : List (BitVec 32)) : (s.putV c n ls).out = s.out := rfl
@[simp] theorem State.putV_ctr (s : State) (c n : Nat) (ls : List (BitVec 32)) : (s.putV c n ls).ctr = s.ctr := rfl
@[simp] theorem State.putV_pending (s : State) (c n : Nat) (ls : List (BitVec 32)) : (s.putV c n ls).pending = s.pending := rfl

/-! ## Keys -/

theorem key_eq_iff (f g : Fld) (a b c d : Nat) :
    key f a b = key g c d ↔ f.id = g.id ∧ a % 2 ^ 24 = c % 2 ^ 24 ∧ b % 2 ^ 24 = d % 2 ^ 24 := by
  unfold key
  omega

theorem keyFld_key (f : Fld) (a b : Nat) : keyFld (key f a b) = f.id := by
  unfold keyFld key
  omega

theorem keyA_key (f : Fld) (a b : Nat) : keyA (key f a b) = a % 2 ^ 24 := by
  unfold keyA key
  omega

/-! ## Fields -/

@[simp] theorem State.get_put_self (s : State) (f : Fld) (a b v : Nat) : (s.put f a b v).get f a b = v % 2 ^ f.width := by
  simp [State.get, State.put]

/-- Another place reads as before. -/
theorem State.get_put_of_key_ne (s : State) {f g : Fld} {a b c d : Nat} (v : Nat) (h : key g c d ≠ key f a b) :
    (s.put f a b v).get g c d = s.get g c d := by
  simp only [State.get, State.put]
  rw [tget?_tsetD_ne _ _ _ h]

@[simp] theorem State.get_put_fld (s : State) {f g : Fld} (a b v c d : Nat) (h : g.id ≠ f.id) :
    (s.put f a b v).get g c d = s.get g c d :=
  s.get_put_of_key_ne v fun e => h ((key_eq_iff _ _ _ _ _ _).mp e).1

/-- Another first index reads as before. -/
theorem State.get_put_a (s : State) {f g : Fld} {a c : Nat} (b v d : Nat) (h : c % 2 ^ 24 ≠ a % 2 ^ 24) :
    (s.put f a b v).get g c d = s.get g c d :=
  s.get_put_of_key_ne v fun e => h ((key_eq_iff _ _ _ _ _ _).mp e).2.1

/-- Another second index reads as before. -/
theorem State.get_put_b (s : State) {f g : Fld} {b d : Nat} (a v c : Nat) (h : d % 2 ^ 24 ≠ b % 2 ^ 24) :
    (s.put f a b v).get g c d = s.get g c d :=
  s.get_put_of_key_ne v fun e => h ((key_eq_iff _ _ _ _ _ _).mp e).2.2

/-- A field reads the same where the register table is the same. -/
theorem State.get_congr {s t : State} (h : s.reg = t.reg) (f : Fld) (a b : Nat) : s.get f a b = t.get f a b := by
  simp [State.get, h]

@[simp] theorem State.get_setByte (s : State) (x : Nat) (v : BitVec 8) (f : Fld) (a b : Nat) :
    (s.setByte x v).get f a b = s.get f a b := rfl
@[simp] theorem State.get_setBytes (s : State) (x : Nat) (vs : List (BitVec 8)) (f : Fld) (a b : Nat) :
    (s.setBytes x vs).get f a b = s.get f a b := State.get_congr (s.setBytes_reg x vs) f a b
@[simp] theorem State.get_wipe (s : State) (lo hi : Nat) (f : Fld) (a b : Nat) : (s.wipe lo hi).get f a b = s.get f a b := rfl
@[simp] theorem State.get_emit (s : State) (o : Output) (f : Fld) (a b : Nat) : (s.emit o).get f a b = s.get f a b := rfl
@[simp] theorem State.get_draw (s : State) (f : Fld) (a b : Nat) : s.draw.get f a b = s.get f a b := rfl
@[simp] theorem State.get_setFifo (s : State) (c e : Nat) (ws : List (BitVec 512)) (f : Fld) (a b : Nat) :
    (s.setFifo c e ws).get f a b = s.get f a b := rfl
@[simp] theorem State.get_setTransit (s : State) (ch : Nat) (l : List Transit) (f : Fld) (a b : Nat) :
    (s.setTransit ch l).get f a b = s.get f a b := rfl
@[simp] theorem State.get_send (s : State) (ch : Nat) (x : Transit) (f : Fld) (a b : Nat) :
    (s.send ch x).get f a b = s.get f a b := rfl
@[simp] theorem State.get_putV (s : State) (c n : Nat) (ls : List (BitVec 32)) (f : Fld) (a b : Nat) :
    (s.putV c n ls).get f a b = s.get f a b := rfl
@[simp] theorem State.get_raise (s : State) (code src : Nat) (ctx : List Nat) (f : Fld) (a b : Nat) :
    (s.raise code src ctx).get f a b = s.get f a b := State.get_congr (s.raise_reg code src ctx) f a b

@[simp] theorem State.get_inc_self (s : State) (f : Fld) (a b n : Nat) :
    (s.inc f a b n).get f a b = (s.get f a b + n) % 2 ^ f.width := State.get_put_self _ _ _ _ _
@[simp] theorem State.get_inc_fld (s : State) {f g : Fld} (a b n c d : Nat) (h : g.id ≠ f.id) :
    (s.inc f a b n).get g c d = s.get g c d := s.get_put_fld _ _ _ _ _ h
@[simp] theorem State.get_setBit_self (s : State) (f : Fld) (a b n : Nat) :
    (s.setBit f a b n).get f a b = (s.get f a b ||| 2 ^ n) % 2 ^ f.width := State.get_put_self _ _ _ _ _
@[simp] theorem State.get_setBit_fld (s : State) {f g : Fld} (a b n c d : Nat) (h : g.id ≠ f.id) :
    (s.setBit f a b n).get g c d = s.get g c d := s.get_put_fld _ _ _ _ _ h
@[simp] theorem State.get_clrBit_fld (s : State) {f g : Fld} (a b n c d : Nat) (h : g.id ≠ f.id) :
    (s.clrBit f a b n).get g c d = s.get g c d := by
  unfold State.clrBit
  split
  · exact s.get_put_fld _ _ _ _ _ h
  · rfl

/-- Sending an MSI-X message touches the message's own bits alone. -/
@[simp] theorem State.get_sendMsix_fld (s : State) (fn vec : Nat) {g : Fld} (c d : Nat) (h1 : g.id ≠ Fld.msixD3.id)
    (h2 : g.id ≠ Fld.msixPba.id) : (s.sendMsix fn vec).get g c d = s.get g c d := by
  unfold State.sendMsix
  split
  · exact s.get_put_fld _ _ _ _ _ h1
  · split
    · rfl
    · split
      · exact s.get_put_fld _ _ _ _ _ h2
      · rfl

/-- A cause of a channel touches the cause register and the message's bits alone. -/
@[simp] theorem State.get_chCause_fld (s : State) (ch bit : Nat) {g : Fld} (c d : Nat) (h0 : g.id ≠ Fld.chIrqStatCause.id)
    (h1 : g.id ≠ Fld.msixD3.id) (h2 : g.id ≠ Fld.msixPba.id) : (s.chCause ch bit).get g c d = s.get g c d := by
  unfold State.chCause
  dsimp only
  split
  · exact s.get_setBit_fld _ _ _ _ _ h0
  · rw [State.get_sendMsix_fld _ _ _ _ _ h1 h2]
    exact s.get_setBit_fld _ _ _ _ _ h0

/-- A cause of function 0 touches the cause register and the message's bits alone. -/
@[simp] theorem State.get_mgCause_fld (s : State) (bit : Nat) {g : Fld} (c d : Nat) (h0 : g.id ≠ Fld.mbxIrqStatCause.id)
    (h1 : g.id ≠ Fld.msixD3.id) (h2 : g.id ≠ Fld.msixPba.id) : (s.mgCause bit).get g c d = s.get g c d := by
  unfold State.mgCause
  dsimp only
  split
  · exact s.get_setBit_fld _ _ _ _ _ h0
  · rw [State.get_sendMsix_fld _ _ _ _ _ h1 h2]
    exact s.get_setBit_fld _ _ _ _ _ h0

/-- A cause that is set stays readable in the cause register. -/
@[simp] theorem State.get_chCause_self (s : State) (ch bit : Nat) :
    (s.chCause ch bit).get Fld.chIrqStatCause ch 0 =
      (s.get Fld.chIrqStatCause ch 0 ||| 2 ^ bit) % 2 ^ Fld.chIrqStatCause.width := by
  unfold State.chCause
  dsimp only
  split
  · simp
  · rw [State.get_sendMsix_fld _ _ _ _ _ (by simp) (by simp)]
    simp

/-! ## Bytes -/

@[simp] theorem State.byte_setByte_self (s : State) (a : Nat) (v : BitVec 8) : (s.setByte a v).byte a = v := by
  simp [State.byte, State.setByte]

@[simp] theorem State.byte_setByte_ne (s : State) {a x : Nat} (v : BitVec 8) (h : x ≠ a) :
    (s.setByte a v).byte x = s.byte x := by
  simp only [State.byte, State.setByte]
  rw [tget?_tsetD_ne _ _ _ h]

/-- A byte reads the same where the memory is the same. -/
theorem State.byte_congr {s t : State} (h : s.mem = t.mem) (a : Nat) : s.byte a = t.byte a := by simp [State.byte, h]

@[simp] theorem State.byte_put (s : State) (f : Fld) (a b v x : Nat) : (s.put f a b v).byte x = s.byte x := rfl
@[simp] theorem State.byte_raise (s : State) (code src : Nat) (ctx : List Nat) (x : Nat) :
    (s.raise code src ctx).byte x = s.byte x := State.byte_congr (s.raise_mem code src ctx) x
@[simp] theorem State.byte_emit (s : State) (o : Output) (x : Nat) : (s.emit o).byte x = s.byte x := rfl
@[simp] theorem State.byte_draw (s : State) (x : Nat) : s.draw.byte x = s.byte x := rfl

/-- Bytes outside the ones written read as before. -/
theorem State.byte_setBytes_out (s : State) (a : Nat) (vs : List (BitVec 8)) (x : Nat) (h : x < a ∨ a + vs.length ≤ x) :
    (s.setBytes a vs).byte x = s.byte x := by
  induction vs generalizing a s with
  | nil => rfl
  | cons v vs ih =>
    simp only [List.length_cons] at h
    simp only [State.setBytes]
    rw [ih _ _ (by omega), State.byte_setByte_ne _ _ (by omega)]

/-- The byte at place k of the ones written. -/
theorem State.byte_setBytes_in (s : State) (a : Nat) (vs : List (BitVec 8)) (k : Nat) (h : k < vs.length) :
    (s.setBytes a vs).byte (a + k) = vs[k] := by
  induction vs generalizing a s k with
  | nil => simp at h
  | cons v vs ih =>
    simp only [State.setBytes]
    cases k with
    | zero =>
      rw [State.byte_setBytes_out _ _ _ _ (by omega)]
      simp
    | succ k =>
      have : a + (k + 1) = a + 1 + k := by omega
      rw [this, ih _ _ _ (by simpa using h)]
      simp

end Sys2Proof.Machine
end

