-- ==== Sys2Proof/Laws/Keeps.lean ====
section
/-!
SUPPORT. The relation Keeps (Safety.lean): it composes, every primitive update has it, and it passes through branches and folds.
-/
namespace Sys2Proof.Machine

namespace Keeps

theorem refl (s : State) : Keeps s s := ⟨id, rfl, List.prefix_refl _, Nat.le_refl _⟩

theorem trans {s t u : State} (h : Keeps s t) (g : Keeps t u) : Keeps s u :=
  ⟨g.sound ∘ h.sound, g.pending.trans h.pending, h.out.trans g.out, Nat.le_trans h.ctr g.ctr⟩

/-- An update that touches neither the queue, nor what was handed out, nor the count of draws. -/
theorem upd {s t u : State} (h : Keeps s t) (hs : Sound t → Sound u) (hp : u.pending = t.pending) (ho : u.out = t.out)
    (hc : u.ctr = t.ctr) : Keeps s u :=
  h.trans ⟨hs, hp, ho ▸ List.prefix_refl _, Nat.le_of_eq hc.symm⟩

end Keeps

/-- An outcome that is a next state, one that Keeps allows. -/
structure KeepsOut (s : State) (o : Out) : Prop where
  next : ∃ t, o = .next t ∧ Keeps s t

theorem keepsOut_next {s t : State} (h : Keeps s t) : KeepsOut s (.next t) := ⟨t, rfl, h⟩

theorem keeps_ite {s a b : State} {c : Prop} [Decidable c] (ha : c → Keeps s a) (hb : ¬ c → Keeps s b) :
    Keeps s (if c then a else b) := by
  split
  · exact ha ‹_›
  · exact hb ‹_›

theorem keepsOut_ite {s : State} {a b : Out} {c : Prop} [Decidable c] (ha : c → KeepsOut s a) (hb : ¬ c → KeepsOut s b) :
    KeepsOut s (if c then a else b) := by
  split
  · exact ha ‹_›
  · exact hb ‹_›

/-- What every step of a fold keeps, the fold keeps. -/
theorem foldl_keeps {α β : Type} (P : β → Prop) {f : β → α → β} {b : β} {l : List α} (hf : ∀ b x, P b → P (f b x)) (hb : P b) :
    P (l.foldl f b) := by
  induction l generalizing b with
  | nil => exact hb
  | cons x l ih => exact ih (hf b x hb)

theorem keeps_foldl {α : Type} {s t : State} {f : State → α → State} {l : List α} (hf : ∀ t x, Keeps s t → Keeps s (f t x))
    (h : Keeps s t) : Keeps s (l.foldl f t) := foldl_keeps (Keeps s) hf h

/-- As `keeps_foldl`, for a step that needs to know that its element is of the list. -/
theorem keeps_foldl_mem {α : Type} {s : State} {f : State → α → State} {l : List α}
    (hf : ∀ t x, x ∈ l → Keeps s t → Keeps s (f t x)) {t : State} (h : Keeps s t) : Keeps s (l.foldl f t) := by
  induction l generalizing t with
  | nil => exact h
  | cons x l ih => exact ih (fun t y hy => hf t y (List.mem_cons_of_mem _ hy)) (hf t x List.mem_cons_self h)

/-! ## Widths -/

/-- A field of the table is the one that its number names. -/
theorem Fld.ok_of_mem {f : Fld} (h : f ∈ Fld.all) : f.Ok := by
  obtain ⟨i, hi, rfl⟩ := List.getElem_of_mem h
  exact Fld.at?_ok (i := i) (by rw [← Fld.all_getElem?, List.getElem?_eq_getElem hi])

theorem Fld.Ok.unique {f g : Fld} (hf : f.Ok) (hg : g.Ok) (h : f.id = g.id) : f = g := by
  have := hf.symm.trans ((congrArg Fld.at? h).trans hg)
  simpa using this

theorem Fits.tclear {r : Tab Nat} (p : Nat → Bool) (h : Fits r) : Fits (tclear p r) :=
  fun e he => h e (mem_of_mem_tclear he)

theorem Fits.filter {r : Tab Nat} (p : Nat × Nat → Bool) (h : Fits r) : Fits (r.filter p) :=
  fun e he => h e (List.mem_filter.mp he).1

/-- Writing a value cut to its field's width. -/
theorem Fits.tsetD {r : Tab Nat} {f : Fld} (hf : f.Ok) (d a b v : Nat) (h : Fits r) :
    Fits (tsetD d r (key f a b) (v % 2 ^ f.width)) := by
  intro e he g hg hid
  rcases mem_tsetD he with ⟨rfl, _⟩ | he
  · rw [keyFld_key] at hid
    rw [(Fld.ok_of_mem hg).unique hf hid]
    exact Nat.mod_lt _ (Nat.two_pow_pos _)
  · exact h e he g hg hid

/-- Writing back entries that fit. -/
theorem Fits.tset {r : Tab Nat} {e : Nat × Nat} (he : ∀ f ∈ Fld.all, f.id = keyFld e.1 → e.2 < 2 ^ f.width) (h : Fits r) :
    Fits (tset r e.1 e.2) := by
  intro x hx
  rcases mem_tset hx with rfl | hx
  · exact he
  · exact h x hx

/-! ## The primitive updates -/

theorem memWf_iff (m : List Host.Cell) : Memory.wf m = true ↔ tsorted m = true ∧ ∀ e ∈ m, e.2 ≠ memDefault e.1 := by
  simp [Memory.wf]

theorem memWf_tsetD {m : List Host.Cell} (h : Memory.wf m = true) (a : Nat) (v : BitVec 8) :
    Memory.wf (tsetD (memDefault a) m a v) = true := by
  rw [memWf_iff] at h ⊢
  refine ⟨tsorted_tsetD _ _ _ h.1, fun e he => ?_⟩
  rcases mem_tsetD he with ⟨rfl, hv⟩ | he
  · exact hv
  · exact h.2 e he

theorem memWf_filter {m : List Host.Cell} (h : Memory.wf m = true) (p : Host.Cell → Bool) : Memory.wf (m.filter p) = true := by
  rw [memWf_iff] at h ⊢
  exact ⟨tsorted_filter _ h.1, fun e he => h.2 e (List.mem_filter.mp he).1⟩

section
variable {o s : State}

theorem keeps_put {f : Fld} {a b v : Nat} (h : Keeps o s) (hf : f.Ok) : Keeps o (s.put f a b v) :=
  h.upd (fun sh => { sh with reg := tsorted_tsetD _ _ _ sh.reg, fits := sh.fits.tsetD hf _ _ _ _ }) rfl rfl rfl

theorem keeps_inc {f : Fld} {a b n : Nat} (h : Keeps o s) (hf : f.Ok) : Keeps o (s.inc f a b n) := keeps_put h hf

theorem keeps_setBit {f : Fld} {a b n : Nat} (h : Keeps o s) (hf : f.Ok) : Keeps o (s.setBit f a b n) := keeps_put h hf

theorem keeps_clrBit {f : Fld} {a b n : Nat} (h : Keeps o s) (hf : f.Ok) : Keeps o (s.clrBit f a b n) := by
  unfold State.clrBit
  exact keeps_ite (fun _ => keeps_put h hf) (fun _ => h)

theorem keeps_clearFlds {fs : List Fld} {p : Nat → Bool} (h : Keeps o s) : Keeps o (s.clearFlds fs p) :=
  h.upd (fun sh => { sh with reg := tsorted_filter _ sh.reg, fits := sh.fits.filter _ }) rfl rfl rfl

theorem keeps_setByte {a : Nat} {v : BitVec 8} (h : Keeps o s) : Keeps o (s.setByte a v) :=
  h.upd (fun sh => { sh with mem := memWf_tsetD sh.mem a v }) rfl rfl rfl

theorem keeps_setBytes {a : Nat} {vs : List (BitVec 8)} (h : Keeps o s) : Keeps o (s.setBytes a vs) := by
  induction vs generalizing a s with
  | nil => exact h
  | cons v vs ih => exact ih (keeps_setByte h)

theorem keeps_wipe {lo hi : Nat} (h : Keeps o s) : Keeps o (s.wipe lo hi) :=
  h.upd (fun sh => { sh with mem := memWf_filter sh.mem _ }) rfl rfl rfl

theorem keeps_emit {x : Output} (h : Keeps o s) : Keeps o (s.emit x) :=
  h.trans ⟨fun sh => { sh with }, rfl, List.prefix_append _ _, Nat.le_refl _⟩

theorem keeps_draw (h : Keeps o s) : Keeps o s.draw :=
  h.trans ⟨fun sh => { sh with }, rfl, List.prefix_refl _, Nat.le_succ _⟩

end

end Sys2Proof.Machine
end

