-- ==== Sys2Proof/Laws/KeepsOps.lean ====
section
/-!
SUPPORT. The operations of Machine/Ops.lean keep what Keeps says.
-/
namespace Sys2Proof.Machine

theorem keeps_raise {o : State} {s : State} {code : Nat} {src : Nat} {ctx : List Nat} (h : Keeps o s) :
    Keeps o (State.raise s code src ctx) := by
  unfold State.raise
  refine keeps_ite (fun _ => ?_) (fun _ => ?_)
  · exact h
  · exact Keeps.upd h (fun sh => { sh with }) rfl rfl rfl

theorem keeps_tally {o : State} {s : State} {code : Nat} {src : Nat} {subject : Nat} {k : Nat} {n : Nat} (h : Keeps o s) :
    Keeps o (State.tally s code src subject k n) := by
  unfold State.tally
  exact keeps_raise h

theorem keeps_sendMsix {o : State} {s : State} {fn : Nat} {vec : Nat} (h : Keeps o s) :
    Keeps o (State.sendMsix s fn vec) := by
  unfold State.sendMsix
  refine keeps_ite (fun _ => ?_) (fun _ => ?_)
  · exact keeps_put h Fld.ok_msixD3
  · refine keeps_ite (fun _ => ?_) (fun _ => ?_)
    · exact h
    · refine keeps_ite (fun _ => ?_) (fun _ => ?_)
      · exact keeps_put h Fld.ok_msixPba
      · exact keeps_emit h

theorem keeps_mgCause {o : State} {s : State} {bit : Nat} (h : Keeps o s) :
    Keeps o (State.mgCause s bit) := by
  unfold State.mgCause
  extract_lets +onlyGivenNames t1
  have ht1 : Keeps o t1 := by
    unfold t1
    exact keeps_setBit h Fld.ok_mbxIrqStatCause
  try clear_value t1
  refine keeps_ite (fun _ => ?_) (fun _ => ?_)
  · exact ht1
  · exact keeps_sendMsix ht1

theorem keeps_chCause {o : State} {s : State} {ch : Nat} {bit : Nat} (h : Keeps o s) :
    Keeps o (State.chCause s ch bit) := by
  unfold State.chCause
  extract_lets +onlyGivenNames t1
  have ht1 : Keeps o t1 := by
    unfold t1
    exact keeps_setBit h Fld.ok_chIrqStatCause
  try clear_value t1
  refine keeps_ite (fun _ => ?_) (fun _ => ?_)
  · exact ht1
  · exact keeps_sendMsix ht1

theorem keeps_alert {o : State} {s : State} {bit : Nat} (h : Keeps o s) :
    Keeps o (State.alert s bit) := by
  unfold State.alert
  extract_lets +onlyGivenNames t1
  have ht1 : Keeps o t1 := by
    unfold t1
    exact keeps_setBit h Fld.ok_fpnAlertCause
  try clear_value t1
  refine keeps_ite (fun _ => ?_) (fun _ => ?_)
  · exact ht1
  · refine keeps_raise ?_
    exact keeps_put ht1 Fld.ok_alertPin

theorem keeps_sensor {o : State} {s : State} {id : Nat} {v : Nat} (h : Keeps o s) :
    Keeps o (State.sensor s id v) := by
  unfold State.sensor
  refine keeps_ite (fun _ => ?_) (fun _ => ?_)
  · exact keeps_emit h
  · exact h

theorem keeps_flush {o : State} {s : State} (h : Keeps o s) :
    Keeps o (State.flush s) := by
  unfold State.flush
  refine keeps_ite (fun _ => ?_) (fun _ => ?_)
  · exact keeps_put h Fld.ok_evrStatFlushing
  · exact h

theorem keeps_setPwr {o : State} {s : State} {ch : Nat} {st : Nat} (h : Keeps o s) :
    Keeps o (State.setPwr s ch st) := by
  unfold State.setPwr
  extract_lets +onlyGivenNames x1; try clear_value x1
  refine keeps_ite (fun _ => ?_) (fun _ => ?_)
  · exact h
  · extract_lets +onlyGivenNames t2
    have ht2 : Keeps o t2 := by
      unfold t2
      refine keeps_raise ?_
      exact keeps_put h Fld.ok_chPwrStatState
    try clear_value t2
    refine keeps_ite (fun _ => ?_) (fun _ => ?_)
    · exact keeps_chCause ht2
    · exact ht2

theorem keeps_hbmWrite {o : State} {ch : Nat} {addr : Nat} {bs : List (BitVec 8)} {poison : Bool} {s : State} (h : Keeps o s) :
    Keeps o (hbmWrite ch addr bs poison s) := by
  unfold hbmWrite
  extract_lets +onlyGivenNames x1; try clear_value x1
  extract_lets +onlyGivenNames t2
  have ht2 : Keeps o t2 := by
    unfold t2
    exact keeps_setBytes h
  try clear_value t2
  exact Keeps.upd ht2 (fun sh => { sh with hbmBad := by split <;> simp [sh.hbmBad], hbmKey := tsorted_tset _ _ sh.hbmKey }) rfl rfl rfl

theorem keeps_hbmLost {o : State} {ch : Nat} {s : State} (h : Keeps o s) :
    Keeps o (hbmLost ch s) := by
  unfold hbmLost
  extract_lets +onlyGivenNames x1; try clear_value x1
  extract_lets +onlyGivenNames t2
  have ht2 : Keeps o t2 := by
    unfold t2
    exact keeps_wipe h
  try clear_value t2
  refine keeps_draw ?_
  refine keeps_put ?_ Fld.ok_hbmGen
  exact Keeps.upd ht2 (fun sh => { sh with hbmBad := tsorted_filter _ sh.hbmBad, hbmKey := tsorted_filter _ sh.hbmKey }) rfl rfl rfl

theorem keeps_setFifo {o : State} {s : State} {c : Nat} {e : Nat} {ws : List (BitVec 512)} (h : Keeps o s) :
    Keeps o (State.setFifo s c e ws) := by
  unfold State.setFifo
  exact Keeps.upd h (fun sh => { sh with fifo := tsorted_tsetD _ _ _ sh.fifo }) rfl rfl rfl

theorem keeps_setTransit {o : State} {s : State} {ch : Nat} {l : List Transit} (h : Keeps o s) :
    Keeps o (State.setTransit s ch l) := by
  unfold State.setTransit
  exact Keeps.upd h (fun sh => { sh with transit := tsorted_tsetD _ _ _ sh.transit }) rfl rfl rfl

theorem keeps_send {o : State} {s : State} {ch : Nat} {x : Transit} (h : Keeps o s) :
    Keeps o (State.send s ch x) := by
  unfold State.send
  exact keeps_setTransit h

theorem keeps_applyFree {o : State} {ch : Nat} {s : State} {w : Config.FreeWrite} (h : Keeps o s) :
    Keeps o (applyFree ch s w) := by
  unfold applyFree
  split
  · split
    next f hf =>
      exact keeps_ite (fun _ => keeps_put h (Fld.at?_ok (by rw [← Fld.all_getElem?]; exact hf))) (fun _ => h)
    next => exact h
  · exact keeps_hbmWrite h
  · exact keeps_ite (fun _ => keeps_setByte h) (fun _ => h)
  · exact keeps_ite (fun _ => keeps_setBytes h) (fun _ => h)
  · exact keeps_ite (fun _ => keeps_setFifo h) (fun _ => h)
  · refine keeps_ite (fun _ => ?_) (fun _ => h)
    refine Keeps.upd h (fun sh => { sh with vreg := tsorted_tsetD _ _ _ sh.vreg, lanes := fun e he => ?_ }) rfl rfl rfl
    rcases mem_tsetD he with ⟨rfl, _⟩ | he
    · simp
    · exact sh.lanes e he

theorem keeps_havoc {o : State} {ch : Nat} {s : State} (h : Keeps o s) :
    Keeps o (havoc ch s) := by
  unfold havoc
  refine keeps_foldl ?_ ?_
  · intro b2 y3 hb1
    exact keeps_applyFree hb1
  · exact keeps_draw h

end Sys2Proof.Machine
end

