-- ==== Sys2Proof/Laws/KeepsSeq.lean ====
section
/-!
SUPPORT. The operations of Machine/Seq.lean keep what Keeps says.
-/
namespace Sys2Proof.Machine

theorem keeps_setG {o : State} {s : State} {c : Nat} {n : Nat} {lat : Nat} {v : Word} (h : Keeps o s) :
    Keeps o (State.setG s c n lat v) := by
  unfold State.setG
  refine keeps_ite (fun _ => ?_) (fun _ => ?_)
  · exact h
  · refine keeps_put ?_ Fld.ok_coreGRdy
    exact keeps_put h Fld.ok_coreG

theorem keeps_setP {o : State} {s : State} {c : Nat} {n : Nat} {v : Word} (h : Keeps o s) :
    Keeps o (State.setP s c n v) := by
  unfold State.setP
  exact keeps_put h Fld.ok_coreP

@[simp] theorem lanes64_length (ls : List (BitVec 32)) : (lanes64 ls).length = 64 := by simp [lanes64]

theorem lanes64_of_length {ls : List (BitVec 32)} (h : ls.length = 64) : lanes64 ls = ls := by simp [lanes64, h]

/-- In a sound state a V register has 64 lanes. -/
theorem State.v_length {s : State} (h : Sound s) (c n : Nat) : (s.v c n).length = 64 := by
  unfold State.v tget
  rcases e : tget? s.vreg (c * 32 + n % 32) with _ | ls
  · simp
  · exact h.lanes _ (mem_of_tget? e)

theorem lanes_tsetD {r : Tab (List (BitVec 32))} (h : ∀ e ∈ r, e.2.length = 64) (k : Nat) {ls : List (BitVec 32)}
    (hl : ls.length = 64) : ∀ e ∈ tsetD (List.replicate 64 0#32) r k ls, e.2.length = 64 := by
  intro e he
  rcases mem_tsetD he with ⟨rfl, _⟩ | he
  · exact hl
  · exact h e he

theorem keeps_putV {o : State} {s : State} {c : Nat} {n : Nat} {ls : List (BitVec 32)} (h : Keeps o s) :
    Keeps o (State.putV s c n ls) :=
  Keeps.upd h (fun sh => { sh with
    vreg := tsorted_tsetD _ _ _ sh.vreg, lanes := lanes_tsetD sh.lanes _ (lanes64_length _) }) rfl rfl rfl

theorem keeps_setV {o : State} {s : State} {c : Nat} {n : Nat} {lat : Nat} {ls : List (BitVec 32)} (h : Keeps o s) :
    Keeps o (State.setV s c n lat ls) := by
  unfold State.setV
  refine keeps_put ?_ Fld.ok_coreVRdy
  exact keeps_putV h

theorem keeps_pass {o : State} {s : State} {c : Nat} {n : Nat} (h : Keeps o s) :
    Keeps o (State.pass s c n) := by
  unfold State.pass
  exact keeps_inc h Fld.ok_coreCyc

theorem keeps_reach {o : State} {s : State} {c : Nat} {cyc : Nat} (h : Keeps o s) :
    Keeps o (State.reach s c cyc) := by
  unfold State.reach
  refine keeps_ite (fun _ => ?_) (fun _ => ?_)
  · exact keeps_put h Fld.ok_coreCyc
  · exact h

theorem keeps_stallG {o : State} {s : State} {c : Nat} {ns : List Nat} (h : Keeps o s) :
    Keeps o (State.stallG s c ns) := by
  unfold State.stallG
  refine keeps_foldl ?_ ?_
  · intro b2 y3 hb1
    exact keeps_reach hb1
  · exact h

theorem keeps_stallV {o : State} {s : State} {c : Nat} {ns : List Nat} (h : Keeps o s) :
    Keeps o (State.stallV s c ns) := by
  unfold State.stallV
  refine keeps_foldl ?_ ?_
  · intro b2 y3 hb1
    exact keeps_reach hb1
  · exact h

theorem keeps_resume {o : State} {s : State} {c : Nat} (h : Keeps o s) :
    Keeps o (State.resume s c) :=
  Keeps.upd (t := ((s.put .coreStatState c 0 stRunning).put .coreWkind c 0 0).put .coreWobj c 0 0)
    (keeps_put (keeps_put (keeps_put h Fld.ok_coreStatState) Fld.ok_coreWkind) Fld.ok_coreWobj)
    (fun sh => { sh with held := tsorted_filter _ sh.held }) rfl rfl rfl

theorem keeps_hold {o : State} {s : State} {c : Nat} {i : Instr} {st : Nat} {kind : Nat} {obj : Nat} (h : Keeps o s) :
    Keeps o (State.hold s c i st kind obj) :=
  Keeps.upd (t := ((s.put .coreStatState c 0 st).put .coreWkind c 0 kind).put .coreWobj c 0 obj)
    (keeps_put (keeps_put (keeps_put h Fld.ok_coreStatState) Fld.ok_coreWkind) Fld.ok_coreWobj)
    (fun sh => { sh with held := tsorted_tset _ _ sh.held }) rfl rfl rfl

theorem keeps_issue {o : State} {c : Nat} {i : Instr} {s : State} {k : State → State} (h : Keeps o s) (h4 : ∀ y1, Keeps o y1 → Keeps o (k y1)) :
    KeepsOut o (issue c i s k) := by
  unfold issue
  refine keepsOut_next ?_
  refine keeps_ite (fun _ => ?_) (fun _ => ?_)
  · refine h4 _ ?_
    exact keeps_resume h
  · exact h

theorem keeps_waited {o : State} {s : State} {c : Nat} {held : Bool} (h : Keeps o s) :
    Keeps o (State.waited s c held) := by
  unfold State.waited
  refine keeps_ite (fun _ => ?_) (fun _ => ?_)
  · refine keeps_draw ?_
    exact keeps_pass h
  · exact h

theorem keeps_setPc {o : State} {s : State} {c : Nat} {pc : Nat} (h : Keeps o s) :
    Keeps o (State.setPc s c pc) := by
  unfold State.setPc
  exact keeps_put h Fld.ok_corePc

theorem keeps_patchSlot {o : State} {c : Nat} {s : State} {k : Nat} (h : Keeps o s) :
    Keeps o (patchSlot c s k) := by
  unfold patchSlot
  refine keeps_ite (fun _ => ?_) (fun _ => ?_)
  · extract_lets +onlyGivenNames x1; try clear_value x1
    exact keeps_setP h
  · exact h

theorem keeps_replayBoundary {o : State} {c : Nat} {s : State} (h : Keeps o s) :
    Keeps o (replayBoundary c s) := by
  unfold replayBoundary
  extract_lets +onlyGivenNames t1
  have ht1 : Keeps o t1 := by
    unfold t1
    refine keeps_pass ?_
    refine keeps_foldl ?_ ?_
    · intro b3 y4 hb2
      exact keeps_patchSlot hb2
    · exact h
  try clear_value t1
  extract_lets +onlyGivenNames x5; try clear_value x5
  refine keeps_ite (fun _ => ?_) (fun _ => ?_)
  · refine keeps_setPc ?_
    exact keeps_put ht1 Fld.ok_coreRepIdx
  · refine keeps_setPc ?_
    refine keeps_put ?_ Fld.ok_coreRepIdx
    exact keeps_put ht1 Fld.ok_coreStatInreplay

theorem keeps_afterLoop {o : State} {c : Nat} {pc : Nat} {s : State} (h : Keeps o s) :
    Keeps o (afterLoop c pc s) := by
  unfold afterLoop
  refine keeps_ite (fun _ => ?_) (fun _ => ?_)
  · exact keeps_replayBoundary h
  · exact keeps_setPc h

theorem keeps_seqFrom {o : State} {c : Nat} {pc : Nat} {s : State} (h : Keeps o s) :
    Keeps o (seqFrom c pc s) := by
  unfold seqFrom
  extract_lets +onlyGivenNames x1; try clear_value x1
  refine keeps_ite (fun _ => ?_) (fun _ => ?_)
  · extract_lets +onlyGivenNames x2; try clear_value x2
    refine keeps_ite (fun _ => ?_) (fun _ => ?_)
    · refine keeps_setPc ?_
      exact keeps_put h Fld.ok_coreLoopIdx
    · refine keeps_afterLoop ?_
      exact keeps_put h Fld.ok_coreStatLdepth
  · exact keeps_afterLoop h

theorem keeps_clockBoundary {o : State} {c : Nat} {s : State} (h : Keeps o s) :
    Keeps o (clockBoundary c s) := by
  unfold clockBoundary
  refine keeps_ite (fun _ => ?_) (fun _ => ?_)
  · refine keeps_put ?_ Fld.ok_coreStatOnfic
    exact keeps_put h Fld.ok_coreClkPend
  · exact h

theorem keeps_retire {o : State} {c : Nat} {n : Nat} {s : State} (h : Keeps o s) :
    Keeps o (retire c n s) := by
  unfold retire
  refine keeps_clockBoundary ?_
  refine keeps_seqFrom ?_
  exact keeps_pass h

theorem keeps_retireTo {o : State} {c : Nat} {n : Nat} {target : Nat} {s : State} (h : Keeps o s) :
    Keeps o (retireTo c n target s) := by
  unfold retireTo
  refine keeps_clockBoundary ?_
  refine keeps_setPc ?_
  exact keeps_pass h

theorem keeps_unclean {o : State} {c : Nat} {s : State} (h : Keeps o s) :
    Keeps o (unclean c s) := by
  unfold unclean
  exact keeps_put h Fld.ok_spdStatClean

theorem keeps_coreHalt {o : State} {c : Nat} {code : Nat} {cause : Nat} {s : State} (h : Keeps o s) :
    Keeps o (coreHalt c code cause s) := by
  unfold coreHalt
  extract_lets +onlyGivenNames x1; try clear_value x1
  refine keeps_chCause ?_
  refine keeps_put ?_ Fld.ok_coreHaltPc
  refine keeps_put ?_ Fld.ok_coreHaltCause
  refine keeps_put ?_ Fld.ok_coreHaltCode
  exact keeps_put h Fld.ok_coreStatState

theorem keeps_rerunPoint {o : State} {c : Nat} {s : State} (h : Keeps o s) :
    Keeps o (rerunPoint c s) := by
  unfold rerunPoint
  extract_lets +onlyGivenNames t
  have ht : Keeps o t := keeps_put (keeps_put h Fld.ok_spdStatAttempt) Fld.ok_spdStatClean
  clear_value t
  refine Keeps.upd ht (fun sh => { sh with rerun := tsorted_tset _ _ sh.rerun, rerunFits := fun e he => ?_ }) rfl rfl rfl
  rcases mem_tset he with rfl | he
  · exact sh.fits.filter _
  · exact sh.rerunFits e he

theorem keeps_rerunRestore {o : State} {c : Nat} {s : State} (h : Keeps o s) :
    Keeps o (rerunRestore c s) := by
  refine Keeps.upd h (fun sh => ?_) rfl rfl rfl
  have hr : Fits (tget [] s.rerun c) := by
    unfold tget
    cases hg : tget? s.rerun c with
    | none => exact fun e he => absurd he List.not_mem_nil
    | some l => exact sh.rerunFits (c, l) (mem_of_tget? hg)
  have hf : tsorted (rerunRestore c s).reg = true ∧ Fits (rerunRestore c s).reg := by
    unfold rerunRestore
    generalize tget [] s.rerun c = l at hr
    have hb : tsorted (s.clearFlds rerunFlds (· == c)).reg = true ∧ Fits (s.clearFlds rerunFlds (· == c)).reg :=
      ⟨tsorted_filter _ sh.reg, sh.fits.filter _⟩
    dsimp only
    generalize (s.clearFlds rerunFlds (· == c)).reg = r at hb
    induction l generalizing r with
    | nil => exact hb
    | cons e l ih =>
      exact ih (fun x hx => hr x (List.mem_cons_of_mem _ hx)) _
        ⟨tsorted_tset _ _ hb.1, hb.2.tset (hr e List.mem_cons_self)⟩
  exact { sh with reg := hf.1, fits := hf.2 }

theorem keeps_mxClear {o : State} {c : Nat} {s : State} (h : Keeps o s) :
    Keeps o (mxClear c s) := by
  unfold mxClear
  extract_lets +onlyGivenNames t1
  have ht1 : Keeps o t1 := by
    unfold t1
    refine keeps_put ?_ Fld.ok_mxStatDrainwait
    exact keeps_put h Fld.ok_mxStatRetained
  try clear_value t1
  refine keeps_put ?_ Fld.ok_mxDoneAt
  exact Keeps.upd ht1 (fun sh => { sh with
    planes := tsorted_filter _ sh.planes, mxJobs := tsorted_filter _ sh.mxJobs,
    jobVals := fun e he => sh.jobVals e (List.mem_filter.mp he).1 }) rfl rfl rfl

theorem keeps_vxStop {o : State} {c : Nat} {s : State} (h : Keeps o s) :
    Keeps o (vxStop c s) := by
  unfold vxStop
  refine keeps_put ?_ Fld.ok_vxDoneAt
  exact Keeps.upd h (fun sh => { sh with vxJobs := tsorted_filter _ sh.vxJobs }) rfl rfl rfl

theorem keeps_tqFree {o : State} {c : Nat} {s : State} (h : Keeps o s) :
    Keeps o (tqFree c s) := by
  unfold tqFree
  extract_lets +onlyGivenNames t1
  have ht1 : Keeps o t1 := by
    unfold t1
    exact keeps_clearFlds h
  try clear_value t1
  exact Keeps.upd ht1 (fun sh => { sh with tiles := tsorted_filter _ sh.tiles, tileVals := fun e he => sh.tileVals e (List.mem_filter.mp he).1 }) rfl rfl rfl

theorem keeps_tqDropFilling {o : State} {c : Nat} {s : State} (h : Keeps o s) :
    Keeps o (tqDropFilling c s) := by
  unfold tqDropFilling
  refine keeps_foldl ?_ ?_
  · intro b2 y3 hb1
    refine keeps_ite (fun _ => ?_) (fun _ => ?_)
    · exact keeps_put hb1 Fld.ok_tqEnt
    · exact hb1
  · exact h

end Sys2Proof.Machine
end

