-- ==== Sys2Proof/Laws/KeepsSpd.lean ====
section
/-!
SUPPORT. The operations of Machine/Spd.lean keep what Keeps says.
-/
namespace Sys2Proof.Machine

theorem keeps_noteConflict {o : State} {c : Nat} {port : Nat} {k : Clash} {s : State} (h : Keeps o s) :
    Keeps o (noteConflict c port k s) := by
  unfold noteConflict
  extract_lets +onlyGivenNames x1; try clear_value x1
  extract_lets +onlyGivenNames x2; try clear_value x2
  extract_lets +onlyGivenNames x3; try clear_value x3
  extract_lets +onlyGivenNames x4; try clear_value x4
  extract_lets +onlyGivenNames x5; try clear_value x5
  extract_lets +onlyGivenNames t6
  have ht6 : Keeps o t6 := by
    unfold t6
    refine keeps_ite (fun _ => ?_) (fun _ => ?_)
    · exact h
    · refine keeps_put ?_ Fld.ok_spdConfCyc
      refine keeps_put ?_ Fld.ok_spdConfWord
      refine keeps_put ?_ Fld.ok_spdConfWrite
      refine keeps_put ?_ Fld.ok_spdConfLost
      refine keeps_put ?_ Fld.ok_spdConfWin
      refine keeps_put ?_ Fld.ok_spdConfBank
      exact keeps_put h Fld.ok_spdStatConflict
  try clear_value t6
  extract_lets +onlyGivenNames x7; try clear_value x7
  refine keeps_put ?_ Fld.ok_spdHaltPend
  exact keeps_raise ht6

theorem keeps_meet {o : State} {c : Nat} {port : Nat} {w : Nat} {a : Access} {s : State} (h : Keeps o s) :
    Keeps o (meet c port w a s).2 := by
  unfold meet
  split
  · show Keeps o (_)
    exact h
  · show Keeps o (_)
    exact keeps_noteConflict h

theorem keeps_noteCorrected {o : State} {c : Nat} {w : Nat} {s : State} (h : Keeps o s) :
    Keeps o (noteCorrected c w s) := by
  unfold noteCorrected
  extract_lets +onlyGivenNames x1; try clear_value x1
  extract_lets +onlyGivenNames t2
  have ht2 : Keeps o t2 := by
    unfold t2
    exact keeps_inc h Fld.ok_spdCecnt
  try clear_value t2
  refine keeps_ite (fun _ => ?_) (fun _ => ?_)
  · exact ht2
  · refine keeps_raise ?_
    exact keeps_put ht2 Fld.ok_spdCeSec

theorem keeps_spdRead {o : State} {c : Nat} {port : Nat} {w : Nat} {a : Access} {s : State} (h : Keeps o s) :
    Keeps o (spdRead c port w a s).2 := by
  unfold spdRead
  split
  · rename_i v1 v2 e3
    have hv2 : Keeps o v2 := by
      have k4 := congrArg (fun p => Keeps o p.2) e3
      refine k4.mp ?_
      exact keeps_meet h
    split
    · show Keeps o (_)
      exact hv2
    · split
      · show Keeps o (_)
        refine keeps_tally ?_
        exact keeps_inc hv2 Fld.ok_spdStalec
      · extract_lets +onlyGivenNames x5; try clear_value x5
        extract_lets +onlyGivenNames x6; try clear_value x6
        extract_lets +onlyGivenNames x7; try clear_value x7
        extract_lets +onlyGivenNames x8; try clear_value x8
        show Keeps o (_)
        refine keeps_ite (fun _ => ?_) (fun _ => ?_)
        · exact keeps_noteCorrected hv2
        · refine keeps_ite (fun _ => ?_) (fun _ => ?_)
          · exact keeps_draw hv2
          · exact hv2

theorem keeps_storeWord {o : State} {c : Nat} {w : Nat} {old : List (BitVec 8)} {new : List (Nat × BitVec 8)} {err : Bool} {s : State} (h : Keeps o s) :
    Keeps o (storeWord c w old new err s) := by
  unfold storeWord
  extract_lets +onlyGivenNames x1; try clear_value x1
  refine keeps_put ?_ Fld.ok_spdErr
  refine keeps_put ?_ Fld.ok_spdTag
  exact keeps_setBytes h

theorem keeps_spdWrite {o : State} {c : Nat} {port : Nat} {w : Nat} {new : List (Nat × BitVec 8)} {a : Access} {s : State} (h : Keeps o s) :
    Keeps o (spdWrite c port w new a s).2 := by
  unfold spdWrite
  split
  · rename_i v1 v2 e3
    have hv2 : Keeps o v2 := by
      have k4 := congrArg (fun p => Keeps o p.2) e3
      refine k4.mp ?_
      exact keeps_meet h
    split
    · show Keeps o (_)
      exact hv2
    · split
      · show Keeps o (_)
        exact keeps_storeWord hv2
      · split
        · show Keeps o (_)
          exact keeps_storeWord hv2
        · extract_lets +onlyGivenNames x5; try clear_value x5
          extract_lets +onlyGivenNames x6; try clear_value x6
          extract_lets +onlyGivenNames x7; try clear_value x7
          extract_lets +onlyGivenNames x8; try clear_value x8
          extract_lets +onlyGivenNames t9
          have ht9 : Keeps o t9 := by
            unfold t9
            refine keeps_ite (fun _ => ?_) (fun _ => ?_)
            · exact keeps_noteCorrected hv2
            · exact hv2
          try clear_value t9
          show Keeps o (_)
          exact keeps_storeWord ht9

theorem keeps_foxPortError {o : State} {c : Nat} {w : Nat} {k : Check} {s : State} (h : Keeps o s) :
    Keeps o (foxPortError c w k s).2 := by
  unfold foxPortError
  split
  · show Keeps o (_)
    exact keeps_raise h
  · show Keeps o (_)
    exact keeps_raise h
  · show Keeps o (_)
    exact h

theorem keeps_spdReadyUpdate {o : State} {c : Nat} {s : State} (h : Keeps o s) :
    Keeps o (spdReadyUpdate c s) := by
  unfold spdReadyUpdate
  extract_lets +onlyGivenNames x1; try clear_value x1
  refine keeps_put ?_ Fld.ok_spdStatInit
  exact keeps_put h Fld.ok_spdPwrReady

theorem keeps_setKinds {o : State} {c : Nat} {v : Nat} {s : State} (h : Keeps o s) :
    Keeps o (setKinds c v s) := by
  unfold setKinds
  extract_lets +onlyGivenNames x1; try clear_value x1
  extract_lets +onlyGivenNames x2; try clear_value x2
  extract_lets +onlyGivenNames t3
  have ht3 : Keeps o t3 := by
    unfold t3
    refine keeps_put ?_ Fld.ok_spdInitMask
    exact keeps_put h Fld.ok_spdKindWbank
  try clear_value t3
  exact keeps_spdReadyUpdate ht3

theorem keeps_setGroups {o : State} {c : Nat} {v : Nat} {s : State} (h : Keeps o s) :
    Keeps o (setGroups c v s) := by
  unfold setGroups
  extract_lets +onlyGivenNames x1; try clear_value x1
  extract_lets +onlyGivenNames t2
  have ht2 : Keeps o t2 := by
    unfold t2
    refine keeps_foldl ?_ ?_
    · intro b4 y5 hb3
      refine keeps_ite (fun _ => ?_) (fun _ => ?_)
      · exact keeps_put hb3 Fld.ok_spdUpMask
      · refine keeps_ite (fun _ => ?_) (fun _ => ?_)
        · refine keeps_wipe ?_
          refine keeps_put ?_ Fld.ok_spdInitMask
          exact keeps_put hb3 Fld.ok_spdUpMask
        · exact hb3
    · exact h
  try clear_value t2
  refine keeps_spdReadyUpdate ?_
  exact keeps_put ht2 Fld.ok_spdPwrOn

theorem keeps_tagWords {o : State} {c : Nat} {lo : Nat} {n : Nat} {s : State} (h : Keeps o s) :
    Keeps o (tagWords c lo n s) := by
  unfold tagWords
  extract_lets +onlyGivenNames x1; try clear_value x1
  extract_lets +onlyGivenNames x2; try clear_value x2
  extract_lets +onlyGivenNames t3
  have ht3 : Keeps o t3 := by
    unfold t3
    exact Keeps.upd h (fun sh => { sh with reg := tsorted_filter _ sh.reg, fits := sh.fits.filter _ }) rfl rfl rfl
  try clear_value t3
  refine keeps_ite (fun _ => ?_) (fun _ => ?_)
  · exact ht3
  · refine keeps_foldl ?_ ?_
    · intro b5 y6 hb4
      exact keeps_put hb4 Fld.ok_spdTag
    · exact ht3

theorem keeps_initBank {o : State} {c : Nat} {b : Nat} {s : State} (h : Keeps o s) :
    Keeps o (initBank c b s) := by
  unfold initBank
  extract_lets +onlyGivenNames t1
  have ht1 : Keeps o t1 := by
    unfold t1
    refine keeps_tagWords ?_
    exact keeps_wipe h
  try clear_value t1
  refine keeps_spdReadyUpdate ?_
  refine keeps_put ?_ Fld.ok_spdVisited
  exact keeps_put ht1 Fld.ok_spdInitMask

theorem keeps_forcedSweep {o : State} {c : Nat} {s : State} (h : Keeps o s) :
    Keeps o (forcedSweep c s) := by
  unfold forcedSweep
  extract_lets +onlyGivenNames t1
  have ht1 : Keeps o t1 := by
    unfold t1
    refine keeps_foldl ?_ ?_
    · intro b3 y4 hb2
      refine keeps_ite (fun _ => ?_) (fun _ => ?_)
      · refine keeps_put ?_ Fld.ok_spdErr
        refine keeps_put ?_ Fld.ok_spdTag
        exact keeps_wipe hb2
      · exact hb2
    · exact h
  try clear_value t1
  refine keeps_put ?_ Fld.ok_spdStatSwept
  refine keeps_foldl ?_ ?_
  · intro b6 y7 hb5
    exact keeps_put hb5 Fld.ok_spdVisited
  · exact ht1

theorem keeps_epochAdvanced {o : State} {c : Nat} {s : State} (h : Keeps o s) :
    Keeps o (epochAdvanced c s) := by
  unfold epochAdvanced
  refine keeps_put ?_ Fld.ok_spdStatSwept
  refine keeps_foldl ?_ ?_
  · intro b2 y3 hb1
    exact keeps_put hb1 Fld.ok_spdVisited
  · exact h

end Sys2Proof.Machine
end

