-- ==== Sys2Proof/Laws/KeepsDet.lean ====
section
/-!
SUPPORT. The operations of Machine/Det.lean keep what Keeps says.
-/
namespace Sys2Proof.Machine

theorem keeps_detCause {o : State} {ch : Nat} {bit : Nat} {s : State} (h : Keeps o s) :
    Keeps o (detCause ch bit s) := by
  unfold detCause
  refine keeps_ite (fun _ => ?_) (fun _ => ?_)
  · exact keeps_setBit h Fld.ok_detCauses
  · exact h

theorem keeps_countRetry {o : State} {ch : Nat} {s : State} (h : Keeps o s) :
    Keeps o (countRetry ch s) := by
  unfold countRetry
  refine keeps_detCause ?_
  exact keeps_inc h Fld.ok_retryCount

theorem keeps_countRace {o : State} {ch : Nat} {s : State} (h : Keeps o s) :
    Keeps o (countRace ch s) := by
  unfold countRace
  refine keeps_detCause ?_
  refine keeps_tally ?_
  exact keeps_inc h Fld.ok_raceCount

theorem keeps_openSeg {o : State} {c : Nat} {s : State} (h : Keeps o s) :
    Keeps o (openSeg c s) := by
  unfold openSeg
  extract_lets +onlyGivenNames t1
  have ht1 : Keeps o t1 := by
    unfold t1
    refine keeps_put ?_ Fld.ok_detSegExt
    refine keeps_put ?_ Fld.ok_detSegStart
    exact keeps_put h Fld.ok_detSegOpen
  try clear_value t1
  exact Keeps.upd ht1 (fun sh => { sh with segRings := tsorted_filter _ sh.segRings }) rfl rfl rfl

theorem keeps_endSeg {o : State} {c : Nat} {atBar : Bool} {s : State} (h : Keeps o s) :
    Keeps o (endSeg c atBar s) := by
  unfold endSeg
  refine keeps_ite (fun _ => ?_) (fun _ => ?_)
  · exact h
  · extract_lets +onlyGivenNames t1
    have ht1 : Keeps o t1 := by
      unfold t1
      exact keeps_put h Fld.ok_detSegOpen
    try clear_value t1
    refine keeps_ite (fun _ => ?_) (fun _ => ?_)
    · exact ht1
    · refine keeps_ite (fun _ => ?_) (fun _ => ?_)
      · extract_lets +onlyGivenNames x2; try clear_value x2
        exact Keeps.upd ht1 (fun sh => { sh with segs := tsorted_tset _ _ sh.segs }) rfl rfl rfl
      · exact keeps_inc ht1 Fld.ok_detSegOpens

theorem keeps_extWait {o : State} {c : Nat} {s : State} (h : Keeps o s) :
    Keeps o (extWait c s) := by
  unfold extWait
  refine keeps_ite (fun _ => ?_) (fun _ => ?_)
  · exact keeps_put h Fld.ok_detSegExt
  · exact h

theorem keeps_ringWait {o : State} {c : Nat} {r : Nat} {s : State} (h : Keeps o s) :
    Keeps o (ringWait c r s) := by
  unfold ringWait
  refine keeps_ite (fun _ => ?_) (fun _ => ?_)
  · exact Keeps.upd h (fun sh => { sh with segRings := tsorted_tset _ _ sh.segRings }) rfl rfl rfl
  · exact h

theorem keeps_epWait {o : State} {c : Nat} {ep : Nat} {s : State} (h : Keeps o s) :
    Keeps o (epWait c ep s) := by
  unfold epWait
  refine keeps_ite (fun _ => ?_) (fun _ => ?_)
  · exact keeps_extWait h
  · exact h

theorem keeps_levelCauses {o : State} {ch : Nat} {s : State} (h : Keeps o s) :
    Keeps o (levelCauses ch s) := by
  unfold levelCauses
  extract_lets +onlyGivenNames t1
  have ht1 : Keeps o t1 := by
    unfold t1
    refine keeps_ite (fun _ => ?_) (fun _ => ?_)
    · exact keeps_detCause h
    · exact h
  try clear_value t1
  extract_lets +onlyGivenNames t2
  have ht2 : Keeps o t2 := by
    unfold t2
    refine keeps_ite (fun _ => ?_) (fun _ => ?_)
    · exact keeps_detCause ht1
    · exact ht1
  try clear_value t2
  refine keeps_ite (fun _ => ?_) (fun _ => ?_)
  · exact ht2
  · exact keeps_detCause ht2

theorem keeps_detDrop {o : State} {ch : Nat} {s : State} (h : Keeps o s) :
    Keeps o (detDrop ch s) := by
  unfold detDrop
  extract_lets +onlyGivenNames t1
  have ht1 : Keeps o t1 := by
    unfold t1
    refine keeps_clearFlds ?_
    exact keeps_clearFlds h
  try clear_value t1
  exact Keeps.upd ht1 (fun sh => { sh with segs := tsorted_filter _ sh.segs, segRings := tsorted_filter _ sh.segRings }) rfl rfl rfl

theorem keeps_detStart {o : State} {ch : Nat} {tag : Nat} {s : State} (h : Keeps o s) :
    Keeps o (detStart ch tag s) := by
  unfold detStart
  extract_lets +onlyGivenNames t1
  have ht1 : Keeps o t1 := by
    unfold t1
    exact keeps_detDrop h
  try clear_value t1
  extract_lets +onlyGivenNames t2
  have ht2 : Keeps o t2 := by
    unfold t2
    refine keeps_ite (fun _ => ?_) (fun _ => ?_)
    · refine keeps_put ?_ Fld.ok_refRestart
      exact keeps_put ht1 Fld.ok_refBase
    · exact ht1
  try clear_value t2
  refine keeps_levelCauses ?_
  refine keeps_put ?_ Fld.ok_detStretch0
  refine keeps_put ?_ Fld.ok_detRace0
  refine keeps_put ?_ Fld.ok_detRetry0
  refine keeps_put ?_ Fld.ok_detTag
  exact keeps_put ht2 Fld.ok_detOpen

theorem keeps_detCoreEnd {o : State} {s : State} {c : Nat} (h : Keeps o s) :
    Keeps o (detCoreEnd s c) := by
  unfold detCoreEnd
  extract_lets +onlyGivenNames x1; try clear_value x1
  extract_lets +onlyGivenNames x2; try clear_value x2
  refine keeps_put ?_ Fld.ok_detCoreOpen
  refine keeps_put ?_ Fld.ok_detCoreSegs
  exact keeps_put h Fld.ok_detCoreDcyc

theorem keeps_detEnd {o : State} {ch : Nat} {halt : Bool} {s : State} (h : Keeps o s) :
    Keeps o (detEnd ch halt s) := by
  unfold detEnd
  refine keeps_ite (fun _ => ?_) (fun _ => ?_)
  · exact h
  · extract_lets +onlyGivenNames t1
    have ht1 : Keeps o t1 := by
      unfold t1
      refine keeps_foldl ?_ ?_
      · intro b3 y4 hb2
        exact keeps_endSeg hb2
      · exact h
    try clear_value t1
    extract_lets +onlyGivenNames t5
    have ht5 : Keeps o t5 := by
      unfold t5
      refine keeps_ite (fun _ => ?_) (fun _ => ?_)
      · exact keeps_detCause ht1
      · exact ht1
    try clear_value t5
    extract_lets +onlyGivenNames t6
    have ht6 : Keeps o t6 := by
      unfold t6
      exact keeps_levelCauses ht5
    try clear_value t6
    extract_lets +onlyGivenNames x7; try clear_value x7
    extract_lets +onlyGivenNames x8; try clear_value x8
    extract_lets +onlyGivenNames x9; try clear_value x9
    extract_lets +onlyGivenNames x10; try clear_value x10
    extract_lets +onlyGivenNames x11; try clear_value x11
    extract_lets +onlyGivenNames x12; try clear_value x12
    extract_lets +onlyGivenNames t13
    have ht13 : Keeps o t13 := by
      unfold t13
      refine keeps_ite (fun _ => ?_) (fun _ => ?_)
      · exact keeps_draw ht6
      · exact ht6
    try clear_value t13
    extract_lets +onlyGivenNames x14; try clear_value x14
    extract_lets +onlyGivenNames t15
    have ht15 : Keeps o t15 := by
      unfold t15
      refine keeps_foldl ?_ ?_
      · intro b17 y18 hb16
        exact keeps_detCoreEnd hb16
      · exact ht13
    try clear_value t15
    extract_lets +onlyGivenNames t19
    have ht19 : Keeps o t19 := by
      unfold t19
      refine keeps_put ?_ Fld.ok_detLogSegs
      refine keeps_put ?_ Fld.ok_detLogCauses
      refine keeps_put ?_ Fld.ok_detLogRef2x
      refine keeps_put ?_ Fld.ok_detLogFreq
      refine keeps_put ?_ Fld.ok_detLogKept
      exact keeps_put ht15 Fld.ok_detLogTag
    try clear_value t19
    extract_lets +onlyGivenNames t20
    have ht20 : Keeps o t20 := by
      unfold t20
      refine keeps_put ?_ Fld.ok_detLogOsig
      refine keeps_put ?_ Fld.ok_detLogCsig
      exact keeps_put ht19 Fld.ok_detLogPhase
    try clear_value t20
    extract_lets +onlyGivenNames t21
    have ht21 : Keeps o t21 := by
      unfold t21
      refine keeps_put ?_ Fld.ok_detLogDstretch
      refine keeps_put ?_ Fld.ok_detLogDrace
      exact keeps_put ht20 Fld.ok_detLogDretry
    try clear_value t21
    extract_lets +onlyGivenNames t22
    have ht22 : Keeps o t22 := by
      unfold t22
      refine keeps_inc ?_ Fld.ok_detLogHeadWritten
      exact keeps_put ht21 Fld.ok_detLogHeadNext
    try clear_value t22
    extract_lets +onlyGivenNames x23; try clear_value x23
    extract_lets +onlyGivenNames t24
    have ht24 : Keeps o t24 := by
      unfold t24
      refine keeps_ite (fun _ => ?_) (fun _ => ?_)
      · refine keeps_chCause ?_
        exact keeps_raise ht22
      · exact ht22
    try clear_value t24
    exact keeps_detDrop ht24

theorem keeps_detClear {o : State} {ch : Nat} {s : State} (h : Keeps o s) :
    Keeps o (detClear ch s) := by
  unfold detClear
  refine keeps_clearFlds ?_
  refine keeps_clearFlds ?_
  exact keeps_detDrop h

end Sys2Proof.Machine
end

