-- ==== Sys2Proof/Laws/KeepsFab.lean ====
section
/-!
SUPPORT. The operations of Machine/Fab.lean keep what Keeps says.
-/
namespace Sys2Proof.Machine

theorem keeps_queueFlit {o : State} {l : Nat} {cls : Nat} {f : Flit} {s : State} (h : Keeps o s) :
    Keeps o (queueFlit l cls f s) := by
  unfold queueFlit
  exact Keeps.upd h (fun sh => { sh with txq := tsorted_tset _ _ sh.txq }) rfl rfl rfl

theorem keeps_originate {o : State} {ch : Nat} {cls : Nat} {f : Flit} {s : State} (h : Keeps o s) :
    Keeps o (originate ch cls f s).2 := by
  unfold originate
  split
  · split
    · show Keeps o (_)
      exact keeps_queueFlit h
    · show Keeps o (_)
      exact h
  · show Keeps o (_)
    exact h

theorem keeps_sendHopfail {o : State} {tab : Nat} {dchip : Nat} {dch : Nat} {failChip : Nat} {failCh : Nat} {cause : Nat} {s : State} (h : Keeps o s) :
    Keeps o (sendHopfail tab dchip dch failChip failCh cause s) := by
  unfold sendHopfail
  extract_lets +onlyGivenNames x1; try clear_value x1
  refine keeps_ite (fun _ => ?_) (fun _ => ?_)
  · exact h
  · extract_lets +onlyGivenNames x2; try clear_value x2
    extract_lets +onlyGivenNames x3; try clear_value x3
    split
    · rename_i v4 v5 e6
      have hv5 : Keeps o v5 := by
        have k7 := congrArg (fun p => Keeps o p.2) e6
        refine k7.mp ?_
        exact keeps_originate h
      refine keeps_ite (fun _ => ?_) (fun _ => ?_)
      · refine keeps_put ?_ Fld.ok_fabHfTime
        exact keeps_inc hv5 Fld.ok_fabHopfailTx
      · exact hv5

theorem keeps_dropRouted {o : State} {tab : Nat} {cause : Nat} {f : Flit} {s : State} (h : Keeps o s) :
    Keeps o (dropRouted tab cause f s) := by
  unfold dropRouted
  extract_lets +onlyGivenNames t1
  have ht1 : Keeps o t1 := by
    unfold t1
    refine keeps_tally ?_
    exact keeps_inc h Fld.ok_fabFwdDrop
  try clear_value t1
  refine keeps_ite (fun _ => ?_) (fun _ => ?_)
  · exact keeps_originate ht1
  · refine keeps_ite (fun _ => ?_) (fun _ => ?_)
    · exact keeps_sendHopfail ht1
    · exact ht1

theorem keeps_forward {o : State} {tab : Nat} {f : Flit} {s : State} (h : Keeps o s) :
    Keeps o (forward tab f s) := by
  unfold forward
  split
  · exact keeps_dropRouted h
  · refine keeps_ite (fun _ => ?_) (fun _ => ?_)
    · exact keeps_dropRouted h
    · refine keeps_ite (fun _ => ?_) (fun _ => ?_)
      · exact keeps_dropRouted h
      · refine keeps_inc ?_ Fld.ok_fabFwdFrames
        exact keeps_queueFlit h

theorem keeps_setLinkDown {o : State} {ch : Nat} {i : Nat} {s : State} (h : Keeps o s) :
    Keeps o (setLinkDown ch i s) := by
  unfold setLinkDown
  refine keeps_ite (fun _ => ?_) (fun _ => ?_)
  · exact h
  · refine keeps_chCause ?_
    refine keeps_raise ?_
    exact keeps_setBit h Fld.ok_rteLinkfDown

end Sys2Proof.Machine
end

