-- ==== Sys2Proof/Laws/KeepsFox.lean ====
section
/-!
SUPPORT. The operations of Machine/Fox.lean keep what Keeps says.
-/
namespace Sys2Proof.Machine

theorem keeps_setArr {o : State} {s : State} {ch : Nat} {l : List Desc} (h : Keeps o s) :
    Keeps o (State.setArr s ch l) := by
  unfold State.setArr
  exact Keeps.upd h (fun sh => { sh with foxArr := tsorted_tsetD _ _ _ sh.foxArr }) rfl rfl rfl

theorem keeps_setAct {o : State} {s : State} {ch : Nat} {e : Nat} {d : Desc} (h : Keeps o s) :
    Keeps o (State.setAct s ch e d) := by
  unfold State.setAct
  exact Keeps.upd h (fun sh => { sh with foxAct := tsorted_tset _ _ sh.foxAct }) rfl rfl rfl

theorem keeps_delAct {o : State} {s : State} {ch : Nat} {e : Nat} (h : Keeps o s) :
    Keeps o (State.delAct s ch e) := by
  unfold State.delAct
  exact Keeps.upd h (fun sh => { sh with foxAct := tsorted_filter _ sh.foxAct }) rfl rfl rfl

theorem keeps_setReqs {o : State} {s : State} {ch : Nat} {l : List Req} (h : Keeps o s) :
    Keeps o (State.setReqs s ch l) := by
  unfold State.setReqs
  exact Keeps.upd h (fun sh => { sh with foxReqs := tsorted_tsetD _ _ _ sh.foxReqs }) rfl rfl rfl

theorem keeps_setMsgs {o : State} {s : State} {ch : Nat} {l : List RMsg} (h : Keeps o s) :
    Keeps o (State.setMsgs s ch l) := by
  unfold State.setMsgs
  exact Keeps.upd h (fun sh => { sh with foxMsgs := tsorted_tsetD _ _ _ sh.foxMsgs }) rfl rfl rfl

theorem keeps_foxArrive {o : State} {ch : Nat} {d : Desc} {s : State} (h : Keeps o s) :
    Keeps o (foxArrive ch d s) := by
  unfold foxArrive
  extract_lets +onlyGivenNames x1; try clear_value x1
  extract_lets +onlyGivenNames x2; try clear_value x2
  refine keeps_inc ?_ Fld.ok_foxSeq
  exact keeps_setArr h

theorem keeps_reserveSlot {o : State} {ch : Nat} {e : Nat} {d : Desc} {s : State} (h : Keeps o s) :
    Keeps o (reserveSlot ch e d s) := by
  unfold reserveSlot
  extract_lets +onlyGivenNames x1; try clear_value x1
  extract_lets +onlyGivenNames x2; try clear_value x2
  extract_lets +onlyGivenNames x3; try clear_value x3
  extract_lets +onlyGivenNames x4; try clear_value x4
  extract_lets +onlyGivenNames x5; try clear_value x5
  extract_lets +onlyGivenNames x6; try clear_value x6
  extract_lets +onlyGivenNames t7
  have ht7 : Keeps o t7 := by
    unfold t7
    refine keeps_put ?_ Fld.ok_foxRingPtrFill
    refine keeps_put ?_ Fld.ok_ringSlotGen
    refine keeps_put ?_ Fld.ok_ringSlotLeft
    refine keeps_put ?_ Fld.ok_ringSlotPoison
    refine keeps_put ?_ Fld.ok_ringSlotEos
    refine keeps_put ?_ Fld.ok_ringSlotWords
    refine keeps_put ?_ Fld.ok_ringSlotLanded
    exact keeps_put h Fld.ok_ringSlotSt
  try clear_value t7
  refine keeps_setAct ?_
  refine keeps_ite (fun _ => ?_) (fun _ => ?_)
  · exact keeps_inc ht7 Fld.ok_foxRingPtrTent
  · exact ht7

theorem keeps_reserveFor {o : State} {ch : Nat} {e : Nat} {n : Nat} {s : State} (h : Keeps o s) :
    Keeps o (reserveFor ch e n s).2 := by
  induction n generalizing s with
  | zero => exact h
  | succ n ih =>
    unfold reserveFor
    split
    · exact h
    · dsimp only
      split
      · exact h
      · split
        · exact h
        · split
          · exact h
          · exact ih (keeps_reserveSlot h)

theorem keeps_foxReserve {o : State} {ch : Nat} {s : State} (h : Keeps o s) :
    Keeps o (foxReserve ch s) := by
  unfold foxReserve
  refine foldl_keeps (fun p : List Nat × State => Keeps o p.2) ?_ ?_
  · intro b6 y7 hb1
    split
    · split
      · rename_i v2 v3 e4
        have hv3 : Keeps o v3 := by
          have k5 := congrArg (fun p => Keeps o p.2) e4
          refine k5.mp ?_
          exact keeps_reserveFor hb1
        show Keeps o (_)
        exact hv3
    · exact hb1
  · show Keeps o (_)
    exact h

theorem keeps_markPublished {o : State} {ch : Nat} {r : Nat} {k : Nat} {s : State} (h : Keeps o s) :
    Keeps o (markPublished ch r k s) := by
  unfold markPublished
  refine keeps_foldl ?_ ?_
  · intro b2 y3 hb1
    refine keeps_ite (fun _ => ?_) (fun _ => ?_)
    · exact keeps_setAct hb1
    · exact hb1
  · exact h

theorem keeps_markExternal {o : State} {ch : Nat} {r : Nat} {k : Nat} {s : State} (h : Keeps o s) :
    Keeps o (markExternal ch r k s) := by
  unfold markExternal
  extract_lets +onlyGivenNames x1; try clear_value x1
  refine keeps_ite (fun _ => ?_) (fun _ => ?_)
  · exact keeps_put h Fld.ok_detRingExt
  · exact h

theorem keeps_publish {o : State} {ch : Nat} {r : Nat} {n : Nat} {s : State} (h : Keeps o s) :
    Keeps o (publish ch r n s) := by
  induction n generalizing s with
  | zero => exact h
  | succ n ih =>
    unfold publish
    refine keeps_ite (fun _ => ih ?_) (fun _ => h)
    refine keeps_inc ?_ Fld.ok_ringViewPend
    refine keeps_inc ?_ Fld.ok_foxRingPtrPub
    refine keeps_put ?_ Fld.ok_foxRingPtrHead
    refine keeps_put ?_ Fld.ok_ringSlotSt
    exact keeps_markPublished (keeps_markExternal h)

theorem keeps_publishAll {o : State} {ch : Nat} {s : State} (h : Keeps o s) :
    Keeps o (publishAll ch s) := by
  unfold publishAll
  refine keeps_foldl ?_ ?_
  · intro b2 y3 hb1
    refine keeps_ite (fun _ => ?_) (fun _ => ?_)
    · exact keeps_publish hb1
    · exact hb1
  · exact h

theorem keeps_freeDrained {o : State} {ch : Nat} {r : Nat} {n : Nat} {s : State} (h : Keeps o s) :
    Keeps o (freeDrained ch r n s) := by
  induction n generalizing s with
  | zero => exact h
  | succ n ih =>
    unfold freeDrained
    refine keeps_ite (fun _ => ih ?_) (fun _ => h)
    refine keeps_put ?_ Fld.ok_foxRingPtrPub
    refine keeps_inc ?_ Fld.ok_ringViewPend
    refine keeps_put ?_ Fld.ok_foxRingPtrTail
    exact keeps_put h Fld.ok_ringSlotSt

theorem keeps_foxStore {o : State} {c : Nat} {w : Nat} {bs : List (BitVec 8)} {poison : Bool} {a : Access} {s : State} (h : Keeps o s) :
    Keeps o (foxStore c w bs poison a s) := by
  unfold foxStore
  split
  · rename_i v1 v2 e3
    have hv2 : Keeps o v2 := by
      have k4 := congrArg (fun p => Keeps o p.2) e3
      refine k4.mp ?_
      exact keeps_meet h
    refine keeps_ite (fun _ => ?_) (fun _ => ?_)
    · exact hv2
    · exact keeps_storeWord hv2

theorem keeps_notePoison {o : State} {ch : Nat} {e : Nat} {d : Desc} {addr : Nat} {s : State} (h : Keeps o s) :
    Keeps o (notePoison ch e d addr s) := by
  unfold notePoison
  extract_lets +onlyGivenNames t1
  have ht1 : Keeps o t1 := by
    unfold t1
    exact keeps_inc h Fld.ok_foxPoisonWords
  try clear_value t1
  refine keeps_ite (fun _ => ?_) (fun _ => ?_)
  · exact ht1
  · exact keeps_raise ht1

theorem keeps_landWord {o : State} {ch : Nat} {e : Nat} {d : Desc} {w : Nat} {ix : Nat} {bs : List (BitVec 8)} {poison : Bool} {cells : List (BitVec 8 × Access)} {s : State} (h : Keeps o s) :
    Keeps o (landWord ch e d w ix bs poison cells s) := by
  unfold landWord
  split
  · extract_lets +onlyGivenNames x1
    have hx1 : ∀ y1, Keeps o y1 → Keeps o (x1 y1) := by
      intro y2 hy3
      unfold x1
      exact keeps_setAct hy3
    try clear_value x1
    refine keeps_ite (fun _ => ?_) (fun _ => ?_)
    · extract_lets +onlyGivenNames x4; try clear_value x4
      extract_lets +onlyGivenNames t5
      have ht5 : Keeps o t5 := by
        unfold t5
        refine keeps_ite (fun _ => ?_) (fun _ => ?_)
        · exact keeps_notePoison h
        · exact h
      try clear_value t5
      refine keeps_ite (fun _ => ?_) (fun _ => ?_)
      · exact keeps_havoc ht5
      · refine hx1 _ ?_
        exact keeps_hbmWrite ht5
    · refine keeps_ite (fun _ => ?_) (fun _ => ?_)
      · extract_lets +onlyGivenNames x6; try clear_value x6
        extract_lets +onlyGivenNames x7; try clear_value x7
        extract_lets +onlyGivenNames x8; try clear_value x8
        extract_lets +onlyGivenNames t9
        have ht9 : Keeps o t9 := by
          unfold t9
          refine keeps_ite (fun _ => ?_) (fun _ => ?_)
          · exact keeps_notePoison h
          · exact h
        try clear_value t9
        refine keeps_ite (fun _ => ?_) (fun _ => ?_)
        · exact keeps_havoc ht9
        · refine hx1 _ ?_
          exact keeps_foxStore ht9
      · extract_lets +onlyGivenNames x10; try clear_value x10
        extract_lets +onlyGivenNames x11; try clear_value x11
        extract_lets +onlyGivenNames x12; try clear_value x12
        extract_lets +onlyGivenNames x13; try clear_value x13
        extract_lets +onlyGivenNames x14; try clear_value x14
        extract_lets +onlyGivenNames x15; try clear_value x15
        extract_lets +onlyGivenNames x16; try clear_value x16
        extract_lets +onlyGivenNames t17
        have ht17 : Keeps o t17 := by
          unfold t17
          refine keeps_ite (fun _ => ?_) (fun _ => ?_)
          · refine keeps_put ?_ Fld.ok_ringSlotPoison
            exact keeps_notePoison h
          · exact h
        try clear_value t17
        refine keeps_ite (fun _ => ?_) (fun _ => ?_)
        · refine hx1 _ ?_
          exact h
        · refine keeps_ite (fun _ => ?_) (fun _ => ?_)
          · exact keeps_havoc ht17
          · extract_lets +onlyGivenNames t18
            have ht18 : Keeps o t18 := by
              unfold t18
              exact keeps_foxStore ht17
            try clear_value t18
            extract_lets +onlyGivenNames x19; try clear_value x19
            extract_lets +onlyGivenNames t20
            have ht20 : Keeps o t20 := by
              unfold t20
              exact keeps_put ht18 Fld.ok_ringSlotLeft
            try clear_value t20
            refine keeps_publish ?_
            refine hx1 _ ?_
            refine keeps_ite (fun _ => ?_) (fun _ => ?_)
            · exact keeps_put ht20 Fld.ok_ringSlotLanded
            · exact ht20

theorem keeps_failWords {o : State} {ch : Nat} {e : Nat} {ix : Nat} {ws : List Nat} {cells : List (BitVec 8 × Access)} {s : State} (h : Keeps o s) :
    Keeps o (failWords ch e ix ws cells s) := by
  unfold failWords
  refine keeps_foldl ?_ ?_
  · intro b2 y3 hb1
    split
    · refine keeps_landWord ?_
      exact keeps_draw hb1
    · exact hb1
  · exact h

theorem keeps_failMsg {o : State} {ch : Nat} {m : RMsg} {cause : Nat} {cells : List (BitVec 8 × Access)} {s : State} (h : Keeps o s) :
    Keeps o (failMsg ch m cause cells s) := by
  unfold failMsg
  extract_lets +onlyGivenNames t1
  have ht1 : Keeps o t1 := by
    unfold t1
    refine keeps_raise ?_
    refine keeps_inc ?_ Fld.ok_foxRemoteFail
    exact keeps_setMsgs h
  try clear_value t1
  split
  · exact ht1
  · exact keeps_failWords ht1

theorem keeps_failMsgs {o : State} {ch : Nat} {cause : Nat} {p : RMsg → Bool} {s : State} (h : Keeps o s) :
    Keeps o (failMsgs ch cause p s) := by
  unfold failMsgs
  refine keeps_foldl ?_ ?_
  · intro b2 y3 hb1
    exact keeps_failMsg hb1
  · exact h

theorem keeps_sendMarks {o : State} {ch : Nat} {tag : Nat} {op : Nat} {s : State} (h : Keeps o s) :
    Keeps o (sendMarks ch tag op s) := by
  unfold sendMarks
  extract_lets +onlyGivenNames x1; try clear_value x1
  refine keeps_foldl ?_ ?_
  · intro b3 y4 hb2
    exact keeps_originate hb2
  · exact h

theorem keeps_foxCommit {o : State} {ch : Nat} {tag : Nat} {s : State} (h : Keeps o s) :
    Keeps o (foxCommit ch tag s) := by
  unfold foxCommit
  extract_lets +onlyGivenNames x1; try clear_value x1
  extract_lets +onlyGivenNames t2
  have ht2 : Keeps o t2 := by
    unfold t2
    refine keeps_foldl ?_ ?_
    · intro b8 y9 hb3
      extract_lets +onlyGivenNames t4
      have ht4 : Keeps o t4 := by
        unfold t4
        refine keeps_foldl ?_ ?_
        · intro b6 y7 hb5
          refine keeps_put ?_ Fld.ok_foxRingPtrTent
          exact keeps_put hb5 Fld.ok_ringSlotSt
        · exact hb3
      try clear_value t4
      exact keeps_setAct ht4
    · exact h
  try clear_value t2
  extract_lets +onlyGivenNames t10
  have ht10 : Keeps o t10 := by
    unfold t10
    exact keeps_setArr ht2
  try clear_value t10
  extract_lets +onlyGivenNames t11
  have ht11 : Keeps o t11 := by
    unfold t11
    exact keeps_publishAll ht10
  try clear_value t11
  extract_lets +onlyGivenNames t12
  have ht12 : Keeps o t12 := by
    unfold t12
    exact keeps_sendMarks ht11
  try clear_value t12
  refine keeps_foxReserve ?_
  exact keeps_setMsgs ht12

theorem keeps_foxCancel {o : State} {ch : Nat} {tag : Nat} {s : State} (h : Keeps o s) :
    Keeps o (foxCancel ch tag s) := by
  unfold foxCancel
  extract_lets +onlyGivenNames x1; try clear_value x1
  extract_lets +onlyGivenNames x2; try clear_value x2
  refine keeps_ite (fun _ => ?_) (fun _ => ?_)
  · exact h
  · extract_lets +onlyGivenNames x3; try clear_value x3
    extract_lets +onlyGivenNames x4; try clear_value x4
    extract_lets +onlyGivenNames t5
    have ht5 : Keeps o t5 := by
      unfold t5
      refine keeps_foldl ?_ ?_
      · intro b13 y14 hb6
        extract_lets +onlyGivenNames x7; try clear_value x7
        extract_lets +onlyGivenNames x8; try clear_value x8
        extract_lets +onlyGivenNames t9
        have ht9 : Keeps o t9 := by
          unfold t9
          refine keeps_foldl ?_ ?_
          · intro b11 y12 hb10
            refine keeps_put ?_ Fld.ok_ringSlotPoison
            refine keeps_put ?_ Fld.ok_ringSlotLeft
            refine keeps_put ?_ Fld.ok_ringSlotLanded
            exact keeps_put hb10 Fld.ok_ringSlotSt
          · exact hb6
        try clear_value t9
        refine keeps_put ?_ Fld.ok_foxRingPtrTent
        refine keeps_inc ?_ Fld.ok_foxRingPtrGen
        exact keeps_put ht9 Fld.ok_foxRingPtrFill
      · exact h
    try clear_value t5
    extract_lets +onlyGivenNames t15
    have ht15 : Keeps o t15 := by
      unfold t15
      exact keeps_sendMarks ht5
    try clear_value t15
    extract_lets +onlyGivenNames t16
    have ht16 : Keeps o t16 := by
      unfold t16
      refine keeps_foldl ?_ ?_
      · intro b18 y19 hb17
        exact keeps_delAct hb17
      · exact ht15
    try clear_value t16
    extract_lets +onlyGivenNames t20
    have ht20 : Keeps o t20 := by
      unfold t20
      exact keeps_setArr ht16
    try clear_value t20
    extract_lets +onlyGivenNames t21
    have ht21 : Keeps o t21 := by
      unfold t21
      refine keeps_inc ?_ Fld.ok_foxRaDiscard
      exact keeps_inc ht20 Fld.ok_foxRaCancels
    try clear_value t21
    refine keeps_foxReserve ?_
    refine keeps_ite (fun _ => ?_) (fun _ => ?_)
    · exact ht21
    · refine keeps_tally ?_
      exact keeps_inc ht21 Fld.ok_foxRaHist

theorem keeps_foxRows {o : State} {ch : Nat} {tag : Nat} {odd : Bool} {tent : Bool} {pairs : List (Nat × Nat)} {s : State} (h : Keeps o s) :
    Keeps o (foxRows ch tag odd tent pairs s) := by
  unfold foxRows
  refine keeps_foldl ?_ ?_
  · intro b5 y6 hb1
    extract_lets +onlyGivenNames x2; try clear_value x2
    refine keeps_ite (fun _ => ?_) (fun _ => ?_)
    · exact hb1
    · extract_lets +onlyGivenNames x3; try clear_value x3
      extract_lets +onlyGivenNames x4; try clear_value x4
      refine keeps_ite (fun _ => ?_) (fun _ => ?_)
      · exact keeps_havoc hb1
      · exact keeps_foxArrive hb1
  · exact h

theorem keeps_foxAbandon {o : State} {ch : Nat} {p : Desc → Bool} {s : State} (h : Keeps o s) :
    Keeps o (foxAbandon ch p s) := by
  unfold foxAbandon
  extract_lets +onlyGivenNames t1
  have ht1 : Keeps o t1 := by
    unfold t1
    exact Keeps.upd h (fun sh => { sh with foxAct := tsorted_filter _ sh.foxAct }) rfl rfl rfl
  try clear_value t1
  refine keeps_setMsgs ?_
  refine keeps_setReqs ?_
  exact keeps_setArr ht1

theorem keeps_foxCancelAll {o : State} {ch : Nat} {s : State} (h : Keeps o s) :
    Keeps o (foxCancelAll ch s) := by
  unfold foxCancelAll
  extract_lets +onlyGivenNames x1; try clear_value x1
  refine keeps_foldl ?_ ?_
  · intro b3 y4 hb2
    exact keeps_foxCancel hb2
  · exact h

end Sys2Proof.Machine
end

