-- ==== Sys2Proof/Laws/KeepsFoxSteps.lean ====
section
/-!
SUPPORT. The operations of Machine/FoxSteps.lean keep what Keeps says.
-/
namespace Sys2Proof.Machine

/-- A turn's cycle, if it has one, holds a state that Keeps allows. -/
def KeepsOffer (s : State) : Offer → Prop
  | .wait => True
  | .stop c => Keeps s c.s
  | .more c => Keeps s c.s

theorem keepsOffer_ite {s : State} {a b : Offer} {c : Prop} [Decidable c] (ha : KeepsOffer s a) (hb : KeepsOffer s b) :
    KeepsOffer s (if c then a else b) := by
  split
  · exact ha
  · exact hb

theorem keepsOffer_readIndex {o : State} {ch e : Nat} {d : Desc} {w : Nat} {cells : List (BitVec 8 × Access)} {c : Cyc}
    (h : Keeps o c.s) : KeepsOffer o (readIndex ch e d w cells c) := by
  unfold readIndex
  extract_lets k g word
  refine keepsOffer_ite trivial (keepsOffer_ite (keeps_havoc h) ?_)
  split
  rename_i r t e1
  have ht : Keeps o t := (congrArg (fun p => Keeps o p.2) e1).mp (keeps_spdRead h)
  split
  rename_i b u e2
  have hu : Keeps o u := (congrArg (fun p => Keeps o p.2) e2).mp (keeps_foxPortError ht)
  exact keeps_setAct hu

theorem keepsOffer_deliver {o : State} {ch e : Nat} {d : Desc} {w ix : Nat} {bs : List (BitVec 8)} {poison : Bool}
    {cells : List (BitVec 8 × Access)} {c : Cyc} (h : Keeps o c.s) :
    KeepsOffer o (deliver ch e d w ix bs poison cells c) := by
  unfold deliver
  dsimp only [KeepsOffer]
  refine keeps_landWord ?_
  split <;> exact h

theorem keepsOffer_sendRead {o : State} {ch e : Nat} {d : Desc} {w ix : Nat} {cells : List (BitVec 8 × Access)} {c : Cyc}
    (h : Keeps o c.s) : KeepsOffer o (sendRead ch e d w ix cells c) := by
  unfold sendRead
  extract_lets s a n
  split
  · trivial
  · split
    extract_lets m t body f
    have ht : Keeps o t := keeps_setMsgs (keeps_setAct h)
    refine keepsOffer_ite ?_ (keeps_failMsg ht)
    split
    rename_i left u e1
    have hu : Keeps o u := (congrArg (fun p => Keeps o p.2) e1).mp (keeps_originate ht)
    exact keeps_ite (fun _ => hu) (fun _ => keeps_failMsg hu)

theorem keepsOffer_offer {o : State} {ch e : Nat} {cells : List (BitVec 8 × Access)} {c : Cyc}
    (h : Keeps o c.s) : KeepsOffer o (offer ch e cells c) := by
  unfold offer
  split
  · trivial
  · rename_i d hd
    extract_lets s w
    refine keepsOffer_ite trivial (keepsOffer_ite trivial ?_)
    split
    · exact keepsOffer_readIndex h
    · rename_i ix hix
      refine keepsOffer_ite ?_ (keepsOffer_ite (keepsOffer_sendRead h) (keepsOffer_ite trivial (keepsOffer_ite ?_ (keepsOffer_ite trivial ?_))))
      · extract_lets a
        refine keepsOffer_ite trivial (keepsOffer_ite (keeps_havoc h) ?_)
        split
        extract_lets t
        exact keeps_setAct (keeps_setReqs h)
      · extract_lets k g word
        refine keepsOffer_ite trivial (keepsOffer_ite (keeps_havoc h) ?_)
        split
        rename_i r t e1
        have ht : Keeps o t := (congrArg (fun p => Keeps o p.2) e1).mp (keeps_spdRead h)
        split
        rename_i b u e2
        have hu : Keeps o u := (congrArg (fun p => Keeps o p.2) e2).mp (keeps_foxPortError ht)
        exact keepsOffer_deliver hu
      · extract_lets k g sl x left word
        refine keepsOffer_ite trivial (keepsOffer_ite (keeps_havoc h) ?_)
        split
        rename_i r t e1
        have ht : Keeps o t := (congrArg (fun p => Keeps o p.2) e1).mp (keeps_spdRead h)
        split
        rename_i b u e2
        have hu : Keeps o u := (congrArg (fun p => Keeps o p.2) e2).mp (keeps_foxPortError ht)
        extract_lets t1 t2
        have h1 : Keeps o t1 := keeps_put hu Fld.ok_ringSlotLeft
        have h2 : Keeps o t2 := keeps_ite (fun _ => keeps_put h1 Fld.ok_ringReadSlot) (fun _ => h1)
        exact keepsOffer_deliver (keeps_freeDrained h2)

theorem keeps_offers {o : State} {ch e : Nat} {cells : List (BitVec 8 × Access)} {n : Nat} {c : Cyc} (h : Keeps o c.s) :
    Keeps o (offers ch e cells n c).s := by
  induction n generalizing c with
  | zero => exact h
  | succ n ih =>
    have ho := keepsOffer_offer (ch := ch) (e := e) (cells := cells) h
    unfold offers
    split
    · exact h
    · rename_i c' hc
      rw [hc] at ho
      exact ho
    · rename_i c' hc
      rw [hc] at ho
      exact ih ho

theorem keeps_issueCycle {o : State} {ch : Nat} {cells : List (BitVec 8 × Access)} {s : State} (h : Keeps o s) :
    Keeps o (issueCycle ch cells s) := by
  unfold issueCycle
  extract_lets tent one order c t
  have hone : ∀ want c e, Keeps o c.s → Keeps o (one want c e).s := by
    intro want c e hc
    unfold one
    split
    · exact keeps_offers hc
    · exact hc
  have hc : Keeps o c.s :=
    foldl_keeps (fun c : Cyc => Keeps o c.s) (fun c e hc => hone _ c e hc)
      (foldl_keeps (fun c : Cyc => Keeps o c.s) (fun c e hc => hone _ c e hc) h)
  have ht : Keeps o t := by
    unfold t
    split
    · exact keeps_put hc Fld.ok_foxLead
    · exact hc
  exact keeps_foxReserve ht

theorem keeps_execFoxIssue {o : State} {ch : Chan} {cells : List (BitVec 8 × Access)} {s : State} (h : Keeps o s) :
    KeepsOut o (execFoxIssue ch cells s) := by
  unfold execFoxIssue
  refine keepsOut_next ?_
  refine keeps_ite (fun _ => ?_) (fun _ => ?_)
  · exact keeps_issueCycle h
  · exact h

theorem keeps_execFoxAccept {o : State} {ch : Chan} {s : State} (h : Keeps o s) :
    KeepsOut o (execFoxAccept ch s) := by
  unfold execFoxAccept
  split
  · refine keepsOut_ite (fun _ => ?_) (fun _ => ?_)
    · refine keepsOut_next ?_
      exact h
    · extract_lets +onlyGivenNames t1
      have ht1 : Keeps o t1 := by
        unfold t1
        refine keeps_setAct ?_
        exact keeps_setArr h
      try clear_value t1
      extract_lets +onlyGivenNames x2; try clear_value x2
      extract_lets +onlyGivenNames t3
      have ht3 : Keeps o t3 := by
        unfold t3
        refine keeps_ite (fun _ => ?_) (fun _ => ?_)
        · exact ht1
        · refine keeps_ite (fun _ => ?_) (fun _ => ?_)
          · exact keeps_put ht1 Fld.ok_fxWait
          · refine keeps_draw ?_
            refine keeps_put ?_ Fld.ok_fxDoneAt
            exact keeps_put ht1 Fld.ok_fxWait
      try clear_value t3
      extract_lets +onlyGivenNames t4
      have ht4 : Keeps o t4 := by
        unfold t4
        refine keeps_ite (fun _ => ?_) (fun _ => ?_)
        · exact keeps_put ht3 Fld.ok_foxHsqHeadIndex
        · exact ht3
      try clear_value t4
      refine keepsOut_next ?_
      refine keeps_publishAll ?_
      exact keeps_foxReserve ht4
  · refine keepsOut_next ?_
    exact h

theorem keeps_execHbmReadReturn {o : State} {ch : Chan} {pick : BitVec 11} {ue : Bool} {cells : List (BitVec 8 × Access)} {s : State} (h : Keeps o s) :
    KeepsOut o (execHbmReadReturn ch pick ue cells s) := by
  unfold execHbmReadReturn
  split
  · refine keepsOut_next ?_
    exact h
  · refine keepsOut_ite (fun _ => ?_) (fun _ => ?_)
    · refine keepsOut_next ?_
      exact h
    · extract_lets +onlyGivenNames t1
      have ht1 : Keeps o t1 := by
        unfold t1
        exact keeps_setReqs h
      try clear_value t1
      split
      · refine keepsOut_next ?_
        exact ht1
      · refine keepsOut_next ?_
        refine keeps_foxReserve ?_
        exact keeps_landWord ht1

theorem keeps_execDescriptorComplete {o : State} {ch : Chan} {s : State} (h : Keeps o s) :
    KeepsOut o (execDescriptorComplete ch s) := by
  unfold execDescriptorComplete
  split
  · refine keepsOut_next ?_
    exact h
  · refine keepsOut_ite (fun _ => ?_) (fun _ => ?_)
    · refine keepsOut_next ?_
      exact h
    · extract_lets +onlyGivenNames t1
      have ht1 : Keeps o t1 := by
        unfold t1
        exact keeps_delAct h
      try clear_value t1
      refine keepsOut_ite (fun _ => ?_) (fun _ => ?_)
      · refine keepsOut_next ?_
        refine keeps_chCause ?_
        exact keeps_inc ht1 Fld.ok_foxHsqDone
      · refine keepsOut_ite (fun _ => ?_) (fun _ => ?_)
        · refine keepsOut_next ?_
          exact keeps_send ht1
        · refine keepsOut_next ?_
          exact ht1

theorem keeps_execPeerServiceSlot {o : State} {ch : Chan} {s : State} (h : Keeps o s) :
    KeepsOut o (execPeerServiceSlot ch s) := by
  unfold execPeerServiceSlot
  extract_lets +onlyGivenNames x1; try clear_value x1
  extract_lets +onlyGivenNames x2; try clear_value x2
  extract_lets +onlyGivenNames x3; try clear_value x3
  refine keepsOut_ite (fun _ => ?_) (fun _ => ?_)
  · refine keepsOut_next ?_
    exact h
  · extract_lets +onlyGivenNames t4
    have ht4 : Keeps o t4 := by
      unfold t4
      exact keeps_put h Fld.ok_foxServK
    try clear_value t4
    extract_lets +onlyGivenNames x5; try clear_value x5
    extract_lets +onlyGivenNames x6; try clear_value x6
    extract_lets +onlyGivenNames x7; try clear_value x7
    extract_lets +onlyGivenNames t8
    have ht8 : Keeps o t8 := by
      unfold t8
      exact Keeps.upd ht4 (fun sh => { sh with foxPeer := tsorted_tsetD _ _ _ sh.foxPeer }) rfl rfl rfl
    try clear_value t8
    refine keepsOut_next ?_
    refine keeps_foldl ?_ ?_
    · intro b14 y15 hb9
      extract_lets +onlyGivenNames t10
      have ht10 : Keeps o t10 := by
        unfold t10
        refine keeps_foldl ?_ ?_
        · intro b12 y13 hb11
          exact keeps_originate hb11
        · exact hb9
      try clear_value t10
      refine keeps_ite (fun _ => ?_) (fun _ => ?_)
      · exact keeps_inc ht10 Fld.ok_foxSpecServed
      · exact ht10
    · exact ht8

theorem keeps_execRemoteReadTimeout {o : State} {ch : Chan} {msgid : BitVec 7} {s : State} (h : Keeps o s) :
    KeepsOut o (execRemoteReadTimeout ch msgid s) := by
  unfold execRemoteReadTimeout
  split
  · refine keepsOut_next ?_
    exact h
  · refine keepsOut_next ?_
    refine keeps_ite (fun _ => ?_) (fun _ => ?_)
    · refine keeps_foxReserve ?_
      exact keeps_failMsg h
    · exact h

theorem keeps_writeHsqTail {o : State} {ch : Nat} {v : Nat} {s : State} (h : Keeps o s) :
    Keeps o (writeHsqTail ch v s) := by
  unfold writeHsqTail
  refine keeps_put ?_ Fld.ok_foxHsqWay
  exact keeps_put h Fld.ok_foxHsqTailIndex

theorem keeps_takeHost {o : State} {ch : Nat} {n : Nat} {s : State} (h : Keeps o s) :
    Keeps o (takeHost ch n s) := by
  induction n generalizing s with
  | zero => exact h
  | succ n ih =>
    unfold takeHost
    extract_lets k d t
    refine keeps_ite (fun _ => h) (fun _ => ?_)
    have ht : Keeps o t := keeps_put h Fld.ok_foxHsqSeen
    refine keeps_ite (fun _ => ih ?_) (fun _ => keeps_ite (fun _ => ih (keeps_havoc ht)) (fun _ => ih (keeps_foxArrive ht)))
    exact keeps_chCause (keeps_inc (keeps_put ht Fld.ok_foxHsqHeadIndex) Fld.ok_foxHsqDone)

theorem keeps_execFoxHsqTailSeen {o : State} {ch : Chan} {s : State} (h : Keeps o s) :
    KeepsOut o (execFoxHsqTailSeen ch s) := by
  unfold execFoxHsqTailSeen
  refine keepsOut_next ?_
  refine keeps_ite (fun _ => ?_) (fun _ => ?_)
  · refine keeps_takeHost ?_
    exact keeps_put h Fld.ok_foxHsqWay
  · exact h

theorem keeps_execFoxHsqTail {o : State} {ch : Chan} {tail : BitVec 6} {s : State} (h : Keeps o s) :
    KeepsOut o (execFoxHsqTail ch tail s) := by
  unfold execFoxHsqTail
  refine keepsOut_next ?_
  refine keeps_ite (fun _ => ?_) (fun _ => ?_)
  · exact keeps_writeHsqTail h
  · exact h

end Sys2Proof.Machine
end

