-- ==== Sys2Proof/Laws/KeepsBar.lean ====
section
/-!
SUPPORT. The operations of Machine/Bar.lean keep what Keeps says.
-/
namespace Sys2Proof.Machine

theorem keeps_completeBar {o : State} {c : Nat} {scope : Nat} {bid : Nat} {cause : Nat} {s : State} (h : Keeps o s) :
    Keeps o (completeBar c scope bid cause s) := by
  unfold completeBar
  extract_lets +onlyGivenNames x1; try clear_value x1
  refine keeps_ite (fun _ => ?_) (fun _ => ?_)
  · exact h
  · extract_lets +onlyGivenNames t2
    have ht2 : Keeps o t2 := by
      unfold t2
      refine keeps_inc ?_ Fld.ok_barCount
      exact keeps_put h Fld.ok_barWait
    try clear_value t2
    split
    · extract_lets +onlyGivenNames x3; try clear_value x3
      extract_lets +onlyGivenNames t4
      have ht4 : Keeps o t4 := by
        unfold t4
        exact keeps_resume ht2
      try clear_value t4
      extract_lets +onlyGivenNames t5
      have ht5 : Keeps o t5 := by
        unfold t5
        refine keeps_ite (fun _ => ?_) (fun _ => ?_)
        · exact keeps_pass ht4
        · exact keeps_waited ht4
      try clear_value t5
      extract_lets +onlyGivenNames t6
      have ht6 : Keeps o t6 := by
        unfold t6
        refine keeps_retire ?_
        exact keeps_setG ht5
      try clear_value t6
      refine keeps_ite (fun _ => ?_) (fun _ => ?_)
      · exact keeps_openSeg ht6
      · exact ht6
    · exact ht2

theorem keeps_releaseChan {o : State} {ch : Nat} {scope : Nat} {bid : Nat} {s : State} (h : Keeps o s) :
    Keeps o (releaseChan ch scope bid s) := by
  unfold releaseChan
  refine keeps_put ?_ Fld.ok_barTimer
  refine keeps_foldl ?_ ?_
  · intro b2 y3 hb1
    exact keeps_completeBar hb1
  · exact h

theorem keeps_faultBar {o : State} {ch : Nat} {scope : Nat} {bid : Nat} {cause : Nat} {s : State} (h : Keeps o s) :
    Keeps o (faultBar ch scope bid cause s) := by
  unfold faultBar
  extract_lets +onlyGivenNames x1; try clear_value x1
  refine keeps_ite (fun _ => ?_) (fun _ => ?_)
  · exact h
  · extract_lets +onlyGivenNames t2
    have ht2 : Keeps o t2 := by
      unfold t2
      refine keeps_inc ?_ Fld.ok_synBarFaults
      refine keeps_put ?_ Fld.ok_barTimer
      refine keeps_put ?_ Fld.ok_barFaultGen
      exact keeps_put h Fld.ok_barFault
    try clear_value t2
    refine keeps_raise ?_
    refine keeps_foldl ?_ ?_
    · intro b4 y5 hb3
      exact keeps_completeBar hb3
    · exact ht2

theorem keeps_restartBars {o : State} {ch : Nat} {s : State} (h : Keeps o s) :
    Keeps o (restartBars ch s) := by
  unfold restartBars
  refine keeps_clearFlds ?_
  exact keeps_clearFlds h

theorem keeps_faultChipBars {o : State} {ch : Nat} {s : State} (h : Keeps o s) :
    Keeps o (faultChipBars ch s) := by
  unfold faultChipBars
  refine keeps_foldl ?_ ?_
  · intro b6 y7 hb1
    extract_lets +onlyGivenNames x2; try clear_value x2
    refine keeps_ite (fun _ => ?_) (fun _ => ?_)
    · refine keeps_foldl ?_ ?_
      · intro b4 y5 hb3
        exact keeps_faultBar hb3
      · exact hb1
    · exact hb1
  · exact h

theorem keeps_sendBarrier {o : State} {l : Nat} {op : Nat} {b : Nat} {cause : Nat} {t : Nat} {s : State} (h : Keeps o s) :
    Keeps o (sendBarrier l op b cause t s) := by
  unfold sendBarrier
  refine keeps_ite (fun _ => ?_) (fun _ => ?_)
  · extract_lets +onlyGivenNames x1; try clear_value x1
    exact keeps_queueFlit h
  · exact h

theorem keeps_nextFbarGen {o : State} {b : Nat} {s : State} (h : Keeps o s) :
    Keeps o (nextFbarGen b s) := by
  unfold nextFbarGen
  refine keeps_put ?_ Fld.ok_fbarT
  refine keeps_put ?_ Fld.ok_fbarRel
  refine keeps_put ?_ Fld.ok_fbarSent
  refine keeps_clearFlds ?_
  exact keeps_inc h Fld.ok_fbarGen

theorem keeps_releaseFabric {o : State} {b : Nat} {s : State} (h : Keeps o s) :
    Keeps o (releaseFabric b s) := by
  unfold releaseFabric
  refine keeps_nextFbarGen ?_
  refine keeps_foldl ?_ ?_
  · intro b2 y3 hb1
    exact keeps_releaseChan hb1
  · exact h

theorem keeps_gotRelease {o : State} {b : Nat} {T : Nat} {s : State} (h : Keeps o s) :
    Keeps o (gotRelease b T s) := by
  unfold gotRelease
  extract_lets +onlyGivenNames t1
  have ht1 : Keeps o t1 := by
    unfold t1
    refine keeps_foldl ?_ ?_
    · intro b3 y4 hb2
      exact keeps_sendBarrier hb2
    · exact h
  try clear_value t1
  refine keeps_ite (fun _ => ?_) (fun _ => ?_)
  · refine keeps_inc ?_ Fld.ok_tunFbarUntimed
    exact keeps_releaseFabric ht1
  · refine keeps_ite (fun _ => ?_) (fun _ => ?_)
    · refine keeps_raise ?_
      refine keeps_inc ?_ Fld.ok_tunFbarLate
      exact keeps_releaseFabric ht1
    · refine keeps_put ?_ Fld.ok_fbarT
      exact keeps_put ht1 Fld.ok_fbarRel

theorem keeps_tryFabric {o : State} {b : Nat} {s : State} (h : Keeps o s) :
    Keeps o (tryFabric b s) := by
  unfold tryFabric
  extract_lets +onlyGivenNames x1; try clear_value x1
  extract_lets +onlyGivenNames x2; try clear_value x2
  refine keeps_ite (fun _ => ?_) (fun _ => ?_)
  · extract_lets +onlyGivenNames t3
    have ht3 : Keeps o t3 := by
      unfold t3
      exact keeps_put h Fld.ok_fbarSent
    try clear_value t3
    refine keeps_ite (fun _ => ?_) (fun _ => ?_)
    · exact keeps_gotRelease ht3
    · exact keeps_sendBarrier ht3
  · exact h

theorem keeps_faultFabric {o : State} {b : Nat} {cause : Nat} {a3 : Option Nat} {s : State} (h : Keeps o s) :
    Keeps o (faultFabric b cause a3 s) := by
  unfold faultFabric
  extract_lets +onlyGivenNames x1; try clear_value x1
  extract_lets +onlyGivenNames t2
  have ht2 : Keeps o t2 := by
    unfold t2
    refine keeps_foldl ?_ ?_
    · intro b4 y5 hb3
      exact keeps_sendBarrier hb3
    · exact h
  try clear_value t2
  refine keeps_nextFbarGen ?_
  refine keeps_foldl ?_ ?_
  · intro b7 y8 hb6
    exact keeps_faultBar hb6
  · exact ht2

theorem keeps_faultFabricsOf {o : State} {ch : Nat} {s : State} (h : Keeps o s) :
    Keeps o (faultFabricsOf ch s) := by
  unfold faultFabricsOf
  refine keeps_foldl ?_ ?_
  · intro b2 y3 hb1
    refine keeps_ite (fun _ => ?_) (fun _ => ?_)
    · exact keeps_faultFabric hb1
    · exact hb1
  · exact h

theorem keeps_leaveBars {o : State} {ch : Nat} {s : State} (h : Keeps o s) :
    Keeps o (leaveBars ch s) := by
  unfold leaveBars
  extract_lets +onlyGivenNames t1
  have ht1 : Keeps o t1 := by
    unfold t1
    exact keeps_faultChipBars h
  try clear_value t1
  extract_lets +onlyGivenNames t2
  have ht2 : Keeps o t2 := by
    unfold t2
    refine keeps_foldl ?_ ?_
    · intro b4 y5 hb3
      refine keeps_ite (fun _ => ?_) (fun _ => ?_)
      · refine keeps_faultFabric ?_
        exact keeps_clearFlds hb3
      · exact hb3
    · exact ht1
  try clear_value t2
  exact keeps_restartBars ht2

end Sys2Proof.Machine
end

