-- ==== Sys2Proof/Laws/KeepsSve.lean ====
section
/-!
SUPPORT. The operations of Machine/Sve.lean keep what Keeps says.
-/
namespace Sys2Proof.Machine

theorem keeps_setQueue {o : State} {s : State} {ch : Nat} {l : List Batch} (h : Keeps o s) :
    Keeps o (State.setQueue s ch l) := by
  unfold State.setQueue
  refine keeps_put ?_ Fld.ok_sveChQueued
  exact Keeps.upd h (fun sh => { sh with batches := tsorted_tsetD _ _ _ sh.batches }) rfl rfl rfl

theorem keeps_freeCells {o : State} {ch : Nat} {n : Nat} {s : State} (h : Keeps o s) :
    Keeps o (freeCells ch n s) := by
  unfold freeCells
  exact keeps_put h Fld.ok_sveChHeld

theorem keeps_setRequest {o : State} {r : Request} {s : State} (h : Keeps o s) :
    Keeps o (setRequest r s) := by
  unfold setRequest
  exact Keeps.upd h (fun sh => { sh with }) rfl rfl rfl

@[simp] theorem Fld.ok_inflFld (epoch : Nat) : (inflFld epoch).Ok := by
  unfold inflFld
  split <;> simp

theorem keeps_markAnswered {o : State} {r : Request} {s : State} (h : Keeps o s) :
    Keeps o (markAnswered r s) := by
  unfold markAnswered
  extract_lets +onlyGivenNames x1; try clear_value x1
  extract_lets +onlyGivenNames t2
  have ht2 : Keeps o t2 := by
    unfold t2
    exact keeps_setRequest h
  try clear_value t2
  extract_lets +onlyGivenNames t3
  have ht3 : Keeps o t3 := by
    unfold t3
    exact keeps_put ht2 Fld.ok_sveInflight
  try clear_value t3
  extract_lets +onlyGivenNames t4
  have ht4 : Keeps o t4 := by
    unfold t4
    exact keeps_put ht3 Fld.ok_svcMaxUs
  try clear_value t4
  refine keeps_inc ?_ Fld.ok_svcLat
  exact keeps_put ht4 ((by first | (split <;> simp) | simp))

theorem keeps_sendUsp {o : State} {dest : ReplyTo} {key : Option Nat} {ty : Nat} {fallback : Bool} {svc : Nat} {client : Nat} {req : Nat} {us : Nat} {k : Nat} {body : List (BitVec 8)} {s : State} (h : Keeps o s) :
    Keeps o (sendUsp dest key ty fallback svc client req us k body s) := by
  unfold sendUsp
  extract_lets +onlyGivenNames x1; try clear_value x1
  extract_lets +onlyGivenNames x2; try clear_value x2
  refine keeps_inc ?_ Fld.ok_svePortTx
  exact keeps_emit h

theorem keeps_sendError {o : State} {dest : ReplyTo} {key : Option Nat} {svc : Nat} {client : Nat} {req : Nat} {us : Nat} {code : Nat} {detail : Nat} {s : State} (h : Keeps o s) :
    Keeps o (sendError dest key svc client req us code detail s) := by
  unfold sendError
  refine keeps_raise ?_
  exact keeps_sendUsp h

theorem keeps_sendFallback {o : State} {r : Request} {s : State} (h : Keeps o s) :
    Keeps o (sendFallback r s) := by
  unfold sendFallback
  extract_lets +onlyGivenNames t1
  have ht1 : Keeps o t1 := by
    unfold t1
    exact keeps_sendUsp h
  try clear_value t1
  refine keeps_raise ?_
  refine keeps_inc ?_ Fld.ok_svcFbN
  refine keeps_inc ?_ Fld.ok_sveSvcW2Fallbacks
  exact keeps_markAnswered ht1

theorem keeps_useTag {o : State} {ch : Nat} {tag : Nat} {s : State} (h : Keeps o s) :
    Keeps o (useTag ch tag s) := by
  unfold useTag
  extract_lets +onlyGivenNames t1
  have ht1 : Keeps o t1 := by
    unfold t1
    exact Keeps.upd h (fun sh => { sh with liveTags := tsorted_tset _ _ sh.liveTags }) rfl rfl rfl
  try clear_value t1
  refine keeps_put ?_ Fld.ok_sveChNextTag
  exact keeps_inc ht1 Fld.ok_sveChLive

theorem keeps_setTag {o : State} {ch : Nat} {tag : Nat} {f : TagSt → TagSt} {s : State} (h : Keeps o s) :
    Keeps o (setTag ch tag f s) := by
  unfold setTag
  split
  · exact Keeps.upd h (fun sh => { sh with liveTags := tsorted_tset _ _ sh.liveTags }) rfl rfl rfl
  · exact h

theorem keeps_dropTag {o : State} {ch : Nat} {tag : Nat} {s : State} (h : Keeps o s) :
    Keeps o (dropTag ch tag s) := by
  unfold dropTag
  extract_lets +onlyGivenNames t1
  have ht1 : Keeps o t1 := by
    unfold t1
    exact Keeps.upd h (fun sh => { sh with liveTags := tsorted_filter _ sh.liveTags }) rfl rfl rfl
  try clear_value t1
  exact keeps_put ht1 Fld.ok_sveChLive

theorem keeps_wakeChan {o : State} {ch : Nat} {cause : Nat} {s : State} (h : Keeps o s) :
    Keeps o (wakeChan ch cause s) := by
  unfold wakeChan
  extract_lets +onlyGivenNames x1; try clear_value x1
  refine keeps_ite (fun _ => ?_) (fun _ => ?_)
  · refine keeps_setPwr ?_
    refine keeps_put ?_ Fld.ok_wakeAt
    refine keeps_put ?_ Fld.ok_pwrDark
    exact keeps_put h Fld.ok_chPwrStatWcause
  · exact h

theorem keeps_mbxFinish {o : State} {status : Nat} {detail : Nat} {s : State} (h : Keeps o s) :
    Keeps o (mbxFinish status detail s) := by
  unfold mbxFinish
  refine keeps_ite (fun _ => ?_) (fun _ => ?_)
  · exact h
  · extract_lets +onlyGivenNames t1
    have ht1 : Keeps o t1 := by
      unfold t1
      refine keeps_put ?_ Fld.ok_mbxStatSeq
      refine keeps_put ?_ Fld.ok_mbxStatCode
      refine keeps_put ?_ Fld.ok_mbxStatDetail
      exact keeps_put h Fld.ok_mbxStatStatus
    try clear_value t1
    refine keeps_mgCause ?_
    refine keeps_put ?_ Fld.ok_mbxCur
    refine keeps_put ?_ Fld.ok_mbxStatDone
    exact keeps_put ht1 Fld.ok_mbxStatBusy

theorem keeps_seamHold {o : State} {ch : Nat} {tag : Nat} {epoch : Nat} {s : State} (h : Keeps o s) :
    Keeps o (seamHold ch tag epoch s) := by
  unfold seamHold
  refine keeps_ite (fun _ => ?_) (fun _ => ?_)
  · refine keeps_raise ?_
    refine keeps_put ?_ Fld.ok_exchHeldAt
    refine keeps_put ?_ Fld.ok_exchStatSeamTag
    exact keeps_put h Fld.ok_exchStatPhase
  · exact h

theorem keeps_commitRows {o : State} {r : Request} {s : State} (h : Keeps o s) :
    Keeps o (commitRows r s) := by
  unfold commitRows
  refine keeps_ite (fun _ => ?_) (fun _ => ?_)
  · exact h
  · exact keeps_foxRows h

theorem keeps_commitBatch {o : State} {svc : Nat} {tag : Nat} {openUs : Nat} {flags : Nat} {s : State} (h : Keeps o s) :
    Keeps o (commitBatch svc tag openUs flags s) := by
  unfold commitBatch
  extract_lets +onlyGivenNames x1; try clear_value x1
  split
  · exact h
  · extract_lets +onlyGivenNames x2; try clear_value x2
    extract_lets +onlyGivenNames x3; try clear_value x3
    extract_lets +onlyGivenNames t4
    have ht4 : Keeps o t4 := by
      unfold t4
      refine keeps_foldl ?_ ?_
      · intro b6 y7 hb5
        exact keeps_setRequest hb5
      · exact h
    try clear_value t4
    extract_lets +onlyGivenNames t8
    have ht8 : Keeps o t8 := by
      unfold t8
      refine keeps_foldl ?_ ?_
      · intro b10 y11 hb9
        exact keeps_commitRows hb9
      · exact keeps_foxCommit ht4
    try clear_value t8
    extract_lets +onlyGivenNames x12; try clear_value x12
    extract_lets +onlyGivenNames t13
    have ht13 : Keeps o t13 := by
      unfold t13
      refine keeps_inc ?_ Fld.ok_sveChBatches
      exact keeps_setQueue ht8
    try clear_value t13
    extract_lets +onlyGivenNames t14
    have ht14 : Keeps o t14 := by
      unfold t14
      exact keeps_seamHold ht13
    try clear_value t14
    refine keeps_ite (fun _ => ?_) (fun _ => ?_)
    · exact keeps_wakeChan ht14
    · exact ht14

theorem keeps_epochTakes {o : State} {svc : Nat} {s : State} (h : Keeps o s) :
    Keeps o (epochTakes svc s) := by
  unfold epochTakes
  split
  · exact h
  · extract_lets +onlyGivenNames t1
    have ht1 : Keeps o t1 := by
      unfold t1
      exact Keeps.upd h (fun sh => { sh with epochPend := tsorted_filter _ sh.epochPend }) rfl rfl rfl
    try clear_value t1
    extract_lets +onlyGivenNames t2
    have ht2 : Keeps o t2 := by
      unfold t2
      refine keeps_raise ?_
      exact keeps_put ht1 Fld.ok_sveSvcW1Epoch
    try clear_value t2
    refine keeps_ite (fun _ => ?_) (fun _ => ?_)
    · exact keeps_mbxFinish ht2
    · exact ht2

theorem keeps_putSvc {o : State} {svc : Nat} {a2 : Nat} {cell : Nat} {len : Nat} {s : State} (h : Keeps o s) :
    Keeps o (putSvc svc a2 cell len s) := by
  unfold putSvc
  extract_lets +onlyGivenNames t1
  have ht1 : Keeps o t1 := by
    unfold t1
    refine keeps_put ?_ Fld.ok_sveSvcW0Sync
    refine keeps_put ?_ Fld.ok_sveSvcW0Errq
    refine keeps_put ?_ Fld.ok_sveSvcW0TagReq
    refine keeps_put ?_ Fld.ok_sveSvcW0Channel
    exact keeps_put h Fld.ok_sveSvcW0Bound
  try clear_value t1
  extract_lets +onlyGivenNames t2
  have ht2 : Keeps o t2 := by
    unfold t2
    refine keeps_put ?_ Fld.ok_sveSvcW0Kdef
    refine keeps_put ?_ Fld.ok_sveSvcW0DeadlineUs
    refine keeps_put ?_ Fld.ok_sveSvcW0Maxb
    exact keeps_put ht1 Fld.ok_sveSvcW0WindowUs
  try clear_value t2
  refine keeps_put ?_ Fld.ok_sveSvcW1FbLen
  refine keeps_put ?_ Fld.ok_sveSvcW1FbCell
  exact keeps_put ht2 Fld.ok_sveSvcW0Keyslot

theorem keeps_unbindSvc {o : State} {svc : Nat} {s : State} (h : Keeps o s) :
    Keeps o (unbindSvc svc s) := by
  unfold unbindSvc
  refine keeps_put ?_ Fld.ok_sveSvcW0Bound
  exact Keeps.upd h (fun sh => { sh with windows := tsorted_filter _ sh.windows, svcPend := tsorted_filter _ sh.svcPend, epochPend := tsorted_filter _ sh.epochPend }) rfl rfl rfl

theorem keeps_bindTakes {o : State} {svc : Nat} {s : State} (h : Keeps o s) :
    Keeps o (bindTakes svc s) := by
  unfold bindTakes
  split
  · exact h
  · extract_lets +onlyGivenNames x1; try clear_value x1
    extract_lets +onlyGivenNames t2
    have ht2 : Keeps o t2 := by
      unfold t2
      exact Keeps.upd h (fun sh => { sh with svcPend := tsorted_filter _ sh.svcPend }) rfl rfl rfl
    try clear_value t2
    extract_lets +onlyGivenNames t3
    have ht3 : Keeps o t3 := by
      unfold t3
      refine keeps_ite (fun _ => ?_) (fun _ => ?_)
      · exact keeps_unbindSvc ht2
      · exact keeps_putSvc ht2
    try clear_value t3
    extract_lets +onlyGivenNames t4
    have ht4 : Keeps o t4 := by
      unfold t4
      exact keeps_raise ht3
    try clear_value t4
    refine keeps_ite (fun _ => ?_) (fun _ => ?_)
    · exact keeps_mbxFinish ht4
    · exact ht4

theorem keeps_boundary {o : State} {svc : Nat} {flags : Nat} {s : State} (h : Keeps o s) :
    Keeps o (boundary svc flags s) := by
  unfold boundary
  split
  · exact h
  · extract_lets +onlyGivenNames x1; try clear_value x1
    extract_lets +onlyGivenNames x2; try clear_value x2
    extract_lets +onlyGivenNames x3; try clear_value x3
    extract_lets +onlyGivenNames x4; try clear_value x4
    extract_lets +onlyGivenNames t5
    have ht5 : Keeps o t5 := by
      unfold t5
      split
      · exact h
      · refine keeps_setTag ?_
        exact keeps_commitBatch h
    try clear_value t5
    extract_lets +onlyGivenNames t6
    have ht6 : Keeps o t6 := by
      unfold t6
      exact Keeps.upd ht5 (fun sh => { sh with windows := tsorted_tset _ _ sh.windows }) rfl rfl rfl
    try clear_value t6
    refine keeps_bindTakes ?_
    exact keeps_epochTakes ht6

theorem keeps_edgeBoundary {o : State} {svc : Nat} {s : State} (h : Keeps o s) :
    Keeps o (edgeBoundary svc s) := by
  unfold edgeBoundary
  split
  · exact h
  · extract_lets +onlyGivenNames x1; try clear_value x1
    extract_lets +onlyGivenNames x2; try clear_value x2
    extract_lets +onlyGivenNames x3; try clear_value x3
    split
    · exact keeps_boundary h
    · refine keeps_ite (fun _ => ?_) (fun _ => ?_)
      · exact keeps_boundary h
      · refine keeps_ite (fun _ => ?_) (fun _ => ?_)
        · exact keeps_boundary h
        · exact h

theorem keeps_leaveOpen {o : State} {r : Request} {s : State} (h : Keeps o s) :
    Keeps o (leaveOpen r s) := by
  unfold leaveOpen
  extract_lets +onlyGivenNames t1
  have ht1 : Keeps o t1 := by
    unfold t1
    exact keeps_freeCells h
  try clear_value t1
  split
  · exact keeps_foxCancel ht1
  · extract_lets +onlyGivenNames x2; try clear_value x2
    extract_lets +onlyGivenNames t3
    have ht3 : Keeps o t3 := by
      unfold t3
      exact keeps_foxCancel ht1
    try clear_value t3
    refine keeps_ite (fun _ => ?_) (fun _ => ?_)
    · exact ht3
    · extract_lets +onlyGivenNames x4; try clear_value x4
      extract_lets +onlyGivenNames x5; try clear_value x5
      extract_lets +onlyGivenNames x6; try clear_value x6
      extract_lets +onlyGivenNames t7
      have ht7 : Keeps o t7 := by
        unfold t7
        exact Keeps.upd ht3 (fun sh => { sh with windows := tsorted_tset _ _ sh.windows }) rfl rfl rfl
      try clear_value t7
      extract_lets +onlyGivenNames t8
      have ht8 : Keeps o t8 := by
        unfold t8
        refine keeps_foldl ?_ ?_
        · intro b10 y11 hb9
          exact keeps_setRequest hb9
        · exact ht7
      try clear_value t8
      refine keeps_ite (fun _ => ?_) (fun _ => ?_)
      · refine keeps_inc ?_ Fld.ok_foxRaRetries
        refine keeps_foldl ?_ ?_
        · intro b13 y14 hb12
          exact keeps_foxRows hb12
        · exact ht8
      · exact ht8

theorem keeps_closeAdmit {o : State} {ch : Nat} {cause : Nat} {s : State} (h : Keeps o s) :
    Keeps o (closeAdmit ch cause s) := by
  unfold closeAdmit
  refine keeps_ite (fun _ => ?_) (fun _ => ?_)
  · refine keeps_mgCause ?_
    refine keeps_raise ?_
    exact keeps_put h Fld.ok_sveChAdmit
  · exact h

theorem keeps_discardQueue {o : State} {ch : Nat} {s : State} (h : Keeps o s) :
    Keeps o (discardQueue ch s) := by
  unfold discardQueue
  extract_lets +onlyGivenNames x1; try clear_value x1
  extract_lets +onlyGivenNames t2
  have ht2 : Keeps o t2 := by
    unfold t2
    refine keeps_foldl ?_ ?_
    · intro b4 y5 hb3
      refine keeps_freeCells ?_
      exact keeps_setTag hb3
    · exact h
  try clear_value t2
  exact keeps_setQueue ht2

theorem keeps_exchAbort {o : State} {ch : Nat} {result : Nat} {s : State} (h : Keeps o s) :
    Keeps o (exchAbort ch result s) := by
  unfold exchAbort
  extract_lets +onlyGivenNames x1; try clear_value x1
  refine keeps_ite (fun _ => ?_) (fun _ => ?_)
  · extract_lets +onlyGivenNames x2; try clear_value x2
    extract_lets +onlyGivenNames t3
    have ht3 : Keeps o t3 := by
      unfold t3
      refine keeps_put ?_ Fld.ok_exchStatNotready
      refine keeps_put ?_ Fld.ok_exchStatResult
      exact keeps_put h Fld.ok_exchStatPhase
    try clear_value t3
    refine keeps_chCause ?_
    exact keeps_raise ht3
  · exact h

end Sys2Proof.Machine
end

