-- ==== Sys2Proof/Laws/KeepsHalt.lean ====
section
/-!
SUPPORT. The operations of Machine/Halt.lean keep what Keeps says.
-/
namespace Sys2Proof.Machine

theorem keeps_stopUnits {o : State} {c : Nat} {s : State} (h : Keeps o s) :
    Keeps o (stopUnits c s) := by
  unfold stopUnits
  refine keeps_put ?_ Fld.ok_fxWait
  refine keeps_put ?_ Fld.ok_syLeft
  refine keeps_tqDropFilling ?_
  refine keeps_vxStop ?_
  exact keeps_mxClear h

theorem keeps_haltCore {o : State} {c : Nat} {s : State} (h : Keeps o s) :
    Keeps o (haltCore c s) := by
  unfold haltCore
  extract_lets +onlyGivenNames x1; try clear_value x1
  refine keeps_ite (fun _ => ?_) (fun _ => ?_)
  · exact h
  · extract_lets +onlyGivenNames t2
    have ht2 : Keeps o t2 := by
      unfold t2
      exact Keeps.upd h (fun sh => { sh with held := tsorted_filter _ sh.held }) rfl rfl rfl
    try clear_value t2
    refine keeps_clearFlds ?_
    refine keeps_put ?_ Fld.ok_coreHaltPc
    refine keeps_put ?_ Fld.ok_coreHaltCause
    refine keeps_put ?_ Fld.ok_coreHaltCode
    exact keeps_put ht2 Fld.ok_coreStatState

theorem keeps_dropRunAhead {o : State} {ch : Nat} {s : State} (h : Keeps o s) :
    Keeps o (dropRunAhead ch s) := by
  unfold dropRunAhead
  extract_lets +onlyGivenNames t1
  have ht1 : Keeps o t1 := by
    unfold t1
    exact keeps_foxCancelAll h
  try clear_value t1
  exact Keeps.upd ht1 (fun sh => { sh with }) rfl rfl rfl

theorem keeps_foxGiveUp {o : State} {ch : Nat} {s : State} (h : Keeps o s) :
    Keeps o (foxGiveUp ch s) := by
  unfold foxGiveUp
  refine keeps_foxAbandon ?_
  exact keeps_dropRunAhead h

theorem keeps_chanHalt {o : State} {ch : Nat} {s : State} (h : Keeps o s) :
    Keeps o (chanHalt ch s) := by
  unfold chanHalt
  extract_lets +onlyGivenNames x1; try clear_value x1
  extract_lets +onlyGivenNames t2
  have ht2 : Keeps o t2 := by
    unfold t2
    refine keeps_foldl ?_ ?_
    · intro b4 y5 hb3
      refine keeps_stopUnits ?_
      refine keeps_haltCore ?_
      exact keeps_endSeg hb3
    · exact h
  try clear_value t2
  extract_lets +onlyGivenNames t6
  have ht6 : Keeps o t6 := by
    unfold t6
    refine keeps_leaveBars ?_
    exact keeps_foxGiveUp ht2
  try clear_value t6
  extract_lets +onlyGivenNames t7
  have ht7 : Keeps o t7 := by
    unfold t7
    refine keeps_exchAbort ?_
    refine keeps_discardQueue ?_
    exact keeps_closeAdmit ht6
  try clear_value t7
  extract_lets +onlyGivenNames t8
  have ht8 : Keeps o t8 := by
    unfold t8
    refine keeps_flush ?_
    refine keeps_put ?_ Fld.ok_bdgStatQcount
    exact keeps_detEnd ht7
  try clear_value t8
  refine keeps_chCause ?_
  refine keeps_foldl ?_ ?_
  · intro b10 y11 hb9
    exact keeps_put hb9 Fld.ok_spdHaltPend
  · exact ht8

end Sys2Proof.Machine
end

