-- ==== Sys2Proof/Laws/KeepsChan.lean ====
section
/-!
SUPPORT. The operations of Machine/Chan.lean keep what Keeps says.
-/
namespace Sys2Proof.Machine

theorem keeps_gateWaits {o : State} {c : Nat} {mask : BitVec 8} {s : State} (h : Keeps o s) :
    Keeps o (gateWaits c mask s) := by
  unfold gateWaits
  refine keeps_foldl ?_ ?_
  · intro b4 y5 hb1
    extract_lets +onlyGivenNames x2; try clear_value x2
    extract_lets +onlyGivenNames x3; try clear_value x3
    split
    · exact keeps_ringWait hb1
    · exact keeps_ringWait hb1
    · exact keeps_epWait hb1
    · refine keeps_ite (fun _ => ?_) (fun _ => ?_)
      · exact keeps_extWait hb1
      · exact hb1
    · exact hb1
  · exact h

theorem keeps_go {o : State} {c : Nat} {i : Instr} {unit : Nat} {mask : BitVec 8} {s : State} {k : Nat → State → State} (h : Keeps o s) (h6 : ∀ g y1, Keeps o y1 → Keeps o (k g y1)) :
    KeepsOut o (go c i unit mask s k) := by
  unfold go
  extract_lets +onlyGivenNames x1; try clear_value x1
  refine keeps_issue h ?_
  intro y2 hy3
  refine keeps_ite (fun _ => ?_) (fun _ => ?_)
  · exact keeps_havoc hy3
  · split
    · extract_lets +onlyGivenNames x4; try clear_value x4
      exact keeps_hold hy3
    · extract_lets +onlyGivenNames x5; try clear_value x5
      extract_lets +onlyGivenNames t6
      have ht6 : Keeps o t6 := by
        unfold t6
        refine keeps_gateWaits ?_
        refine keeps_reach ?_
        exact keeps_waited hy3
      try clear_value t6
      refine keeps_ite (fun _ => ?_) (fun _ => ?_)
      · exact keeps_chanHalt ht6
      · refine h6 _ _ ?_
        exact keeps_retire ht6

theorem keeps_putWords {o : State} {c : Nat} {v : Nat} {lat : Nat} {ws : List (BitVec 512)} {s : State} (h : Keeps o s) :
    Keeps o (putWords c v lat ws s) := by
  unfold putWords
  exact keeps_setV h

theorem keeps_freeRoom {o : State} {c : Nat} {ep : Nat} {n : Nat} {s : State} (h : Keeps o s) :
    Keeps o (freeRoom c ep n s) := by
  unfold freeRoom
  split
  · exact keeps_send h
  · exact h

theorem keeps_pushLink {o : State} {ch : Nat} {r : Nat} {ws : List (BitVec 512)} {s : State} (h : Keeps o s) :
    Keeps o (pushLink ch r ws s) := by
  unfold pushLink
  extract_lets +onlyGivenNames x1; try clear_value x1
  extract_lets +onlyGivenNames x2; try clear_value x2
  extract_lets +onlyGivenNames x3; try clear_value x3
  refine keeps_ite (fun _ => ?_) (fun _ => ?_)
  · exact keeps_inc h Fld.ok_rteDrops
  · refine keeps_ite (fun _ => ?_) (fun _ => ?_)
    · refine keeps_tally ?_
      exact keeps_inc h Fld.ok_ownFiltTx
    · refine keeps_ite (fun _ => ?_) (fun _ => ?_)
      · exact keeps_inc h Fld.ok_rteDrops
      · refine keeps_ite (fun _ => ?_) (fun _ => ?_)
        · exact h
        · extract_lets +onlyGivenNames x4; try clear_value x4
          extract_lets +onlyGivenNames x5; try clear_value x5
          exact keeps_queueFlit h

theorem keeps_execQpush {o : State} {core : CoreId} {v : BitVec 5} {ep : BitVec 3} {a4 : BitVec 2} {s : State} (h : Keeps o s) :
    KeepsOut o (execQpush core v ep a4 s) := by
  unfold execQpush
  extract_lets +onlyGivenNames x1; try clear_value x1
  extract_lets +onlyGivenNames x2; try clear_value x2
  extract_lets +onlyGivenNames x3; try clear_value x3
  refine keeps_issue h ?_
  intro y4 hy5
  extract_lets +onlyGivenNames t6
  have ht6 : Keeps o t6 := by
    unfold t6
    refine keeps_unclean ?_
    exact keeps_stallV hy5
  try clear_value t6
  extract_lets +onlyGivenNames x7; try clear_value x7
  extract_lets +onlyGivenNames x8; try clear_value x8
  extract_lets +onlyGivenNames x9; try clear_value x9
  extract_lets +onlyGivenNames x10; try clear_value x10
  extract_lets +onlyGivenNames x11; try clear_value x11
  refine keeps_ite (fun _ => ?_) (fun _ => ?_)
  · exact keeps_havoc ht6
  · refine keeps_ite (fun _ => ?_) (fun _ => ?_)
    · refine keeps_ite (fun _ => ?_) (fun _ => ?_)
      · exact keeps_havoc ht6
      · refine keeps_pushLink ?_
        exact keeps_retire ht6
    · refine keeps_ite (fun _ => ?_) (fun _ => ?_)
      · exact keeps_havoc ht6
      · refine keeps_ite (fun _ => ?_) (fun _ => ?_)
        · exact keeps_hold ht6
        · extract_lets +onlyGivenNames t12
          have ht12 : Keeps o t12 := by
            unfold t12
            exact keeps_waited ht6
          try clear_value t12
          extract_lets +onlyGivenNames t13
          have ht13 : Keeps o t13 := by
            unfold t13
            exact keeps_put ht12 Fld.ok_epRoom
          try clear_value t13
          extract_lets +onlyGivenNames t14
          have ht14 : Keeps o t14 := by
            unfold t14
            refine keeps_foldl ?_ ?_
            · intro b16 y17 hb15
              exact keeps_send hb15
            · exact ht13
          try clear_value t14
          exact keeps_retire ht14

theorem keeps_takeWords {o : State} {c : Nat} {v : Nat} {ep : Nat} {n : Nat} {s : State} (h : Keeps o s) :
    Keeps o (takeWords c v ep n s) := by
  unfold takeWords
  extract_lets +onlyGivenNames x1; try clear_value x1
  refine keeps_freeRoom ?_
  refine keeps_setFifo ?_
  exact keeps_putWords h

theorem keeps_execQpop {o : State} {core : CoreId} {v : BitVec 5} {ep : BitVec 3} {a4 : BitVec 2} {s : State} (h : Keeps o s) :
    KeepsOut o (execQpop core v ep a4 s) := by
  unfold execQpop
  extract_lets +onlyGivenNames x1; try clear_value x1
  extract_lets +onlyGivenNames x2; try clear_value x2
  extract_lets +onlyGivenNames x3; try clear_value x3
  refine keeps_issue h ?_
  intro y4 hy5
  extract_lets +onlyGivenNames t6
  have ht6 : Keeps o t6 := by
    unfold t6
    exact keeps_unclean hy5
  try clear_value t6
  refine keeps_ite (fun _ => ?_) (fun _ => ?_)
  · exact keeps_havoc ht6
  · refine keeps_ite (fun _ => ?_) (fun _ => ?_)
    · exact keeps_hold ht6
    · refine keeps_retire ?_
      refine keeps_takeWords ?_
      refine keeps_epWait ?_
      exact keeps_waited ht6

theorem keeps_execQpeek {o : State} {core : CoreId} {v : BitVec 5} {ep : BitVec 3} {a4 : BitVec 2} {s : State} (h : Keeps o s) :
    KeepsOut o (execQpeek core v ep a4 s) := by
  unfold execQpeek
  extract_lets +onlyGivenNames x1; try clear_value x1
  extract_lets +onlyGivenNames x2; try clear_value x2
  extract_lets +onlyGivenNames x3; try clear_value x3
  refine keeps_issue h ?_
  intro y4 hy5
  extract_lets +onlyGivenNames t6
  have ht6 : Keeps o t6 := by
    unfold t6
    exact keeps_unclean hy5
  try clear_value t6
  refine keeps_ite (fun _ => ?_) (fun _ => ?_)
  · exact keeps_havoc ht6
  · refine keeps_ite (fun _ => ?_) (fun _ => ?_)
    · exact keeps_hold ht6
    · extract_lets +onlyGivenNames t7
      have ht7 : Keeps o t7 := by
        unfold t7
        refine keeps_epWait ?_
        exact keeps_waited ht6
      try clear_value t7
      refine keeps_retire ?_
      exact keeps_putWords ht7

theorem keeps_execFirstof {o : State} {core : CoreId} {v : BitVec 5} {ea : BitVec 3} {eb : BitVec 3} {gd : BitVec 5} {a6 : BitVec 2} {s : State} (h : Keeps o s) :
    KeepsOut o (execFirstof core v ea eb gd a6 s) := by
  unfold execFirstof
  extract_lets +onlyGivenNames x1; try clear_value x1
  extract_lets +onlyGivenNames x2; try clear_value x2
  extract_lets +onlyGivenNames x3; try clear_value x3
  refine keeps_issue h ?_
  intro y4 hy5
  extract_lets +onlyGivenNames t6
  have ht6 : Keeps o t6 := by
    unfold t6
    exact keeps_unclean hy5
  try clear_value t6
  extract_lets +onlyGivenNames x7; try clear_value x7
  extract_lets +onlyGivenNames x8; try clear_value x8
  extract_lets +onlyGivenNames x9; try clear_value x9
  refine keeps_ite (fun _ => ?_) (fun _ => ?_)
  · exact keeps_havoc ht6
  · refine keeps_ite (fun _ => ?_) (fun _ => ?_)
    · exact keeps_hold ht6
    · extract_lets +onlyGivenNames t10
      have ht10 : Keeps o t10 := by
        unfold t10
        refine keeps_epWait ?_
        refine keeps_epWait ?_
        exact keeps_waited ht6
      try clear_value t10
      extract_lets +onlyGivenNames t11
      have ht11 : Keeps o t11 := by
        unfold t11
        refine keeps_ite (fun _ => ?_) (fun _ => ?_)
        · exact keeps_countRace ht10
        · exact ht10
      try clear_value t11
      extract_lets +onlyGivenNames t12
      have ht12 : Keeps o t12 := by
        unfold t12
        exact keeps_takeWords ht11
      try clear_value t12
      refine keeps_retire ?_
      exact keeps_setG ht12

theorem keeps_synOp {o : State} {c : Nat} {ctr : Nat} {amt : Nat} {sub : Bool} {src : Nat} {s : State} (h : Keeps o s) :
    Keeps o (synOp c ctr amt sub src s) := by
  unfold synOp
  extract_lets +onlyGivenNames x1; try clear_value x1
  extract_lets +onlyGivenNames t2
  have ht2 : Keeps o t2 := by
    unfold t2
    refine keeps_ite (fun _ => ?_) (fun _ => ?_)
    · exact h
    · exact keeps_put h Fld.ok_synRem
  try clear_value t2
  refine keeps_ite (fun _ => ?_) (fun _ => ?_)
  · refine keeps_ite (fun _ => ?_) (fun _ => ?_)
    · refine keeps_raise ?_
      refine keeps_setBit ?_ Fld.ok_synFlagsSatLo
      exact keeps_put ht2 Fld.ok_synCnt
    · exact keeps_put ht2 Fld.ok_synCnt
  · refine keeps_ite (fun _ => ?_) (fun _ => ?_)
    · exact ht2
    · refine keeps_ite (fun _ => ?_) (fun _ => ?_)
      · refine keeps_raise ?_
        refine keeps_setBit ?_ Fld.ok_synFlagsSatHi
        exact keeps_put ht2 Fld.ok_synCnt
      · exact keeps_put ht2 Fld.ok_synCnt

theorem keeps_counterOp {o : State} {c : Nat} {i : Instr} {rem : Bool} {ep : Nat} {ctr : Nat} {amt : Nat} {sub : Bool} {s : State} (h : Keeps o s) :
    KeepsOut o (counterOp c i rem ep ctr amt sub s) := by
  unfold counterOp
  refine keeps_issue h ?_
  intro y1 hy2
  extract_lets +onlyGivenNames t3
  have ht3 : Keeps o t3 := by
    unfold t3
    exact keeps_unclean hy2
  try clear_value t3
  extract_lets +onlyGivenNames x4; try clear_value x4
  refine keeps_ite (fun _ => ?_) (fun _ => ?_)
  · refine keeps_retire ?_
    exact keeps_synOp ht3
  · extract_lets +onlyGivenNames x5; try clear_value x5
    refine keeps_ite (fun _ => ?_) (fun _ => ?_)
    · exact keeps_havoc ht3
    · split
      · refine keeps_retire ?_
        exact keeps_send ht3
      · exact keeps_havoc ht3

theorem keeps_execCinc {o : State} {core : CoreId} {rem : Bool} {ep : BitVec 3} {ctr : BitVec 4} {amt : BitVec 16} {s : State} (h : Keeps o s) :
    KeepsOut o (execCinc core rem ep ctr amt s) := by
  unfold execCinc
  exact keeps_counterOp h

theorem keeps_execCdec {o : State} {core : CoreId} {rem : Bool} {ep : BitVec 3} {ctr : BitVec 4} {amt : BitVec 16} {s : State} (h : Keeps o s) :
    KeepsOut o (execCdec core rem ep ctr amt s) := by
  unfold execCdec
  exact keeps_counterOp h

theorem keeps_execCwait {o : State} {core : CoreId} {ctr : BitVec 4} {sub : Bool} {n : BitVec 16} {s : State} (h : Keeps o s) :
    KeepsOut o (execCwait core ctr sub n s) := by
  unfold execCwait
  extract_lets +onlyGivenNames x1; try clear_value x1
  extract_lets +onlyGivenNames x2; try clear_value x2
  extract_lets +onlyGivenNames x3; try clear_value x3
  refine keeps_issue h ?_
  intro y4 hy5
  extract_lets +onlyGivenNames t6
  have ht6 : Keeps o t6 := by
    unfold t6
    exact keeps_unclean hy5
  try clear_value t6
  extract_lets +onlyGivenNames x7; try clear_value x7
  refine keeps_ite (fun _ => ?_) (fun _ => ?_)
  · exact keeps_hold ht6
  · extract_lets +onlyGivenNames t8
    have ht8 : Keeps o t8 := by
      unfold t8
      exact keeps_waited ht6
    try clear_value t8
    extract_lets +onlyGivenNames t9
    have ht9 : Keeps o t9 := by
      unfold t9
      refine keeps_ite (fun _ => ?_) (fun _ => ?_)
      · exact keeps_extWait ht8
      · exact ht8
    try clear_value t9
    refine keeps_retire ?_
    refine keeps_ite (fun _ => ?_) (fun _ => ?_)
    · exact keeps_put ht9 Fld.ok_synCnt
    · exact ht9

theorem keeps_arrive {o : State} {ch : Nat} {p : Transit → Bool} {s : State} {k : Transit → State → State} (h : Keeps o s) (h4 : ∀ y1 y2, Keeps o y2 → Keeps o (k y1 y2)) :
    KeepsOut o (arrive ch p s k) := by
  unfold arrive
  split
  · refine keepsOut_next ?_
    exact h
  · refine keepsOut_next ?_
    refine keeps_ite (fun _ => ?_) (fun _ => ?_)
    · refine h4 _ _ ?_
      exact keeps_setTransit h
    · exact h

theorem keeps_intoFifo {o : State} {c : Nat} {ep : Nat} {d : BitVec 512} {s : State} (h : Keeps o s) :
    Keeps o (intoFifo c ep d s) := by
  unfold intoFifo
  refine keeps_ite (fun _ => ?_) (fun _ => ?_)
  · exact keeps_havoc h
  · exact keeps_setFifo h

theorem keeps_execWordArrival {o : State} {core : CoreId} {ep : BitVec 3} {s : State} (h : Keeps o s) :
    KeepsOut o (execWordArrival core ep s) := by
  unfold execWordArrival
  refine keeps_arrive h ?_
  intro y1 y2 hy3
  split
  · exact keeps_intoFifo hy3
  · exact hy3

theorem keeps_execRoomReturn {o : State} {core : CoreId} {ep : BitVec 3} {s : State} (h : Keeps o s) :
    KeepsOut o (execRoomReturn core ep s) := by
  unfold execRoomReturn
  refine keeps_arrive h ?_
  intro y1 y2 hy3
  split
  · exact keeps_put hy3 Fld.ok_epRoom
  · exact hy3

theorem keeps_execCounterTokenArrival {o : State} {core : CoreId} {sender : BitVec 8} {s : State} (h : Keeps o s) :
    KeepsOut o (execCounterTokenArrival core sender s) := by
  unfold execCounterTokenArrival
  refine keeps_arrive h ?_
  intro y1 y2 hy3
  split
  · refine keeps_ite (fun _ => ?_) (fun _ => ?_)
    · exact keeps_synOp hy3
    · refine keeps_raise ?_
      exact keeps_setBit hy3 Fld.ok_synFlagsMisuse
  · exact hy3

theorem keeps_execDoneCtrIncrement {o : State} {core : CoreId} {s : State} (h : Keeps o s) :
    KeepsOut o (execDoneCtrIncrement core s) := by
  unfold execDoneCtrIncrement
  refine keeps_arrive h ?_
  intro y1 y2 hy3
  split
  · refine keeps_put ?_ Fld.ok_synRem
    exact keeps_synOp hy3
  · exact hy3

theorem keeps_execDoorbellArrival {o : State} {core : CoreId} {s : State} (h : Keeps o s) :
    KeepsOut o (execDoorbellArrival core s) := by
  unfold execDoorbellArrival
  refine keeps_arrive h ?_
  intro y1 y2 hy3
  split
  · exact keeps_put hy3 Fld.ok_coreStatDbell
  · exact hy3

theorem keeps_execRingViewUpdate {o : State} {ch : Chan} {ring : BitVec 8} {s : State} (h : Keeps o s) :
    KeepsOut o (execRingViewUpdate ch ring s) := by
  unfold execRingViewUpdate
  extract_lets +onlyGivenNames x1; try clear_value x1
  extract_lets +onlyGivenNames x2; try clear_value x2
  refine keepsOut_ite (fun _ => ?_) (fun _ => ?_)
  · refine keepsOut_next ?_
    exact h
  · extract_lets +onlyGivenNames t3
    have ht3 : Keeps o t3 := by
      unfold t3
      exact keeps_put h Fld.ok_ringViewPend
    try clear_value t3
    refine keepsOut_next ?_
    refine keeps_ite (fun _ => ?_) (fun _ => ?_)
    · exact keeps_inc ht3 Fld.ok_ringFreev
    · exact keeps_inc ht3 Fld.ok_ringPubv

theorem keeps_execGoSy {o : State} {core : CoreId} {gmask : BitVec 8} {s : State} (h : Keeps o s) :
    KeepsOut o (execGoSy core gmask s) := by
  unfold execGoSy
  extract_lets +onlyGivenNames x1; try clear_value x1
  refine keeps_go h ?_
  intro g2 y2 hy3
  extract_lets +onlyGivenNames t4
  have ht4 : Keeps o t4 := by
    unfold t4
    exact keeps_unclean hy3
  try clear_value t4
  extract_lets +onlyGivenNames x6; try clear_value x6
  extract_lets +onlyGivenNames x7; try clear_value x7
  extract_lets +onlyGivenNames x8; try clear_value x8
  refine keeps_put ?_ Fld.ok_syDoneAt
  refine keeps_put ?_ Fld.ok_syExact
  refine keeps_put ?_ Fld.ok_syAddr
  refine keeps_put ?_ Fld.ok_syEp
  refine keeps_put ?_ Fld.ok_syIdx
  exact keeps_put ht4 Fld.ok_syLeft

theorem keeps_execSyLandWord {o : State} {core : CoreId} {acc : Access} {s : State} (h : Keeps o s) :
    KeepsOut o (execSyLandWord core acc s) := by
  unfold execSyLandWord
  extract_lets +onlyGivenNames x1; try clear_value x1
  extract_lets +onlyGivenNames x2; try clear_value x2
  split
  · refine keepsOut_next ?_
    exact h
  · refine keepsOut_ite (fun _ => ?_) (fun _ => ?_)
    · refine keepsOut_next ?_
      exact h
    · extract_lets +onlyGivenNames x3; try clear_value x3
      refine keepsOut_ite (fun _ => ?_) (fun _ => ?_)
      · refine keepsOut_next ?_
        exact keeps_havoc h
      · extract_lets +onlyGivenNames t4
        have ht4 : Keeps o t4 := by
          unfold t4
          refine keeps_freeRoom ?_
          exact keeps_setFifo h
        try clear_value t4
        split
        · rename_i v5 v6 e7
          have hv6 : Keeps o v6 := by
            have k8 := congrArg (fun p => Keeps o p.2) e7
            refine k8.mp ?_
            exact keeps_spdWrite ht4
          extract_lets +onlyGivenNames t9
          have ht9 : Keeps o t9 := by
            unfold t9
            refine keeps_inc ?_ Fld.ok_syIdx
            exact keeps_put hv6 Fld.ok_syLeft
          try clear_value t9
          refine keepsOut_ite (fun _ => ?_) (fun _ => ?_)
          · refine keepsOut_next ?_
            exact ht9
          · refine keepsOut_next ?_
            refine keeps_draw ?_
            exact keeps_put ht9 Fld.ok_syDoneAt

theorem keeps_execBar {o : State} {core : CoreId} {scope : BitVec 2} {bid : BitVec 2} {gd : BitVec 5} {s : State} (h : Keeps o s) :
    KeepsOut o (execBar core scope bid gd s) := by
  unfold execBar
  extract_lets +onlyGivenNames x1; try clear_value x1
  extract_lets +onlyGivenNames x2; try clear_value x2
  extract_lets +onlyGivenNames x3; try clear_value x3
  extract_lets +onlyGivenNames x4; try clear_value x4
  extract_lets +onlyGivenNames x5; try clear_value x5
  refine keeps_issue h ?_
  intro y6 hy7
  extract_lets +onlyGivenNames t8
  have ht8 : Keeps o t8 := by
    unfold t8
    exact keeps_unclean hy7
  try clear_value t8
  refine keeps_ite (fun _ => ?_) (fun _ => ?_)
  · exact keeps_havoc ht8
  · refine keeps_ite (fun _ => ?_) (fun _ => ?_)
    · exact keeps_hold ht8
    · refine keeps_ite (fun _ => ?_) (fun _ => ?_)
      · refine keeps_retire ?_
        refine keeps_setG ?_
        exact keeps_inc ht8 Fld.ok_barCount
      · extract_lets +onlyGivenNames t9
        have ht9 : Keeps o t9 := by
          unfold t9
          exact keeps_endSeg ht8
        try clear_value t9
        extract_lets +onlyGivenNames t10
        have ht10 : Keeps o t10 := by
          unfold t10
          refine keeps_put ?_ Fld.ok_barTimer
          refine keeps_put ?_ Fld.ok_barLast
          exact keeps_put ht9 Fld.ok_barWait
        try clear_value t10
        extract_lets +onlyGivenNames t11
        have ht11 : Keeps o t11 := by
          unfold t11
          exact keeps_hold ht10
        try clear_value t11
        refine keeps_ite (fun _ => ?_) (fun _ => ?_)
        · refine keeps_foldl ?_ ?_
          · intro b13 y14 hb12
            exact keeps_tryFabric hb12
          · exact ht11
        · exact ht11

theorem keeps_execChannelBarrierRelease {o : State} {ch : Chan} {bid : BitVec 2} {s : State} (h : Keeps o s) :
    KeepsOut o (execChannelBarrierRelease ch bid s) := by
  unfold execChannelBarrierRelease
  refine keepsOut_next ?_
  refine keeps_ite (fun _ => ?_) (fun _ => ?_)
  · exact keeps_releaseChan h
  · exact h

theorem keeps_execChipBarrierRelease {o : State} {ch : Chan} {bid : BitVec 2} {s : State} (h : Keeps o s) :
    KeepsOut o (execChipBarrierRelease ch bid s) := by
  unfold execChipBarrierRelease
  refine keepsOut_next ?_
  refine keeps_ite (fun _ => ?_) (fun _ => ?_)
  · refine keeps_foldl ?_ ?_
    · intro b2 y3 hb1
      exact keeps_releaseChan hb1
    · exact h
  · exact h

theorem keeps_execBarTimeout {o : State} {ch : Chan} {scope : BitVec 2} {bid : BitVec 2} {s : State} (h : Keeps o s) :
    KeepsOut o (execBarTimeout ch scope bid s) := by
  unfold execBarTimeout
  extract_lets +onlyGivenNames x1; try clear_value x1
  refine keepsOut_ite (fun _ => ?_) (fun _ => ?_)
  · refine keepsOut_next ?_
    exact h
  · refine keepsOut_ite (fun _ => ?_) (fun _ => ?_)
    · refine keepsOut_next ?_
      exact keeps_faultBar h
    · refine keepsOut_ite (fun _ => ?_) (fun _ => ?_)
      · refine keepsOut_next ?_
        refine keeps_ite (fun _ => ?_) (fun _ => ?_)
        · exact keeps_faultFabric h
        · exact keeps_faultBar h
      · refine keepsOut_next ?_
        exact h

theorem keeps_execFabricBarrierRelease {o : State} {bid : BitVec 2} {s : State} (h : Keeps o s) :
    KeepsOut o (execFabricBarrierRelease bid s) := by
  unfold execFabricBarrierRelease
  extract_lets +onlyGivenNames x1; try clear_value x1
  refine keepsOut_next ?_
  refine keeps_ite (fun _ => ?_) (fun _ => ?_)
  · exact keeps_releaseFabric h
  · exact h

theorem keeps_submit {o : State} {c : Nat} {d : Desc} {g : Nat} {t : State} (h : Keeps o t) :
    Keeps o (submit c d g t) := by
  unfold submit
  extract_lets +onlyGivenNames x2; try clear_value x2
  extract_lets +onlyGivenNames x3; try clear_value x3
  extract_lets +onlyGivenNames t4
  have ht4 : Keeps o t4 := by
    unfold t4
    refine keeps_ite (fun _ => ?_) (fun _ => ?_)
    · exact h
    · exact keeps_draw h
  try clear_value t4
  refine keeps_put ?_ Fld.ok_fxDoneAt
  refine keeps_foxArrive ?_
  refine keeps_put ?_ Fld.ok_fxWait
  exact keeps_unclean ht4

theorem keeps_execGoFxSubmit {o : State} {core : CoreId} {gmask : BitVec 8} {s : State} (h : Keeps o s) :
    KeepsOut o (execGoFxSubmit core gmask s) := by
  unfold execGoFxSubmit
  extract_lets +onlyGivenNames x1; try clear_value x1
  refine keeps_go h ?_
  intro g2 y2 hy3
  extract_lets +onlyGivenNames x4; try clear_value x4
  refine keeps_ite (fun _ => ?_) (fun _ => ?_)
  · exact keeps_submit hy3
  · exact keeps_havoc hy3

theorem keeps_execGoFxFence {o : State} {core : CoreId} {gmask : BitVec 8} {s : State} (h : Keeps o s) :
    KeepsOut o (execGoFxFence core gmask s) := by
  unfold execGoFxFence
  extract_lets +onlyGivenNames x1; try clear_value x1
  refine keeps_go h ?_
  intro g2 y2 hy3
  exact keeps_submit hy3

theorem keeps_execRwait {o : State} {core : CoreId} {gd : BitVec 5} {ring : BitVec 8} {n : BitVec 7} {s : State} (h : Keeps o s) :
    KeepsOut o (execRwait core gd ring n s) := by
  unfold execRwait
  extract_lets +onlyGivenNames x1; try clear_value x1
  extract_lets +onlyGivenNames x2; try clear_value x2
  extract_lets +onlyGivenNames x3; try clear_value x3
  extract_lets +onlyGivenNames x4; try clear_value x4
  extract_lets +onlyGivenNames x5; try clear_value x5
  refine keeps_issue h ?_
  intro y6 hy7
  extract_lets +onlyGivenNames t8
  have ht8 : Keeps o t8 := by
    unfold t8
    exact keeps_unclean hy7
  try clear_value t8
  extract_lets +onlyGivenNames x9; try clear_value x9
  extract_lets +onlyGivenNames x10; try clear_value x10
  refine keeps_ite (fun _ => ?_) (fun _ => ?_)
  · exact keeps_havoc ht8
  · refine keeps_ite (fun _ => ?_) (fun _ => ?_)
    · exact keeps_hold ht8
    · extract_lets +onlyGivenNames t11
      have ht11 : Keeps o t11 := by
        unfold t11
        refine keeps_ringWait ?_
        exact keeps_waited ht8
      try clear_value t11
      extract_lets +onlyGivenNames x12; try clear_value x12
      extract_lets +onlyGivenNames x13; try clear_value x13
      extract_lets +onlyGivenNames x14; try clear_value x14
      extract_lets +onlyGivenNames x15; try clear_value x15
      extract_lets +onlyGivenNames t16
      have ht16 : Keeps o t16 := by
        unfold t16
        refine keeps_ite (fun _ => ?_) (fun _ => ?_)
        · exact keeps_draw ht11
        · exact ht11
      try clear_value t16
      extract_lets +onlyGivenNames t17
      have ht17 : Keeps o t17 := by
        unfold t17
        refine keeps_ite (fun _ => ?_) (fun _ => ?_)
        · exact keeps_detCause ht16
        · exact ht16
      try clear_value t17
      refine keeps_retire ?_
      exact keeps_setG ht17

theorem keeps_execRpop {o : State} {core : CoreId} {ring : BitVec 8} {n : BitVec 7} {s : State} (h : Keeps o s) :
    KeepsOut o (execRpop core ring n s) := by
  unfold execRpop
  extract_lets +onlyGivenNames x1; try clear_value x1
  extract_lets +onlyGivenNames x2; try clear_value x2
  extract_lets +onlyGivenNames x3; try clear_value x3
  refine keeps_issue h ?_
  intro y4 hy5
  extract_lets +onlyGivenNames t6
  have ht6 : Keeps o t6 := by
    unfold t6
    exact keeps_unclean hy5
  try clear_value t6
  refine keeps_ite (fun _ => ?_) (fun _ => ?_)
  · exact keeps_havoc ht6
  · extract_lets +onlyGivenNames x7; try clear_value x7
    extract_lets +onlyGivenNames t8
    have ht8 : Keeps o t8 := by
      unfold t8
      refine keeps_ite (fun _ => ?_) (fun _ => ?_)
      · exact keeps_detCause ht6
      · exact ht6
    try clear_value t8
    extract_lets +onlyGivenNames t9
    have ht9 : Keeps o t9 := by
      unfold t9
      refine keeps_foldl ?_ ?_
      · intro b11 y12 hb10
        refine keeps_put ?_ Fld.ok_foxRingPtrPub
        refine keeps_put ?_ Fld.ok_foxRingPtrTail
        refine keeps_put ?_ Fld.ok_ringCorePtr
        exact keeps_put hb10 Fld.ok_ringSlotSt
      · exact ht8
    try clear_value t9
    refine keeps_retire ?_
    refine keeps_foxReserve ?_
    exact keeps_put ht9 Fld.ok_ringPubv

theorem keeps_execRpub {o : State} {core : CoreId} {ring : BitVec 8} {n : BitVec 7} {eos : Bool} {valid : BitVec 7} {s : State} (h : Keeps o s) :
    KeepsOut o (execRpub core ring n eos valid s) := by
  unfold execRpub
  extract_lets +onlyGivenNames x1; try clear_value x1
  extract_lets +onlyGivenNames x2; try clear_value x2
  extract_lets +onlyGivenNames x3; try clear_value x3
  refine keeps_issue h ?_
  intro y4 hy5
  extract_lets +onlyGivenNames t6
  have ht6 : Keeps o t6 := by
    unfold t6
    exact keeps_unclean hy5
  try clear_value t6
  extract_lets +onlyGivenNames x7; try clear_value x7
  refine keeps_ite (fun _ => ?_) (fun _ => ?_)
  · exact keeps_havoc ht6
  · extract_lets +onlyGivenNames x8; try clear_value x8
    extract_lets +onlyGivenNames t9
    have ht9 : Keeps o t9 := by
      unfold t9
      refine keeps_foldl ?_ ?_
      · intro b14 y15 hb10
        extract_lets +onlyGivenNames x11; try clear_value x11
        extract_lets +onlyGivenNames x12; try clear_value x12
        extract_lets +onlyGivenNames x13; try clear_value x13
        refine keeps_inc ?_ Fld.ok_foxRingPtrPub
        refine keeps_put ?_ Fld.ok_foxRingPtrFill
        refine keeps_put ?_ Fld.ok_foxRingPtrHead
        refine keeps_put ?_ Fld.ok_ringCorePtr
        refine keeps_put ?_ Fld.ok_ringSlotEos
        refine keeps_put ?_ Fld.ok_ringSlotLeft
        refine keeps_put ?_ Fld.ok_ringSlotWords
        exact keeps_put hb10 Fld.ok_ringSlotSt
      · exact ht6
    try clear_value t9
    refine keeps_retire ?_
    exact keeps_put ht9 Fld.ok_ringFreev

end Sys2Proof.Machine
end

