-- ==== Sys2Proof/Laws/KeepsRerun.lean ====
section
/-!
SUPPORT. The operations of Machine/Rerun.lean keep what Keeps says.
-/
namespace Sys2Proof.Machine

theorem keeps_dropPending {o : State} {c : Nat} {d : Nat} {s : State} (h : Keeps o s) :
    Keeps o (dropPending c d s) := by
  unfold dropPending
  refine keeps_foldl ?_ ?_
  · intro b2 y3 hb1
    refine keeps_draw ?_
    exact keeps_putV hb1
  · exact h

theorem keeps_layerRerun {o : State} {c : Nat} {d : Nat} {s : State} (h : Keeps o s) :
    Keeps o (layerRerun c d s) := by
  unfold layerRerun
  extract_lets +onlyGivenNames t1
  have ht1 : Keeps o t1 := by
    unfold t1
    refine keeps_tqFree ?_
    refine keeps_vxStop ?_
    refine keeps_mxClear ?_
    exact keeps_dropPending h
  try clear_value t1
  extract_lets +onlyGivenNames t2
  have ht2 : Keeps o t2 := by
    unfold t2
    refine keeps_rerunRestore ?_
    exact keeps_resume ht1
  try clear_value t2
  extract_lets +onlyGivenNames t3
  have ht3 : Keeps o t3 := by
    unfold t3
    refine keeps_put ?_ Fld.ok_coreCyc
    exact keeps_clearFlds ht2
  try clear_value t3
  refine keeps_countRetry ?_
  exact keeps_inc ht3 Fld.ok_spdReruns

theorem keeps_arunRule {o : State} {c : Nat} {w : Nat} {port : Nat} {d : Nat} {s : State} (h : Keeps o s) :
    Keeps o (arunRule c w port d s).2 := by
  unfold arunRule
  extract_lets ch fail st n
  have hf : ∀ cause t, Keeps o t → Keeps o (fail cause t) := fun _ _ h => keeps_raise (keeps_put h Fld.ok_spdStatAerr)
  clear_value fail
  split
  · exact hf _ _ h
  split
  · exact keeps_chanHalt (hf _ _ h)
  split
  · exact keeps_chanHalt (keeps_reach (hf _ _ h))
  split
  · exact keeps_chanHalt (keeps_reach (hf _ _ h))
  · dsimp only
    exact keeps_layerRerun (keeps_raise (keeps_put h Fld.ok_spdStatAttempt))

theorem keeps_vxFound {o : State} {c : Nat} {w : Nat} {k : Check} {s : State} (h : Keeps o s) :
    Keeps o (vxFound c w k s).2 := by
  unfold vxFound
  split
  · exact keeps_arunRule h
  · show Keeps o (_)
    refine keeps_detCause ?_
    refine keeps_raise ?_
    refine keeps_put ?_ Fld.ok_spdHaltPend
    exact keeps_put h Fld.ok_spdStatUe
  · show Keeps o (_)
    exact h

end Sys2Proof.Machine
end

