-- ==== Sys2Proof/Laws/KeepsVector.lean ====
section
/-!
SUPPORT. The operations of Machine/Vector.lean keep what Keeps says.
-/
namespace Sys2Proof.Machine

theorem keeps_vecIssue {o : State} {c : Nat} {i : Instr} {vs : List Nat} {gs : List Nat} {s : State} {k : State → State} (h : Keeps o s) (h6 : ∀ y1, Keeps o y1 → Keeps o (k y1)) :
    KeepsOut o (vecIssue c i vs gs s k) := by
  unfold vecIssue
  refine keeps_issue h ?_
  intro y1 hy2
  split
  · exact keeps_hold hy2
  · refine h6 _ ?_
    refine keeps_stallG ?_
    refine keeps_stallV ?_
    exact keeps_reach hy2

theorem keeps_noteNan {o : State} {c : Nat} {ins : List (List Lane)} {out : List Lane} {s : State} (h : Keeps o s) :
    Keeps o (noteNan c ins out s) := by
  unfold noteNan
  extract_lets +onlyGivenNames x1; try clear_value x1
  refine keeps_ite (fun _ => ?_) (fun _ => ?_)
  · exact keeps_put h Fld.ok_vxStatNan
  · exact h

theorem keeps_vecTyped {o : State} {c : Nat} {i : Instr} {vd : BitVec 5} {va : BitVec 5} {vb : BitVec 5} {ty : VT} {bs : Bool} {types : List Nat} {n : Nat} {lat : Nat} {f : Lane → Lane → Lane} {nan : Bool} {s : State} (h : Keeps o s) :
    KeepsOut o (vecTyped c i vd va vb ty bs types n lat f nan s) := by
  unfold vecTyped
  extract_lets +onlyGivenNames x1; try clear_value x1
  refine keeps_vecIssue h ?_
  intro y2 hy3
  refine keeps_ite (fun _ => ?_) (fun _ => ?_)
  · exact keeps_havoc hy3
  · extract_lets +onlyGivenNames x4; try clear_value x4
    extract_lets +onlyGivenNames x5; try clear_value x5
    extract_lets +onlyGivenNames x6; try clear_value x6
    extract_lets +onlyGivenNames t7
    have ht7 : Keeps o t7 := by
      unfold t7
      refine keeps_ite (fun _ => ?_) (fun _ => ?_)
      · exact keeps_noteNan hy3
      · exact hy3
    try clear_value t7
    refine keeps_retire ?_
    exact keeps_setV ht7

theorem keeps_vecUnary {o : State} {c : Nat} {i : Instr} {vd : BitVec 5} {va : BitVec 5} {ty : VT} {types : List Nat} {n : Nat} {lat : Nat} {f : Lane → Lane} {nan : Bool} {s : State} (h : Keeps o s) :
    KeepsOut o (vecUnary c i vd va ty types n lat f nan s) := by
  unfold vecUnary
  refine keeps_vecIssue h ?_
  intro y1 hy2
  refine keeps_ite (fun _ => ?_) (fun _ => ?_)
  · exact keeps_havoc hy2
  · extract_lets +onlyGivenNames x3; try clear_value x3
    extract_lets +onlyGivenNames x4; try clear_value x4
    extract_lets +onlyGivenNames t5
    have ht5 : Keeps o t5 := by
      unfold t5
      refine keeps_ite (fun _ => ?_) (fun _ => ?_)
      · exact keeps_noteNan hy2
      · exact hy2
    try clear_value t5
    refine keeps_retire ?_
    exact keeps_setV ht5

theorem keeps_execVadd {o : State} {core : CoreId} {vd : BitVec 5} {va : BitVec 5} {vb : BitVec 5} {ty : VT} {bs : Bool} {s : State} (h : Keeps o s) :
    KeepsOut o (execVadd core vd va vb ty bs s) := by
  unfold execVadd
  exact keeps_vecTyped h

theorem keeps_execVsub {o : State} {core : CoreId} {vd : BitVec 5} {va : BitVec 5} {vb : BitVec 5} {ty : VT} {bs : Bool} {s : State} (h : Keeps o s) :
    KeepsOut o (execVsub core vd va vb ty bs s) := by
  unfold execVsub
  exact keeps_vecTyped h

theorem keeps_execVmul {o : State} {core : CoreId} {vd : BitVec 5} {va : BitVec 5} {vb : BitVec 5} {ty : VT} {bs : Bool} {s : State} (h : Keeps o s) :
    KeepsOut o (execVmul core vd va vb ty bs s) := by
  unfold execVmul
  exact keeps_vecTyped h

theorem keeps_execVfma {o : State} {core : CoreId} {vd : BitVec 5} {va : BitVec 5} {vb : BitVec 5} {vc : BitVec 5} {ty : VT} {bs : Bool} {s : State} (h : Keeps o s) :
    KeepsOut o (execVfma core vd va vb vc ty bs s) := by
  unfold execVfma
  extract_lets +onlyGivenNames x1; try clear_value x1
  extract_lets +onlyGivenNames x2; try clear_value x2
  refine keeps_vecIssue h ?_
  intro y3 hy4
  refine keeps_ite (fun _ => ?_) (fun _ => ?_)
  · exact keeps_havoc hy4
  · extract_lets +onlyGivenNames x5; try clear_value x5
    extract_lets +onlyGivenNames x6; try clear_value x6
    extract_lets +onlyGivenNames x7; try clear_value x7
    extract_lets +onlyGivenNames x8; try clear_value x8
    extract_lets +onlyGivenNames t9
    have ht9 : Keeps o t9 := by
      unfold t9
      refine keeps_ite (fun _ => ?_) (fun _ => ?_)
      · exact keeps_noteNan hy4
      · exact hy4
    try clear_value t9
    refine keeps_retire ?_
    exact keeps_setV ht9

theorem keeps_execVmin {o : State} {core : CoreId} {vd : BitVec 5} {va : BitVec 5} {vb : BitVec 5} {ty : VT} {bs : Bool} {s : State} (h : Keeps o s) :
    KeepsOut o (execVmin core vd va vb ty bs s) := by
  unfold execVmin
  exact keeps_vecTyped h

theorem keeps_execVmax {o : State} {core : CoreId} {vd : BitVec 5} {va : BitVec 5} {vb : BitVec 5} {ty : VT} {bs : Bool} {s : State} (h : Keeps o s) :
    KeepsOut o (execVmax core vd va vb ty bs s) := by
  unfold execVmax
  exact keeps_vecTyped h

theorem keeps_execVabs {o : State} {core : CoreId} {vd : BitVec 5} {va : BitVec 5} {ty : VT} {s : State} (h : Keeps o s) :
    KeepsOut o (execVabs core vd va ty s) := by
  unfold execVabs
  exact keeps_vecUnary h

theorem keeps_execVneg {o : State} {core : CoreId} {vd : BitVec 5} {va : BitVec 5} {ty : VT} {s : State} (h : Keeps o s) :
    KeepsOut o (execVneg core vd va ty s) := by
  unfold execVneg
  exact keeps_vecUnary h

theorem keeps_execVand {o : State} {core : CoreId} {vd : BitVec 5} {va : BitVec 5} {vb : BitVec 5} {bs : Bool} {s : State} (h : Keeps o s) :
    KeepsOut o (execVand core vd va vb bs s) := by
  unfold execVand
  exact keeps_vecTyped h

theorem keeps_execVor {o : State} {core : CoreId} {vd : BitVec 5} {va : BitVec 5} {vb : BitVec 5} {bs : Bool} {s : State} (h : Keeps o s) :
    KeepsOut o (execVor core vd va vb bs s) := by
  unfold execVor
  exact keeps_vecTyped h

theorem keeps_execVxor {o : State} {core : CoreId} {vd : BitVec 5} {va : BitVec 5} {vb : BitVec 5} {bs : Bool} {s : State} (h : Keeps o s) :
    KeepsOut o (execVxor core vd va vb bs s) := by
  unfold execVxor
  exact keeps_vecTyped h

theorem keeps_execVshl {o : State} {core : CoreId} {vd : BitVec 5} {va : BitVec 5} {vb : BitVec 5} {bs : Bool} {s : State} (h : Keeps o s) :
    KeepsOut o (execVshl core vd va vb bs s) := by
  unfold execVshl
  exact keeps_vecTyped h

theorem keeps_execVshr {o : State} {core : CoreId} {vd : BitVec 5} {va : BitVec 5} {vb : BitVec 5} {bs : Bool} {s : State} (h : Keeps o s) :
    KeepsOut o (execVshr core vd va vb bs s) := by
  unfold execVshr
  exact keeps_vecTyped h

theorem keeps_execVsar {o : State} {core : CoreId} {vd : BitVec 5} {va : BitVec 5} {vb : BitVec 5} {bs : Bool} {s : State} (h : Keeps o s) :
    KeepsOut o (execVsar core vd va vb bs s) := by
  unfold execVsar
  exact keeps_vecTyped h

theorem keeps_execVcmpeq {o : State} {core : CoreId} {vd : BitVec 5} {va : BitVec 5} {vb : BitVec 5} {ty : VT} {bs : Bool} {s : State} (h : Keeps o s) :
    KeepsOut o (execVcmpeq core vd va vb ty bs s) := by
  unfold execVcmpeq
  exact keeps_vecTyped h

theorem keeps_execVcmplt {o : State} {core : CoreId} {vd : BitVec 5} {va : BitVec 5} {vb : BitVec 5} {ty : VT} {bs : Bool} {s : State} (h : Keeps o s) :
    KeepsOut o (execVcmplt core vd va vb ty bs s) := by
  unfold execVcmplt
  exact keeps_vecTyped h

theorem keeps_execVcmple {o : State} {core : CoreId} {vd : BitVec 5} {va : BitVec 5} {vb : BitVec 5} {ty : VT} {bs : Bool} {s : State} (h : Keeps o s) :
    KeepsOut o (execVcmple core vd va vb ty bs s) := by
  unfold execVcmple
  exact keeps_vecTyped h

theorem keeps_execVsel {o : State} {core : CoreId} {vd : BitVec 5} {va : BitVec 5} {vb : BitVec 5} {vc : BitVec 5} {bs : Bool} {s : State} (h : Keeps o s) :
    KeepsOut o (execVsel core vd va vb vc bs s) := by
  unfold execVsel
  extract_lets +onlyGivenNames x1; try clear_value x1
  extract_lets +onlyGivenNames x2; try clear_value x2
  refine keeps_vecIssue h ?_
  intro y3 hy4
  refine keeps_retire ?_
  exact keeps_setV hy4

theorem keeps_execVmov {o : State} {core : CoreId} {vd : BitVec 5} {va : BitVec 5} {s : State} (h : Keeps o s) :
    KeepsOut o (execVmov core vd va s) := by
  unfold execVmov
  exact keeps_vecUnary h

theorem keeps_execVbcast {o : State} {core : CoreId} {vd : BitVec 5} {ga : BitVec 5} {s : State} (h : Keeps o s) :
    KeepsOut o (execVbcast core vd ga s) := by
  unfold execVbcast
  extract_lets +onlyGivenNames x1; try clear_value x1
  refine keeps_vecIssue h ?_
  intro y2 hy3
  refine keeps_retire ?_
  exact keeps_setV hy3

theorem keeps_execViota {o : State} {core : CoreId} {vd : BitVec 5} {ga : BitVec 5} {s : State} (h : Keeps o s) :
    KeepsOut o (execViota core vd ga s) := by
  unfold execViota
  extract_lets +onlyGivenNames x1; try clear_value x1
  refine keeps_vecIssue h ?_
  intro y2 hy3
  refine keeps_retire ?_
  exact keeps_setV hy3

theorem keeps_execVdiv {o : State} {core : CoreId} {vd : BitVec 5} {va : BitVec 5} {vb : BitVec 5} {ty : VT} {bs : Bool} {s : State} (h : Keeps o s) :
    KeepsOut o (execVdiv core vd va vb ty bs s) := by
  unfold execVdiv
  exact keeps_vecTyped h

theorem keeps_execVsqrt {o : State} {core : CoreId} {vd : BitVec 5} {va : BitVec 5} {ty : VT} {s : State} (h : Keeps o s) :
    KeepsOut o (execVsqrt core vd va ty s) := by
  unfold execVsqrt
  exact keeps_vecUnary h

theorem keeps_execVscale {o : State} {core : CoreId} {vd : BitVec 5} {va : BitVec 5} {vb : BitVec 5} {ty : VT} {bs : Bool} {s : State} (h : Keeps o s) :
    KeepsOut o (execVscale core vd va vb ty bs s) := by
  unfold execVscale
  exact keeps_vecTyped h

theorem keeps_noteFp8 {o : State} {c : Nat} {mode : Nat} {sat : Bool} {s : State} (h : Keeps o s) :
    Keeps o (noteFp8 c mode sat s) := by
  unfold noteFp8
  refine keeps_ite (fun _ => ?_) (fun _ => ?_)
  · exact h
  · refine keeps_raise ?_
    refine keeps_ite (fun _ => ?_) (fun _ => ?_)
    · exact keeps_put h Fld.ok_vxStatSat8
    · exact keeps_put h Fld.ok_vxStatInf8

theorem keeps_execVcvt {o : State} {core : CoreId} {vd : BitVec 5} {va : BitVec 5} {mode : BitVec 4} {pos : BitVec 2} {s : State} (h : Keeps o s) :
    KeepsOut o (execVcvt core vd va mode pos s) := by
  unfold execVcvt
  extract_lets +onlyGivenNames x1; try clear_value x1
  extract_lets +onlyGivenNames x2; try clear_value x2
  refine keeps_vecIssue h ?_
  intro y3 hy4
  extract_lets +onlyGivenNames x5; try clear_value x5
  extract_lets +onlyGivenNames x6
  have hx6 : ∀ y1 y2, Keeps o y2 → Keeps o (x6 y1 y2) := by
    intro y7 y8 hy9
    unfold x6
    refine keeps_retire ?_
    exact keeps_setV hy9
  try clear_value x6
  refine keeps_ite (fun _ => ?_) (fun _ => ?_)
  · exact keeps_havoc hy4
  · refine keeps_ite (fun _ => ?_) (fun _ => ?_)
    · refine hx6 _ _ ?_
      exact hy4
    · refine keeps_ite (fun _ => ?_) (fun _ => ?_)
      · refine hx6 _ _ ?_
        exact hy4
      · refine keeps_ite (fun _ => ?_) (fun _ => ?_)
        · refine hx6 _ _ ?_
          exact hy4
        · refine keeps_ite (fun _ => ?_) (fun _ => ?_)
          · extract_lets +onlyGivenNames x10; try clear_value x10
            extract_lets +onlyGivenNames x11; try clear_value x11
            refine hx6 _ _ ?_
            exact keeps_noteFp8 hy4
          · extract_lets +onlyGivenNames x12; try clear_value x12
            refine hx6 _ _ ?_
            exact hy4

theorem keeps_execVrsum {o : State} {core : CoreId} {gd : BitVec 5} {va : BitVec 5} {ty : VT} {s : State} (h : Keeps o s) :
    KeepsOut o (execVrsum core gd va ty s) := by
  unfold execVrsum
  extract_lets +onlyGivenNames x1; try clear_value x1
  refine keeps_vecIssue h ?_
  intro y2 hy3
  refine keeps_ite (fun _ => ?_) (fun _ => ?_)
  · exact keeps_havoc hy3
  · extract_lets +onlyGivenNames x4; try clear_value x4
    extract_lets +onlyGivenNames x5; try clear_value x5
    extract_lets +onlyGivenNames x6; try clear_value x6
    extract_lets +onlyGivenNames t7
    have ht7 : Keeps o t7 := by
      unfold t7
      refine keeps_ite (fun _ => ?_) (fun _ => ?_)
      · exact keeps_put hy3 Fld.ok_vxStatNan
      · exact hy3
    try clear_value t7
    refine keeps_retire ?_
    exact keeps_setG ht7

theorem keeps_rankOp {o : State} {c : Nat} {i : Instr} {gd : BitVec 5} {va : BitVec 5} {ty : VT} {last : Bool} {s : State} (h : Keeps o s) :
    KeepsOut o (rankOp c i gd va ty last s) := by
  unfold rankOp
  refine keeps_vecIssue h ?_
  intro y1 hy2
  refine keeps_ite (fun _ => ?_) (fun _ => ?_)
  · exact keeps_havoc hy2
  · refine keeps_retire ?_
    exact keeps_setG hy2

theorem keeps_execVrmax {o : State} {core : CoreId} {gd : BitVec 5} {va : BitVec 5} {ty : VT} {s : State} (h : Keeps o s) :
    KeepsOut o (execVrmax core gd va ty s) := by
  unfold execVrmax
  exact keeps_rankOp h

theorem keeps_execVrmin {o : State} {core : CoreId} {gd : BitVec 5} {va : BitVec 5} {ty : VT} {s : State} (h : Keeps o s) :
    KeepsOut o (execVrmin core gd va ty s) := by
  unfold execVrmin
  exact keeps_rankOp h

theorem keeps_writeList {o : State} {c : Nat} {base : Nat} {l : Nat} {lat : Nat} {rs : List Rank} {s : State} (h : Keeps o s) :
    Keeps o (writeList c base l lat rs s) := by
  unfold writeList
  refine keeps_foldl ?_ ?_
  · intro b3 y4 hb1
    extract_lets +onlyGivenNames x2; try clear_value x2
    refine keeps_setV ?_
    exact keeps_setV hb1
  · exact h

theorem keeps_topkOp {o : State} {c : Nat} {i : Instr} {vd : BitVec 5} {gd : BitVec 5} {ty : VT} {a6 : BitVec 8} {srcs : List (Nat × Nat)} {n : Nat} {lat : Nat} {cand : State → List Rank} {s : State} (h : Keeps o s) :
    KeepsOut o (topkOp c i vd gd ty a6 srcs n lat cand s) := by
  unfold topkOp
  extract_lets +onlyGivenNames x1; try clear_value x1
  extract_lets +onlyGivenNames x2; try clear_value x2
  extract_lets +onlyGivenNames x3; try clear_value x3
  extract_lets +onlyGivenNames x4; try clear_value x4
  extract_lets +onlyGivenNames x5; try clear_value x5
  refine keeps_vecIssue h ?_
  intro y6 hy7
  refine keeps_ite (fun _ => ?_) (fun _ => ?_)
  · exact keeps_havoc hy7
  · extract_lets +onlyGivenNames x8; try clear_value x8
    extract_lets +onlyGivenNames x9; try clear_value x9
    refine keeps_retire ?_
    refine keeps_setG ?_
    exact keeps_writeList hy7

theorem keeps_execTopk {o : State} {core : CoreId} {vd : BitVec 5} {va : BitVec 5} {vb : BitVec 5} {gd : BitVec 5} {ty : VT} {a7 : BitVec 8} {s : State} (h : Keeps o s) :
    KeepsOut o (execTopk core vd va vb gd ty a7 s) := by
  unfold execTopk
  extract_lets +onlyGivenNames x1; try clear_value x1
  extract_lets +onlyGivenNames x2; try clear_value x2
  exact keeps_topkOp h

theorem keeps_execTopkM {o : State} {core : CoreId} {vd : BitVec 5} {va : BitVec 5} {gd : BitVec 5} {ty : VT} {a6 : BitVec 8} {s : State} (h : Keeps o s) :
    KeepsOut o (execTopkM core vd va gd ty a6 s) := by
  unfold execTopkM
  extract_lets +onlyGivenNames x1; try clear_value x1
  extract_lets +onlyGivenNames x2; try clear_value x2
  exact keeps_topkOp h

end Sys2Proof.Machine
end

