-- ==== Sys2Proof/Laws/KeepsMatrix.lean ====
section
/-!
SUPPORT. The operations of Machine/Matrix.lean keep what Keeps says.
-/
namespace Sys2Proof.Machine

theorem keeps_mxRead {o : State} {c : Nat} {a : Access} {ws : List Nat} {got : List (BitVec 8)} {f : Fetch} (h : Keeps o f.s) :
    Keeps o (mxRead c a ws got f).2.s := by
  induction ws generalizing got f with
  | nil => exact h
  | cons w ws ih =>
    unfold mxRead
    split
    rename_i r t e1
    have ht : Keeps o t := (congrArg (fun p => Keeps o p.2) e1).mp (keeps_spdRead h)
    refine ih ?_
    dsimp only
    split <;> exact ht

theorem keeps_mxPanel {o : State} {c : Nat} {a : Access} {ws : List Nat} {n : Nat} {f : Fetch} (h : Keeps o f.s) :
    Keeps o (mxPanel c a ws n f).2.s := by
  induction n using Nat.strongRecOn generalizing f with
  | ind n ih =>
    match n with
    | 0 => exact h
    | 1 => exact keeps_mxRead h
    | n + 2 => exact ih (n + 1) (Nat.lt_succ_self _) (keeps_mxRead h)

theorem keeps_mxOne {o : State} {c tag n : Nat} {a : Access} {f : Fetch} {t : Nat} (h : Keeps o f.s) :
    Keeps o (mxOne c tag n a f t).2.s := by
  unfold mxOne
  extract_lets s fmt
  split
  split
  rename_i da f1 e1
  have h1 : Keeps o f1.s := (congrArg (fun p => Keeps o p.2.s) e1).mp (keeps_mxPanel (f := ⟨f.s, f.parity, none⟩) h)
  split
  rename_i db f2 e2
  have h2 : Keeps o f2.s := (congrArg (fun p => Keeps o p.2.s) e2).mp (keeps_mxPanel h1)
  split
  rename_i dc f3 e3
  have h3 : Keeps o f3.s := (congrArg (fun p => Keeps o p.2.s) e3).mp (keeps_mxRead h2)
  split
  exact h3

theorem mxOne_vals (c tag n : Nat) (a : Access) (f : Fetch) (t : Nat) : (mxOne c tag n a f t).1.vals.length = 1024 := by
  simp [mxOne, mxTile]

theorem mxAll_vals {c tag n : Nat} {a : Access} {ts : List Nat} {got : List Tile} {f : Fetch}
    (h : ∀ x ∈ got, x.vals.length = 1024) : ∀ x ∈ (mxAll c tag n a ts got f).1, x.vals.length = 1024 := by
  induction ts generalizing got f with
  | nil => exact h
  | cons t ts ih =>
    unfold mxAll
    split
    rename_i x f1 e1
    split
    · exact h
    · refine ih fun y hy => ?_
      rcases List.mem_append.mp hy with hy | hy
      · exact h y hy
      · rw [List.mem_singleton.mp hy]
        have := mxOne_vals c tag n a f t
        rwa [e1] at this

theorem keeps_mxAll {o : State} {c tag n : Nat} {a : Access} {ts : List Nat} {got : List Tile} {f : Fetch} (h : Keeps o f.s) :
    Keeps o (mxAll c tag n a ts got f).2.s := by
  induction ts generalizing got f with
  | nil => exact h
  | cons t ts ih =>
    unfold mxAll
    split
    rename_i x f1 e1
    have h1 : Keeps o f1.s := (congrArg (fun p => Keeps o p.2.s) e1).mp (keeps_mxOne h)
    split
    · exact h1
    · exact ih h1

theorem keeps_goMxRun {o : State} {c : Nat} {tag : Nat} {acc : Access} {g : Nat} {t : State} (h : Keeps o t) :
    Keeps o (goMxRun c tag acc g t) := by
  unfold goMxRun
  extract_lets ch n words cont int tc load rp end_
  refine keeps_ite (fun _ => keeps_havoc h) (fun _ => keeps_ite (fun _ => keeps_put h Fld.ok_mxDoneAt) (fun _ =>
    keeps_ite (fun _ => keeps_havoc h) (fun _ => ?_)))
  split
  rename_i tiles f e
  have hf : Keeps o f.s := (congrArg (fun p => Keeps o p.2.s) e).mp (keeps_mxAll h)
  have hv : ∀ x ∈ tiles, x.vals.length = 1024 := by
    have := mxAll_vals (c := c) (tag := tag) (n := n) (a := acc) (ts := List.range n) (f := { s := t }) (got := []) (by simp)
    rwa [e] at this
  extract_lets tiles' u u0 u1 x u2 u3 j
  have hu0 : Keeps o u0 := keeps_put (keeps_ite (fun _ => keeps_detCause hf) (fun _ => hf)) Fld.ok_mxStatRetained
  clear_value u0
  split
  · exact keeps_arunRule (keeps_draw hu0)
  have hu1 : Keeps o u1 := Keeps.upd hu0 (fun sh => { sh with planes := tsorted_filter _ sh.planes }) rfl rfl rfl
  clear_value u1
  refine keeps_ite (fun _ => ?_) (fun _ =>
    Keeps.upd hu1 (fun sh => { sh with mxJobs := tsorted_tset _ _ sh.mxJobs, jobVals := fun y hy => ?_ }) rfl rfl rfl)
  · have hu2 : Keeps o u2 := Keeps.upd hu1 (fun sh => { sh with planes := tsorted_tset _ _ sh.planes }) rfl rfl rfl
    have hu3 : Keeps o u3 := keeps_put (keeps_put hu2 Fld.ok_mxRetPoison) Fld.ok_mxRetAddr
    exact keeps_put (keeps_put (keeps_put (keeps_put hu3 Fld.ok_mxStatRetained) Fld.ok_mxRetPlane) Fld.ok_mxRetInt) Fld.ok_mxDoneAt
  rcases mem_tset hy with rfl | hy
  · intro x hx
    change x ∈ tiles' at hx
    unfold tiles' at hx
    split at hx
    · obtain ⟨y, hy, rfl⟩ := List.mem_map.mp hx
      exact hv y hy
    · exact hv x hx
  · exact sh.jobVals y hy

theorem keeps_execGoMx {o : State} {core : CoreId} {gmask : BitVec 8} {tag : BitVec 8} {acc : Access} {s : State} (h : Keeps o s) :
    KeepsOut o (execGoMx core gmask tag acc s) := by
  unfold execGoMx
  extract_lets +onlyGivenNames x1; try clear_value x1
  refine keeps_go h ?_
  intro g2 y2 hy3
  exact keeps_goMxRun hy3

theorem keeps_noteTile {o : State} {c : Nat} {x : Tile} {s : State} (h : Keeps o s) :
    Keeps o (noteTile c x s) := by
  unfold noteTile
  extract_lets +onlyGivenNames t1
  have ht1 : Keeps o t1 := by
    unfold t1
    refine keeps_ite (fun _ => ?_) (fun _ => ?_)
    · exact keeps_put h Fld.ok_mxStatNan
    · exact h
  try clear_value t1
  extract_lets +onlyGivenNames t2
  have ht2 : Keeps o t2 := by
    unfold t2
    refine keeps_ite (fun _ => ?_) (fun _ => ?_)
    · exact keeps_put ht1 Fld.ok_mxStatInf
    · exact ht1
  try clear_value t2
  refine keeps_ite (fun _ => ?_) (fun _ => ?_)
  · refine keeps_raise ?_
    exact keeps_put ht2 Fld.ok_mxStatPoison
  · exact ht2

theorem noteTile_mxJobs (c : Nat) (x : Tile) (s : State) : (noteTile c x s).mxJobs = s.mxJobs := by
  unfold noteTile
  dsimp only
  repeat' split
  all_goals simp

theorem keeps_execMxTileDrain {o : State} {core : CoreId} {s : State} (h : Keeps o s) :
    KeepsOut o (execMxTileDrain core s) := by
  unfold execMxTileDrain
  extract_lets c
  split
  · exact keepsOut_next h
  rename_i j hj
  split
  · exact keepsOut_next h
  rename_i x rest hx
  refine keepsOut_ite (fun _ => keepsOut_next h) (fun _ => ?_)
  split
  · exact keepsOut_next (keeps_put h Fld.ok_mxStatDrainwait)
  rename_i e he
  extract_lets p1 free pre start last want dr t q u k
  have htj : t.mxJobs = s.mxJobs := by simp [t, noteTile_mxJobs]
  have ht : Keeps o t := keeps_inc (keeps_inc (keeps_put (keeps_noteTile h) Fld.ok_mxStatDrainwait) Fld.ok_mxTiles) Fld.ok_mxStallc
  clear_value t
  have hx64 : Sound t → ∀ y ∈ x :: rest, y.vals.length = 1024 := fun sh y hy =>
    sh.jobVals _ (mem_of_tget? (htj ▸ hj)) y (by rw [hx]; exact hy)
  have hq : Keeps t q := keeps_put (keeps_put (Keeps.refl t) Fld.ok_tqEnt) Fld.ok_tqFullAt
  have hu : Keeps t u := ⟨fun sh => { hq.sound sh with
      tiles := tsorted_tset _ _ (hq.sound sh).tiles
      tileVals := fun y hy => by
        rcases mem_tset hy with rfl | hy
        · exact hx64 sh x List.mem_cons_self
        · exact (hq.sound sh).tileVals y hy }, rfl, List.prefix_refl _, Nat.le_refl _⟩
  have huj : u.mxJobs = t.mxJobs := rfl
  clear_value u
  refine keepsOut_ite (fun _ => keepsOut_next (keeps_put ?_ Fld.ok_mxDoneAt)) (fun _ => keepsOut_next ?_)
  · exact Keeps.upd (ht.trans hu) (fun sh => { sh with
      mxJobs := tsorted_tdel _ sh.mxJobs, jobVals := fun y hy => sh.jobVals y (List.mem_filter.mp hy).1 }) rfl rfl rfl
  · refine ht.trans (hu.trans ⟨fun sh => { sh with mxJobs := tsorted_tset _ _ sh.mxJobs, jobVals := fun y hy => ?_ },
      rfl, List.prefix_refl _, Nat.le_refl _⟩)
    rcases mem_tset hy with rfl | hy
    · exact fun z hz => sh.jobVals _ (mem_of_tget? ((huj.trans htj) ▸ hj)) z (by rw [hx]; exact List.mem_cons_of_mem _ hz)
    · exact sh.jobVals y hy

end Sys2Proof.Machine
end

