-- ==== Sys2Proof/Laws/KeepsVecMem.lean ====
section
/-!
SUPPORT. The operations of Machine/VecMem.lean keep what Keeps says.
-/
namespace Sys2Proof.Machine

theorem keeps_vxReads {o : State} {c : Nat} {a : Access} {ws : List Nat} {got : List (Nat × List (BitVec 8))} {s : State}
    (h : Keeps o s) : Keeps o (vxReads c a ws got s).2.2 := by
  induction ws generalizing got s with
  | nil => exact h
  | cons w ws ih =>
    unfold vxReads
    split
    rename_i r t e1
    have ht : Keeps o t := (congrArg (fun p => Keeps o p.2) e1).mp (keeps_spdRead h)
    split
    rename_i stop u e2
    have hu : Keeps o u := (congrArg (fun p => Keeps o p.2) e2).mp (keeps_vxFound ht)
    split
    · exact hu
    · exact ih (keeps_pass hu)

theorem keeps_vxWrites {o : State} {c : Nat} {a : Access} {ws : List (Nat × List (Nat × BitVec 8))} {s : State} (h : Keeps o s) :
    Keeps o (vxWrites c a ws s).2 := by
  induction ws generalizing s with
  | nil => exact h
  | cons w ws ih =>
    unfold vxWrites
    split
    rename_i k t e1
    have ht : Keeps o t := (congrArg (fun p => Keeps o p.2) e1).mp (keeps_spdWrite h)
    split
    rename_i stop u e2
    have hu : Keeps o u := (congrArg (fun p => Keeps o p.2) e2).mp (keeps_vxFound ht)
    split
    · exact hu
    · exact ih (keeps_pass hu)

theorem keeps_vxLoad {o : State} {c : Nat} {vd : Nat} {ws : List Nat} {a : Access} {lat : Nat} {f : List (Nat × List (BitVec 8)) → List Lane} {t : State} (h : Keeps o t) :
    Keeps o (vxLoad c vd ws a lat f t) := by
  unfold vxLoad
  refine keeps_ite (fun _ => ?_) (fun _ => ?_)
  · exact keeps_havoc h
  · split
    · rename_i v1 v2 v3 e4
      have hv3 : Keeps o v3 := by
        have k5 := congrArg (fun p => Keeps o p.2.2) e4
        refine k5.mp ?_
        exact keeps_vxReads h
      refine keeps_ite (fun _ => ?_) (fun _ => ?_)
      · exact hv3
      · refine keeps_retire ?_
        exact keeps_setV hv3

theorem keeps_vxStore {o : State} {c : Nat} {ws : List (Nat × List (Nat × BitVec 8))} {a : Access} {t : State} (h : Keeps o t) :
    Keeps o (vxStore c ws a t) := by
  unfold vxStore
  refine keeps_ite (fun _ => ?_) (fun _ => ?_)
  · exact keeps_havoc h
  · split
    · rename_i v1 v2 e3
      have hv2 : Keeps o v2 := by
        have k4 := congrArg (fun p => Keeps o p.2) e3
        refine k4.mp ?_
        exact keeps_vxWrites h
      refine keeps_ite (fun _ => ?_) (fun _ => ?_)
      · exact hv2
      · exact keeps_retire hv2

theorem keeps_execVld {o : State} {core : CoreId} {vd : BitVec 5} {ga : BitVec 5} {off : BitVec 19} {acc : Access} {s : State} (h : Keeps o s) :
    KeepsOut o (execVld core vd ga off acc s) := by
  unfold execVld
  extract_lets +onlyGivenNames x1; try clear_value x1
  refine keeps_vecIssue h ?_
  intro y2 hy3
  exact keeps_vxLoad hy3

theorem keeps_execVst {o : State} {core : CoreId} {vs : BitVec 5} {ga : BitVec 5} {off : BitVec 19} {acc : Access} {s : State} (h : Keeps o s) :
    KeepsOut o (execVst core vs ga off acc s) := by
  unfold execVst
  extract_lets +onlyGivenNames x1; try clear_value x1
  refine keeps_vecIssue h ?_
  intro y2 hy3
  extract_lets +onlyGivenNames x4; try clear_value x4
  exact keeps_vxStore hy3

theorem keeps_gatherOp {o : State} {c : Nat} {i : Instr} {vd : BitVec 5} {ga : BitVec 5} {vi : BitVec 5} {off : BitVec 19} {pair : Bool} {acc : Access} {s : State} (h : Keeps o s) :
    KeepsOut o (gatherOp c i vd ga vi off pair acc s) := by
  unfold gatherOp
  refine keeps_vecIssue h ?_
  intro y1 hy2
  extract_lets +onlyGivenNames x3; try clear_value x3
  exact keeps_vxLoad hy2

theorem keeps_execVgathW {o : State} {core : CoreId} {vd : BitVec 5} {ga : BitVec 5} {vi : BitVec 5} {off : BitVec 19} {acc : Access} {s : State} (h : Keeps o s) :
    KeepsOut o (execVgathW core vd ga vi off acc s) := by
  unfold execVgathW
  exact keeps_gatherOp h

theorem keeps_execVgathD {o : State} {core : CoreId} {vd : BitVec 5} {ga : BitVec 5} {vi : BitVec 5} {off : BitVec 19} {acc : Access} {s : State} (h : Keeps o s) :
    KeepsOut o (execVgathD core vd ga vi off acc s) := by
  unfold execVgathD
  exact keeps_gatherOp h

theorem keeps_scatterOp {o : State} {c : Nat} {i : Instr} {vs : BitVec 5} {ga : BitVec 5} {vi : BitVec 5} {off : BitVec 19} {pair : Bool} {acc : Access} {s : State} (h : Keeps o s) :
    KeepsOut o (scatterOp c i vs ga vi off pair acc s) := by
  unfold scatterOp
  refine keeps_vecIssue h ?_
  intro y1 hy2
  extract_lets +onlyGivenNames x3; try clear_value x3
  exact keeps_vxStore hy2

theorem keeps_execVscatW {o : State} {core : CoreId} {vs : BitVec 5} {ga : BitVec 5} {vi : BitVec 5} {off : BitVec 19} {acc : Access} {s : State} (h : Keeps o s) :
    KeepsOut o (execVscatW core vs ga vi off acc s) := by
  unfold execVscatW
  exact keeps_scatterOp h

theorem keeps_execVscatD {o : State} {core : CoreId} {vs : BitVec 5} {ga : BitVec 5} {vi : BitVec 5} {off : BitVec 19} {acc : Access} {s : State} (h : Keeps o s) :
    KeepsOut o (execVscatD core vs ga vi off acc s) := by
  unfold execVscatD
  exact keeps_scatterOp h

theorem keeps_notePoisonTile {o : State} {c : Nat} {x : Tile} {s : State} (h : Keeps o s) :
    Keeps o (notePoisonTile c x s) := by
  unfold notePoisonTile
  refine keeps_ite (fun _ => ?_) (fun _ => ?_)
  · refine keeps_detCause ?_
    refine keeps_raise ?_
    exact keeps_put h Fld.ok_vxStatPoison
  · exact h

theorem keeps_releaseHead {o : State} {c : Nat} {a2 : Nat} {s : State} (h : Keeps o s) :
    Keeps o (releaseHead c a2 s) := by
  unfold releaseHead
  extract_lets +onlyGivenNames x1; try clear_value x1
  extract_lets +onlyGivenNames t2
  have ht2 : Keeps o t2 := by
    unfold t2
    refine keeps_inc ?_ Fld.ok_tqPops
    refine keeps_put ?_ Fld.ok_tqHead
    refine keeps_put ?_ Fld.ok_tqFreeAt
    exact keeps_put h Fld.ok_tqEnt
  try clear_value t2
  exact Keeps.upd ht2 (fun sh => { sh with tiles := tsorted_filter _ sh.tiles, tileVals := fun e he => sh.tileVals e (List.mem_filter.mp he).1 }) rfl rfl rfl

theorem keeps_execVtpop {o : State} {core : CoreId} {vd : BitVec 5} {gd : BitVec 5} {rp : BitVec 4} {rel : Bool} {nr : Bool} {s : State} (h : Keeps o s) :
    KeepsOut o (execVtpop core vd gd rp rel nr s) := by
  unfold execVtpop
  extract_lets +onlyGivenNames x1; try clear_value x1
  extract_lets +onlyGivenNames x2; try clear_value x2
  refine keeps_vecIssue h ?_
  intro y3 hy4
  refine keeps_ite (fun _ => ?_) (fun _ => ?_)
  · exact keeps_havoc hy4
  · split
    · refine keeps_hold ?_
      exact keeps_put hy4 Fld.ok_vxStatTqwait
    · extract_lets +onlyGivenNames t5
      have ht5 : Keeps o t5 := by
        unfold t5
        refine keeps_put ?_ Fld.ok_vxStatTqwait
        exact keeps_reach hy4
      try clear_value t5
      extract_lets +onlyGivenNames t6
      have ht6 : Keeps o t6 := by
        unfold t6
        exact keeps_setG ht5
      try clear_value t6
      extract_lets +onlyGivenNames t7
      have ht7 : Keeps o t7 := by
        unfold t7
        refine keeps_ite (fun _ => ?_) (fun _ => ?_)
        · exact ht6
        · refine keeps_notePoisonTile ?_
          refine keeps_setV ?_
          exact keeps_put ht6 Fld.ok_tqEnt
      try clear_value t7
      refine keeps_retire ?_
      refine keeps_ite (fun _ => ?_) (fun _ => ?_)
      · exact keeps_releaseHead ht7
      · exact ht7

theorem keeps_execGoVx {o : State} {core : CoreId} {gmask : BitVec 8} {s : State} (h : Keeps o s) :
    KeepsOut o (execGoVx core gmask s) := by
  unfold execGoVx
  extract_lets +onlyGivenNames x1; try clear_value x1
  refine keeps_go h ?_
  intro g2 y2 hy3
  extract_lets +onlyGivenNames x5; try clear_value x5
  refine keeps_ite (fun _ => ?_) (fun _ => ?_)
  · exact keeps_put hy3 Fld.ok_vxDoneAt
  · extract_lets +onlyGivenNames x6; try clear_value x6
    exact Keeps.upd hy3 (fun sh => { sh with vxJobs := tsorted_tset _ _ sh.vxJobs }) rfl rfl rfl

theorem keeps_spillWords {o : State} {c : Nat} {a : Access} {ws : List (Nat × List (BitVec 8))} {s : State} (h : Keeps o s) :
    Keeps o (spillWords c a ws s) := by
  induction ws generalizing s with
  | nil => exact h
  | cons w ws ih => exact ih (keeps_spdWrite h)

theorem keeps_execSpillTile {o : State} {core : CoreId} {acc : Access} {s : State} (h : Keeps o s) :
    KeepsOut o (execSpillTile core acc s) := by
  unfold execSpillTile
  extract_lets +onlyGivenNames x1; try clear_value x1
  split
  · refine keepsOut_ite (fun _ => ?_) (fun _ => ?_)
    · refine keepsOut_next ?_
      exact h
    · refine keepsOut_ite (fun _ => ?_) (fun _ => ?_)
      · refine keepsOut_next ?_
        exact keeps_havoc h
      · extract_lets +onlyGivenNames x2; try clear_value x2
        extract_lets +onlyGivenNames x3; try clear_value x3
        split
        · extract_lets +onlyGivenNames x4; try clear_value x4
          extract_lets +onlyGivenNames x5; try clear_value x5
          refine keepsOut_ite (fun _ => ?_) (fun _ => ?_)
          · refine keepsOut_next ?_
            exact keeps_havoc h
          · extract_lets +onlyGivenNames t6
            have ht6 : Keeps o t6 := by
              unfold t6
              refine keeps_noteFp8 ?_
              exact keeps_notePoisonTile h
            try clear_value t6
            extract_lets +onlyGivenNames t7
            have ht7 : Keeps o t7 := by
              unfold t7
              refine keeps_releaseHead ?_
              exact keeps_spillWords ht6
            try clear_value t7
            refine keepsOut_ite (fun _ => ?_) (fun _ => ?_)
            · refine keepsOut_next ?_
              refine keeps_put ?_ Fld.ok_vxDoneAt
              exact Keeps.upd ht7 (fun sh => { sh with vxJobs := tsorted_filter _ sh.vxJobs }) rfl rfl rfl
            · refine keepsOut_next ?_
              exact Keeps.upd ht7 (fun sh => { sh with vxJobs := tsorted_tset _ _ sh.vxJobs }) rfl rfl rfl
  · refine keepsOut_next ?_
    exact h

end Sys2Proof.Machine
end

