-- ==== Sys2Proof/Laws/KeepsWaits.lean ====
section
/-!
SUPPORT. The operations of Machine/Waits.lean keep what Keeps says.
-/
namespace Sys2Proof.Machine

theorem keeps_enterDoze {o : State} {ch : Nat} {dark : Bool} {s : State} (h : Keeps o s) :
    Keeps o (enterDoze ch dark s) := by
  unfold enterDoze
  refine keeps_setPwr ?_
  exact keeps_put h Fld.ok_pwrDark

theorem keeps_dozeTry {o : State} {ch : Nat} {s : State} (h : Keeps o s) :
    Keeps o (dozeTry ch s) := by
  unfold dozeTry
  extract_lets +onlyGivenNames x1; try clear_value x1
  refine keeps_ite (fun _ => ?_) (fun _ => ?_)
  · refine keeps_ite (fun _ => ?_) (fun _ => ?_)
    · exact keeps_enterDoze h
    · exact keeps_inc h Fld.ok_chPwrStatDefer
  · exact h

theorem keeps_waitMarks {o : State} {c : Nat} {mask : Nat} {s : State} (h : Keeps o s) :
    Keeps o (waitMarks c mask s) := by
  unfold waitMarks
  extract_lets +onlyGivenNames t1
  have ht1 : Keeps o t1 := by
    unfold t1
    refine keeps_ite (fun _ => ?_) (fun _ => ?_)
    · exact keeps_ringWait h
    · exact h
  try clear_value t1
  extract_lets +onlyGivenNames x2; try clear_value x2
  refine keeps_ite (fun _ => ?_) (fun _ => ?_)
  · exact keeps_extWait ht1
  · exact ht1

theorem keeps_waitDone {o : State} {c : Nat} {mask : Nat} {gd : BitVec 5} {s : State} (h : Keeps o s) :
    Keeps o (waitDone c mask gd s) := by
  unfold waitDone
  extract_lets +onlyGivenNames x1; try clear_value x1
  extract_lets +onlyGivenNames t2
  have ht2 : Keeps o t2 := by
    unfold t2
    refine keeps_ite (fun _ => ?_) (fun _ => ?_)
    · exact keeps_put h Fld.ok_coreStatDbell
    · exact h
  try clear_value t2
  refine keeps_retire ?_
  refine keeps_setG ?_
  exact keeps_waitMarks ht2

theorem keeps_napCore {o : State} {c : Nat} {s : State} (h : Keeps o s) :
    Keeps o (napCore c s) := by
  unfold napCore
  refine keeps_put ?_ Fld.ok_coreAlign
  refine keeps_put ?_ Fld.ok_coreStatState
  exact keeps_pass h

theorem keeps_execWait {o : State} {core : CoreId} {mask : BitVec 6} {gd : BitVec 5} {s : State} (h : Keeps o s) :
    KeepsOut o (execWait core mask gd s) := by
  unfold execWait
  extract_lets +onlyGivenNames x1; try clear_value x1
  extract_lets +onlyGivenNames x2; try clear_value x2
  extract_lets +onlyGivenNames x3; try clear_value x3
  refine keeps_issue h ?_
  intro y4 hy5
  extract_lets +onlyGivenNames t6
  have ht6 : Keeps o t6 := by
    unfold t6
    exact keeps_unclean hy5
  try clear_value t6
  refine keeps_ite (fun _ => ?_) (fun _ => ?_)
  · refine keeps_waitDone ?_
    exact keeps_waited ht6
  · extract_lets +onlyGivenNames t7
    have ht7 : Keeps o t7 := by
      unfold t7
      exact keeps_hold ht6
    try clear_value t7
    split
    · refine keeps_ite (fun _ => ?_) (fun _ => ?_)
      · refine keeps_napCore ?_
        exact keeps_reach ht7
      · refine keeps_ite (fun _ => ?_) (fun _ => ?_)
        · exact keeps_dozeTry ht7
        · exact ht7
    · refine keeps_ite (fun _ => ?_) (fun _ => ?_)
      · exact keeps_dozeTry ht7
      · exact ht7

theorem keeps_execNapWake {o : State} {core : CoreId} {s : State} (h : Keeps o s) :
    KeepsOut o (execNapWake core s) := by
  unfold execNapWake
  extract_lets +onlyGivenNames x1; try clear_value x1
  split
  · refine keepsOut_ite (fun _ => ?_) (fun _ => ?_)
    · extract_lets +onlyGivenNames t2
      have ht2 : Keeps o t2 := by
        unfold t2
        refine keeps_put ?_ Fld.ok_coreStatOnfic
        refine keeps_put ?_ Fld.ok_coreSqf
        exact keeps_resume h
      try clear_value t2
      refine keepsOut_next ?_
      refine keeps_waitDone ?_
      exact keeps_detCause ht2
    · refine keepsOut_next ?_
      exact h
  · refine keepsOut_next ?_
    exact h

theorem keeps_execAlignerLock {o : State} {core : CoreId} {s : State} (h : Keeps o s) :
    KeepsOut o (execAlignerLock core s) := by
  unfold execAlignerLock
  extract_lets +onlyGivenNames x1; try clear_value x1
  refine keepsOut_next ?_
  refine keeps_ite (fun _ => ?_) (fun _ => ?_)
  · exact keeps_put h Fld.ok_coreAlign
  · exact h

theorem keeps_execWaitIdle {o : State} {core : CoreId} {units : BitVec 4} {s : State} (h : Keeps o s) :
    KeepsOut o (execWaitIdle core units s) := by
  unfold execWaitIdle
  extract_lets +onlyGivenNames x1; try clear_value x1
  extract_lets +onlyGivenNames x2; try clear_value x2
  extract_lets +onlyGivenNames x3; try clear_value x3
  extract_lets +onlyGivenNames x4; try clear_value x4
  refine keeps_issue h ?_
  intro y5 hy6
  refine keeps_ite (fun _ => ?_) (fun _ => ?_)
  · exact keeps_chanHalt hy6
  · split
    · exact keeps_hold hy6
    · extract_lets +onlyGivenNames x7; try clear_value x7
      extract_lets +onlyGivenNames t8
      have ht8 : Keeps o t8 := by
        unfold t8
        refine keeps_retire ?_
        refine keeps_reach ?_
        exact keeps_waited hy6
      try clear_value t8
      refine keeps_ite (fun _ => ?_) (fun _ => ?_)
      · exact keeps_rerunPoint ht8
      · exact ht8

theorem keeps_startCore {o : State} {c : Nat} {s : State} (h : Keeps o s) :
    Keeps o (startCore c s) := by
  unfold startCore
  extract_lets +onlyGivenNames t1
  have ht1 : Keeps o t1 := by
    unfold t1
    exact keeps_rerunPoint h
  try clear_value t1
  refine keeps_ite (fun _ => ?_) (fun _ => ?_)
  · refine keeps_put ?_ Fld.ok_coreStartWait
    exact keeps_put ht1 Fld.ok_coreStatState
  · refine keeps_put ?_ Fld.ok_coreStartWait
    exact keeps_put ht1 Fld.ok_coreStatState

theorem keeps_startWaiting {o : State} {c : Nat} {s : State} (h : Keeps o s) :
    Keeps o (startWaiting c s) := by
  unfold startWaiting
  refine keeps_ite (fun _ => ?_) (fun _ => ?_)
  · refine keeps_put ?_ Fld.ok_coreStartWait
    exact keeps_put h Fld.ok_coreStatState
  · exact h

theorem keeps_execCoreCtlRun {o : State} {core : CoreId} {s : State} (h : Keeps o s) :
    KeepsOut o (execCoreCtlRun core s) := by
  unfold execCoreCtlRun
  extract_lets +onlyGivenNames x1; try clear_value x1
  refine keepsOut_next ?_
  refine keeps_ite (fun _ => ?_) (fun _ => ?_)
  · exact keeps_startCore h
  · exact h

theorem keeps_execCoreCtlStop {o : State} {core : CoreId} {s : State} (h : Keeps o s) :
    KeepsOut o (execCoreCtlStop core s) := by
  unfold execCoreCtlStop
  extract_lets +onlyGivenNames x1; try clear_value x1
  refine keepsOut_ite (fun _ => ?_) (fun _ => ?_)
  · refine keepsOut_next ?_
    exact h
  · refine keepsOut_next ?_
    refine keeps_clearFlds ?_
    refine keeps_put ?_ Fld.ok_coreStatState
    exact Keeps.upd h (fun sh => { sh with held := tsorted_filter _ sh.held }) rfl rfl rfl

theorem keeps_execCoreCtlDbell {o : State} {core : CoreId} {s : State} (h : Keeps o s) :
    KeepsOut o (execCoreCtlDbell core s) := by
  unfold execCoreCtlDbell
  refine keepsOut_next ?_
  refine keeps_ite (fun _ => ?_) (fun _ => ?_)
  · exact keeps_put h Fld.ok_coreStatDbell
  · exact h

theorem keeps_clearV {o : State} {c : Nat} {s : State} (h : Keeps o s) :
    Keeps o (clearV c s) := by
  unfold clearV
  exact Keeps.upd h (fun sh => { sh with vreg := tsorted_filter _ sh.vreg, lanes := fun e he => sh.lanes e (List.mem_filter.mp he).1 }) rfl rfl rfl

theorem keeps_coreReset {o : State} {c : Nat} {s : State} (h : Keeps o s) :
    Keeps o (coreReset c s) := by
  unfold coreReset
  extract_lets +onlyGivenNames t1
  have ht1 : Keeps o t1 := by
    unfold t1
    refine keeps_clearV ?_
    refine keeps_tqFree ?_
    refine keeps_vxStop ?_
    refine keeps_mxClear ?_
    exact keeps_endSeg h
  try clear_value t1
  extract_lets +onlyGivenNames t2
  have ht2 : Keeps o t2 := by
    unfold t2
    refine keeps_clearFlds ?_
    exact keeps_clearFlds ht1
  try clear_value t2
  exact Keeps.upd ht2 (fun sh => { sh with rerun := tsorted_filter _ sh.rerun, rerunFits := fun e he => sh.rerunFits e (List.mem_filter.mp he).1, held := tsorted_filter _ sh.held }) rfl rfl rfl

theorem keeps_execCoreCtlCreset {o : State} {core : CoreId} {s : State} (h : Keeps o s) :
    KeepsOut o (execCoreCtlCreset core s) := by
  unfold execCoreCtlCreset
  extract_lets +onlyGivenNames x1; try clear_value x1
  extract_lets +onlyGivenNames x2; try clear_value x2
  refine keepsOut_ite (fun _ => ?_) (fun _ => ?_)
  · refine keepsOut_next ?_
    exact h
  · refine keepsOut_next ?_
    refine keeps_coreReset ?_
    refine keeps_ite (fun _ => ?_) (fun _ => ?_)
    · exact h
    · exact keeps_raise h

theorem keeps_execConflictHaltTimeout {o : State} {core : CoreId} {s : State} (h : Keeps o s) :
    KeepsOut o (execConflictHaltTimeout core s) := by
  unfold execConflictHaltTimeout
  refine keepsOut_next ?_
  refine keeps_ite (fun _ => ?_) (fun _ => ?_)
  · exact keeps_chanHalt h
  · exact h

theorem keeps_execSweeperVisit {o : State} {core : CoreId} {bank : BitVec 4} {s : State} (h : Keeps o s) :
    KeepsOut o (execSweeperVisit core bank s) := by
  unfold execSweeperVisit
  extract_lets +onlyGivenNames x1; try clear_value x1
  extract_lets +onlyGivenNames x2; try clear_value x2
  refine keepsOut_ite (fun _ => ?_) (fun _ => ?_)
  · refine keepsOut_next ?_
    exact h
  · extract_lets +onlyGivenNames x3; try clear_value x3
    extract_lets +onlyGivenNames t4
    have ht4 : Keeps o t4 := by
      unfold t4
      refine keeps_ite (fun _ => ?_) (fun _ => ?_)
      · exact keeps_storeWord h
      · exact h
    try clear_value t4
    extract_lets +onlyGivenNames t5
    have ht5 : Keeps o t5 := by
      unfold t5
      exact keeps_inc ht4 Fld.ok_spdSweepPos
    try clear_value t5
    extract_lets +onlyGivenNames t6
    have ht6 : Keeps o t6 := by
      unfold t6
      exact keeps_put ht5 Fld.ok_spdVisited
    try clear_value t6
    refine keepsOut_next ?_
    refine keeps_ite (fun _ => ?_) (fun _ => ?_)
    · exact keeps_put ht6 Fld.ok_spdStatSwept
    · exact ht6

theorem keeps_execBankInitDone {o : State} {core : CoreId} {bank : BitVec 4} {s : State} (h : Keeps o s) :
    KeepsOut o (execBankInitDone core bank s) := by
  unfold execBankInitDone
  extract_lets +onlyGivenNames x1; try clear_value x1
  refine keepsOut_ite (fun _ => ?_) (fun _ => ?_)
  · refine keepsOut_next ?_
    exact h
  · extract_lets +onlyGivenNames t2
    have ht2 : Keeps o t2 := by
      unfold t2
      exact keeps_initBank h
    try clear_value t2
    refine keepsOut_next ?_
    refine keeps_startWaiting ?_
    refine keeps_ite (fun _ => ?_) (fun _ => ?_)
    · exact keeps_put ht2 Fld.ok_spdStatSwept
    · exact ht2

theorem keeps_execGroupPowerUpDone {o : State} {core : CoreId} {group : BitVec 2} {s : State} (h : Keeps o s) :
    KeepsOut o (execGroupPowerUpDone core group s) := by
  unfold execGroupPowerUpDone
  extract_lets +onlyGivenNames x1; try clear_value x1
  extract_lets +onlyGivenNames x2; try clear_value x2
  refine keepsOut_ite (fun _ => ?_) (fun _ => ?_)
  · refine keepsOut_next ?_
    exact h
  · refine keepsOut_next ?_
    refine keeps_spdReadyUpdate ?_
    refine keeps_put ?_ Fld.ok_spdInitMask
    exact keeps_put h Fld.ok_spdUpMask

theorem keeps_execSpdKindPwrWrite {o : State} {core : CoreId} {pwr : Bool} {value : BitVec 16} {s : State} (h : Keeps o s) :
    KeepsOut o (execSpdKindPwrWrite core pwr value s) := by
  unfold execSpdKindPwrWrite
  extract_lets +onlyGivenNames x1; try clear_value x1
  extract_lets +onlyGivenNames x2; try clear_value x2
  refine keepsOut_ite (fun _ => ?_) (fun _ => ?_)
  · refine keepsOut_next ?_
    exact h
  · refine keepsOut_next ?_
    refine keeps_ite (fun _ => ?_) (fun _ => ?_)
    · exact keeps_setGroups h
    · exact keeps_setKinds h

theorem keeps_badgerCore {o : State} {ch : Nat} {s : State} {c : Nat} (h : Keeps o s) :
    Keeps o (badgerCore ch s c) := by
  unfold badgerCore
  extract_lets +onlyGivenNames x1; try clear_value x1
  refine keeps_put ?_ Fld.ok_bdgCorePc
  refine keeps_put ?_ Fld.ok_bdgCoreObj
  refine keeps_put ?_ Fld.ok_bdgCoreWkind
  refine keeps_put ?_ Fld.ok_bdgCoreExt
  exact keeps_put h Fld.ok_bdgCoreState

theorem keeps_execBadgerReport {o : State} {ch : Chan} {s : State} (h : Keeps o s) :
    KeepsOut o (execBadgerReport ch s) := by
  unfold execBadgerReport
  extract_lets +onlyGivenNames x1; try clear_value x1
  refine keepsOut_ite (fun _ => ?_) (fun _ => ?_)
  · refine keepsOut_next ?_
    exact h
  · refine keepsOut_ite (fun _ => ?_) (fun _ => ?_)
    · refine keepsOut_next ?_
      exact keeps_put h Fld.ok_bdgStatSilent
    · extract_lets +onlyGivenNames x2; try clear_value x2
      extract_lets +onlyGivenNames x3; try clear_value x3
      extract_lets +onlyGivenNames t4
      have ht4 : Keeps o t4 := by
        unfold t4
        refine keeps_foldl ?_ ?_
        · intro b6 y7 hb5
          exact keeps_badgerCore hb5
        · exact h
      try clear_value t4
      extract_lets +onlyGivenNames t8
      have ht8 : Keeps o t8 := by
        unfold t8
        refine keeps_inc ?_ Fld.ok_bdgReports
        refine keeps_put ?_ Fld.ok_bdgStatDeadlock
        exact keeps_put ht4 Fld.ok_bdgWhen
      try clear_value t8
      refine keepsOut_next ?_
      refine keeps_chanHalt ?_
      exact keeps_raise ht8

end Sys2Proof.Machine
end

