-- ==== Sys2Proof/Laws/KeepsService.lean ====
section
/-!
SUPPORT. The operations of Machine/Service.lean keep what Keeps says.
-/
namespace Sys2Proof.Machine

theorem keeps_svcError {o : State} {dest : ReplyTo} {key : Option Nat} {svc : Nat} {client : Nat} {req : Nat} {code : Nat} {detail : Nat} {s : State} (h : Keeps o s) :
    Keeps o (svcError dest key svc client req code detail s) := by
  unfold svcError
  extract_lets +onlyGivenNames x1; try clear_value x1
  extract_lets +onlyGivenNames t2
  have ht2 : Keeps o t2 := by
    unfold t2
    exact keeps_inc h Fld.ok_sveSvcW3Errors
  try clear_value t2
  extract_lets +onlyGivenNames t3
  have ht3 : Keeps o t3 := by
    unfold t3
    refine keeps_ite (fun _ => ?_) (fun _ => ?_)
    · exact keeps_raise ht2
    · exact ht2
  try clear_value t3
  refine keeps_ite (fun _ => ?_) (fun _ => ?_)
  · exact ht3
  · exact keeps_sendError ht3

theorem keeps_checkDgram {o : State} {d : Dgram} {s : State} (h : Keeps o s) :
    Keeps o (checkDgram d s) := by
  unfold checkDgram
  extract_lets +onlyGivenNames x1; try clear_value x1
  extract_lets +onlyGivenNames x2; try clear_value x2
  extract_lets +onlyGivenNames x3; try clear_value x3
  extract_lets +onlyGivenNames x4; try clear_value x4
  extract_lets +onlyGivenNames x5; try clear_value x5
  extract_lets +onlyGivenNames x6; try clear_value x6
  extract_lets +onlyGivenNames x7; try clear_value x7
  extract_lets +onlyGivenNames x8; try clear_value x8
  extract_lets +onlyGivenNames x9; try clear_value x9
  extract_lets +onlyGivenNames x10; try clear_value x10
  extract_lets +onlyGivenNames x11; try clear_value x11
  extract_lets +onlyGivenNames x12; try clear_value x12
  refine keeps_ite (fun _ => ?_) (fun _ => ?_)
  · exact h
  · refine keeps_ite (fun _ => ?_) (fun _ => ?_)
    · exact keeps_sendError h
    · refine keeps_ite (fun _ => ?_) (fun _ => ?_)
      · exact keeps_sendError h
      · refine keeps_ite (fun _ => ?_) (fun _ => ?_)
        · exact keeps_sendError h
        · refine keeps_ite (fun _ => ?_) (fun _ => ?_)
          · exact keeps_sendError h
          · refine keeps_ite (fun _ => ?_) (fun _ => ?_)
            · refine keeps_raise ?_
              exact keeps_inc h Fld.ok_sveSvcW3Tagfail
            · refine keeps_ite (fun _ => ?_) (fun _ => ?_)
              · exact keeps_svcError h
              · split
                · exact keeps_svcError h
                · split
                  · exact keeps_svcError h
                  · extract_lets +onlyGivenNames x13; try clear_value x13
                    exact Keeps.upd h (fun sh => { sh with }) rfl rfl rfl

theorem keeps_execFrameReceive {o : State} {port : BitVec 1} {frame : List (BitVec 8)} {fcs : Bool} {s : State} (h : Keeps o s) :
    KeepsOut o (execFrameReceive port frame fcs s) := by
  unfold execFrameReceive
  extract_lets +onlyGivenNames x1; try clear_value x1
  refine keepsOut_ite (fun _ => ?_) (fun _ => ?_)
  · refine keepsOut_next ?_
    exact h
  · refine keepsOut_ite (fun _ => ?_) (fun _ => ?_)
    · refine keepsOut_next ?_
      exact keeps_inc h Fld.ok_svePortRxDrop
    · split
      · refine keepsOut_next ?_
        refine keeps_checkDgram ?_
        exact keeps_inc h Fld.ok_svePortRxOk
      · refine keepsOut_ite (fun _ => ?_) (fun _ => ?_)
        · refine keepsOut_next ?_
          extract_lets +onlyGivenNames t2
          have ht2 : Keeps o t2 := by
            unfold t2
            exact keeps_inc h Fld.ok_svePortRxSlow
          try clear_value t2
          exact Keeps.upd ht2 (fun sh => { sh with }) rfl rfl rfl
        · refine keepsOut_next ?_
          exact keeps_inc h Fld.ok_svePortRxDrop

theorem keeps_execSlowPathReply {o : State} {port : BitVec 1} {s : State} (h : Keeps o s) :
    KeepsOut o (execSlowPathReply port s) := by
  unfold execSlowPathReply
  extract_lets +onlyGivenNames x1; try clear_value x1
  split
  · refine keepsOut_next ?_
    exact h
  · refine keepsOut_ite (fun _ => ?_) (fun _ => ?_)
    · refine keepsOut_next ?_
      exact h
    · extract_lets +onlyGivenNames t2
      have ht2 : Keeps o t2 := by
        unfold t2
        exact Keeps.upd h (fun sh => { sh with }) rfl rfl rfl
      try clear_value t2
      extract_lets +onlyGivenNames x3; try clear_value x3
      extract_lets +onlyGivenNames x4; try clear_value x4
      refine keepsOut_ite (fun _ => ?_) (fun _ => ?_)
      · refine keepsOut_next ?_
        refine keeps_raise ?_
        exact keeps_inc ht2 Fld.ok_svePortRxDrop
      · refine keepsOut_next ?_
        refine keeps_inc ?_ Fld.ok_svePortTx
        refine keeps_emit ?_
        refine keeps_put ?_ Fld.ok_slowCnt
        exact keeps_put ht2 Fld.ok_slowSec

theorem keeps_admitRequest {o : State} {a1 : Request} {w : Window} {s : State} (h : Keeps o s) :
    Keeps o (admitRequest a1 w s) := by
  unfold admitRequest
  extract_lets +onlyGivenNames x1; try clear_value x1
  extract_lets +onlyGivenNames x2; try clear_value x2
  extract_lets +onlyGivenNames x3; try clear_value x3
  extract_lets +onlyGivenNames x4; try clear_value x4
  extract_lets +onlyGivenNames t5
  have ht5 : Keeps o t5 := by
    unfold t5
    refine keeps_ite (fun _ => ?_) (fun _ => ?_)
    · exact h
    · refine keeps_useTag ?_
      exact Keeps.upd h (fun sh => { sh with windows := tsorted_tset _ _ sh.windows }) rfl rfl rfl
  try clear_value t5
  extract_lets +onlyGivenNames x6; try clear_value x6
  extract_lets +onlyGivenNames x7; try clear_value x7
  extract_lets +onlyGivenNames x8; try clear_value x8
  extract_lets +onlyGivenNames x9; try clear_value x9
  extract_lets +onlyGivenNames t10
  have ht10 : Keeps o t10 := by
    unfold t10
    exact Keeps.upd ht5 (fun sh => { sh with }) rfl rfl rfl
  try clear_value t10
  extract_lets +onlyGivenNames t11
  have ht11 : Keeps o t11 := by
    unfold t11
    refine keeps_inc ?_ Fld.ok_sveInflight
    refine keeps_inc ?_ Fld.ok_sveChHeld
    exact keeps_inc ht10 Fld.ok_sveSerial
  try clear_value t11
  extract_lets +onlyGivenNames t12
  have ht12 : Keeps o t12 := by
    unfold t12
    refine keeps_inc ?_ Fld.ok_sveSvcW2Admitted
    exact keeps_inc ht11 ((by first | (split <;> simp) | simp))
  try clear_value t12
  refine keeps_ite (fun _ => ?_) (fun _ => ?_)
  · exact keeps_foxRows ht12
  · exact ht12

theorem keeps_execRequestAdmit {o : State} {s : State} (h : Keeps o s) :
    KeepsOut o (execRequestAdmit s) := by
  unfold execRequestAdmit
  extract_lets +onlyGivenNames x1; try clear_value x1
  split
  · refine keepsOut_next ?_
    exact h
  · refine keepsOut_ite (fun _ => ?_) (fun _ => ?_)
    · refine keepsOut_next ?_
      exact h
    · extract_lets +onlyGivenNames t2
      have ht2 : Keeps o t2 := by
        unfold t2
        exact Keeps.upd h (fun sh => { sh with }) rfl rfl rfl
      try clear_value t2
      refine keepsOut_ite (fun _ => ?_) (fun _ => ?_)
      · refine keepsOut_next ?_
        exact keeps_sendError ht2
      · split
        · refine keepsOut_next ?_
          exact keeps_svcError ht2
        · refine keepsOut_next ?_
          exact keeps_admitRequest ht2

theorem keeps_execBatchBoundary {o : State} {svc : BitVec 12} {s : State} (h : Keeps o s) :
    KeepsOut o (execBatchBoundary svc s) := by
  unfold execBatchBoundary
  refine keepsOut_ite (fun _ => ?_) (fun _ => ?_)
  · refine keepsOut_next ?_
    exact h
  · split
    · refine keepsOut_next ?_
      exact keeps_boundary h
    · refine keepsOut_next ?_
      exact h

theorem keeps_execDeadlineExpiry {o : State} {pick : BitVec 17} {s : State} (h : Keeps o s) :
    KeepsOut o (execDeadlineExpiry pick s) := by
  unfold execDeadlineExpiry
  split
  · refine keepsOut_next ?_
    exact h
  · refine keepsOut_ite (fun _ => ?_) (fun _ => ?_)
    · refine keepsOut_next ?_
      exact h
    · extract_lets +onlyGivenNames t1
      have ht1 : Keeps o t1 := by
        unfold t1
        exact keeps_sendFallback h
      try clear_value t1
      refine keepsOut_next ?_
      refine keeps_ite (fun _ => ?_) (fun _ => ?_)
      · exact keeps_leaveOpen ht1
      · exact ht1

theorem keeps_execTagGraceExpiry {o : State} {ch : Chan} {tag : BitVec 16} {s : State} (h : Keeps o s) :
    KeepsOut o (execTagGraceExpiry ch tag s) := by
  unfold execTagGraceExpiry
  refine keepsOut_next ?_
  refine keeps_ite (fun _ => ?_) (fun _ => ?_)
  · exact keeps_dropTag h
  · exact h

theorem keeps_execBatchStreamWord {o : State} {ch : Chan} {s : State} (h : Keeps o s) :
    KeepsOut o (execBatchStreamWord ch s) := by
  unfold execBatchStreamWord
  split
  · refine keepsOut_next ?_
    exact h
  · refine keepsOut_ite (fun _ => ?_) (fun _ => ?_)
    · refine keepsOut_next ?_
      exact h
    · refine keepsOut_next ?_
      exact keeps_setQueue h

theorem keeps_takeDone {o : State} {c : Nat} {v : BitVec 5} {gd : BitVec 5} {ws : List (BitVec 512)} {left : Nat} {tag : Nat} {first : Bool} {s : State} (h : Keeps o s) :
    Keeps o (takeDone c v gd ws left tag first s) := by
  unfold takeDone
  extract_lets +onlyGivenNames t1
  have ht1 : Keeps o t1 := by
    unfold t1
    exact keeps_extWait h
  try clear_value t1
  extract_lets +onlyGivenNames t2
  have ht2 : Keeps o t2 := by
    unfold t2
    refine keeps_ite (fun _ => ?_) (fun _ => ?_)
    · refine keeps_detStart ?_
      exact keeps_detEnd ht1
    · exact ht1
  try clear_value t2
  refine keeps_retire ?_
  refine keeps_setG ?_
  exact keeps_putWords ht2

theorem keeps_takeSve {o : State} {c : Nat} {i : Instr} {was : Bool} {v : BitVec 5} {gd : BitVec 5} {n : Nat} {t : State} (h : Keeps o t) :
    Keeps o (takeSve c i was v gd n t) := by
  unfold takeSve
  extract_lets +onlyGivenNames x1; try clear_value x1
  split
  · exact keeps_hold h
  · extract_lets +onlyGivenNames x2; try clear_value x2
    refine keeps_ite (fun _ => ?_) (fun _ => ?_)
    · exact keeps_hold h
    · extract_lets +onlyGivenNames x3; try clear_value x3
      extract_lets +onlyGivenNames x4; try clear_value x4
      extract_lets +onlyGivenNames t5
      have ht5 : Keeps o t5 := by
        unfold t5
        refine keeps_freeCells ?_
        exact keeps_waited h
      try clear_value t5
      extract_lets +onlyGivenNames t6
      have ht6 : Keeps o t6 := by
        unfold t6
        refine keeps_ite (fun _ => ?_) (fun _ => ?_)
        · refine keeps_setTag ?_
          exact keeps_setQueue ht5
        · exact keeps_setQueue ht5
      try clear_value t6
      exact keeps_takeDone ht6

theorem keeps_takeHbq {o : State} {c : Nat} {i : Instr} {was : Bool} {v : BitVec 5} {gd : BitVec 5} {n : Nat} {t : State} (h : Keeps o t) :
    Keeps o (takeHbq c i was v gd n t) := by
  unfold takeHbq
  extract_lets +onlyGivenNames x1; try clear_value x1
  extract_lets +onlyGivenNames x2; try clear_value x2
  extract_lets +onlyGivenNames x3; try clear_value x3
  extract_lets +onlyGivenNames x4; try clear_value x4
  refine keeps_ite (fun _ => ?_) (fun _ => ?_)
  · exact keeps_hold h
  · extract_lets +onlyGivenNames x5; try clear_value x5
    extract_lets +onlyGivenNames x6; try clear_value x6
    extract_lets +onlyGivenNames x7; try clear_value x7
    extract_lets +onlyGivenNames x8; try clear_value x8
    refine keeps_ite (fun _ => ?_) (fun _ => ?_)
    · exact keeps_havoc h
    · refine keeps_ite (fun _ => ?_) (fun _ => ?_)
      · exact keeps_hold h
      · extract_lets +onlyGivenNames t9
        have ht9 : Keeps o t9 := by
          unfold t9
          exact keeps_waited h
        try clear_value t9
        extract_lets +onlyGivenNames x10; try clear_value x10
        extract_lets +onlyGivenNames t11
        have ht11 : Keeps o t11 := by
          unfold t11
          refine keeps_put ?_ Fld.ok_hbqTag
          refine keeps_put ?_ Fld.ok_hbqLeft
          exact keeps_put ht9 Fld.ok_hbqWhead
        try clear_value t11
        extract_lets +onlyGivenNames t12
        have ht12 : Keeps o t12 := by
          unfold t12
          refine keeps_ite (fun _ => ?_) (fun _ => ?_)
          · exact keeps_inc ht11 Fld.ok_hbqBatches
          · exact ht11
        try clear_value t12
        exact keeps_takeDone ht12

theorem keeps_execBatchTake {o : State} {core : CoreId} {v : BitVec 5} {gd : BitVec 5} {a4 : BitVec 2} {s : State} (h : Keeps o s) :
    KeepsOut o (execBatchTake core v gd a4 s) := by
  unfold execBatchTake
  extract_lets +onlyGivenNames x1; try clear_value x1
  extract_lets +onlyGivenNames x2; try clear_value x2
  extract_lets +onlyGivenNames x3; try clear_value x3
  refine keeps_issue h ?_
  intro y4 hy5
  extract_lets +onlyGivenNames t6
  have ht6 : Keeps o t6 := by
    unfold t6
    exact keeps_unclean hy5
  try clear_value t6
  refine keeps_ite (fun _ => ?_) (fun _ => ?_)
  · exact keeps_havoc ht6
  · refine keeps_ite (fun _ => ?_) (fun _ => ?_)
    · exact keeps_takeHbq ht6
    · exact keeps_takeSve ht6

theorem keeps_execRespPut {o : State} {core : CoreId} {v : BitVec 5} {gs : BitVec 5} {a4 : BitVec 8} {empty : Bool} {s : State} (h : Keeps o s) :
    KeepsOut o (execRespPut core v gs a4 empty s) := by
  unfold execRespPut
  extract_lets +onlyGivenNames x1; try clear_value x1
  extract_lets +onlyGivenNames x2; try clear_value x2
  extract_lets +onlyGivenNames x3; try clear_value x3
  extract_lets +onlyGivenNames x4; try clear_value x4
  extract_lets +onlyGivenNames x5; try clear_value x5
  refine keeps_issue h ?_
  intro y6 hy7
  extract_lets +onlyGivenNames x8; try clear_value x8
  extract_lets +onlyGivenNames t9
  have ht9 : Keeps o t9 := by
    unfold t9
    exact keeps_unclean hy7
  try clear_value t9
  extract_lets +onlyGivenNames x10; try clear_value x10
  refine keeps_ite (fun _ => ?_) (fun _ => ?_)
  · exact keeps_havoc ht9
  · extract_lets +onlyGivenNames t11
    have ht11 : Keeps o t11 := by
      unfold t11
      refine keeps_stallV ?_
      exact keeps_stallG ht9
    try clear_value t11
    extract_lets +onlyGivenNames x12; try clear_value x12
    refine keeps_ite (fun _ => ?_) (fun _ => ?_)
    · exact keeps_hold ht11
    · extract_lets +onlyGivenNames t13
      have ht13 : Keeps o t13 := by
        unfold t13
        refine keeps_extWait ?_
        exact keeps_waited ht11
      try clear_value t13
      extract_lets +onlyGivenNames x14; try clear_value x14
      extract_lets +onlyGivenNames x15; try clear_value x15
      extract_lets +onlyGivenNames x16; try clear_value x16
      extract_lets +onlyGivenNames x17; try clear_value x17
      extract_lets +onlyGivenNames t18
      have ht18 : Keeps o t18 := by
        unfold t18
        refine keeps_ite (fun _ => ?_) (fun _ => ?_)
        · exact keeps_put ht13 Fld.ok_detOsig
        · exact ht13
      try clear_value t18
      extract_lets +onlyGivenNames x19; try clear_value x19
      extract_lets +onlyGivenNames x20; try clear_value x20
      extract_lets +onlyGivenNames t21
      have ht21 : Keeps o t21 := by
        unfold t21
        refine keeps_ite (fun _ => ?_) (fun _ => ?_)
        · refine keeps_chCause ?_
          refine keeps_inc ?_ Fld.ok_hbqRtail
          exact keeps_setBytes ht18
        · exact Keeps.upd ht18 (fun sh => { sh with resps := tsorted_tset _ _ sh.resps }) rfl rfl rfl
      try clear_value t21
      exact keeps_retire ht21

theorem keeps_execResponseArrival {o : State} {ch : Chan} {s : State} (h : Keeps o s) :
    KeepsOut o (execResponseArrival ch s) := by
  unfold execResponseArrival
  extract_lets +onlyGivenNames x1; try clear_value x1
  extract_lets +onlyGivenNames x2; try clear_value x2
  split
  · refine keepsOut_next ?_
    exact h
  · refine keepsOut_ite (fun _ => ?_) (fun _ => ?_)
    · refine keepsOut_next ?_
      exact h
    · extract_lets +onlyGivenNames x3
      have hx3 : ∀ y1, Keeps o y1 → Keeps o (x3 y1) := by
        intro y4 hy5
        unfold x3
        exact Keeps.upd hy5 (fun sh => { sh with resps := tsorted_tsetD _ _ _ sh.resps }) rfl rfl rfl
      try clear_value x3
      split
      · refine keepsOut_next ?_
        refine keeps_tally ?_
        refine keeps_inc ?_ Fld.ok_sveChLate
        refine hx3 _ ?_
        exact h
      · extract_lets +onlyGivenNames x6; try clear_value x6
        extract_lets +onlyGivenNames x7; try clear_value x7
        extract_lets +onlyGivenNames t8
        have ht8 : Keeps o t8 := by
          unfold t8
          exact Keeps.upd h (fun sh => { sh with resps := tsorted_tset _ _ sh.resps }) rfl rfl rfl
        try clear_value t8
        refine keepsOut_next ?_
        refine keeps_markAnswered ?_
        exact keeps_sendUsp ht8

theorem keeps_execResponseSent {o : State} {ch : Chan} {s : State} (h : Keeps o s) :
    KeepsOut o (execResponseSent ch s) := by
  unfold execResponseSent
  extract_lets +onlyGivenNames x1; try clear_value x1
  split
  · refine keepsOut_next ?_
    exact h
  · refine keepsOut_next ?_
    refine keeps_ite (fun _ => ?_) (fun _ => ?_)
    · exact Keeps.upd h (fun sh => { sh with resps := tsorted_tsetD _ _ _ sh.resps }) rfl rfl rfl
    · exact h

theorem keeps_execHbqWtail {o : State} {tail : BitVec 12} {s : State} (h : Keeps o s) :
    KeepsOut o (execHbqWtail tail s) := by
  unfold execHbqWtail
  refine keepsOut_ite (fun _ => ?_) (fun _ => ?_)
  · refine keepsOut_next ?_
    exact h
  · extract_lets +onlyGivenNames t1
    have ht1 : Keeps o t1 := by
      unfold t1
      exact keeps_put h Fld.ok_hbqWtail
    try clear_value t1
    refine keepsOut_ite (fun _ => ?_) (fun _ => ?_)
    · refine keepsOut_next ?_
      exact keeps_havoc ht1
    · refine keepsOut_next ?_
      refine keeps_ite (fun _ => ?_) (fun _ => ?_)
      · exact keeps_wakeChan ht1
      · exact ht1

theorem keeps_execHbqRhead {o : State} {head : BitVec 5} {s : State} (h : Keeps o s) :
    KeepsOut o (execHbqRhead head s) := by
  unfold execHbqRhead
  refine keepsOut_next ?_
  refine keeps_ite (fun _ => ?_) (fun _ => ?_)
  · exact keeps_put h Fld.ok_hbqRhead
  · exact h

end Sys2Proof.Machine
end

