-- ==== Sys2Proof/Laws/KeepsExchange.lean ====
section
/-!
SUPPORT. The operations of Machine/Exchange.lean keep what Keeps says.
-/
namespace Sys2Proof.Machine

theorem keeps_flipPlan {o : State} {ch : Nat} {s : State} (h : Keeps o s) :
    Keeps o (flipPlan ch s) := by
  unfold flipPlan
  refine keeps_clearFlds ?_
  exact keeps_put h Fld.ok_rteCtlActive

theorem keeps_adopt {o : State} {fs : List (Fld × Fld)} {ch : Nat} {n : Nat} {s : State} (h : Keeps o s)
    (hf : ∀ f ∈ fs, f.1.Ok := by simp [ringCfgFlds, raTabFlds]) : Keeps o (adopt fs ch n s) :=
  keeps_foldl_mem (fun _ f hm ht => keeps_put ht (hf f hm)) h

theorem ringFlds_ok : ∀ f ∈ ringFlds, f.Ok := by simp [ringFlds]

theorem slotFlds_ok : ∀ f ∈ slotFlds, f.Ok := by simp [slotFlds]

theorem keeps_ringEmpty {o : State} {ch : Nat} {r : Nat} {s : State} (h : Keeps o s) :
    Keeps o (ringEmpty ch r s) := by
  unfold ringEmpty
  extract_lets t u
  have ht : Keeps o t := keeps_foldl_mem (fun _ f hm h => keeps_put h (ringFlds_ok f hm)) h
  have hu : Keeps o u := keeps_foldl_mem (fun _ f hm h => keeps_foldl (fun _ _ h => keeps_put h (slotFlds_ok f hm)) h) ht
  exact keeps_ite (fun _ => keeps_put hu Fld.ok_ringFreev) (fun _ => hu)

theorem keeps_changeRing {o : State} {ch : Nat} {r : Nat} {s : State} (h : Keeps o s) :
    Keeps o (changeRing ch r s) := by
  unfold changeRing
  extract_lets +onlyGivenNames t1
  have ht1 : Keeps o t1 := by
    unfold t1
    refine keeps_ite (fun _ => ?_) (fun _ => ?_)
    · exact keeps_adopt h
    · exact h
  try clear_value t1
  extract_lets +onlyGivenNames t2
  have ht2 : Keeps o t2 := by
    unfold t2
    refine keeps_inc ?_ Fld.ok_foxRingPtrGen
    exact keeps_ringEmpty ht1
  try clear_value t2
  refine keeps_foldl ?_ ?_
  · intro b4 y5 hb3
    refine keeps_ite (fun _ => ?_) (fun _ => ?_)
    · exact keeps_setAct hb3
    · exact hb3
  · exact ht2

theorem keeps_dropRows {o : State} {ch : Nat} {rings : List Nat} {s : State} (h : Keeps o s) :
    Keeps o (dropRows ch rings s) := by
  unfold dropRows
  extract_lets forming t gone u
  have ht : Keeps o t := by
    refine keeps_foldl (fun t tag h => ?_) h
    dsimp only
    refine Keeps.upd (keeps_foxCancel h) (fun sh => { sh with windows := tsorted_map _ (fun e => ?_) sh.windows }) rfl rfl rfl
    split <;> rfl
  have hu : Keeps o u := keeps_foldl (fun _ _ h => keeps_ite (fun _ => keeps_delAct h) (fun _ => h)) ht
  exact keeps_setArr hu

theorem keeps_gatherAgain {o : State} {ch : Nat} {rings : List Nat} {was : State} {s : State} (h3 : Keeps o was) (h4 : Keeps o s) :
    Keeps o (gatherAgain ch rings was s) := by
  unfold gatherAgain
  refine keeps_foldl ?_ ?_
  · intro b7 y8 hb1
    extract_lets +onlyGivenNames x2; try clear_value x2
    extract_lets +onlyGivenNames x3; try clear_value x3
    refine keeps_ite (fun _ => ?_) (fun _ => ?_)
    · exact hb1
    · refine keeps_raise ?_
      refine keeps_foldl ?_ ?_
      · intro b5 y6 hb4
        exact keeps_foxRows hb4
      · exact hb1
  · exact h4

theorem keeps_swapRings {o : State} {ch : Nat} {s : State} (h : Keeps o s) :
    Keeps o (swapRings ch s) := by
  unfold swapRings
  extract_lets +onlyGivenNames x1; try clear_value x1
  extract_lets +onlyGivenNames t2
  have ht2 : Keeps o t2 := by
    unfold t2
    refine keeps_foldl ?_ ?_
    · intro b4 y5 hb3
      exact keeps_changeRing hb3
    · exact keeps_dropRows h
  try clear_value t2
  extract_lets +onlyGivenNames t6
  have ht6 : Keeps o t6 := by
    unfold t6
    refine keeps_ite (fun _ => ?_) (fun _ => ?_)
    · refine keeps_foldl ?_ ?_
      · intro b8 y9 hb7
        exact keeps_adopt hb7
      · exact ht2
    · exact ht2
  try clear_value t6
  refine keeps_gatherAgain h ?_
  exact keeps_put ht6 Fld.ok_foxRings

theorem keeps_swapCore {o : State} {ch : Nat} {s : State} {c : Nat} (h : Keeps o s) :
    Keeps o (swapCore ch s c) := by
  unfold swapCore
  extract_lets +onlyGivenNames t1
  have ht1 : Keeps o t1 := by
    unfold t1
    exact Keeps.upd h (fun sh => { sh with held := tsorted_filter _ sh.held }) rfl rfl rfl
  try clear_value t1
  extract_lets +onlyGivenNames t2
  have ht2 : Keeps o t2 := by
    unfold t2
    refine keeps_put ?_ Fld.ok_coreBank
    exact keeps_clearFlds ht1
  try clear_value t2
  extract_lets +onlyGivenNames t3
  have ht3 : Keeps o t3 := by
    unfold t3
    refine keeps_foldl ?_ ?_
    · intro b5 y6 hb4
      exact keeps_put hb4 Fld.ok_coreSqf
    · exact ht2
  try clear_value t3
  extract_lets +onlyGivenNames t7
  have ht7 : Keeps o t7 := by
    unfold t7
    refine keeps_ite (fun _ => ?_) (fun _ => ?_)
    · exact ht3
    · exact keeps_clearFlds ht3
  try clear_value t7
  extract_lets +onlyGivenNames t8
  have ht8 : Keeps o t8 := by
    unfold t8
    refine keeps_setKinds ?_
    exact keeps_setGroups ht7
  try clear_value t8
  refine keeps_startCore ?_
  exact keeps_put ht8 Fld.ok_corePc

theorem keeps_swap {o : State} {ch : Nat} {forced : Bool} {s : State} (h : Keeps o s) :
    Keeps o (swap ch forced s) := by
  unfold swap
  extract_lets +onlyGivenNames x1; try clear_value x1
  extract_lets +onlyGivenNames t2
  have ht2 : Keeps o t2 := by
    unfold t2
    refine keeps_leaveBars ?_
    exact keeps_detEnd h
  try clear_value t2
  extract_lets +onlyGivenNames t3
  have ht3 : Keeps o t3 := by
    unfold t3
    refine keeps_swapRings ?_
    refine keeps_ite (fun _ => ?_) (fun _ => ?_)
    · exact keeps_flipPlan ht2
    · exact ht2
  try clear_value t3
  extract_lets +onlyGivenNames t4
  have ht4 : Keeps o t4 := by
    unfold t4
    refine keeps_foldl ?_ ?_
    · intro b6 y7 hb5
      exact keeps_swapCore hb5
    · exact ht3
  try clear_value t4
  extract_lets +onlyGivenNames t8
  have ht8 : Keeps o t8 := by
    unfold t8
    refine keeps_put ?_ Fld.ok_exchStatNotready
    refine keeps_put ?_ Fld.ok_exchStatResult
    refine keeps_put ?_ Fld.ok_exchStatPhase
    exact keeps_put ht4 Fld.ok_bdgStatQcount
  try clear_value t8
  extract_lets +onlyGivenNames t9
  have ht9 : Keeps o t9 := by
    unfold t9
    refine keeps_put ?_ Fld.ok_exchLastGtc
    exact keeps_inc ht8 Fld.ok_exchCount
  try clear_value t9
  refine keeps_chCause ?_
  exact keeps_raise ht9

theorem keeps_seamBegins {o : State} {ch : Nat} {s : State} (h : Keeps o s) :
    Keeps o (seamBegins ch s) := by
  unfold seamBegins
  refine keeps_put ?_ Fld.ok_exchStatSyncdrop
  refine keeps_put ?_ Fld.ok_exchSync
  exact keeps_put h Fld.ok_exchSeam

theorem keeps_execSeamReady {o : State} {ch : Chan} {s : State} (h : Keeps o s) :
    KeepsOut o (execSeamReady ch s) := by
  unfold execSeamReady
  extract_lets +onlyGivenNames x1; try clear_value x1
  refine keepsOut_ite (fun _ => ?_) (fun _ => ?_)
  · refine keepsOut_next ?_
    exact h
  · refine keepsOut_ite (fun _ => ?_) (fun _ => ?_)
    · refine keepsOut_next ?_
      refine keeps_seamBegins ?_
      refine keeps_put ?_ Fld.ok_exchStatNotready
      exact keeps_put h Fld.ok_exchStatPhase
    · refine keepsOut_next ?_
      exact keeps_put h Fld.ok_exchStatNotready

theorem keeps_execExchangeSwap {o : State} {ch : Chan} {s : State} (h : Keeps o s) :
    KeepsOut o (execExchangeSwap ch s) := by
  unfold execExchangeSwap
  refine keepsOut_next ?_
  refine keeps_ite (fun _ => ?_) (fun _ => ?_)
  · exact keeps_swap h
  · exact h

theorem keeps_abandonCores {o : State} {ch : Nat} {s : State} (h : Keeps o s) :
    Keeps o (abandonCores ch s) := by
  unfold abandonCores
  extract_lets +onlyGivenNames x1; try clear_value x1
  extract_lets +onlyGivenNames x2; try clear_value x2
  extract_lets +onlyGivenNames t3
  have ht3 : Keeps o t3 := by
    unfold t3
    refine keeps_foldl ?_ ?_
    · intro b5 y6 hb4
      refine keeps_ite (fun _ => ?_) (fun _ => ?_)
      · exact keeps_delAct hb4
      · exact hb4
    · exact keeps_put h Fld.ok_foxRings
  try clear_value t3
  extract_lets +onlyGivenNames t7
  have ht7 : Keeps o t7 := by
    unfold t7
    exact keeps_setArr ht3
  try clear_value t7
  refine keeps_setMsgs ?_
  exact keeps_setReqs ht7

theorem keeps_stopForSeam {o : State} {c : Nat} {s : State} (h : Keeps o s) :
    Keeps o (stopForSeam c s) := by
  unfold stopForSeam
  extract_lets +onlyGivenNames t1
  have ht1 : Keeps o t1 := by
    unfold t1
    refine keeps_tqFree ?_
    exact keeps_stopUnits h
  try clear_value t1
  extract_lets +onlyGivenNames t2
  have ht2 : Keeps o t2 := by
    unfold t2
    exact keeps_clearFlds ht1
  try clear_value t2
  exact Keeps.upd ht2 (fun sh => { sh with fifo := tsorted_filter _ sh.fifo, held := tsorted_filter _ sh.held }) rfl rfl rfl

theorem keeps_forcedSeam {o : State} {ch : Nat} {s : State} (h : Keeps o s) :
    Keeps o (forcedSeam ch s) := by
  unfold forcedSeam
  extract_lets +onlyGivenNames x1; try clear_value x1
  extract_lets +onlyGivenNames x2; try clear_value x2
  extract_lets +onlyGivenNames t3
  have ht3 : Keeps o t3 := by
    unfold t3
    refine keeps_seamBegins ?_
    refine keeps_foldl ?_ ?_
    · intro b5 y6 hb4
      exact keeps_stopForSeam hb4
    · exact h
  try clear_value t3
  extract_lets +onlyGivenNames t7
  have ht7 : Keeps o t7 := by
    unfold t7
    exact keeps_abandonCores ht3
  try clear_value t7
  extract_lets +onlyGivenNames t8
  have ht8 : Keeps o t8 := by
    unfold t8
    exact keeps_setTransit ht7
  try clear_value t8
  refine keeps_swap ?_
  exact keeps_raise ht8

theorem keeps_execExchHoldTimeout {o : State} {ch : Chan} {s : State} (h : Keeps o s) :
    KeepsOut o (execExchHoldTimeout ch s) := by
  unfold execExchHoldTimeout
  extract_lets +onlyGivenNames x1; try clear_value x1
  extract_lets +onlyGivenNames x2; try clear_value x2
  refine keepsOut_ite (fun _ => ?_) (fun _ => ?_)
  · refine keepsOut_next ?_
    exact h
  · refine keepsOut_ite (fun _ => ?_) (fun _ => ?_)
    · refine keepsOut_next ?_
      exact keeps_forcedSeam h
    · refine keepsOut_next ?_
      exact keeps_exchAbort h

theorem keeps_execLatchedSyncPresent {o : State} {ch : Chan} {s : State} (h : Keeps o s) :
    KeepsOut o (execLatchedSyncPresent ch s) := by
  unfold execLatchedSyncPresent
  extract_lets +onlyGivenNames x1; try clear_value x1
  refine keepsOut_ite (fun _ => ?_) (fun _ => ?_)
  · refine keepsOut_next ?_
    exact h
  · extract_lets +onlyGivenNames t2
    have ht2 : Keeps o t2 := by
      unfold t2
      refine keeps_put ?_ Fld.ok_exchSync
      exact keeps_put h Fld.ok_exchSeam
    try clear_value t2
    refine keepsOut_next ?_
    refine keeps_ite (fun _ => ?_) (fun _ => ?_)
    · refine keeps_foldl ?_ ?_
      · intro b4 y5 hb3
        exact keeps_edgeBoundary hb3
      · exact ht2
    · exact ht2

end Sys2Proof.Machine
end

