-- ==== Sys2Proof/Laws/KeepsTuning.lean ====
section
/-!
SUPPORT. The operations of Machine/Tuning.lean keep what Keeps says.
-/
namespace Sys2Proof.Machine

theorem keeps_sput {o : State} {s : State} {f : Fld} {a : Nat} {b : Nat} {v : Int} (h : Keeps o s) (h2 : f.Ok) :
    Keeps o (State.sput s f a b v) := by
  unfold State.sput
  exact keeps_put h h2

theorem keeps_putShown {o : State} {f : Fld} {a : Nat} {v : Int} {s : State} (h1 : f.Ok) (h : Keeps o s) :
    Keeps o (putShown f a v s) := by
  unfold putShown
  refine keeps_ite (fun _ => ?_) (fun _ => ?_)
  · exact keeps_sput h h1
  · refine keeps_draw ?_
    exact keeps_put h h1

theorem keeps_execGtcTick {o : State} {n : BitVec 32} {s : State} (h : Keeps o s) :
    KeepsOut o (execGtcTick n s) := by
  unfold execGtcTick
  refine keepsOut_ite (fun _ => ?_) (fun _ => ?_)
  · refine keepsOut_next ?_
    exact keeps_inc h Fld.ok_gtcAway
  · extract_lets +onlyGivenNames x1; try clear_value x1
    extract_lets +onlyGivenNames x2; try clear_value x2
    extract_lets +onlyGivenNames x3; try clear_value x3
    extract_lets +onlyGivenNames t4
    have ht4 : Keeps o t4 := by
      unfold t4
      refine keeps_put ?_ Fld.ok_gtcFrac
      exact keeps_put h Fld.ok_gtc
    try clear_value t4
    refine keepsOut_next ?_
    refine keeps_sput ?_ Fld.ok_tunRun
    exact keeps_inc ht4 Fld.ok_tunTicks

theorem keeps_execTunGtcLoRead {o : State} {mgc : Bool} {wide : Bool} {s : State} (h : Keeps o s) :
    KeepsOut o (execTunGtcLoRead mgc wide s) := by
  unfold execTunGtcLoRead
  extract_lets +onlyGivenNames x1; try clear_value x1
  extract_lets +onlyGivenNames x2; try clear_value x2
  extract_lets +onlyGivenNames x3; try clear_value x3
  refine keepsOut_ite (fun _ => ?_) (fun _ => ?_)
  · refine keepsOut_next ?_
    exact keeps_emit h
  · refine keepsOut_ite (fun _ => ?_) (fun _ => ?_)
    · refine keepsOut_next ?_
      exact keeps_emit h
    · refine keepsOut_next ?_
      refine keeps_emit ?_
      exact keeps_put h Fld.ok_gtcLatch

theorem keeps_execTunGtcHiRead {o : State} {mgc : Bool} {s : State} (h : Keeps o s) :
    KeepsOut o (execTunGtcHiRead mgc s) := by
  unfold execTunGtcHiRead
  refine keepsOut_ite (fun _ => ?_) (fun _ => ?_)
  · refine keepsOut_next ?_
    exact keeps_emit h
  · refine keepsOut_next ?_
    exact keeps_emit h

theorem keeps_setTime {o : State} {state : Nat} {contested : Bool} {s : State} (h : Keeps o s) :
    Keeps o (setTime state contested s) := by
  unfold setTime
  extract_lets +onlyGivenNames x1; try clear_value x1
  extract_lets +onlyGivenNames x2; try clear_value x2
  extract_lets +onlyGivenNames t3
  have ht3 : Keeps o t3 := by
    unfold t3
    refine keeps_put ?_ Fld.ok_tunStatContested
    exact keeps_put h Fld.ok_tunStatState
  try clear_value t3
  extract_lets +onlyGivenNames t4
  have ht4 : Keeps o t4 := by
    unfold t4
    refine keeps_ite (fun _ => ?_) (fun _ => ?_)
    · refine keeps_sensor ?_
      exact keeps_raise ht3
    · exact ht3
  try clear_value t4
  refine keeps_ite (fun _ => ?_) (fun _ => ?_)
  · exact keeps_mgCause ht4
  · exact ht4

theorem keeps_stepGtc {o : State} {S : Nat} {cause : Nat} {s : State} (h : Keeps o s) :
    Keeps o (stepGtc S cause s) := by
  unfold stepGtc
  extract_lets t u v
  have ht : Keeps o t :=
    Keeps.upd (t := s) h (fun sh => { sh with windows := tsorted_map _ (hf := by intro; rfl) sh.windows }) rfl rfl rfl
  have hu : Keeps o u := keeps_foldl (fun _ _ h => keeps_inc (keeps_inc h Fld.ok_exchHeldAt) Fld.ok_refBase) ht
  have hv : Keeps o v := keeps_foldl (fun _ _ h => keeps_sput h Fld.ok_tunSrcOff) hu
  exact keeps_raise (keeps_put (keeps_inc hv Fld.ok_gtc) Fld.ok_tunStatStepped)

theorem keeps_takeSample {o : State} {src : Nat} {off : Int} {dly : Int} {s : State} (h : Keeps o s) :
    Keeps o (takeSample src off dly s) := by
  unfold takeSample
  extract_lets +onlyGivenNames t1
  have ht1 : Keeps o t1 := by
    unfold t1
    refine keeps_putShown Fld.ok_tunSrcDelay ?_
    exact keeps_putShown Fld.ok_tunSrcOffset h
  try clear_value t1
  extract_lets +onlyGivenNames t2
  have ht2 : Keeps o t2 := by
    unfold t2
    refine keeps_sput ?_ Fld.ok_tunSrcDly
    exact keeps_sput ht1 Fld.ok_tunSrcOff
  try clear_value t2
  extract_lets +onlyGivenNames t3
  have ht3 : Keeps o t3 := by
    unfold t3
    refine keeps_put ?_ Fld.ok_tunSrcTick
    refine keeps_put ?_ Fld.ok_tunSrcEp
    exact keeps_sput ht2 Fld.ok_tunSrcRun
  try clear_value t3
  refine keeps_inc ?_ Fld.ok_tunSrcSamples
  exact keeps_put ht3 Fld.ok_tunSrcFresh

theorem keeps_dropSource {o : State} {src : Nat} {cause : Nat} {s : State} (h : Keeps o s) :
    Keeps o (dropSource src cause s) := by
  unfold dropSource
  extract_lets +onlyGivenNames t1
  have ht1 : Keeps o t1 := by
    unfold t1
    refine keeps_ite (fun _ => ?_) (fun _ => ?_)
    · exact keeps_raise h
    · exact h
  try clear_value t1
  refine keeps_put ?_ Fld.ok_tunSrcAgree
  exact keeps_put ht1 Fld.ok_tunSrcElig

theorem keeps_dropBeacon {o : State} {l : Nat} {s : State} (h : Keeps o s) :
    Keeps o (dropBeacon l s) := by
  unfold dropBeacon
  refine keeps_put ?_ Fld.ok_tunSrcFresh
  exact keeps_dropSource h

theorem keeps_syncSample {o : State} {sub : BitVec 8} {s : State} (h : Keeps o s) :
    Keeps o (syncSample sub s) := by
  unfold syncSample
  refine keeps_ite (fun _ => ?_) (fun _ => ?_)
  · exact h
  · extract_lets +onlyGivenNames x1; try clear_value x1
    extract_lets +onlyGivenNames x2; try clear_value x2
    extract_lets +onlyGivenNames x3; try clear_value x3
    refine keeps_ite (fun _ => ?_) (fun _ => ?_)
    · exact keeps_inc h Fld.ok_tunSrcDiscards
    · exact keeps_takeSample h

theorem keeps_syncEdge {o : State} {s : State} (h : Keeps o s) :
    Keeps o (syncEdge s) := by
  unfold syncEdge
  refine keeps_ite (fun _ => ?_) (fun _ => ?_)
  · exact h
  · refine keeps_foldl ?_ ?_
    · intro b6 y7 hb1
      refine keeps_ite (fun _ => ?_) (fun _ => ?_)
      · refine keeps_ite (fun _ => ?_) (fun _ => ?_)
        · extract_lets +onlyGivenNames t2
          have ht2 : Keeps o t2 := by
            unfold t2
            exact keeps_inc hb1 Fld.ok_exchStatSyncdrop
          try clear_value t2
          exact keeps_raise ht2
        · exact keeps_put hb1 Fld.ok_exchSync
      · refine keeps_foldl ?_ ?_
        · intro b4 y5 hb3
          exact keeps_edgeBoundary hb3
        · exact hb1
    · exact h

theorem keeps_execSyncInEdge {o : State} {sub : BitVec 8} {s : State} (h : Keeps o s) :
    KeepsOut o (execSyncInEdge sub s) := by
  unfold execSyncInEdge
  refine keepsOut_next ?_
  refine keeps_syncEdge ?_
  exact keeps_syncSample h

theorem keeps_execPtmDialogue {o : State} {ok : Bool} {master : BitVec 72} {sub : BitVec 8} {s : State} (h : Keeps o s) :
    KeepsOut o (execPtmDialogue ok master sub s) := by
  unfold execPtmDialogue
  refine keepsOut_ite (fun _ => ?_) (fun _ => ?_)
  · refine keepsOut_next ?_
    exact h
  · extract_lets +onlyGivenNames t1
    have ht1 : Keeps o t1 := by
      unfold t1
      exact keeps_put h Fld.ok_tunPtmNext
    try clear_value t1
    refine keepsOut_next ?_
    refine keeps_ite (fun _ => ?_) (fun _ => ?_)
    · exact keeps_takeSample ht1
    · exact ht1

theorem keeps_execSyncOutPulse {o : State} {s : State} (h : Keeps o s) :
    KeepsOut o (execSyncOutPulse s) := by
  unfold execSyncOutPulse
  extract_lets +onlyGivenNames x1; try clear_value x1
  extract_lets +onlyGivenNames x2; try clear_value x2
  refine keepsOut_ite (fun _ => ?_) (fun _ => ?_)
  · refine keepsOut_next ?_
    exact h
  · refine keepsOut_next ?_
    refine keeps_emit ?_
    exact keeps_put h Fld.ok_tunSoutLast

theorem keeps_quarCount {o : State} {s : State} (h : Keeps o s) :
    Keeps o (quarCount s) := by
  unfold quarCount
  refine keeps_foldl ?_ ?_
  · intro b3 y4 hb1
    refine keeps_ite (fun _ => ?_) (fun _ => ?_)
    · exact hb1
    · extract_lets +onlyGivenNames x2; try clear_value x2
      refine keeps_put ?_ Fld.ok_tunSrcQuar
      exact keeps_put hb1 Fld.ok_tunSrcQleft
  · exact h

theorem keeps_showSources {o : State} {s : State} (h : Keeps o s) :
    Keeps o (showSources s) := by
  unfold showSources
  refine keeps_foldl ?_ ?_
  · intro b5 y6 hb1
    extract_lets +onlyGivenNames x2; try clear_value x2
    extract_lets +onlyGivenNames x3; try clear_value x3
    extract_lets +onlyGivenNames t4
    have ht4 : Keeps o t4 := by
      unfold t4
      refine keeps_ite (fun _ => ?_) (fun _ => ?_)
      · exact hb1
      · refine keeps_ite (fun _ => ?_) (fun _ => ?_)
        · exact keeps_dropSource hb1
        · refine keeps_ite (fun _ => ?_) (fun _ => ?_)
          · exact keeps_dropSource hb1
          · exact keeps_put hb1 Fld.ok_tunSrcElig
    try clear_value t4
    refine keeps_put ?_ Fld.ok_tunSrcElig
    exact keeps_put ht4 Fld.ok_tunSrcFresh
  · exact h

theorem keeps_festRecord {o : State} {e : Int} {s : State} (h : Keeps o s) :
    Keeps o (festRecord e s) := by
  unfold festRecord
  extract_lets +onlyGivenNames x1; try clear_value x1
  extract_lets +onlyGivenNames x2; try clear_value x2
  extract_lets +onlyGivenNames x3; try clear_value x3
  extract_lets +onlyGivenNames t4
  have ht4 : Keeps o t4 := by
    unfold t4
    refine keeps_put ?_ Fld.ok_tunFestN
    refine keeps_put ?_ Fld.ok_tunFestNext
    refine keeps_sput ?_ Fld.ok_tunFestY
    exact keeps_put h Fld.ok_tunFestX
  try clear_value t4
  extract_lets +onlyGivenNames x5; try clear_value x5
  extract_lets +onlyGivenNames x6; try clear_value x6
  extract_lets +onlyGivenNames x7; try clear_value x7
  extract_lets +onlyGivenNames x8; try clear_value x8
  extract_lets +onlyGivenNames x9; try clear_value x9
  extract_lets +onlyGivenNames x10; try clear_value x10
  refine keeps_ite (fun _ => ?_) (fun _ => ?_)
  · exact ht4
  · refine keeps_draw ?_
    exact keeps_putShown Fld.ok_tunFest ht4

theorem keeps_steer {o : State} {e : Int} {s : State} (h : Keeps o s) :
    Keeps o (steer e s) := by
  unfold steer
  extract_lets +onlyGivenNames x1; try clear_value x1
  extract_lets +onlyGivenNames x2; try clear_value x2
  extract_lets +onlyGivenNames x3; try clear_value x3
  extract_lets +onlyGivenNames x4; try clear_value x4
  extract_lets +onlyGivenNames t5
  have ht5 : Keeps o t5 := by
    unfold t5
    refine keeps_put ?_ Fld.ok_tunAge
    refine keeps_putShown Fld.ok_tunOffset ?_
    exact keeps_sput h Fld.ok_tunTrim
  try clear_value t5
  extract_lets +onlyGivenNames t6
  have ht6 : Keeps o t6 := by
    unfold t6
    exact keeps_put ht5 Fld.ok_tunStatSlewing
  try clear_value t6
  extract_lets +onlyGivenNames t7
  have ht7 : Keeps o t7 := by
    unfold t7
    exact keeps_festRecord ht6
  try clear_value t7
  refine keeps_ite (fun _ => ?_) (fun _ => ?_)
  · exact ht7
  · exact keeps_stepGtc ht7

theorem keeps_runOnFest {o : State} {ages : Bool} {s : State} (h : Keeps o s) :
    Keeps o (runOnFest ages s) := by
  unfold runOnFest
  extract_lets +onlyGivenNames t1
  have ht1 : Keeps o t1 := by
    unfold t1
    refine keeps_put ?_ Fld.ok_tunStatSlewing
    exact keeps_put h Fld.ok_tunTrim
  try clear_value t1
  refine keeps_ite (fun _ => ?_) (fun _ => ?_)
  · exact keeps_inc ht1 Fld.ok_tunAge
  · exact ht1

theorem keeps_uncontest {o : State} {cause : Nat} {s : State} (h : Keeps o s) :
    Keeps o (uncontest cause s) := by
  unfold uncontest
  refine keeps_ite (fun _ => ?_) (fun _ => ?_)
  · exact keeps_raise h
  · exact h

theorem keeps_closeEpoch {o : State} {wanted : Nat} {contested : Bool} {steered : Option Int} {s : State} (h : Keeps o s) :
    Keeps o (closeEpoch wanted contested steered s) := by
  unfold closeEpoch
  extract_lets +onlyGivenNames x1; try clear_value x1
  extract_lets +onlyGivenNames x2; try clear_value x2
  refine keeps_setTime ?_
  exact keeps_put h Fld.ok_tunStatAgeMs

theorem keeps_forcedEpoch {o : State} {f : Nat} {s : State} (h : Keeps o s) :
    Keeps o (forcedEpoch f s) := by
  unfold forcedEpoch
  extract_lets +onlyGivenNames t1
  have ht1 : Keeps o t1 := by
    unfold t1
    refine keeps_put ?_ Fld.ok_tunStatForced
    exact keeps_uncontest h
  try clear_value t1
  extract_lets +onlyGivenNames t2
  have ht2 : Keeps o t2 := by
    unfold t2
    exact keeps_put ht1 Fld.ok_tunStatNagree
  try clear_value t2
  extract_lets +onlyGivenNames t3
  have ht3 : Keeps o t3 := by
    unfold t3
    refine keeps_foldl ?_ ?_
    · intro b5 y6 hb4
      exact keeps_put hb4 Fld.ok_tunSrcAgree
    · exact ht2
  try clear_value t3
  refine keeps_ite (fun _ => ?_) (fun _ => ?_)
  · extract_lets +onlyGivenNames x7; try clear_value x7
    refine keeps_closeEpoch ?_
    exact keeps_steer ht3
  · refine keeps_closeEpoch ?_
    exact keeps_runOnFest ht3

theorem keeps_quarantine {o : State} {src : Nat} {off : Int} {m : Int} {s : State} (h : Keeps o s) :
    Keeps o (quarantine src off m s) := by
  unfold quarantine
  refine keeps_raise ?_
  refine keeps_inc ?_ Fld.ok_tunQuar
  refine keeps_put ?_ Fld.ok_tunSrcQleft
  exact keeps_put h Fld.ok_tunSrcQuar

theorem keeps_fusedEpoch {o : State} {s : State} (h : Keeps o s) :
    Keeps o (fusedEpoch s) := by
  unfold fusedEpoch
  extract_lets +onlyGivenNames t1
  have ht1 : Keeps o t1 := by
    unfold t1
    exact keeps_put h Fld.ok_tunStatForced
  try clear_value t1
  extract_lets +onlyGivenNames x2; try clear_value x2
  extract_lets +onlyGivenNames x3; try clear_value x3
  extract_lets +onlyGivenNames x4; try clear_value x4
  extract_lets +onlyGivenNames x5; try clear_value x5
  extract_lets +onlyGivenNames t6
  have ht6 : Keeps o t6 := by
    unfold t6
    refine keeps_foldl ?_ ?_
    · intro b8 y9 hb7
      exact keeps_put hb7 Fld.ok_tunSrcAgree
    · exact ht1
  try clear_value t6
  extract_lets +onlyGivenNames t10
  have ht10 : Keeps o t10 := by
    unfold t10
    refine keeps_draw ?_
    exact keeps_put ht6 Fld.ok_tunStatNagree
  try clear_value t10
  refine keeps_ite (fun _ => ?_) (fun _ => ?_)
  · refine keeps_closeEpoch ?_
    exact keeps_runOnFest ht10
  · refine keeps_ite (fun _ => ?_) (fun _ => ?_)
    · extract_lets +onlyGivenNames t11
      have ht11 : Keeps o t11 := by
        unfold t11
        refine keeps_ite (fun _ => ?_) (fun _ => ?_)
        · exact ht10
        · exact keeps_raise ht10
      try clear_value t11
      refine keeps_closeEpoch ?_
      exact keeps_runOnFest ht11
    · extract_lets +onlyGivenNames t12
      have ht12 : Keeps o t12 := by
        unfold t12
        exact keeps_uncontest ht10
      try clear_value t12
      extract_lets +onlyGivenNames t13
      have ht13 : Keeps o t13 := by
        unfold t13
        refine keeps_foldl ?_ ?_
        · intro b15 y16 hb14
          exact keeps_quarantine hb14
        · exact ht12
      try clear_value t13
      extract_lets +onlyGivenNames x17; try clear_value x17
      refine keeps_closeEpoch ?_
      exact keeps_steer ht13

theorem keeps_policyBlock {o : State} {mask : Nat} {k : Nat} {s : State} (h : Keeps o s) :
    Keeps o (policyBlock mask k s).2 := by
  unfold policyBlock
  extract_lets +onlyGivenNames x1; try clear_value x1
  extract_lets +onlyGivenNames x2; try clear_value x2
  extract_lets +onlyGivenNames x3; try clear_value x3
  extract_lets +onlyGivenNames x4; try clear_value x4
  split
  · extract_lets +onlyGivenNames t5
    have ht5 : Keeps o t5 := by
      unfold t5
      refine keeps_put ?_ Fld.ok_tunPolPtmRef
      refine keeps_put ?_ Fld.ok_tunPolPtmEn
      refine keeps_put ?_ Fld.ok_tunPolSyncRef
      exact keeps_put h Fld.ok_tunPolSyncEn
    try clear_value t5
    show Keeps o (_)
    refine keeps_put ?_ Fld.ok_tunPolStepNs
    exact keeps_put ht5 Fld.ok_tunPolForce
  · show Keeps o (_)
    exact keeps_put h Fld.ok_tunLnkenEn
  · show Keeps o (_)
    refine keeps_put ?_ Fld.ok_tunSyncCfgOffsetNs
    exact keeps_put h Fld.ok_tunSyncCfgPeriodNs
  · show Keeps o (_)
    exact keeps_put h Fld.ok_tunSyncDly
  · show Keeps o (_)
    refine keeps_put ?_ Fld.ok_tunSoutCfgOffsetNs
    exact keeps_put h Fld.ok_tunSoutCfgPeriodNs
  · show Keeps o (_)
    exact keeps_put h Fld.ok_tunPtmCfgPeriod
  · show Keeps o (_)
    exact keeps_put h Fld.ok_tunPtmOfs
  · split
    · show Keeps o (_)
      exact keeps_stepGtc h
    · show Keeps o (_)
      exact h
  · show Keeps o (_)
    exact h

theorem keeps_applyPolicy {o : State} {s : State} (h : Keeps o s) :
    Keeps o (applyPolicy s).2 := by
  unfold applyPolicy
  extract_lets +onlyGivenNames x1; try clear_value x1
  split
  · rename_i v2 v3 e4
    have hv3 : Keeps o v3 := by
      have k5 := congrArg (fun p => Keeps o p.2) e4
      refine k5.mp ?_
      refine foldl_keeps (fun p : Bool × State => Keeps o p.2) ?_ ?_
      · intro b11 y12 hb6
        split
        · split
          · rename_i v7 v8 e9
            have hv8 : Keeps o v8 := by
              have k10 := congrArg (fun p => Keeps o p.2) e9
              refine k10.mp ?_
              exact keeps_policyBlock hb6
            show Keeps o (_)
            exact hv8
        · exact hb6
      · show Keeps o (_)
        exact h
    show Keeps o (_)
    exact keeps_raise hv3

theorem keeps_execFusionEpoch {o : State} {s : State} (h : Keeps o s) :
    KeepsOut o (execFusionEpoch s) := by
  unfold execFusionEpoch
  refine keepsOut_ite (fun _ => ?_) (fun _ => ?_)
  · refine keepsOut_next ?_
    exact h
  · extract_lets +onlyGivenNames x1; try clear_value x1
    split
    · rename_i v2 v3 e4
      have hv3 : Keeps o v3 := by
        have k5 := congrArg (fun p => Keeps o p.2) e4
        refine k5.mp ?_
        split
        · exact keeps_applyPolicy h
        · show Keeps o (_)
          exact h
      extract_lets +onlyGivenNames t6
      have ht6 : Keeps o t6 := by
        unfold t6
        refine keeps_foldl ?_ ?_
        · intro b8 y9 hb7
          exact keeps_put hb7 Fld.ok_tunAsymEff
        · exact hv3
      try clear_value t6
      extract_lets +onlyGivenNames t10
      have ht10 : Keeps o t10 := by
        unfold t10
        exact keeps_quarCount ht6
      try clear_value t10
      extract_lets +onlyGivenNames t11
      have ht11 : Keeps o t11 := by
        unfold t11
        refine keeps_showSources ?_
        exact keeps_put ht10 Fld.ok_tunStatLevel
      try clear_value t11
      extract_lets +onlyGivenNames t12
      have ht12 : Keeps o t12 := by
        unfold t12
        exact keeps_put ht11 Fld.ok_tunStatNelig
      try clear_value t12
      extract_lets +onlyGivenNames x13; try clear_value x13
      extract_lets +onlyGivenNames t14
      have ht14 : Keeps o t14 := by
        unfold t14
        refine keeps_ite (fun _ => ?_) (fun _ => ?_)
        · exact keeps_forcedEpoch ht12
        · exact keeps_fusedEpoch ht12
      try clear_value t14
      extract_lets +onlyGivenNames t15
      have ht15 : Keeps o t15 := by
        unfold t15
        refine keeps_put ?_ Fld.ok_tunEpochAt
        exact keeps_inc ht14 Fld.ok_tunEpochs
      try clear_value t15
      refine keepsOut_next ?_
      refine keeps_ite (fun _ => ?_) (fun _ => ?_)
      · refine keeps_mbxFinish ?_
        exact keeps_put ht15 Fld.ok_mbxRsp
      · exact ht15

theorem keeps_wakeTime {o : State} {s : State} (h : Keeps o s) :
    Keeps o (wakeTime s) := by
  unfold wakeTime
  refine keeps_setTime ?_
  refine keeps_put ?_ Fld.ok_gtcAway
  exact keeps_inc h Fld.ok_gtc

theorem keeps_launchDone {o : State} {c : Nat} {gd : BitVec 5} {late : Bool} {refused : Bool} {s : State} (h : Keeps o s) :
    Keeps o (launchDone c gd late refused s) := by
  unfold launchDone
  extract_lets +onlyGivenNames t1
  have ht1 : Keeps o t1 := by
    unfold t1
    refine keeps_ite (fun _ => ?_) (fun _ => ?_)
    · refine keeps_raise ?_
      exact keeps_inc h Fld.ok_tunLrefused
    · exact h
  try clear_value t1
  refine keeps_retire ?_
  exact keeps_setG ht1

theorem keeps_execLaunch {o : State} {core : CoreId} {mode : Bool} {gs : BitVec 5} {gd : BitVec 5} {m : BitVec 32} {s : State} (h : Keeps o s) :
    KeepsOut o (execLaunch core mode gs gd m s) := by
  unfold execLaunch
  extract_lets +onlyGivenNames x1; try clear_value x1
  extract_lets +onlyGivenNames x2; try clear_value x2
  refine keeps_issue h ?_
  intro y3 hy4
  extract_lets +onlyGivenNames t5
  have ht5 : Keeps o t5 := by
    unfold t5
    refine keeps_extWait ?_
    exact keeps_unclean hy4
  try clear_value t5
  extract_lets +onlyGivenNames x6; try clear_value x6
  refine keeps_ite (fun _ => ?_) (fun _ => ?_)
  · refine keeps_ite (fun _ => ?_) (fun _ => ?_)
    · refine keeps_launchDone ?_
      exact keeps_waited ht5
    · refine keeps_ite (fun _ => ?_) (fun _ => ?_)
      · refine keeps_launchDone ?_
        exact keeps_waited ht5
      · exact keeps_hold ht5
  · extract_lets +onlyGivenNames t7
    have ht7 : Keeps o t7 := by
      unfold t7
      exact keeps_stallG ht5
    try clear_value t7
    extract_lets +onlyGivenNames x8; try clear_value x8
    refine keeps_ite (fun _ => ?_) (fun _ => ?_)
    · exact keeps_launchDone ht7
    · refine keeps_ite (fun _ => ?_) (fun _ => ?_)
      · exact keeps_launchDone ht7
      · refine keeps_ite (fun _ => ?_) (fun _ => ?_)
        · exact keeps_launchDone ht7
        · refine keeps_hold ?_
          exact keeps_put ht7 Fld.ok_coreLaunchT

theorem keeps_execRefreshSlot {o : State} {ch : Chan} {s : State} (h : Keeps o s) :
    KeepsOut o (execRefreshSlot ch s) := by
  unfold execRefreshSlot
  extract_lets +onlyGivenNames x1; try clear_value x1
  refine keepsOut_ite (fun _ => ?_) (fun _ => ?_)
  · refine keepsOut_next ?_
    exact h
  · extract_lets +onlyGivenNames t2
    have ht2 : Keeps o t2 := by
      unfold t2
      refine keeps_ite (fun _ => ?_) (fun _ => ?_)
      · exact keeps_put h Fld.ok_refRestart
      · exact h
    try clear_value t2
    extract_lets +onlyGivenNames x3; try clear_value x3
    extract_lets +onlyGivenNames t4
    have ht4 : Keeps o t4 := by
      unfold t4
      refine keeps_ite (fun _ => ?_) (fun _ => ?_)
      · refine keeps_detCause ?_
        exact keeps_put ht2 Fld.ok_refHalf
      · exact ht2
    try clear_value t4
    refine keepsOut_next ?_
    refine keeps_put ?_ Fld.ok_foxRsvcEff
    exact keeps_put ht4 Fld.ok_foxServK

end Sys2Proof.Machine
end

