-- ==== Sys2Proof/Laws/KeepsLinks.lean ====
section
/-!
SUPPORT. The operations of Machine/Links.lean keep what Keeps says.
-/
namespace Sys2Proof.Machine

theorem keeps_dropLinkQueues {o : State} {l : Nat} {s : State} (h : Keeps o s) :
    Keeps o (dropLinkQueues l s) := by
  unfold dropLinkQueues
  refine keeps_put ?_ Fld.ok_lnkReplay
  exact Keeps.upd h (fun sh => { sh with txq := tsorted_filter _ sh.txq, retry := tsorted_filter _ sh.retry }) rfl rfl rfl

theorem keeps_leaveAdmitted {o : State} {l : Nat} {s : State} (h : Keeps o s) :
    Keeps o (leaveAdmitted l s) := by
  unfold leaveAdmitted
  extract_lets +onlyGivenNames x1; try clear_value x1
  extract_lets +onlyGivenNames t2
  have ht2 : Keeps o t2 := by
    unfold t2
    refine keeps_setLinkDown ?_
    exact keeps_dropLinkQueues h
  try clear_value t2
  extract_lets +onlyGivenNames t3
  have ht3 : Keeps o t3 := by
    unfold t3
    refine keeps_foxReserve ?_
    exact keeps_failMsgs ht2
  try clear_value t3
  extract_lets +onlyGivenNames t4
  have ht4 : Keeps o t4 := by
    unfold t4
    exact keeps_dropBeacon ht3
  try clear_value t4
  refine keeps_foldl ?_ ?_
  · intro b6 y7 hb5
    refine keeps_ite (fun _ => ?_) (fun _ => ?_)
    · exact keeps_faultFabric hb5
    · exact hb5
  · exact ht4

theorem keeps_beginTraining {o : State} {l : Nat} {s : State} (h : Keeps o s) :
    Keeps o (beginTraining l s) := by
  unfold beginTraining
  extract_lets +onlyGivenNames t1
  have ht1 : Keeps o t1 := by
    unfold t1
    exact keeps_clearFlds h
  try clear_value t1
  extract_lets +onlyGivenNames t2
  have ht2 : Keeps o t2 := by
    unfold t2
    exact Keeps.upd ht1 (fun sh => { sh with attest := tsorted_filter _ sh.attest }) rfl rfl rfl
  try clear_value t2
  refine keeps_draw ?_
  refine keeps_put ?_ Fld.ok_lnkNonce
  exact keeps_dropLinkQueues ht2

theorem keeps_beginIsolated {o : State} {l : Nat} {s : State} (h : Keeps o s) :
    Keeps o (beginIsolated l s) := by
  unfold beginIsolated
  extract_lets +onlyGivenNames t1
  have ht1 : Keeps o t1 := by
    unfold t1
    exact keeps_dropLinkQueues h
  try clear_value t1
  refine keeps_put ?_ Fld.ok_lnkStatLock
  exact keeps_clearFlds ht1

theorem keeps_setLink {o : State} {l : Nat} {new : Nat} {why : Nat} {s : State} (h : Keeps o s) :
    Keeps o (setLink l new why s) := by
  unfold setLink
  extract_lets +onlyGivenNames x1; try clear_value x1
  refine keeps_ite (fun _ => ?_) (fun _ => ?_)
  · exact h
  · extract_lets +onlyGivenNames t2
    have ht2 : Keeps o t2 := by
      unfold t2
      exact keeps_put h Fld.ok_lnkStatState
    try clear_value t2
    extract_lets +onlyGivenNames x3; try clear_value x3
    extract_lets +onlyGivenNames t4
    have ht4 : Keeps o t4 := by
      unfold t4
      refine keeps_ite (fun _ => ?_) (fun _ => ?_)
      · exact keeps_put ht2 Fld.ok_lnkStatFcause
      · exact ht2
    try clear_value t4
    extract_lets +onlyGivenNames t5
    have ht5 : Keeps o t5 := by
      unfold t5
      refine keeps_ite (fun _ => ?_) (fun _ => ?_)
      · exact keeps_leaveAdmitted ht4
      · exact ht4
    try clear_value t5
    extract_lets +onlyGivenNames x6; try clear_value x6
    extract_lets +onlyGivenNames t7
    have ht7 : Keeps o t7 := by
      unfold t7
      split
      · refine keeps_put ?_ Fld.ok_lnkStatLock
        exact keeps_dropLinkQueues ht5
      · exact keeps_beginTraining ht5
      · exact keeps_beginIsolated ht5
      · exact keeps_put ht5 Fld.ok_lnkEverAdm
      · refine keeps_raise ?_
        exact keeps_dropLinkQueues ht5
      · refine keeps_put ?_ Fld.ok_lnkStatLock
        exact keeps_dropLinkQueues ht5
    try clear_value t7
    refine keeps_mgCause ?_
    exact keeps_raise ht7

theorem keeps_linkStop {o : State} {l : Nat} {why : Nat} {s : State} (h : Keeps o s) :
    Keeps o (linkStop l why s) := by
  unfold linkStop
  refine keeps_ite (fun _ => ?_) (fun _ => ?_)
  · exact h
  · exact keeps_setLink h

theorem keeps_linkStart {o : State} {l : Nat} {s : State} (h : Keeps o s) :
    Keeps o (linkStart l s) := by
  unfold linkStart
  refine keeps_ite (fun _ => ?_) (fun _ => ?_)
  · exact keeps_setLink h
  · exact h

theorem keeps_execSignalDetect {o : State} {link : LinkId} {s : State} (h : Keeps o s) :
    KeepsOut o (execSignalDetect link s) := by
  unfold execSignalDetect
  refine keepsOut_next ?_
  refine keeps_ite (fun _ => ?_) (fun _ => ?_)
  · refine keeps_linkStart ?_
    exact keeps_put h Fld.ok_lnkStatSignal
  · exact h

theorem keeps_execTrainingComplete {o : State} {link : LinkId} {s : State} (h : Keeps o s) :
    KeepsOut o (execTrainingComplete link s) := by
  unfold execTrainingComplete
  refine keepsOut_next ?_
  refine keeps_ite (fun _ => ?_) (fun _ => ?_)
  · exact keeps_setLink h
  · exact h

theorem keeps_execTrainingTimeout {o : State} {link : LinkId} {s : State} (h : Keeps o s) :
    KeepsOut o (execTrainingTimeout link s) := by
  unfold execTrainingTimeout
  refine keepsOut_next ?_
  refine keeps_ite (fun _ => ?_) (fun _ => ?_)
  · exact keeps_setLink h
  · exact h

theorem keeps_linkLost {o : State} {l : Nat} {cause : Nat} {s : State} (h : Keeps o s) :
    Keeps o (linkLost l cause s) := by
  unfold linkLost
  extract_lets +onlyGivenNames x1; try clear_value x1
  extract_lets +onlyGivenNames t2
  have ht2 : Keeps o t2 := by
    unfold t2
    split
    · refine keeps_put ?_ Fld.ok_lnkStatLock
      exact keeps_put h Fld.ok_lnkStatSignal
    · exact keeps_put h Fld.ok_lnkStatLock
    · refine keeps_put ?_ Fld.ok_lnkStatLock
      refine keeps_put ?_ Fld.ok_lnkStatSignal
      exact keeps_put h Fld.ok_lnkStatCable
  try clear_value t2
  refine keeps_ite (fun _ => ?_) (fun _ => ?_)
  · exact keeps_setLink ht2
  · exact ht2

theorem keeps_execSignalLoss {o : State} {link : LinkId} {cause : BitVec 2} {s : State} (h : Keeps o s) :
    KeepsOut o (execSignalLoss link cause s) := by
  unfold execSignalLoss
  refine keepsOut_next ?_
  refine keeps_ite (fun _ => ?_) (fun _ => ?_)
  · exact keeps_linkLost h
  · exact h

theorem keeps_execFaultRetrain {o : State} {link : LinkId} {s : State} (h : Keeps o s) :
    KeepsOut o (execFaultRetrain link s) := by
  unfold execFaultRetrain
  refine keepsOut_next ?_
  refine keeps_ite (fun _ => ?_) (fun _ => ?_)
  · exact keeps_setLink h
  · exact h

theorem keeps_countEpisode {o : State} {l : Nat} {s : State} (h : Keeps o s) :
    Keeps o (countEpisode l s) := by
  unfold countEpisode
  extract_lets +onlyGivenNames x1; try clear_value x1
  extract_lets +onlyGivenNames t2
  have ht2 : Keeps o t2 := by
    unfold t2
    refine keeps_put ?_ Fld.ok_lnkEpNext
    refine keeps_put ?_ Fld.ok_lnkEpTime
    exact keeps_inc h Fld.ok_lnkEpisodes
  try clear_value t2
  refine keeps_countRetry ?_
  exact keeps_tally ht2

theorem keeps_nakFlit {o : State} {l : Nat} {s : State} (h : Keeps o s) :
    Keeps o (nakFlit l s) := by
  unfold nakFlit
  refine keeps_ite (fun _ => ?_) (fun _ => ?_)
  · exact h
  · refine keeps_countEpisode ?_
    refine keeps_put ?_ Fld.ok_lnkRxEpAt
    refine keeps_put ?_ Fld.ok_lnkRxEp
    refine keeps_put ?_ Fld.ok_lnkNakDue
    exact keeps_put h Fld.ok_lnkNakPend

theorem keeps_ackFlits {o : State} {l : Nat} {ack : Nat} {s : State} (h : Keeps o s) :
    Keeps o (ackFlits l ack s) := by
  unfold ackFlits
  extract_lets +onlyGivenNames x1; try clear_value x1
  extract_lets +onlyGivenNames x2; try clear_value x2
  refine keeps_ite (fun _ => ?_) (fun _ => ?_)
  · exact h
  · extract_lets +onlyGivenNames x3; try clear_value x3
    extract_lets +onlyGivenNames t4
    have ht4 : Keeps o t4 := by
      unfold t4
      refine keeps_put ?_ Fld.ok_lnkAckAt
      exact Keeps.upd h (fun sh => { sh with retry := tsorted_tsetD _ _ _ sh.retry }) rfl rfl rfl
    try clear_value t4
    extract_lets +onlyGivenNames t5
    have ht5 : Keeps o t5 := by
      unfold t5
      exact keeps_put ht4 Fld.ok_lnkReplay
    try clear_value t5
    refine keeps_ite (fun _ => ?_) (fun _ => ?_)
    · exact keeps_put ht5 Fld.ok_lnkTxEp
    · exact ht5

theorem keeps_replay {o : State} {l : Nat} {s : State} (h : Keeps o s) :
    Keeps o (replay l s) := by
  unfold replay
  extract_lets +onlyGivenNames x1; try clear_value x1
  extract_lets +onlyGivenNames t2
  have ht2 : Keeps o t2 := by
    unfold t2
    refine keeps_put ?_ Fld.ok_lnkAckAt
    exact keeps_put h Fld.ok_lnkReplay
  try clear_value t2
  refine keeps_ite (fun _ => ?_) (fun _ => ?_)
  · exact ht2
  · split
    · exact keeps_countEpisode ht2
    · refine keeps_countEpisode ?_
      refine keeps_put ?_ Fld.ok_lnkTxEpAt
      refine keeps_put ?_ Fld.ok_lnkTxEpSeq
      exact keeps_put ht2 Fld.ok_lnkTxEp

theorem keeps_receive {o : State} {l : Nat} {a2 : FlitHdr} {kind : Nat} {k : State → State} {s : State} (h4 : ∀ y1, Keeps o y1 → Keeps o (k y1)) (h : Keeps o s) :
    Keeps o (receive l a2 kind k s) := by
  unfold receive
  refine keeps_ite (fun _ => ?_) (fun _ => ?_)
  · exact h
  · extract_lets +onlyGivenNames t1
    have ht1 : Keeps o t1 := by
      unfold t1
      exact keeps_inc h Fld.ok_lnkFecCorr
    try clear_value t1
    extract_lets +onlyGivenNames x2; try clear_value x2
    refine keeps_ite (fun _ => ?_) (fun _ => ?_)
    · refine keeps_ite (fun _ => ?_) (fun _ => ?_)
      · exact ht1
      · exact keeps_nakFlit ht1
    · extract_lets +onlyGivenNames t3
      have ht3 : Keeps o t3 := by
        unfold t3
        refine keeps_put ?_ Fld.ok_lnkRxEp
        exact keeps_put ht1 Fld.ok_lnkNakPend
      try clear_value t3
      extract_lets +onlyGivenNames t4
      have ht4 : Keeps o t4 := by
        unfold t4
        refine keeps_ite (fun _ => ?_) (fun _ => ?_)
        · exact keeps_put ht3 Fld.ok_lnkExp
        · exact ht3
      try clear_value t4
      extract_lets +onlyGivenNames t5
      have ht5 : Keeps o t5 := by
        unfold t5
        refine h4 _ ?_
        exact ht4
      try clear_value t5
      refine keeps_ite (fun _ => ?_) (fun _ => ?_)
      · exact keeps_ackFlits ht5
      · exact ht5

theorem keeps_delivered {o : State} {l : Nat} {k : State → State} {s : State} (h2 : ∀ y1, Keeps o y1 → Keeps o (k y1)) (h : Keeps o s) :
    Keeps o (delivered l k s) := by
  unfold delivered
  refine h2 _ ?_
  exact keeps_inc h Fld.ok_lnkRxFlits

theorem keeps_routed {o : State} {l : Nat} {a2 : FlitHdr} {f : Flit} {mine : State → State} {s : State} (h4 : ∀ y1, Keeps o y1 → Keeps o (mine y1)) (h : Keeps o s) :
    KeepsOut o (routed l a2 f mine s) := by
  unfold routed
  refine keepsOut_next ?_
  refine keeps_receive ?_ h
  intro y1 hy2
  refine keeps_ite (fun _ => ?_) (fun _ => ?_)
  · refine keeps_tally ?_
    exact keeps_inc hy2 Fld.ok_lnkIsoDrop
  · refine keeps_delivered ?_ hy2
    intro y3 hy4
    refine keeps_ite (fun _ => ?_) (fun _ => ?_)
    · refine keeps_ite (fun _ => ?_) (fun _ => ?_)
      · exact hy4
      · refine h4 _ ?_
        exact hy4
    · exact keeps_forward hy4

theorem keeps_execCrcFail {o : State} {link : LinkId} {corr : BitVec 16} {uncorr : BitVec 8} {s : State} (h : Keeps o s) :
    KeepsOut o (execCrcFail link corr uncorr s) := by
  unfold execCrcFail
  extract_lets +onlyGivenNames x1; try clear_value x1
  refine keepsOut_next ?_
  refine keeps_ite (fun _ => ?_) (fun _ => ?_)
  · refine keeps_nakFlit ?_
    refine keeps_inc ?_ Fld.ok_lnkFecUncorr
    refine keeps_inc ?_ Fld.ok_lnkFecCorr
    exact keeps_inc h Fld.ok_lnkCrcErr
  · exact h

theorem keeps_execIdle {o : State} {link : LinkId} {a2 : FlitHdr} {s : State} (h : Keeps o s) :
    KeepsOut o (execIdle link a2 s) := by
  unfold execIdle
  refine keepsOut_next ?_
  refine keeps_receive ?_ h
  intro y1 hy2
  exact hy2

theorem keeps_execNak {o : State} {link : LinkId} {a2 : FlitHdr} {s : State} (h : Keeps o s) :
    KeepsOut o (execNak link a2 s) := by
  unfold execNak
  extract_lets +onlyGivenNames x1; try clear_value x1
  refine keepsOut_next ?_
  refine keeps_ite (fun _ => ?_) (fun _ => ?_)
  · refine keeps_replay ?_
    refine keeps_receive ?_ h
    intro y2 hy3
    refine keeps_delivered ?_ hy3
    intro y4 hy5
    exact hy5
  · exact h

theorem keeps_execAckTimeout {o : State} {link : LinkId} {s : State} (h : Keeps o s) :
    KeepsOut o (execAckTimeout link s) := by
  unfold execAckTimeout
  extract_lets +onlyGivenNames x1; try clear_value x1
  refine keepsOut_next ?_
  refine keeps_ite (fun _ => ?_) (fun _ => ?_)
  · exact keeps_replay h
  · exact h

theorem keeps_execEpisodeLimit {o : State} {link : LinkId} {s : State} (h : Keeps o s) :
    KeepsOut o (execEpisodeLimit link s) := by
  unfold execEpisodeLimit
  extract_lets +onlyGivenNames x1; try clear_value x1
  extract_lets +onlyGivenNames x2; try clear_value x2
  refine keepsOut_ite (fun _ => ?_) (fun _ => ?_)
  · refine keepsOut_next ?_
    exact h
  · refine keepsOut_ite (fun _ => ?_) (fun _ => ?_)
    · refine keepsOut_next ?_
      exact keeps_setLink h
    · extract_lets +onlyGivenNames x3; try clear_value x3
      extract_lets +onlyGivenNames x4; try clear_value x4
      refine keepsOut_ite (fun _ => ?_) (fun _ => ?_)
      · refine keepsOut_next ?_
        exact keeps_setLink h
      · refine keepsOut_next ?_
        exact h

theorem keeps_sendCtl {o : State} {l : Nat} {op : Nat} {s : State} (h : Keeps o s) :
    Keeps o (sendCtl l op s) := by
  unfold sendCtl
  exact keeps_queueFlit h

theorem keeps_execHelloSend {o : State} {link : LinkId} {s : State} (h : Keeps o s) :
    KeepsOut o (execHelloSend link s) := by
  unfold execHelloSend
  extract_lets +onlyGivenNames x1; try clear_value x1
  refine keepsOut_next ?_
  refine keeps_ite (fun _ => ?_) (fun _ => ?_)
  · exact keeps_sendCtl h
  · exact h

theorem keeps_execBeaconSend {o : State} {s : State} (h : Keeps o s) :
    KeepsOut o (execBeaconSend s) := by
  unfold execBeaconSend
  extract_lets +onlyGivenNames x1; try clear_value x1
  refine keepsOut_ite (fun _ => ?_) (fun _ => ?_)
  · refine keepsOut_next ?_
    exact h
  · refine keepsOut_next ?_
    refine keeps_put ?_ Fld.ok_lnkBcnAt
    refine keeps_foldl ?_ ?_
    · intro b3 y4 hb2
      refine keeps_ite (fun _ => ?_) (fun _ => ?_)
      · exact keeps_put hb2 Fld.ok_lnkBcnDue
      · exact hb2
    · exact h

theorem keeps_wire {o : State} {l : Nat} {f : Flit} {s : State} (h : Keeps o s) :
    Keeps o (wire l f s) := by
  unfold wire
  extract_lets +onlyGivenNames x1; try clear_value x1
  refine keeps_emit ?_
  refine keeps_ite (fun _ => ?_) (fun _ => ?_)
  · exact h
  · exact keeps_inc h Fld.ok_lnkTxFlits

theorem keeps_sendNew {o : State} {l : Nat} {s : State} (h : Keeps o s) :
    Keeps o (sendNew l s) := by
  unfold sendNew
  extract_lets +onlyGivenNames x1; try clear_value x1
  extract_lets +onlyGivenNames x2; try clear_value x2
  refine keeps_ite (fun _ => ?_) (fun _ => ?_)
  · exact keeps_wire h
  · split
    · exact keeps_wire h
    · split
      · exact keeps_wire h
      · extract_lets +onlyGivenNames x3; try clear_value x3
        extract_lets +onlyGivenNames x4; try clear_value x4
        extract_lets +onlyGivenNames t5
        have ht5 : Keeps o t5 := by
          unfold t5
          exact Keeps.upd h (fun sh => { sh with txq := tsorted_tsetD _ _ _ sh.txq, retry := tsorted_tset _ _ sh.retry }) rfl rfl rfl
        try clear_value t5
        extract_lets +onlyGivenNames t6
        have ht6 : Keeps o t6 := by
          unfold t6
          exact keeps_put ht5 Fld.ok_lnkTxSeq
        try clear_value t6
        extract_lets +onlyGivenNames t7
        have ht7 : Keeps o t7 := by
          unfold t7
          refine keeps_ite (fun _ => ?_) (fun _ => ?_)
          · exact keeps_put ht6 Fld.ok_lnkAckAt
          · exact ht6
        try clear_value t7
        refine keeps_wire ?_
        refine keeps_ite (fun _ => ?_) (fun _ => ?_)
        · exact keeps_put ht7 Fld.ok_lnkRot
        · exact ht7

theorem keeps_sendTraining {o : State} {l : Nat} {s : State} (h : Keeps o s) :
    Keeps o (sendTraining l s) := by
  unfold sendTraining
  split
  · refine keeps_wire ?_
    exact Keeps.upd h (fun sh => { sh with txq := tsorted_tsetD _ _ _ sh.txq }) rfl rfl rfl
  · exact keeps_wire h

theorem keeps_execFlitTransmit {o : State} {link : LinkId} {frac : BitVec 8} {s : State} (h : Keeps o s) :
    KeepsOut o (execFlitTransmit link frac s) := by
  unfold execFlitTransmit
  extract_lets +onlyGivenNames x1; try clear_value x1
  refine keepsOut_ite (fun _ => ?_) (fun _ => ?_)
  · refine keepsOut_next ?_
    exact keeps_sendTraining h
  · refine keepsOut_ite (fun _ => ?_) (fun _ => ?_)
    · refine keepsOut_next ?_
      exact h
    · refine keepsOut_ite (fun _ => ?_) (fun _ => ?_)
      · refine keepsOut_next ?_
        refine keeps_wire ?_
        exact keeps_put h Fld.ok_lnkNakDue
      · extract_lets +onlyGivenNames x2; try clear_value x2
        extract_lets +onlyGivenNames x3; try clear_value x3
        split
        · refine keepsOut_next ?_
          refine keeps_wire ?_
          exact keeps_put h Fld.ok_lnkReplay
        · refine keepsOut_ite (fun _ => ?_) (fun _ => ?_)
          · extract_lets +onlyGivenNames x4; try clear_value x4
            extract_lets +onlyGivenNames t5
            have ht5 : Keeps o t5 := by
              unfold t5
              exact keeps_wire h
            try clear_value t5
            refine keepsOut_next ?_
            refine keeps_put ?_ Fld.ok_lnkBseq
            refine keeps_put ?_ Fld.ok_lnkBcnSent
            exact keeps_put ht5 Fld.ok_lnkBcnDue
          · refine keepsOut_next ?_
            exact keeps_sendNew h

theorem keeps_execFlow {o : State} {link : LinkId} {a2 : FlitHdr} {core : BitVec 8} {ep : BitVec 3} {words : List (BitVec 512)} {s : State} (h : Keeps o s) :
    KeepsOut o (execFlow link a2 core ep words s) := by
  unfold execFlow
  extract_lets +onlyGivenNames x1; try clear_value x1
  extract_lets +onlyGivenNames x2; try clear_value x2
  extract_lets +onlyGivenNames x3; try clear_value x3
  refine keeps_routed ?_ h
  intro y4 hy5
  refine keeps_ite (fun _ => ?_) (fun _ => ?_)
  · exact keeps_inc hy5 Fld.ok_chPwrDrops
  · refine keeps_ite (fun _ => ?_) (fun _ => ?_)
    · refine keeps_tally ?_
      exact keeps_inc hy5 Fld.ok_ownFiltRx
    · refine keeps_ite (fun _ => ?_) (fun _ => ?_)
      · exact hy5
      · refine keeps_foldl ?_ ?_
        · intro b7 y8 hb6
          exact keeps_send hb6
        · exact hy5

theorem keeps_refuse {o : State} {ch : Nat} {a2 : FlitHdr} {msgid : Nat} {cause : Nat} {s : State} (h : Keeps o s) :
    Keeps o (refuse ch a2 msgid cause s) := by
  unfold refuse
  extract_lets +onlyGivenNames t1
  have ht1 : Keeps o t1 := by
    unfold t1
    refine keeps_raise ?_
    exact keeps_inc h Fld.ok_foxRefused
  try clear_value t1
  exact keeps_originate ht1

theorem keeps_execRreq {o : State} {link : LinkId} {a2 : FlitHdr} {msgid : BitVec 7} {spec : Bool} {addr : BitVec 40} {words : BitVec 6} {tag : BitVec 16} {full : Bool} {s : State} (h : Keeps o s) :
    KeepsOut o (execRreq link a2 msgid spec addr words tag full s) := by
  unfold execRreq
  extract_lets +onlyGivenNames x1; try clear_value x1
  extract_lets +onlyGivenNames x2; try clear_value x2
  extract_lets +onlyGivenNames x3; try clear_value x3
  refine keeps_routed ?_ h
  intro y4 hy5
  extract_lets +onlyGivenNames x6; try clear_value x6
  refine keeps_ite (fun _ => ?_) (fun _ => ?_)
  · exact keeps_refuse hy5
  · refine keeps_ite (fun _ => ?_) (fun _ => ?_)
    · exact keeps_refuse hy5
    · refine keeps_ite (fun _ => ?_) (fun _ => ?_)
      · exact keeps_refuse hy5
      · refine keeps_ite (fun _ => ?_) (fun _ => ?_)
        · exact keeps_refuse hy5
        · refine keeps_ite (fun _ => ?_) (fun _ => ?_)
          · exact keeps_havoc hy5
          · exact Keeps.upd hy5 (fun sh => { sh with foxPeer := tsorted_tset _ _ sh.foxPeer }) rfl rfl rfl

theorem keeps_landReply {o : State} {ch : Nat} {m : RMsg} {cells : List (BitVec 8 × Access)} {ws : List (Nat × List (BitVec 8) × Bool)} {s : State} (h : Keeps o s) :
    Keeps o (landReply ch m cells ws s) := by
  unfold landReply
  refine keeps_foldl ?_ ?_
  · intro b2 y3 hb1
    split
    · exact keeps_landWord hb1
    · exact hb1
  · exact h

theorem keeps_execRdata {o : State} {link : LinkId} {a2 : FlitHdr} {msgid : BitVec 7} {idx : BitVec 4} {wpois : BitVec 4} {last : Bool} {words : List (BitVec 512)} {cells : List (BitVec 8 × Access)} {s : State} (h : Keeps o s) :
    KeepsOut o (execRdata link a2 msgid idx wpois last words cells s) := by
  unfold execRdata
  extract_lets +onlyGivenNames x1; try clear_value x1
  extract_lets +onlyGivenNames x2; try clear_value x2
  extract_lets +onlyGivenNames x3; try clear_value x3
  refine keeps_routed ?_ h
  intro y4 hy5
  split
  · exact hy5
  · extract_lets +onlyGivenNames x6; try clear_value x6
    extract_lets +onlyGivenNames x7; try clear_value x7
    extract_lets +onlyGivenNames x8; try clear_value x8
    extract_lets +onlyGivenNames t9
    have ht9 : Keeps o t9 := by
      unfold t9
      exact keeps_setMsgs hy5
    try clear_value t9
    refine keeps_foxReserve ?_
    exact keeps_landReply ht9

theorem keeps_execRref {o : State} {link : LinkId} {a2 : FlitHdr} {msgid : BitVec 7} {cause : BitVec 8} {cells : List (BitVec 8 × Access)} {s : State} (h : Keeps o s) :
    KeepsOut o (execRref link a2 msgid cause cells s) := by
  unfold execRref
  extract_lets +onlyGivenNames x1; try clear_value x1
  refine keeps_routed ?_ h
  intro y2 hy3
  split
  · exact hy3
  · refine keeps_foxReserve ?_
    exact keeps_failMsg hy3

theorem keeps_execCommit {o : State} {link : LinkId} {a2 : FlitHdr} {tag : BitVec 16} {s : State} (h : Keeps o s) :
    KeepsOut o (execCommit link a2 tag s) := by
  unfold execCommit
  extract_lets +onlyGivenNames x1; try clear_value x1
  refine keeps_routed ?_ h
  intro y2 hy3
  refine keeps_ite (fun _ => ?_) (fun _ => ?_)
  · exact Keeps.upd hy3 (fun sh => { sh with foxPeer := tsorted_tsetD _ _ _ sh.foxPeer }) rfl rfl rfl
  · exact hy3

theorem keeps_execCancel {o : State} {link : LinkId} {a2 : FlitHdr} {tag : BitVec 16} {s : State} (h : Keeps o s) :
    KeepsOut o (execCancel link a2 tag s) := by
  unfold execCancel
  refine keeps_routed ?_ h
  intro y1 hy2
  exact hy2

theorem keeps_execHopfail {o : State} {link : LinkId} {a2 : FlitHdr} {chip : BitVec 15} {fch : Chan} {cause : BitVec 8} {a6 : BitVec 15} {s : State} (h : Keeps o s) :
    KeepsOut o (execHopfail link a2 chip fch cause a6 s) := by
  unfold execHopfail
  extract_lets +onlyGivenNames x1; try clear_value x1
  extract_lets +onlyGivenNames x2; try clear_value x2
  refine keeps_routed ?_ h
  intro y3 hy4
  extract_lets +onlyGivenNames x5; try clear_value x5
  extract_lets +onlyGivenNames t6
  have ht6 : Keeps o t6 := by
    unfold t6
    exact keeps_inc hy4 Fld.ok_fabHopfailRx
  try clear_value t6
  extract_lets +onlyGivenNames x7; try clear_value x7
  refine keeps_raise ?_
  refine keeps_foldl ?_ ?_
  · intro b9 y10 hb8
    exact keeps_setLinkDown hb8
  · exact ht6

theorem keeps_execBeacon {o : State} {link : LinkId} {a2 : FlitHdr} {txts : BitVec 64} {peerTx : BitVec 64} {rxts : BitVec 64} {level : BitVec 6} {usable : Bool} {bseq : BitVec 8} {rxseq : BitVec 8} {frac : BitVec 8} {s : State} (h : Keeps o s) :
    KeepsOut o (execBeacon link a2 txts peerTx rxts level usable bseq rxseq frac s) := by
  unfold execBeacon
  extract_lets +onlyGivenNames x1; try clear_value x1
  refine keepsOut_next ?_
  refine keeps_receive ?_ h
  intro y2 hy3
  refine keeps_delivered ?_ hy3
  intro y4 hy5
  extract_lets +onlyGivenNames x6; try clear_value x6
  extract_lets +onlyGivenNames t7
  have ht7 : Keeps o t7 := by
    unfold t7
    refine keeps_put ?_ Fld.ok_lnkPeerRx
    refine keeps_put ?_ Fld.ok_lnkPeerTx
    exact keeps_put hy5 Fld.ok_lnkPeerBseq
  try clear_value t7
  extract_lets +onlyGivenNames t8
  have ht8 : Keeps o t8 := by
    unfold t8
    refine keeps_put ?_ Fld.ok_tunSrcUsable
    exact keeps_put ht7 Fld.ok_tunSrcPlevel
  try clear_value t8
  refine keeps_ite (fun _ => ?_) (fun _ => ?_)
  · extract_lets +onlyGivenNames x9; try clear_value x9
    extract_lets +onlyGivenNames x10; try clear_value x10
    extract_lets +onlyGivenNames x11; try clear_value x11
    extract_lets +onlyGivenNames x12; try clear_value x12
    extract_lets +onlyGivenNames x13; try clear_value x13
    refine keeps_takeSample ?_
    exact keeps_draw ht8
  · exact ht8

theorem keeps_barrierFlit {o : State} {link : LinkId} {a2 : FlitHdr} {bid : BitVec 2} {gen : BitVec 32} {k : State → State} {s : State} (h5 : ∀ y1, Keeps o y1 → Keeps o (k y1)) (h : Keeps o s) :
    KeepsOut o (barrierFlit link a2 bid gen k s) := by
  unfold barrierFlit
  extract_lets +onlyGivenNames x1; try clear_value x1
  refine keepsOut_next ?_
  refine keeps_receive ?_ h
  intro y2 hy3
  extract_lets +onlyGivenNames x4; try clear_value x4
  refine keeps_ite (fun _ => ?_) (fun _ => ?_)
  · refine keeps_raise ?_
    exact keeps_inc hy3 Fld.ok_lnkRxDrop
  · refine keeps_delivered ?_ hy3
    intro y5 hy6
    refine h5 _ ?_
    exact hy6

theorem keeps_execArrive {o : State} {link : LinkId} {a2 : FlitHdr} {bid : BitVec 2} {gen : BitVec 32} {s : State} (h : Keeps o s) :
    KeepsOut o (execArrive link a2 bid gen s) := by
  unfold execArrive
  refine keeps_barrierFlit ?_ h
  intro y1 hy2
  refine keeps_ite (fun _ => ?_) (fun _ => ?_)
  · refine keeps_tryFabric ?_
    exact keeps_put hy2 Fld.ok_fbarArr
  · exact hy2

theorem keeps_execRelease {o : State} {link : LinkId} {a2 : FlitHdr} {bid : BitVec 2} {gen : BitVec 32} {count : BitVec 64} {s : State} (h : Keeps o s) :
    KeepsOut o (execRelease link a2 bid gen count s) := by
  unfold execRelease
  refine keeps_barrierFlit ?_ h
  intro y1 hy2
  refine keeps_ite (fun _ => ?_) (fun _ => ?_)
  · exact keeps_gotRelease hy2
  · exact hy2

theorem keeps_execFault {o : State} {link : LinkId} {a2 : FlitHdr} {bid : BitVec 2} {gen : BitVec 32} {cause : BitVec 2} {s : State} (h : Keeps o s) :
    KeepsOut o (execFault link a2 bid gen cause s) := by
  unfold execFault
  refine keeps_barrierFlit ?_ h
  intro y1 hy2
  refine keeps_ite (fun _ => ?_) (fun _ => ?_)
  · exact keeps_faultFabric hy2
  · exact hy2

theorem keeps_sendAttest {o : State} {l dir xid n seg : Nat} {bs : List (BitVec 8)} {s : State} (h : Keeps o s) :
    Keeps o (sendAttest l dir xid n seg bs s) := by
  induction n generalizing seg bs s with
  | zero => exact h
  | succ n ih =>
    unfold sendAttest
    extract_lets part last f t
    have ht : Keeps o t := keeps_queueFlit h
    exact keeps_ite (fun _ => ht) (fun _ => ih ht)

theorem keeps_nextAttest {o : State} {l : Nat} {first : Bool} {s : State} (h : Keeps o s) :
    Keeps o (nextAttest l first s) := by
  unfold nextAttest
  extract_lets +onlyGivenNames x1; try clear_value x1
  refine keeps_sendAttest ?_
  exact keeps_draw h

theorem keeps_execAttest {o : State} {link : LinkId} {a2 : FlitHdr} {xid : BitVec 8} {seg : BitVec 4} {resp : Bool} {last : Bool} {data : List (BitVec 8)} {s : State} (h : Keeps o s) :
    KeepsOut o (execAttest link a2 xid seg resp last data s) := by
  unfold execAttest
  extract_lets +onlyGivenNames x1; try clear_value x1
  extract_lets +onlyGivenNames x2; try clear_value x2
  refine keepsOut_next ?_
  refine keeps_receive ?_ h
  intro y3 hy4
  refine keeps_delivered ?_ hy4
  intro y5 hy6
  extract_lets +onlyGivenNames x7; try clear_value x7
  extract_lets +onlyGivenNames t8
  have ht8 : Keeps o t8 := by
    unfold t8
    exact Keeps.upd hy6 (fun sh => { sh with attest := tsorted_tset _ _ sh.attest }) rfl rfl rfl
  try clear_value t8
  refine keeps_ite (fun _ => ?_) (fun _ => ?_)
  · exact ht8
  · refine keeps_ite (fun _ => ?_) (fun _ => ?_)
    · refine keeps_put ?_ Fld.ok_lnkAttXid
      exact keeps_put ht8 Fld.ok_lnkAttGot
    · refine keeps_ite (fun _ => ?_) (fun _ => ?_)
      · refine keeps_nextAttest ?_
        exact Keeps.upd ht8 (fun sh => { sh with attest := tsorted_filter _ sh.attest }) rfl rfl rfl
      · exact Keeps.upd ht8 (fun sh => { sh with attest := tsorted_filter _ sh.attest }) rfl rfl rfl

theorem keeps_ctlFlit {o : State} {l : Nat} {a2 : FlitHdr} {k : State → State} {s : State} (h3 : ∀ y1, Keeps o y1 → Keeps o (k y1)) (h : Keeps o s) :
    KeepsOut o (ctlFlit l a2 k s) := by
  unfold ctlFlit
  refine keepsOut_next ?_
  refine keeps_ite (fun _ => ?_) (fun _ => ?_)
  · refine keeps_delivered ?_ h
    intro y1 hy2
    refine h3 _ ?_
    exact hy2
  · refine keeps_receive ?_ h
    intro y3 hy4
    refine keeps_delivered ?_ hy4
    intro y5 hy6
    refine h3 _ ?_
    exact hy6

theorem keeps_execHello {o : State} {link : LinkId} {a2 : FlitHdr} {c : LinkCtl} {s : State} (h : Keeps o s) :
    KeepsOut o (execHello link a2 c s) := by
  unfold execHello
  extract_lets +onlyGivenNames x1; try clear_value x1
  refine keeps_ctlFlit ?_ h
  intro y2 hy3
  extract_lets +onlyGivenNames t4
  have ht4 : Keeps o t4 := by
    unfold t4
    refine keeps_put ?_ Fld.ok_lnkPnonce
    refine keeps_put ?_ Fld.ok_lnkPeerStep
    refine keeps_put ?_ Fld.ok_lnkPeerPart
    refine keeps_put ?_ Fld.ok_lnkPeerPlink
    refine keeps_put ?_ Fld.ok_lnkPeerValid
    exact keeps_put hy3 Fld.ok_lnkPeerChip
  try clear_value t4
  exact keeps_put ht4 Fld.ok_lnkHello

theorem keeps_tryAdmitted {o : State} {l : Nat} {s : State} (h : Keeps o s) :
    Keeps o (tryAdmitted l s) := by
  unfold tryAdmitted
  refine keeps_ite (fun _ => ?_) (fun _ => ?_)
  · exact keeps_setLink h
  · exact h

theorem keeps_execPeerAdmit {o : State} {link : LinkId} {a2 : FlitHdr} {a3 : LinkCtl} {echo : BitVec 64} {s : State} (h : Keeps o s) :
    KeepsOut o (execPeerAdmit link a2 a3 echo s) := by
  unfold execPeerAdmit
  extract_lets +onlyGivenNames x1; try clear_value x1
  refine keeps_ctlFlit ?_ h
  intro y2 hy3
  refine keeps_ite (fun _ => ?_) (fun _ => ?_)
  · refine keeps_tryAdmitted ?_
    exact keeps_put hy3 Fld.ok_lnkStatPadmit
  · exact hy3

theorem keeps_sendAdmit {o : State} {l : Nat} {s : State} (h : Keeps o s) :
    Keeps o (sendAdmit l s) := by
  unfold sendAdmit
  refine keeps_tryAdmitted ?_
  refine keeps_put ?_ Fld.ok_lnkStatLadmit
  exact keeps_sendCtl h

theorem keeps_execRetire {o : State} {link : LinkId} {a2 : FlitHdr} {a3 : LinkCtl} {s : State} (h : Keeps o s) :
    KeepsOut o (execRetire link a2 a3 s) := by
  unfold execRetire
  extract_lets +onlyGivenNames x1; try clear_value x1
  refine keeps_ctlFlit ?_ h
  intro y2 hy3
  refine keeps_ite (fun _ => ?_) (fun _ => ?_)
  · exact keeps_setLink hy3
  · exact hy3

theorem keeps_execReservedFlitKind {o : State} {link : LinkId} {a2 : FlitHdr} {s : State} (h : Keeps o s) :
    KeepsOut o (execReservedFlitKind link a2 s) := by
  unfold execReservedFlitKind
  extract_lets +onlyGivenNames x1; try clear_value x1
  refine keepsOut_next ?_
  refine keeps_receive ?_ h
  intro y2 hy3
  exact keeps_inc hy3 Fld.ok_lnkRxDrop

theorem keeps_execLinkRetireDone {o : State} {link : LinkId} {s : State} (h : Keeps o s) :
    KeepsOut o (execLinkRetireDone link s) := by
  unfold execLinkRetireDone
  extract_lets +onlyGivenNames x1; try clear_value x1
  extract_lets +onlyGivenNames x2; try clear_value x2
  refine keepsOut_ite (fun _ => ?_) (fun _ => ?_)
  · refine keepsOut_next ?_
    exact h
  · extract_lets +onlyGivenNames t3
    have ht3 : Keeps o t3 := by
      unfold t3
      refine keeps_raise ?_
      refine keeps_put ?_ Fld.ok_lnkRetiring
      exact keeps_setLink h
    try clear_value t3
    refine keepsOut_next ?_
    refine keeps_ite (fun _ => ?_) (fun _ => ?_)
    · refine keeps_mbxFinish ?_
      exact keeps_put ht3 Fld.ok_mbxRsp
    · exact ht3

theorem keeps_refuseAdmit {o : State} {l : Nat} {cause : Nat} {s : State} (h : Keeps o s) :
    Keeps o (refuseAdmit l cause s) := by
  unfold refuseAdmit
  extract_lets +onlyGivenNames t1
  have ht1 : Keeps o t1 := by
    unfold t1
    exact keeps_raise h
  try clear_value t1
  refine keeps_mbxFinish ?_
  exact keeps_put ht1 Fld.ok_mbxRsp

theorem keeps_putDigest {o : State} {f : Fld} {l : Nat} {v : Nat} {s : State} (h1 : f.Ok) (h : Keeps o s) :
    Keeps o (putDigest f l v s) := by
  unfold putDigest
  refine keeps_foldl ?_ ?_
  · intro b2 y3 hb1
    exact keeps_put hb1 h1
  · exact h

theorem keeps_execAttestationDone {o : State} {link : LinkId} {good : Bool} {cert : BitVec 384} {meas : BitVec 384} {s : State} (h : Keeps o s) :
    KeepsOut o (execAttestationDone link good cert meas s) := by
  unfold execAttestationDone
  extract_lets +onlyGivenNames x1; try clear_value x1
  refine keepsOut_ite (fun _ => ?_) (fun _ => ?_)
  · refine keepsOut_next ?_
    exact h
  · refine keepsOut_ite (fun _ => ?_) (fun _ => ?_)
    · refine keepsOut_next ?_
      refine keeps_refuseAdmit ?_
      exact keeps_put h Fld.ok_lnkAttStatAtt
    · extract_lets +onlyGivenNames t2
      have ht2 : Keeps o t2 := by
        unfold t2
        refine keeps_putDigest Fld.ok_lnkCertDigest ?_
        exact keeps_putDigest Fld.ok_lnkMeasDigest h
      try clear_value t2
      refine keepsOut_ite (fun _ => ?_) (fun _ => ?_)
      · refine keepsOut_next ?_
        refine keeps_refuseAdmit ?_
        exact keeps_put ht2 Fld.ok_lnkAttStatAtt
      · extract_lets +onlyGivenNames t3
        have ht3 : Keeps o t3 := by
          unfold t3
          exact keeps_put ht2 Fld.ok_lnkAttStatAtt
        try clear_value t3
        refine keepsOut_ite (fun _ => ?_) (fun _ => ?_)
        · refine keepsOut_next ?_
          exact keeps_refuseAdmit ht3
        · extract_lets +onlyGivenNames t4
          have ht4 : Keeps o t4 := by
            unfold t4
            refine keeps_ite (fun _ => ?_) (fun _ => ?_)
            · exact keeps_sendAdmit ht3
            · exact ht3
          try clear_value t4
          refine keepsOut_next ?_
          refine keeps_mbxFinish ?_
          exact keeps_put ht4 Fld.ok_mbxRsp

end Sys2Proof.Machine
end

