-- ==== Sys2Proof/Laws/KeepsHostRegs.lean ====
section
/-!
SUPPORT. The operations of Machine/HostRegs.lean keep what Keeps says.
-/
namespace Sys2Proof.Machine

theorem keeps_execChDbell {o : State} {ch : Chan} {all : Bool} {core : BitVec 8} {s : State} (h : Keeps o s) :
    KeepsOut o (execChDbell ch all core s) := by
  unfold execChDbell
  extract_lets +onlyGivenNames x1; try clear_value x1
  refine keepsOut_ite (fun _ => ?_) (fun _ => ?_)
  · refine keepsOut_next ?_
    exact h
  · refine keepsOut_ite (fun _ => ?_) (fun _ => ?_)
    · refine keepsOut_next ?_
      refine keeps_foldl ?_ ?_
      · intro b3 y4 hb2
        exact keeps_send hb2
      · exact h
    · refine keepsOut_ite (fun _ => ?_) (fun _ => ?_)
      · refine keepsOut_next ?_
        exact keeps_send h
      · refine keepsOut_next ?_
        exact h

theorem keeps_execRteCtlFlip {o : State} {ch : Chan} {s : State} (h : Keeps o s) :
    KeepsOut o (execRteCtlFlip ch s) := by
  unfold execRteCtlFlip
  refine keepsOut_next ?_
  refine keeps_ite (fun _ => ?_) (fun _ => ?_)
  · exact keeps_flipPlan h
  · exact h

theorem keeps_relock {o : State} {ch : Nat} {s : State} (h : Keeps o s) :
    Keeps o (relock ch s) := by
  unfold relock
  refine keeps_put ?_ Fld.ok_chLfreqNext
  exact keeps_put h Fld.ok_pllRelock

theorem keeps_execRingCfgWrite {o : State} {ch : Chan} {ring : BitVec 8} {en : Bool} {dir : Bool} {core : BitVec 8} {slots : BitVec 7} {words : BitVec 7} {base : BitVec 19} {s : State} (h : Keeps o s) :
    KeepsOut o (execRingCfgWrite ch ring en dir core slots words base s) := by
  unfold execRingCfgWrite
  extract_lets +onlyGivenNames x1; try clear_value x1
  extract_lets +onlyGivenNames x2; try clear_value x2
  refine keepsOut_ite (fun _ => ?_) (fun _ => ?_)
  · refine keepsOut_next ?_
    exact h
  · extract_lets +onlyGivenNames t3
    have ht3 : Keeps o t3 := by
      unfold t3
      refine keeps_put ?_ Fld.ok_foxRingCfgBase
      refine keeps_put ?_ Fld.ok_foxRingCfgSlotWords
      refine keeps_put ?_ Fld.ok_foxRingCfgSlots
      refine keeps_put ?_ Fld.ok_foxRingCfgCore
      exact keeps_put h Fld.ok_foxRingCfgDir
    try clear_value t3
    refine keepsOut_ite (fun _ => ?_) (fun _ => ?_)
    · refine keepsOut_ite (fun _ => ?_) (fun _ => ?_)
      · refine keepsOut_next ?_
        exact keeps_put h Fld.ok_foxRingCfgEn
      · refine keepsOut_next ?_
        exact keeps_havoc h
    · refine keepsOut_ite (fun _ => ?_) (fun _ => ?_)
      · refine keepsOut_next ?_
        exact ht3
      · refine keepsOut_ite (fun _ => ?_) (fun _ => ?_)
        · refine keepsOut_next ?_
          refine keeps_havoc ?_
          exact keeps_put ht3 Fld.ok_foxRingCfgEn
        · extract_lets +onlyGivenNames t4
          have ht4 : Keeps o t4 := by
            unfold t4
            refine keeps_put ?_ Fld.ok_foxRingPtrGen
            refine keeps_ringEmpty ?_
            exact keeps_put ht3 Fld.ok_foxRingCfgEn
          try clear_value t4
          refine keepsOut_next ?_
          refine keeps_ite (fun _ => ?_) (fun _ => ?_)
          · refine keeps_put ?_ Fld.ok_ringViewPend
            exact keeps_put ht4 Fld.ok_ringFreev
          · exact ht4

theorem keeps_execFoxCtlWrite {o : State} {ch : Chan} {raEn : Bool} {rsvc : BitVec 3} {s : State} (h : Keeps o s) :
    KeepsOut o (execFoxCtlWrite ch raEn rsvc s) := by
  unfold execFoxCtlWrite
  extract_lets +onlyGivenNames x1; try clear_value x1
  refine keepsOut_ite (fun _ => ?_) (fun _ => ?_)
  · refine keepsOut_next ?_
    exact h
  · extract_lets +onlyGivenNames t2
    have ht2 : Keeps o t2 := by
      unfold t2
      refine keeps_put ?_ Fld.ok_foxCtlRsvc
      exact keeps_put h Fld.ok_foxCtlRaEn
    try clear_value t2
    extract_lets +onlyGivenNames t3
    have ht3 : Keeps o t3 := by
      unfold t3
      refine keeps_ite (fun _ => ?_) (fun _ => ?_)
      · exact keeps_dropRunAhead ht2
      · exact ht2
    try clear_value t3
    refine keepsOut_next ?_
    refine keeps_ite (fun _ => ?_) (fun _ => ?_)
    · exact ht3
    · refine keeps_put ?_ Fld.ok_foxRsvcEff
      exact keeps_put ht3 Fld.ok_foxServK

theorem keeps_loadSkey {o : State} {ch : Nat} {slot : Nat} {k : Nat} {s : State} (h : Keeps o s) :
    Keeps o (loadSkey ch slot k s) := by
  unfold loadSkey
  extract_lets +onlyGivenNames t1
  have ht1 : Keeps o t1 := by
    unfold t1
    exact keeps_put h Fld.ok_ownSkey
  try clear_value t1
  extract_lets +onlyGivenNames t2
  have ht2 : Keeps o t2 := by
    unfold t2
    refine keeps_ite (fun _ => ?_) (fun _ => ?_)
    · exact keeps_clrBit ht1 Fld.ok_ownChStatSkeys
    · exact keeps_setBit ht1 Fld.ok_ownChStatSkeys
  try clear_value t2
  exact keeps_raise ht2

theorem keeps_execOwnSkeyLoad {o : State} {ch : Chan} {slot : BitVec 4} {s : State} (h : Keeps o s) :
    KeepsOut o (execOwnSkeyLoad ch slot s) := by
  unfold execOwnSkeyLoad
  extract_lets +onlyGivenNames x1; try clear_value x1
  refine keepsOut_ite (fun _ => ?_) (fun _ => ?_)
  · refine keepsOut_next ?_
    exact h
  · extract_lets +onlyGivenNames t2
    have ht2 : Keeps o t2 := by
      unfold t2
      refine keeps_ite (fun _ => ?_) (fun _ => ?_)
      · exact h
      · exact keeps_loadSkey h
    try clear_value t2
    refine keepsOut_next ?_
    exact keeps_clearFlds ht2

theorem keeps_execFabFwdData {o : State} {value : Option (BitVec 32)} {s : State} (h : Keeps o s) :
    KeepsOut o (execFabFwdData value s) := by
  unfold execFabFwdData
  refine keepsOut_ite (fun _ => ?_) (fun _ => ?_)
  · refine keepsOut_next ?_
    exact h
  · extract_lets +onlyGivenNames x1; try clear_value x1
    extract_lets +onlyGivenNames x2; try clear_value x2
    extract_lets +onlyGivenNames t3
    have ht3 : Keeps o t3 := by
      unfold t3
      split
      · refine keeps_foldl ?_ ?_
        · intro b5 y6 hb4
          exact keeps_put hb4 Fld.ok_fabFwd
        · exact h
      · exact keeps_emit h
    try clear_value t3
    refine keepsOut_next ?_
    exact keeps_put ht3 Fld.ok_fabFwdAddrChip

theorem keeps_writeIrqMask {o : State} {fn : Nat} {v : Nat} {s : State} (h : Keeps o s) :
    Keeps o (writeIrqMask fn v s) := by
  unfold writeIrqMask
  split
  rename_i cf mf a n e
  have hm : mf.Ok := by
    split at e <;> cases e <;> simp
  exact keeps_foldl (fun _ _ ht => keeps_ite (fun _ => keeps_sendMsix ht) (fun _ => ht)) (keeps_put h hm)

theorem keeps_clearIrqCause {o : State} {fn : Nat} {v : Nat} {s : State} (h : Keeps o s) :
    Keeps o (clearIrqCause fn v s) := by
  unfold clearIrqCause
  split
  rename_i cf a n e
  have hc : cf.Ok := by
    split at e <;> cases e <;> simp
  exact keeps_foldl (fun _ _ ht => keeps_ite (fun _ => keeps_clrBit ht hc) (fun _ => ht)) h

theorem keeps_execIrqMaskWrite {o : State} {fn : Fin 9} {mask : Bool} {value : BitVec 11} {s : State} (h : Keeps o s) :
    KeepsOut o (execIrqMaskWrite fn mask value s) := by
  unfold execIrqMaskWrite
  refine keepsOut_ite (fun _ => ?_) (fun _ => ?_)
  · refine keepsOut_next ?_
    exact h
  · refine keepsOut_next ?_
    refine keeps_ite (fun _ => ?_) (fun _ => ?_)
    · exact keeps_writeIrqMask h
    · exact keeps_clearIrqCause h

theorem keeps_leaveD3 {o : State} {fn : Nat} {s : State} (h : Keeps o s) :
    Keeps o (leaveD3 fn s) := by
  unfold leaveD3
  refine keeps_foldl ?_ ?_
  · intro b3 y4 hb1
    refine keeps_ite (fun _ => ?_) (fun _ => ?_)
    · extract_lets +onlyGivenNames t2
      have ht2 : Keeps o t2 := by
        unfold t2
        exact keeps_put hb1 Fld.ok_msixD3
      try clear_value t2
      refine keeps_ite (fun _ => ?_) (fun _ => ?_)
      · exact keeps_sendMsix ht2
      · exact ht2
    · exact hb1
  · exact h

theorem keeps_sendPending {o : State} {fn : Nat} {s : State} (h : Keeps o s) :
    Keeps o (sendPending fn s) := by
  unfold sendPending
  refine keeps_ite (fun _ => ?_) (fun _ => ?_)
  · exact h
  · refine keeps_foldl ?_ ?_
    · intro b2 y3 hb1
      refine keeps_ite (fun _ => ?_) (fun _ => ?_)
      · refine keeps_emit ?_
        exact keeps_put hb1 Fld.ok_msixPba
      · exact hb1
    · exact h

theorem keeps_execFunctionDStateChange {o : State} {fn : Fin 9} {a2 : Bool} {s : State} (h : Keeps o s) :
    KeepsOut o (execFunctionDStateChange fn a2 s) := by
  unfold execFunctionDStateChange
  extract_lets +onlyGivenNames t1
  have ht1 : Keeps o t1 := by
    unfold t1
    exact keeps_put h Fld.ok_fnD3
  try clear_value t1
  refine keepsOut_next ?_
  refine keeps_ite (fun _ => ?_) (fun _ => ?_)
  · exact ht1
  · exact keeps_leaveD3 ht1

theorem keeps_execChPwrWrite {o : State} {ch : Chan} {req : BitVec 2} {hbmoff : Bool} {autorun : Bool} {wbatch : Bool} {wgtc : Bool} {wake : Bool} {s : State} (h : Keeps o s) :
    KeepsOut o (execChPwrWrite ch req hbmoff autorun wbatch wgtc wake s) := by
  unfold execChPwrWrite
  extract_lets +onlyGivenNames x1; try clear_value x1
  refine keepsOut_ite (fun _ => ?_) (fun _ => ?_)
  · refine keepsOut_next ?_
    exact h
  · extract_lets +onlyGivenNames t2
    have ht2 : Keeps o t2 := by
      unfold t2
      refine keeps_put ?_ Fld.ok_chPwrWgtc
      refine keeps_put ?_ Fld.ok_chPwrWbatch
      refine keeps_put ?_ Fld.ok_chPwrAutorun
      refine keeps_put ?_ Fld.ok_chPwrHbmoff
      exact keeps_put h Fld.ok_chPwrReq
    try clear_value t2
    refine keepsOut_next ?_
    refine keeps_ite (fun _ => ?_) (fun _ => ?_)
    · exact keeps_wakeChan ht2
    · exact ht2

theorem keeps_bar2Deny {o : State} {ch : Nat} {cause : Nat} {wr : Bool} {s : State} (h : Keeps o s) :
    Keeps o (bar2Deny ch cause wr s) := by
  unfold bar2Deny
  refine keeps_raise ?_
  exact keeps_inc h Fld.ok_ownBar2Deny

theorem keeps_allOnes {o : State} {ch : Nat} {n : Nat} {s : State} (h : Keeps o s) :
    Keeps o (allOnes ch n s) := by
  unfold allOnes
  exact keeps_emit h

theorem keeps_bar2Line {o : State} {ch : Nat} {line : Nat} {bs : Nat → Option (BitVec 8)} {s : State} (h : Keeps o s) :
    Keeps o (bar2Line ch line bs s) := by
  unfold bar2Line
  split
  · extract_lets +onlyGivenNames x1; try clear_value x1
    refine keeps_ite (fun _ => ?_) (fun _ => ?_)
    · exact keeps_hbmWrite h
    · exact h

theorem keeps_execBar2Access {o : State} {ch : Chan} {addr : BitVec 36} {len : BitVec 13} {wr : Option (List (Option (BitVec 8)))} {s : State} (h : Keeps o s) :
    KeepsOut o (execBar2Access ch addr len wr s) := by
  unfold execBar2Access
  extract_lets +onlyGivenNames x1; try clear_value x1
  extract_lets +onlyGivenNames x2; try clear_value x2
  extract_lets +onlyGivenNames x3; try clear_value x3
  extract_lets +onlyGivenNames x4; try clear_value x4
  extract_lets +onlyGivenNames x5
  have hx5 : ∀ y1, Keeps o y1 → Keeps o (x5 y1) := by
    intro y6 hy7
    unfold x5
    refine keeps_ite (fun _ => ?_) (fun _ => ?_)
    · exact hy7
    · exact keeps_allOnes hy7
  try clear_value x5
  refine keepsOut_ite (fun _ => ?_) (fun _ => ?_)
  · refine keepsOut_next ?_
    exact h
  · extract_lets +onlyGivenNames t8
    have ht8 : Keeps o t8 := by
      unfold t8
      exact keeps_detCause h
    try clear_value t8
    refine keepsOut_ite (fun _ => ?_) (fun _ => ?_)
    · refine keepsOut_next ?_
      refine hx5 _ ?_
      exact ht8
    · refine keepsOut_ite (fun _ => ?_) (fun _ => ?_)
      · refine keepsOut_next ?_
        refine hx5 _ ?_
        exact keeps_bar2Deny ht8
      · refine keepsOut_ite (fun _ => ?_) (fun _ => ?_)
        · refine keepsOut_next ?_
          refine hx5 _ ?_
          exact keeps_bar2Deny ht8
        · refine keepsOut_ite (fun _ => ?_) (fun _ => ?_)
          · refine keepsOut_next ?_
            refine hx5 _ ?_
            exact ht8
          · refine keepsOut_ite (fun _ => ?_) (fun _ => ?_)
            · refine keepsOut_next ?_
              exact keeps_havoc ht8
            · split
              · refine keepsOut_next ?_
                refine keeps_draw ?_
                exact keeps_emit ht8
              · extract_lets +onlyGivenNames x9; try clear_value x9
                refine keepsOut_next ?_
                refine keeps_foldl ?_ ?_
                · intro b11 y12 hb10
                  exact keeps_bar2Line hb10
                · exact ht8

end Sys2Proof.Machine
end

