-- ==== Sys2Proof/Laws/KeepsFreeze.lean ====
section
/-!
SUPPORT. The operations of Machine/Freeze.lean keep what Keeps says.
-/
namespace Sys2Proof.Machine

theorem keeps_freezeWave {o : State} {src : Nat} {slot : Nat} {s : State} (h : Keeps o s) :
    Keeps o (freezeWave src slot s) := by
  unfold freezeWave
  refine keeps_ite (fun _ => ?_) (fun _ => ?_)
  · exact h
  · extract_lets +onlyGivenNames t1
    have ht1 : Keeps o t1 := by
      unfold t1
      refine keeps_put ?_ Fld.ok_frzStatSlot
      refine keeps_put ?_ Fld.ok_frzStatSrc
      exact keeps_put h Fld.ok_frzStatFrozen
    try clear_value t1
    extract_lets +onlyGivenNames t2
    have ht2 : Keeps o t2 := by
      unfold t2
      refine keeps_put ?_ Fld.ok_frzGtc
      exact keeps_put ht1 Fld.ok_frzStatChfrozen
    try clear_value t2
    extract_lets +onlyGivenNames t3
    have ht3 : Keeps o t3 := by
      unfold t3
      refine keeps_put ?_ Fld.ok_frzPcyc
      exact keeps_put ht2 Fld.ok_frzOpsec
    try clear_value t3
    extract_lets +onlyGivenNames t4
    have ht4 : Keeps o t4 := by
      unfold t4
      refine keeps_clearFlds ?_
      exact keeps_put ht3 Fld.ok_frzStatRo
    try clear_value t4
    refine keeps_flush ?_
    refine keeps_mgCause ?_
    exact keeps_raise ht4

theorem keeps_cutSection {o : State} {ch : Nat} {killed : Bool} {s : State} (h : Keeps o s) :
    Keeps o (cutSection ch killed s) := by
  unfold cutSection
  refine keeps_ite (fun _ => ?_) (fun _ => ?_)
  · exact h
  · extract_lets +onlyGivenNames x1; try clear_value x1
    extract_lets +onlyGivenNames x2; try clear_value x2
    refine keeps_put ?_ Fld.ok_roOn
    exact Keeps.upd h (fun sh => { sh with }) rfl rfl rfl

theorem keeps_execFrzCtrlGo {o : State} {mgc : Bool} {s : State} (h : Keeps o s) :
    KeepsOut o (execFrzCtrlGo mgc s) := by
  unfold execFrzCtrlGo
  refine keepsOut_next ?_
  refine keeps_ite (fun _ => ?_) (fun _ => ?_)
  · exact keeps_freezeWave h
  · exact h

theorem keeps_execFreezeN {o : State} {ns : BitVec 16} {s : State} (h : Keeps o s) :
    KeepsOut o (execFreezeN ns s) := by
  unfold execFreezeN
  refine keepsOut_ite (fun _ => ?_) (fun _ => ?_)
  · refine keepsOut_next ?_
    exact h
  · refine keepsOut_ite (fun _ => ?_) (fun _ => ?_)
    · refine keepsOut_next ?_
      exact keeps_freezeWave h
    · refine keepsOut_next ?_
      refine keeps_draw ?_
      refine keeps_ite (fun _ => ?_) (fun _ => ?_)
      · exact keeps_freezeWave h
      · exact h

end Sys2Proof.Machine
end

