-- ==== Sys2Proof/Laws/KeepsRecorder.lean ====
section
/-!
SUPPORT. The operations of Machine/Recorder.lean keep what Keeps says.
-/
namespace Sys2Proof.Machine

theorem keeps_eraseSector {o : State} {p : Nat} {s : State} (h : Keeps o s) :
    Keeps o (eraseSector p s) := by
  unfold eraseSector
  refine keeps_clearFlds ?_
  exact keeps_wipe h

theorem keeps_openSector {o : State} {clear : Bool} {s : State} (h : Keeps o s) :
    Keeps o (openSector clear s) := by
  unfold openSector
  extract_lets +onlyGivenNames t1
  have ht1 : Keeps o t1 := by
    unfold t1
    refine keeps_ite (fun _ => ?_) (fun _ => ?_)
    · exact keeps_put h Fld.ok_evrSecEnd
    · exact h
  try clear_value t1
  extract_lets +onlyGivenNames x2; try clear_value x2
  split
  · rename_i v3 v4 e5
    have hv4 : Keeps o v4 := by
      have k6 := congrArg (fun p => Keeps o p.2) e5
      refine k6.mp ?_
      split
      · show Keeps o (_)
        exact ht1
      · split
        · show Keeps o (_)
          exact keeps_eraseSector ht1
        · show Keeps o (_)
          exact ht1
    extract_lets +onlyGivenNames x7; try clear_value x7
    extract_lets +onlyGivenNames t8
    have ht8 : Keeps o t8 := by
      unfold t8
      refine keeps_put ?_ Fld.ok_evrTorn
      refine keeps_put ?_ Fld.ok_evrUnit
      refine keeps_put ?_ Fld.ok_evrSseq
      exact keeps_put hv4 Fld.ok_evrSec
    try clear_value t8
    extract_lets +onlyGivenNames t9
    have ht9 : Keeps o t9 := by
      unfold t9
      refine keeps_setBytes ?_
      exact keeps_put ht8 Fld.ok_evrSecSseq
    try clear_value t9
    refine keeps_ite (fun _ => ?_) (fun _ => ?_)
    · exact keeps_put ht9 Fld.ok_evrClear
    · exact ht9

theorem keeps_takePlace {o : State} {units : Nat} {s : State} (h : Keeps o s) :
    Keeps o (takePlace units s).2 := by
  unfold takePlace
  extract_lets +onlyGivenNames t1
  have ht1 : Keeps o t1 := by
    unfold t1
    refine keeps_ite (fun _ => ?_) (fun _ => ?_)
    · exact keeps_openSector h
    · exact h
  try clear_value t1
  extract_lets +onlyGivenNames x2; try clear_value x2
  show Keeps o (_)
  exact keeps_put ht1 Fld.ok_evrUnit

theorem keeps_appendRec {o : State} {bs : List (BitVec 8)} {ev : Option Event} {s : State} (h : Keeps o s) :
    Keeps o (appendRec bs ev s) := by
  unfold appendRec
  split
  · rename_i v1 v2 e3
    have hv2 : Keeps o v2 := by
      have k4 := congrArg (fun p => Keeps o p.2) e3
      refine k4.mp ?_
      exact keeps_takePlace h
    exact Keeps.upd hv2 (fun sh => { sh with }) rfl rfl rfl

theorem keeps_loseRec {o : State} {s : State} (h : Keeps o s) :
    Keeps o (loseRec s) := by
  unfold loseRec
  refine keeps_inc ?_ Fld.ok_evrLostSec
  exact keeps_inc h Fld.ok_evrLost

theorem keeps_appendLimited {o : State} {bs : List (BitVec 8)} {ev : Option Event} {s : State} (h : Keeps o s) :
    Keeps o (appendLimited bs ev s) := by
  unfold appendLimited
  refine keeps_ite (fun _ => ?_) (fun _ => ?_)
  · exact keeps_loseRec h
  · exact keeps_appendRec h

theorem keeps_criticalWrite {o : State} {e : Event} {s : State} (h : Keeps o s) :
    Keeps o (criticalWrite e s) := by
  unfold criticalWrite
  extract_lets +onlyGivenNames x1; try clear_value x1
  split
  · rename_i v2 v3 e4
    have hv3 : Keeps o v3 := by
      have k5 := congrArg (fun p => Keeps o p.2) e4
      refine k5.mp ?_
      exact keeps_takePlace h
    refine keeps_flush ?_
    refine keeps_mgCause ?_
    refine keeps_inc ?_ Fld.ok_evrWritten
    exact keeps_setBytes hv3

theorem keeps_fireSlot {o : State} {k : Nat} {e : Event} {s : State} (h : Keeps o s) :
    Keeps o (fireSlot k e s) := by
  unfold fireSlot
  extract_lets +onlyGivenNames t1
  have ht1 : Keeps o t1 := by
    unfold t1
    refine keeps_ite (fun _ => ?_) (fun _ => ?_)
    · exact keeps_freezeWave h
    · exact h
  try clear_value t1
  refine keeps_ite (fun _ => ?_) (fun _ => ?_)
  · exact keeps_inc ht1 Fld.ok_evrTrigMissed
  · extract_lets +onlyGivenNames t2
    have ht2 : Keeps o t2 := by
      unfold t2
      exact keeps_put ht1 Fld.ok_evrSnapTok
    try clear_value t2
    exact keeps_appendLimited ht2

theorem keeps_addCount {o : State} {e : Event} {s : State} (h : Keeps o s) :
    Keeps o (addCount e s) := by
  unfold addCount
  extract_lets +onlyGivenNames x1; try clear_value x1
  extract_lets +onlyGivenNames x2; try clear_value x2
  refine keeps_ite (fun _ => ?_) (fun _ => ?_)
  · exact keeps_put h Fld.ok_evrStale
  · exact keeps_inc h Fld.ok_evrCnt

theorem keeps_countRepeat {o : State} {e : Event} {r : Rec} {s : State} (h : Keeps o s) :
    Keeps o (countRepeat e r s) := by
  unfold countRepeat
  extract_lets +onlyGivenNames x1; try clear_value x1
  extract_lets +onlyGivenNames x2; try clear_value x2
  extract_lets +onlyGivenNames x3; try clear_value x3
  extract_lets +onlyGivenNames x4; try clear_value x4
  exact Keeps.upd h (fun sh => { sh with }) rfl rfl rfl

theorem keeps_takeEvent {o : State} {e : Event} {s : State} (h : Keeps o s) :
    Keeps o (takeEvent e s) := by
  unfold takeEvent
  extract_lets t ix u v
  have ht : Keeps o t := keeps_foldl (fun _ _ h => keeps_ite (fun _ => keeps_fireSlot h) (fun _ => h)) h
  refine keeps_ite (fun _ => keeps_addCount ht) (fun _ => keeps_ite (fun _ => keeps_criticalWrite ht) (fun _ => ?_))
  have hu : Keeps o u := keeps_ite (fun _ => ht) (fun _ => keeps_put ht Fld.ok_evrTok)
  have hv : Keeps o v := by
    unfold v
    split
    · exact keeps_countRepeat ht
    · exact keeps_ite (fun _ => keeps_inc (keeps_inc ht Fld.ok_evrSup) Fld.ok_evrSuppressed) (fun _ => keeps_appendLimited hu)
  exact keeps_ite (fun _ => keeps_flush hv) (fun _ => hv)

theorem keeps_recordFirst {o : State} {s : State} (h : Keeps o s) :
    Keeps o (recordFirst s) := by
  unfold recordFirst
  split
  · exact h
  · refine keeps_takeEvent ?_
    exact Keeps.upd h (fun sh => { sh with }) rfl rfl rfl

theorem keeps_execRecordEvent {o : State} {s : State} (h : Keeps o s) :
    KeepsOut o (execRecordEvent s) := by
  unfold execRecordEvent
  refine keepsOut_next ?_
  refine keeps_ite (fun _ => ?_) (fun _ => ?_)
  · exact keeps_recordFirst h
  · exact h

theorem keeps_takeMany {o : State} {n : Nat} {s : State} (h : Keeps o s) :
    Keeps o (takeMany n s) := by
  induction n generalizing s with
  | zero => exact h
  | succ n ih => exact ih (keeps_recordFirst h)

theorem keeps_takeAll {o : State} {s : State} (h : Keeps o s) :
    Keeps o (takeAll s) := by
  unfold takeAll
  refine keeps_ite (fun _ => ?_) (fun _ => ?_)
  · exact keeps_takeMany h
  · exact h

theorem keeps_eraseCtr {o : State} {k : Nat} {q : Nat} {s : State} (h : Keeps o s) :
    Keeps o (eraseCtr k q s) := by
  unfold eraseCtr
  exact keeps_wipe h

theorem keeps_writeBase {o : State} {k : Nat} {b : Nat} {a : Nat} {f : Nat} {s : State} (h : Keeps o s) :
    Keeps o (writeBase k b a f s) := by
  unfold writeBase
  extract_lets +onlyGivenNames x1; try clear_value x1
  extract_lets +onlyGivenNames x2; try clear_value x2
  extract_lets +onlyGivenNames x3; try clear_value x3
  extract_lets +onlyGivenNames x4; try clear_value x4
  extract_lets +onlyGivenNames x5; try clear_value x5
  extract_lets +onlyGivenNames x6; try clear_value x6
  extract_lets +onlyGivenNames t7
  have ht7 : Keeps o t7 := by
    unfold t7
    exact keeps_setBytes h
  try clear_value t7
  extract_lets +onlyGivenNames t8
  have ht8 : Keeps o t8 := by
    unfold t8
    refine keeps_put ?_ Fld.ok_ctrSec
    refine keeps_put ?_ Fld.ok_ctrSeq
    refine keeps_put ?_ Fld.ok_ctrF
    refine keeps_put ?_ Fld.ok_ctrA
    exact keeps_put ht7 Fld.ok_ctrB
  try clear_value t8
  extract_lets +onlyGivenNames t9
  have ht9 : Keeps o t9 := by
    unfold t9
    exact keeps_put ht8 Fld.ok_ctrN
  try clear_value t9
  refine keeps_ite (fun _ => ?_) (fun _ => ?_)
  · exact keeps_eraseCtr ht9
  · exact ht9

theorem keeps_countBit {o : State} {k : Nat} {s : State} (h : Keeps o s) :
    Keeps o (countBit k s) := by
  unfold countBit
  extract_lets +onlyGivenNames x1; try clear_value x1
  extract_lets +onlyGivenNames x2; try clear_value x2
  extract_lets +onlyGivenNames t3
  have ht3 : Keeps o t3 := by
    unfold t3
    refine keeps_setBytes ?_
    exact keeps_put h Fld.ok_ctrC
  try clear_value t3
  refine keeps_ite (fun _ => ?_) (fun _ => ?_)
  · exact ht3
  · refine keeps_eraseCtr ?_
    refine keeps_put ?_ Fld.ok_ctrC
    exact keeps_writeBase ht3

theorem keeps_execOpsecMinute {o : State} {s : State} (h : Keeps o s) :
    KeepsOut o (execOpsecMinute s) := by
  unfold execOpsecMinute
  refine keepsOut_next ?_
  refine keeps_ite (fun _ => ?_) (fun _ => ?_)
  · refine keeps_countBit ?_
    exact keeps_put h Fld.ok_opsS
  · exact h

theorem keeps_flushBases {o : State} {s : State} (h : Keeps o s) :
    Keeps o (flushBases s) := by
  unfold flushBases
  extract_lets +onlyGivenNames t1
  have ht1 : Keeps o t1 := by
    unfold t1
    refine keeps_put ?_ Fld.ok_opsS
    exact keeps_writeBase h
  try clear_value t1
  exact keeps_writeBase ht1

theorem keeps_programPage {o : State} {page : Nat} {s : State} (h : Keeps o s) :
    Keeps o (programPage page s) := by
  unfold programPage
  refine keeps_foldl ?_ ?_
  · intro b4 y5 hb1
    extract_lets +onlyGivenNames x2; try clear_value x2
    extract_lets +onlyGivenNames x3; try clear_value x3
    refine keeps_ite (fun _ => ?_) (fun _ => ?_)
    · exact keeps_setBytes hb1
    · exact hb1
  · exact h

theorem keeps_pageDone {o : State} {page : Nat} {s : State} (h : Keeps o s) :
    Keeps o (pageDone page s) := by
  unfold pageDone
  extract_lets +onlyGivenNames x1; try clear_value x1
  extract_lets +onlyGivenNames x2; try clear_value x2
  refine keeps_inc ?_ Fld.ok_evrWritten
  exact Keeps.upd h (fun sh => { sh with }) rfl rfl rfl

theorem keeps_writePage {o : State} {s : State} (h : Keeps o s) :
    Keeps o (writePage s) := by
  unfold writePage
  split
  · exact h
  · extract_lets +onlyGivenNames x1; try clear_value x1
    refine keeps_pageDone ?_
    exact keeps_programPage h

theorem keeps_takeStaged {o : State} {n : Nat} {s : State} (h : Keeps o s) :
    Keeps o (takeStaged n s) := by
  induction n generalizing s with
  | zero => exact h
  | succ n ih =>
    unfold takeStaged
    split
    · exact h
    · exact keeps_ite (fun _ => h) (fun _ => ih (keeps_appendRec (Keeps.upd h (fun sh => { sh with }) rfl rfl rfl)))

theorem keeps_flushDone {o : State} {s : State} (h : Keeps o s) :
    Keeps o (flushDone s) := by
  unfold flushDone
  extract_lets +onlyGivenNames t1
  have ht1 : Keeps o t1 := by
    unfold t1
    refine keeps_put ?_ Fld.ok_evrStatFlushing
    exact keeps_flushBases h
  try clear_value t1
  refine keeps_ite (fun _ => ?_) (fun _ => ?_)
  · refine keeps_raise ?_
    exact keeps_put ht1 Fld.ok_evrFlushIn
  · exact ht1

theorem keeps_abandonSector {o : State} {p : Nat} {s : State} (h : Keeps o s) :
    Keeps o (abandonSector p s) := by
  unfold abandonSector
  extract_lets +onlyGivenNames x1; try clear_value x1
  split
  · extract_lets +onlyGivenNames t2
    have ht2 : Keeps o t2 := by
      unfold t2
      refine keeps_raise ?_
      refine keeps_inc ?_ Fld.ok_evrBadsect
      exact keeps_put h Fld.ok_evrSecBad
    try clear_value t2
    extract_lets +onlyGivenNames t3
    have ht3 : Keeps o t3 := by
      unfold t3
      exact Keeps.upd ht2 (fun sh => { sh with }) rfl rfl rfl
    try clear_value t3
    extract_lets +onlyGivenNames t4
    have ht4 : Keeps o t4 := by
      unfold t4
      refine keeps_ite (fun _ => ?_) (fun _ => ?_)
      · exact keeps_openSector ht3
      · exact ht3
    try clear_value t4
    extract_lets +onlyGivenNames t5
    have ht5 : Keeps o t5 := by
      unfold t5
      refine keeps_foldl ?_ ?_
      · intro b7 y8 hb6
        exact keeps_appendRec hb6
      · exact ht4
    try clear_value t5
    exact Keeps.upd ht5 (fun sh => { sh with }) rfl rfl rfl

theorem keeps_execNorPageWrite {o : State} {fail : Bool} {s : State} (h : Keeps o s) :
    KeepsOut o (execNorPageWrite fail s) := by
  unfold execNorPageWrite
  refine keepsOut_ite (fun _ => ?_) (fun _ => ?_)
  · refine keepsOut_next ?_
    exact h
  · split
    · refine keepsOut_next ?_
      refine keeps_ite (fun _ => ?_) (fun _ => ?_)
      · exact keeps_flushDone h
      · exact keeps_takeStaged h
    · refine keepsOut_ite (fun _ => ?_) (fun _ => ?_)
      · refine keepsOut_next ?_
        exact h
      · refine keepsOut_ite (fun _ => ?_) (fun _ => ?_)
        · refine keepsOut_next ?_
          exact keeps_abandonSector h
        · extract_lets +onlyGivenNames t1
          have ht1 : Keeps o t1 := by
            unfold t1
            exact keeps_writePage h
          try clear_value t1
          refine keepsOut_ite (fun _ => ?_) (fun _ => ?_)
          · refine keepsOut_next ?_
            refine keeps_ite (fun _ => ?_) (fun _ => ?_)
            · exact keeps_flushDone ht1
            · exact ht1
          · refine keepsOut_next ?_
            exact keeps_takeStaged ht1

theorem keeps_writeAll {o : State} {n : Nat} {s : State} (h : Keeps o s) :
    Keeps o (writeAll n s) := by
  induction n generalizing s with
  | zero => exact h
  | succ n ih =>
    unfold writeAll
    exact keeps_ite (fun _ => h) (fun _ => ih (keeps_writePage h))

theorem keeps_flushNow {o : State} {s : State} (h : Keeps o s) :
    Keeps o (flushNow s) := by
  unfold flushNow
  refine keeps_ite (fun _ => ?_) (fun _ => ?_)
  · refine keeps_flushDone ?_
    exact keeps_writeAll h
  · exact h

theorem keeps_execSectorErase {o : State} {fail : Bool} {s : State} (h : Keeps o s) :
    KeepsOut o (execSectorErase fail s) := by
  unfold execSectorErase
  split
  · refine keepsOut_next ?_
    exact h
  · refine keepsOut_ite (fun _ => ?_) (fun _ => ?_)
    · refine keepsOut_next ?_
      exact h
    · extract_lets +onlyGivenNames t1
      have ht1 : Keeps o t1 := by
        unfold t1
        exact keeps_eraseSector h
      try clear_value t1
      refine keepsOut_next ?_
      refine keeps_ite (fun _ => ?_) (fun _ => ?_)
      · refine keeps_raise ?_
        refine keeps_inc ?_ Fld.ok_evrBadsect
        exact keeps_put ht1 Fld.ok_evrSecBad
      · exact ht1

theorem keeps_execRateRefill {o : State} {s : State} (h : Keeps o s) :
    KeepsOut o (execRateRefill s) := by
  unfold execRateRefill
  refine keepsOut_ite (fun _ => ?_) (fun _ => ?_)
  · refine keepsOut_next ?_
    exact h
  · extract_lets +onlyGivenNames t1
    have ht1 : Keeps o t1 := by
      unfold t1
      refine keeps_clearFlds ?_
      exact keeps_inc h Fld.ok_opsS
    try clear_value t1
    extract_lets +onlyGivenNames x2; try clear_value x2
    extract_lets +onlyGivenNames t3
    have ht3 : Keeps o t3 := by
      unfold t3
      refine keeps_foldl ?_ ?_
      · intro b8 y9 hb4
        refine keeps_foldl ?_ ?_
        · intro b6 y7 hb5
          exact keeps_put hb5 Fld.ok_evrTok
        · exact hb4
      · exact ht1
    try clear_value t3
    refine keepsOut_next ?_
    refine keeps_ite (fun _ => ?_) (fun _ => ?_)
    · refine keeps_put ?_ Fld.ok_evrLostSec
      exact keeps_raise ht3
    · exact ht3

theorem keeps_minuteClear {o : State} {s : State} (h : Keeps o s) :
    Keeps o (minuteClear s) := by
  unfold minuteClear
  exact keeps_clearFlds h

theorem keeps_execSummaryPeriodEnd {o : State} {s : State} (h : Keeps o s) :
    KeepsOut o (execSummaryPeriodEnd s) := by
  unfold execSummaryPeriodEnd
  refine keepsOut_ite (fun _ => ?_) (fun _ => ?_)
  · refine keepsOut_next ?_
    exact h
  · extract_lets +onlyGivenNames x1; try clear_value x1
    refine keepsOut_next ?_
    refine keeps_minuteClear ?_
    exact Keeps.upd h (fun sh => { sh with }) rfl rfl rfl

theorem keeps_execHourlyPeriodEnd {o : State} {s : State} (h : Keeps o s) :
    KeepsOut o (execHourlyPeriodEnd s) := by
  unfold execHourlyPeriodEnd
  refine keepsOut_ite (fun _ => ?_) (fun _ => ?_)
  · refine keepsOut_next ?_
    exact h
  · extract_lets +onlyGivenNames x1; try clear_value x1
    refine keepsOut_next ?_
    refine keeps_clearFlds ?_
    exact Keeps.upd h (fun sh => { sh with }) rfl rfl rfl

theorem keeps_loseSummaries {o : State} {s : State} (h : Keeps o s) :
    Keeps o (loseSummaries s) := by
  unfold loseSummaries
  extract_lets +onlyGivenNames x1; try clear_value x1
  refine keeps_clearFlds ?_
  refine keeps_put ?_ Fld.ok_evrLostStb
  exact keeps_minuteClear h

theorem keeps_mountRecorder {o : State} {cold : Bool} {s : State} (h : Keeps o s) :
    Keeps o (mountRecorder cold s) := by
  unfold mountRecorder
  extract_lets +onlyGivenNames t1
  have ht1 : Keeps o t1 := by
    unfold t1
    refine keeps_put ?_ Fld.ok_evrFlushIn
    refine keeps_put ?_ Fld.ok_evrStatFlushing
    exact keeps_put h Fld.ok_evrStatMounted
  try clear_value t1
  extract_lets +onlyGivenNames t2
  have ht2 : Keeps o t2 := by
    unfold t2
    refine keeps_ite (fun _ => ?_) (fun _ => ?_)
    · refine keeps_countBit ?_
      exact keeps_put ht1 Fld.ok_opsS
    · exact ht1
  try clear_value t2
  extract_lets +onlyGivenNames t3
  have ht3 : Keeps o t3 := by
    unfold t3
    refine keeps_ite (fun _ => ?_) (fun _ => ?_)
    · exact keeps_raise ht2
    · exact ht2
  try clear_value t3
  extract_lets +onlyGivenNames t4
  have ht4 : Keeps o t4 := by
    unfold t4
    refine keeps_ite (fun _ => ?_) (fun _ => ?_)
    · refine keeps_put ?_ Fld.ok_evrLostIn
      exact keeps_raise ht3
    · exact ht3
  try clear_value t4
  exact keeps_put ht4 Fld.ok_evrCurPos

theorem keeps_recorderOff {o : State} {s : State} (h : Keeps o s) :
    Keeps o (recorderOff s) := by
  unfold recorderOff
  extract_lets +onlyGivenNames x1; try clear_value x1
  extract_lets +onlyGivenNames x2; try clear_value x2
  extract_lets +onlyGivenNames t3
  have ht3 : Keeps o t3 := by
    unfold t3
    split
    · refine keeps_put ?_ Fld.ok_evrTorn
      exact keeps_put h Fld.ok_evrUnit
    · exact h
  try clear_value t3
  extract_lets +onlyGivenNames t4
  have ht4 : Keeps o t4 := by
    unfold t4
    exact Keeps.upd ht3 (fun sh => { sh with }) rfl rfl rfl
  try clear_value t4
  refine keeps_put ?_ Fld.ok_evrStatMounted
  refine keeps_inc ?_ Fld.ok_evrLostIn
  refine keeps_clearFlds ?_
  exact keeps_minuteClear ht4

theorem keeps_moveCursor {o : State} {n : Nat} {s : State} (h : Keeps o s) :
    Keeps o (moveCursor n s) := by
  unfold moveCursor
  extract_lets +onlyGivenNames x1; try clear_value x1
  extract_lets +onlyGivenNames x2; try clear_value x2
  extract_lets +onlyGivenNames x3; try clear_value x3
  exact keeps_put h Fld.ok_evrCurPos

theorem keeps_execEvrAdv {o : State} {bytes : BitVec 16} {s : State} (h : Keeps o s) :
    KeepsOut o (execEvrAdv bytes s) := by
  unfold execEvrAdv
  refine keepsOut_ite (fun _ => ?_) (fun _ => ?_)
  · refine keepsOut_next ?_
    exact h
  · refine keepsOut_ite (fun _ => ?_) (fun _ => ?_)
    · refine keepsOut_next ?_
      exact keeps_moveCursor h
    · refine keepsOut_ite (fun _ => ?_) (fun _ => ?_)
      · refine keepsOut_next ?_
        exact h
      · extract_lets +onlyGivenNames x1; try clear_value x1
        refine keepsOut_next ?_
        exact keeps_moveCursor h

theorem keeps_clearRecorder {o : State} {requester : Nat} {s : State} (h : Keeps o s) :
    Keeps o (clearRecorder requester s) := by
  unfold clearRecorder
  extract_lets +onlyGivenNames t1
  have ht1 : Keeps o t1 := by
    unfold t1
    refine keeps_openSector ?_
    exact keeps_flushNow h
  try clear_value t1
  exact keeps_takeEvent ht1

theorem keeps_trigWrite {o : State} {off : Nat} {v : Nat} {wide : Bool} {s : State} (h : Keeps o s) :
    Keeps o (trigWrite off v wide s) := by
  unfold trigWrite
  extract_lets +onlyGivenNames x1; try clear_value x1
  extract_lets +onlyGivenNames x2; try clear_value x2
  extract_lets +onlyGivenNames x3
  have hx3 : ∀ y1 y2 y3, Keeps o y3 → Keeps o (x3 y1 y2 y3) := by
    intro y4 y5 y6 hy7
    unfold x3
    extract_lets +onlyGivenNames t8
    have ht8 : Keeps o t8 := by
      unfold t8
      refine keeps_ite (fun _ => ?_) (fun _ => ?_)
      · refine keeps_put ?_ Fld.ok_evrTrigMask
        exact keeps_put hy7 Fld.ok_evrTrigCode
      · exact hy7
    try clear_value t8
    extract_lets +onlyGivenNames x9; try clear_value x9
    refine keeps_ite (fun _ => ?_) (fun _ => ?_)
    · refine keeps_put ?_ Fld.ok_evrTrigEn
      refine keeps_put ?_ Fld.ok_evrTrigFrz
      refine keeps_put ?_ Fld.ok_evrTrigN
      exact keeps_put ht8 Fld.ok_evrTrigSrc
    · exact ht8
  try clear_value x3
  extract_lets +onlyGivenNames t10
  have ht10 : Keeps o t10 := by
    unfold t10
    exact keeps_put h Fld.ok_evrTrigSel
  try clear_value t10
  extract_lets +onlyGivenNames t11
  have ht11 : Keeps o t11 := by
    unfold t11
    refine keeps_ite (fun _ => ?_) (fun _ => ?_)
    · refine hx3 _ _ _ ?_
      exact h
    · refine keeps_ite (fun _ => ?_) (fun _ => ?_)
      · refine hx3 _ _ _ ?_
        exact h
      · refine keeps_ite (fun _ => ?_) (fun _ => ?_)
        · refine keeps_ite (fun _ => ?_) (fun _ => ?_)
          · exact keeps_put ht10 Fld.ok_evrTrigSel
          · exact ht10
        · exact h
  try clear_value t11
  refine keeps_ite (fun _ => ?_) (fun _ => ?_)
  · exact h
  · exact keeps_raise ht11

theorem keeps_rlimWrite {o : State} {off : Nat} {v : Nat} {wide : Bool} {s : State} (h : Keeps o s) :
    Keeps o (rlimWrite off v wide s) := by
  unfold rlimWrite
  refine keeps_foldl ?_ ?_
  · intro b5 y6 hb1
    extract_lets +onlyGivenNames x2; try clear_value x2
    extract_lets +onlyGivenNames x3; try clear_value x3
    extract_lets +onlyGivenNames x4; try clear_value x4
    refine keeps_ite (fun _ => ?_) (fun _ => ?_)
    · exact hb1
    · refine keeps_raise ?_
      exact keeps_put hb1 Fld.ok_evrRlim
  · exact h

theorem keeps_execEvrConfigWrite {o : State} {off : BitVec 15} {wide : Bool} {value : BitVec 64} {s : State} (h : Keeps o s) :
    KeepsOut o (execEvrConfigWrite off wide value s) := by
  unfold execEvrConfigWrite
  extract_lets +onlyGivenNames x1; try clear_value x1
  refine keepsOut_ite (fun _ => ?_) (fun _ => ?_)
  · refine keepsOut_next ?_
    exact h
  · refine keepsOut_ite (fun _ => ?_) (fun _ => ?_)
    · refine keepsOut_next ?_
      exact keeps_trigWrite h
    · refine keepsOut_ite (fun _ => ?_) (fun _ => ?_)
      · refine keepsOut_next ?_
        exact keeps_rlimWrite h
      · refine keepsOut_next ?_
        exact h

end Sys2Proof.Machine
end

