-- ==== Sys2Proof/Laws/KeepsOwners.lean ====
section
/-!
SUPPORT. The operations of Machine/Owners.lean keep what Keeps says.
-/
namespace Sys2Proof.Machine

theorem keeps_setOwner {o : State} {ch : Nat} {st : Nat} {s : State} (h : Keeps o s) :
    Keeps o (setOwner ch st s) := by
  unfold setOwner
  extract_lets +onlyGivenNames x1; try clear_value x1
  refine keeps_ite (fun _ => ?_) (fun _ => ?_)
  · exact h
  · refine keeps_chCause ?_
    refine keeps_mgCause ?_
    refine keeps_raise ?_
    exact keeps_put h Fld.ok_ownChStatState

theorem keeps_drawKey {o : State} {ch : Nat} {src : Nat} {s : State} (h : Keeps o s) :
    Keeps o (drawKey ch src s) := by
  unfold drawKey
  refine keeps_draw ?_
  refine keeps_put ?_ Fld.ok_ownChStatKeysrc
  exact keeps_put h Fld.ok_xtsKey

theorem keeps_zeroiseKeys {o : State} {ch : Nat} {s : State} (h : Keeps o s) :
    Keeps o (zeroiseKeys ch s) := by
  unfold zeroiseKeys
  exact keeps_clearFlds h

theorem keeps_putOid {o : State} {ch : Nat} {oid : Nat} {s : State} (h : Keeps o s) :
    Keeps o (putOid ch oid s) := by
  unfold putOid
  refine keeps_put ?_ Fld.ok_ownChOid
  exact keeps_put h Fld.ok_ownChOid

theorem keeps_ringsReset {o : State} {ch : Nat} {s : State} (h : Keeps o s) :
    Keeps o (ringsReset ch s) := by
  unfold ringsReset
  refine keeps_foldl ?_ ?_
  · intro b3 y4 hb1
    extract_lets +onlyGivenNames t2
    have ht2 : Keeps o t2 := by
      unfold t2
      exact keeps_inc hb1 Fld.ok_foxRingPtrGen
    try clear_value t2
    refine keeps_ite (fun _ => ?_) (fun _ => ?_)
    · exact keeps_put ht2 Fld.ok_ringFreev
    · exact ht2
  · refine keeps_clearFlds ?_
    exact keeps_clearFlds h

theorem keeps_countsReset {o : State} {ch : Nat} {s : State} (h : Keeps o s) :
    Keeps o (countsReset ch s) := by
  unfold countsReset
  extract_lets +onlyGivenNames t1
  have ht1 : Keeps o t1 := by
    unfold t1
    refine keeps_setTransit ?_
    exact keeps_clearFlds h
  try clear_value t1
  exact Keeps.upd ht1 (fun sh => { sh with fifo := tsorted_filter _ sh.fifo }) rfl rfl rfl

theorem keeps_coresReset {o : State} {ch : Nat} {s : State} (h : Keeps o s) :
    Keeps o (coresReset ch s) := by
  unfold coresReset
  refine keeps_clearFlds ?_
  refine keeps_foldl ?_ ?_
  · intro b2 y3 hb1
    exact keeps_coreReset hb1
  · exact h

theorem keeps_channelReset {o : State} {ch : Nat} {s : State} (h : Keeps o s) :
    Keeps o (channelReset ch s) := by
  unfold channelReset
  extract_lets +onlyGivenNames t1
  have ht1 : Keeps o t1 := by
    unfold t1
    refine keeps_exchAbort ?_
    exact keeps_detDrop h
  try clear_value t1
  extract_lets +onlyGivenNames t2
  have ht2 : Keeps o t2 := by
    unfold t2
    refine keeps_discardQueue ?_
    exact keeps_closeAdmit ht1
  try clear_value t2
  extract_lets +onlyGivenNames t3
  have ht3 : Keeps o t3 := by
    unfold t3
    refine keeps_foxAbandon ?_
    refine keeps_dropRunAhead ?_
    exact keeps_leaveBars ht2
  try clear_value t3
  extract_lets +onlyGivenNames t4
  have ht4 : Keeps o t4 := by
    unfold t4
    refine keeps_countsReset ?_
    refine keeps_coresReset ?_
    exact keeps_ringsReset ht3
  try clear_value t4
  exact keeps_clearFlds ht4

theorem keeps_killReply {o : State} {r : Request} {s : State} (h : Keeps o s) :
    Keeps o (killReply r s) := by
  unfold killReply
  refine keeps_markAnswered ?_
  exact keeps_sendError h

theorem keeps_killService {o : State} {svc : Nat} {s : State} (h : Keeps o s) :
    Keeps o (killService svc s) := by
  unfold killService
  extract_lets +onlyGivenNames x1; try clear_value x1
  extract_lets +onlyGivenNames x2; try clear_value x2
  extract_lets +onlyGivenNames t3
  have ht3 : Keeps o t3 := by
    unfold t3
    refine keeps_foldl ?_ ?_
    · intro b5 y6 hb4
      exact keeps_killReply hb4
    · exact h
  try clear_value t3
  extract_lets +onlyGivenNames t7
  have ht7 : Keeps o t7 := by
    unfold t7
    refine keeps_foldl ?_ ?_
    · intro b9 y10 hb8
      exact keeps_freeCells hb8
    · exact ht3
  try clear_value t7
  extract_lets +onlyGivenNames t11
  have ht11 : Keeps o t11 := by
    unfold t11
    split
    · exact keeps_setTag ht7
    · exact ht7
  try clear_value t11
  extract_lets +onlyGivenNames t12
  have ht12 : Keeps o t12 := by
    unfold t12
    refine keeps_put ?_ Fld.ok_svcZeroLen
    refine keeps_put ?_ Fld.ok_svcZeroCell
    exact keeps_put ht11 Fld.ok_svcZero
  try clear_value t12
  extract_lets +onlyGivenNames t13
  have ht13 : Keeps o t13 := by
    unfold t13
    refine keeps_raise ?_
    exact keeps_unbindSvc ht12
  try clear_value t13
  refine keeps_ite (fun _ => ?_) (fun _ => ?_)
  · exact keeps_mbxFinish ht13
  · exact ht13

theorem keeps_killServices {o : State} {ch : Nat} {s : State} (h : Keeps o s) :
    Keeps o (killServices ch s) := by
  unfold killServices
  refine keeps_discardQueue ?_
  refine keeps_foldl ?_ ?_
  · intro b2 y3 hb1
    exact keeps_killService hb1
  · exact h

theorem keeps_advanceEpoch {o : State} {ch : Nat} {s : State} (h : Keeps o s) :
    Keeps o (advanceEpoch ch s) := by
  unfold advanceEpoch
  refine keeps_foldl ?_ ?_
  · intro b2 y3 hb1
    exact keeps_epochAdvanced hb1
  · exact keeps_inc h Fld.ok_chSpdEpoch

theorem keeps_forcedPasses {o : State} {ch : Nat} {s : State} (h : Keeps o s) :
    Keeps o (forcedPasses ch s) := by
  unfold forcedPasses
  refine keeps_foldl ?_ ?_
  · intro b2 y3 hb1
    refine keeps_ite (fun _ => ?_) (fun _ => ?_)
    · exact hb1
    · refine keeps_draw ?_
      refine keeps_forcedSweep ?_
      exact keeps_raise hb1
  · exact h

theorem keeps_darkLoss {o : State} {ch : Nat} {s : State} (h : Keeps o s) :
    Keeps o (darkLoss ch s) := by
  unfold darkLoss
  extract_lets +onlyGivenNames t1
  have ht1 : Keeps o t1 := by
    unfold t1
    refine keeps_countsReset ?_
    exact keeps_coresReset h
  try clear_value t1
  refine keeps_foldl ?_ ?_
  · intro b3 y4 hb2
    exact keeps_wipe hb2
  · exact ht1

theorem keeps_killEpoch {o : State} {ch : Nat} {s : State} (h : Keeps o s) :
    Keeps o (killEpoch ch s) := by
  unfold killEpoch
  refine keeps_ite (fun _ => ?_) (fun _ => ?_)
  · refine keeps_advanceEpoch ?_
    refine keeps_foldl ?_ ?_
    · intro b2 y3 hb1
      refine keeps_ite (fun _ => ?_) (fun _ => ?_)
      · exact hb1
      · exact keeps_put hb1 Fld.ok_killPass
    · exact h
  · refine keeps_ite (fun _ => ?_) (fun _ => ?_)
    · refine keeps_advanceEpoch ?_
      exact keeps_forcedPasses h
    · extract_lets +onlyGivenNames t4
      have ht4 : Keeps o t4 := by
        unfold t4
        refine keeps_darkLoss ?_
        refine keeps_put ?_ Fld.ok_pwrDark
        exact keeps_advanceEpoch h
      try clear_value t4
      refine keeps_ite (fun _ => ?_) (fun _ => ?_)
      · exact keeps_setPwr ht4
      · exact ht4

theorem keeps_killUnits {o : State} {ch : Nat} {s : State} (h : Keeps o s) :
    Keeps o (killUnits ch s) := by
  unfold killUnits
  extract_lets +onlyGivenNames t1
  have ht1 : Keeps o t1 := by
    unfold t1
    refine keeps_exchAbort ?_
    refine keeps_closeAdmit ?_
    exact keeps_detDrop h
  try clear_value t1
  extract_lets +onlyGivenNames t2
  have ht2 : Keeps o t2 := by
    unfold t2
    refine keeps_ite (fun _ => ?_) (fun _ => ?_)
    · exact keeps_chanHalt ht1
    · exact keeps_leaveBars ht1
  try clear_value t2
  extract_lets +onlyGivenNames t3
  have ht3 : Keeps o t3 := by
    unfold t3
    refine keeps_killServices ?_
    refine keeps_foxAbandon ?_
    exact keeps_dropRunAhead ht2
  try clear_value t3
  extract_lets +onlyGivenNames t4
  have ht4 : Keeps o t4 := by
    unfold t4
    exact Keeps.upd ht3 (fun sh => { sh with foxPeer := tsorted_filter _ sh.foxPeer }) rfl rfl rfl
  try clear_value t4
  refine keeps_put ?_ Fld.ok_foxHsqWay
  refine keeps_put ?_ Fld.ok_foxHsqSeen
  exact keeps_put ht4 Fld.ok_foxHsqHeadIndex

theorem keeps_killWave {o : State} {ch : Nat} {source : Nat} {next : Nat} {s : State} (h : Keeps o s) :
    Keeps o (killWave ch source next s) := by
  unfold killWave
  refine keeps_ite (fun _ => ?_) (fun _ => ?_)
  · exact h
  · extract_lets +onlyGivenNames t1
    have ht1 : Keeps o t1 := by
      unfold t1
      refine keeps_raise ?_
      refine keeps_setOwner ?_
      exact keeps_zeroiseKeys h
    try clear_value t1
    extract_lets +onlyGivenNames t2
    have ht2 : Keeps o t2 := by
      unfold t2
      refine keeps_put ?_ Fld.ok_killDue
      refine keeps_put ?_ Fld.ok_killAt
      exact keeps_put ht1 Fld.ok_killThen
    try clear_value t2
    extract_lets +onlyGivenNames t3
    have ht3 : Keeps o t3 := by
      unfold t3
      exact keeps_killEpoch ht2
    try clear_value t3
    refine keeps_ite (fun _ => ?_) (fun _ => ?_)
    · refine keeps_put ?_ Fld.ok_frzCause
      exact keeps_cutSection ht3
    · exact keeps_killUnits ht3

theorem keeps_killBanks {o : State} {c : Nat} {s : State} (h : Keeps o s) :
    Keeps o (killBanks c s) := by
  unfold killBanks
  extract_lets +onlyGivenNames t1
  have ht1 : Keeps o t1 := by
    unfold t1
    exact keeps_clearFlds h
  try clear_value t1
  refine keeps_setKinds ?_
  exact keeps_setGroups ht1

theorem keeps_killCores {o : State} {ch : Nat} {s : State} (h : Keeps o s) :
    Keeps o (killCores ch s) := by
  unfold killCores
  refine keeps_foldl ?_ ?_
  · intro b2 y3 hb1
    refine keeps_coreReset ?_
    exact keeps_wipe hb1
  · exact h

theorem keeps_killDone {o : State} {ch : Nat} {s : State} (h : Keeps o s) :
    Keeps o (killDone ch s) := by
  unfold killDone
  extract_lets +onlyGivenNames x1; try clear_value x1
  extract_lets +onlyGivenNames t2
  have ht2 : Keeps o t2 := by
    unfold t2
    refine keeps_countsReset ?_
    refine keeps_detClear ?_
    exact keeps_ringsReset h
  try clear_value t2
  extract_lets +onlyGivenNames t3
  have ht3 : Keeps o t3 := by
    unfold t3
    exact keeps_clearFlds ht2
  try clear_value t3
  extract_lets +onlyGivenNames t4
  have ht4 : Keeps o t4 := by
    unfold t4
    refine keeps_foldl ?_ ?_
    · intro b6 y7 hb5
      exact keeps_killBanks hb5
    · exact ht3
  try clear_value t4
  extract_lets +onlyGivenNames t8
  have ht8 : Keeps o t8 := by
    unfold t8
    refine keeps_ite (fun _ => ?_) (fun _ => ?_)
    · exact keeps_killCores ht4
    · exact keeps_put ht4 Fld.ok_ownChStatPending
  try clear_value t8
  extract_lets +onlyGivenNames x9; try clear_value x9
  extract_lets +onlyGivenNames t10
  have ht10 : Keeps o t10 := by
    unfold t10
    refine keeps_raise ?_
    exact keeps_inc ht8 Fld.ok_ownKills
  try clear_value t10
  extract_lets +onlyGivenNames x11; try clear_value x11
  extract_lets +onlyGivenNames x12; try clear_value x12
  extract_lets +onlyGivenNames x13; try clear_value x13
  extract_lets +onlyGivenNames t14
  have ht14 : Keeps o t14 := by
    unfold t14
    refine keeps_putOid ?_
    refine keeps_setOwner ?_
    exact keeps_drawKey ht10
  try clear_value t14
  extract_lets +onlyGivenNames t15
  have ht15 : Keeps o t15 := by
    unfold t15
    refine keeps_ite (fun _ => ?_) (fun _ => ?_)
    · exact keeps_setOwner ht10
    · refine keeps_ite (fun _ => ?_) (fun _ => ?_)
      · refine keeps_raise ?_
        refine keeps_put ?_ Fld.ok_bindAt
        exact keeps_put ht14 Fld.ok_bindTmo
      · refine keeps_setOwner ?_
        exact keeps_drawKey ht10
  try clear_value t15
  extract_lets +onlyGivenNames t16
  have ht16 : Keeps o t16 := by
    unfold t16
    exact keeps_clearFlds ht15
  try clear_value t16
  refine keeps_ite (fun _ => ?_) (fun _ => ?_)
  · refine keeps_mbxFinish ?_
    exact keeps_put ht16 Fld.ok_mbxRsp
  · refine keeps_ite (fun _ => ?_) (fun _ => ?_)
    · refine keeps_mbxFinish ?_
      exact keeps_put ht16 Fld.ok_mbxRsp
    · refine keeps_ite (fun _ => ?_) (fun _ => ?_)
      · exact keeps_mbxFinish ht16
      · exact ht16

theorem keeps_execKillSequenceComplete {o : State} {ch : Chan} {s : State} (h : Keeps o s) :
    KeepsOut o (execKillSequenceComplete ch s) := by
  unfold execKillSequenceComplete
  refine keepsOut_next ?_
  refine keeps_ite (fun _ => ?_) (fun _ => ?_)
  · exact keeps_killDone h
  · exact h

theorem keeps_execFallbackCellsZeroed {o : State} {svc : BitVec 12} {s : State} (h : Keeps o s) :
    KeepsOut o (execFallbackCellsZeroed svc s) := by
  unfold execFallbackCellsZeroed
  extract_lets +onlyGivenNames x1; try clear_value x1
  refine keepsOut_ite (fun _ => ?_) (fun _ => ?_)
  · refine keepsOut_next ?_
    exact h
  · extract_lets +onlyGivenNames x2; try clear_value x2
    refine keepsOut_next ?_
    refine keeps_clearFlds ?_
    exact keeps_wipe h

theorem keeps_execBindingTimeout {o : State} {ch : Chan} {s : State} (h : Keeps o s) :
    KeepsOut o (execBindingTimeout ch s) := by
  unfold execBindingTimeout
  extract_lets +onlyGivenNames x1; try clear_value x1
  refine keepsOut_ite (fun _ => ?_) (fun _ => ?_)
  · refine keepsOut_next ?_
    exact h
  · refine keepsOut_next ?_
    refine keeps_draw ?_
    refine keeps_raise ?_
    refine keeps_setOwner ?_
    refine keeps_drawKey ?_
    exact keeps_putOid h

theorem keeps_ownReply {o : State} {ses : Nat} {sel : Nat} {op : Nat} {ch : Nat} {status : Nat} {data : List (BitVec 8)} {s : State} (h : Keeps o s) :
    Keeps o (ownReply ses sel op ch status data s) := by
  unfold ownReply
  extract_lets +onlyGivenNames x1; try clear_value x1
  exact keeps_emit h

theorem keeps_ownMsg {o : State} {ses : Nat} {sel : Nat} {op : Nat} {ch : Nat} {s : State} {k : State → State} (h : Keeps o s) (h6 : ∀ y1, Keeps o y1 → Keeps o (k y1)) :
    KeepsOut o (ownMsg ses sel op ch s k) := by
  unfold ownMsg
  refine keepsOut_ite (fun _ => ?_) (fun _ => ?_)
  · refine keepsOut_next ?_
    exact keeps_emit h
  · refine keepsOut_ite (fun _ => ?_) (fun _ => ?_)
    · refine keepsOut_next ?_
      exact keeps_ownReply h
    · refine keepsOut_next ?_
      refine h6 _ ?_
      exact h

theorem keeps_asOwner {o : State} {ses : Nat} {op : Nat} {ch : Nat} {good : Bool} {k : State → State} {s : State} (h5 : ∀ y1, Keeps o y1 → Keeps o (k y1)) (h : Keeps o s) :
    Keeps o (asOwner ses op ch good k s) := by
  unfold asOwner
  extract_lets +onlyGivenNames x1; try clear_value x1
  extract_lets +onlyGivenNames x2
  have hx2 : ∀ y1, Keeps o (x2 y1) := by
    intro y3 
    unfold x2
    exact keeps_ownReply h
  try clear_value x2
  refine keeps_ite (fun _ => ?_) (fun _ => ?_)
  · exact hx2 _
  · refine keeps_ite (fun _ => ?_) (fun _ => ?_)
    · exact hx2 _
    · refine keeps_ite (fun _ => ?_) (fun _ => ?_)
      · exact hx2 _
      · refine keeps_ownReply ?_
        refine h5 _ ?_
        exact h

theorem keeps_putPolicy {o : State} {ch : Nat} {v : Nat} {s : State} (h : Keeps o s) :
    Keeps o (putPolicy ch v s) := by
  unfold putPolicy
  refine keeps_put ?_ Fld.ok_ownCfgSvcTagged
  refine keeps_put ?_ Fld.ok_ownCfgEvrVisible
  exact keeps_put h Fld.ok_ownCfgHostio

theorem keeps_putRdKey {o : State} {ch : Nat} {rk : Nat} {bs : List (BitVec 8)} {s : State} (h : Keeps o s) :
    Keeps o (putRdKey ch rk bs s) := by
  unfold putRdKey
  refine keeps_ite (fun _ => ?_) (fun _ => ?_)
  · refine keeps_put ?_ Fld.ok_ownChStatRdkey
    exact keeps_put h Fld.ok_rdKey
  · exact h

theorem keeps_putGrant {o : State} {ch : Nat} {e : Nat} {v : Nat} {s : State} (h : Keeps o s) :
    Keeps o (putGrant ch e v s) := by
  unfold putGrant
  refine keeps_put ?_ Fld.ok_ownGrantServe
  refine keeps_put ?_ Fld.ok_ownGrantRead
  refine keeps_put ?_ Fld.ok_ownGrantRecv
  refine keeps_put ?_ Fld.ok_ownGrantSend
  refine keeps_put ?_ Fld.ok_ownGrantCh
  exact keeps_put h Fld.ok_ownGrantChip

theorem keeps_bindOwner {o : State} {ch : Nat} {oid : Nat} {body : List (BitVec 8)} {s : State} (h : Keeps o s) :
    Keeps o (bindOwner ch oid body s) := by
  unfold bindOwner
  extract_lets +onlyGivenNames x1; try clear_value x1
  extract_lets +onlyGivenNames x2; try clear_value x2
  extract_lets +onlyGivenNames x3; try clear_value x3
  extract_lets +onlyGivenNames t4
  have ht4 : Keeps o t4 := by
    unfold t4
    refine keeps_ite (fun _ => ?_) (fun _ => ?_)
    · exact keeps_drawKey h
    · refine keeps_put ?_ Fld.ok_ownChStatKeysrc
      exact keeps_put h Fld.ok_xtsKey
  try clear_value t4
  extract_lets +onlyGivenNames t5
  have ht5 : Keeps o t5 := by
    unfold t5
    refine keeps_putRdKey ?_
    refine keeps_putPolicy ?_
    exact keeps_putOid ht4
  try clear_value t5
  extract_lets +onlyGivenNames t6
  have ht6 : Keeps o t6 := by
    unfold t6
    exact keeps_clearFlds ht5
  try clear_value t6
  refine keeps_raise ?_
  exact keeps_setOwner ht6

theorem keeps_execObind {o : State} {ses : BitVec 4} {sel : BitVec 16} {ch : BitVec 8} {body : List (BitVec 8)} {s : State} (h : Keeps o s) :
    KeepsOut o (execObind ses sel ch body s) := by
  unfold execObind
  extract_lets +onlyGivenNames x1; try clear_value x1
  refine keeps_ownMsg h ?_
  intro y2 hy3
  extract_lets +onlyGivenNames x4; try clear_value x4
  extract_lets +onlyGivenNames x5
  have hx5 : ∀ y1, Keeps o (x5 y1) := by
    intro y6 
    unfold x5
    refine keeps_raise ?_
    exact keeps_ownReply hy3
  try clear_value x5
  refine keeps_ite (fun _ => ?_) (fun _ => ?_)
  · exact keeps_ownReply hy3
  · refine keeps_ite (fun _ => ?_) (fun _ => ?_)
    · exact hx5 _
    · refine keeps_ite (fun _ => ?_) (fun _ => ?_)
      · exact hx5 _
      · refine keeps_ite (fun _ => ?_) (fun _ => ?_)
        · exact hx5 _
        · refine keeps_ownReply ?_
          exact keeps_bindOwner hy3

theorem keeps_execOgrant {o : State} {ses : BitVec 4} {sel : BitVec 16} {ch : BitVec 8} {body : List (BitVec 8)} {s : State} (h : Keeps o s) :
    KeepsOut o (execOgrant ses sel ch body s) := by
  unfold execOgrant
  extract_lets +onlyGivenNames x1; try clear_value x1
  extract_lets +onlyGivenNames x2; try clear_value x2
  refine keeps_ownMsg h ?_
  intro y3 hy4
  refine keeps_asOwner ?_ hy4
  intro y5 hy6
  refine keeps_raise ?_
  refine keeps_foldl ?_ ?_
  · intro b8 y9 hb7
    exact keeps_putGrant hb7
  · exact keeps_clearFlds hy6

theorem keeps_execOskey {o : State} {ses : BitVec 4} {sel : BitVec 16} {ch : BitVec 8} {body : List (BitVec 8)} {s : State} (h : Keeps o s) :
    KeepsOut o (execOskey ses sel ch body s) := by
  unfold execOskey
  extract_lets +onlyGivenNames x1; try clear_value x1
  extract_lets +onlyGivenNames x2; try clear_value x2
  refine keeps_ownMsg h ?_
  intro y3 hy4
  refine keeps_asOwner ?_ hy4
  intro y5 hy6
  exact keeps_loadSkey hy6

theorem keeps_execOpolicy {o : State} {ses : BitVec 4} {sel : BitVec 16} {ch : BitVec 8} {body : List (BitVec 8)} {s : State} (h : Keeps o s) :
    KeepsOut o (execOpolicy ses sel ch body s) := by
  unfold execOpolicy
  extract_lets +onlyGivenNames x1; try clear_value x1
  extract_lets +onlyGivenNames x2; try clear_value x2
  extract_lets +onlyGivenNames x3; try clear_value x3
  refine keeps_ownMsg h ?_
  intro y4 hy5
  refine keeps_asOwner ?_ hy5
  intro y6 hy7
  extract_lets +onlyGivenNames t8
  have ht8 : Keeps o t8 := by
    unfold t8
    refine keeps_raise ?_
    refine keeps_putRdKey ?_
    exact keeps_putPolicy hy7
  try clear_value t8
  extract_lets +onlyGivenNames t9
  have ht9 : Keeps o t9 := by
    unfold t9
    refine keeps_ite (fun _ => ?_) (fun _ => ?_)
    · exact keeps_raise ht8
    · exact ht8
  try clear_value t9
  refine keeps_ite (fun _ => ?_) (fun _ => ?_)
  · exact ht9
  · refine keeps_foldl ?_ ?_
    · intro b11 y12 hb10
      refine keeps_ite (fun _ => ?_) (fun _ => ?_)
      · exact hb10
      · exact Keeps.upd hb10 (fun sh => { sh with svcPend := tsorted_tset _ _ sh.svcPend }) rfl rfl rfl
    · exact ht9

theorem keeps_execOend {o : State} {ses : BitVec 4} {sel : BitVec 16} {ch : BitVec 8} {body : List (BitVec 8)} {s : State} (h : Keeps o s) :
    KeepsOut o (execOend ses sel ch body s) := by
  unfold execOend
  extract_lets +onlyGivenNames x1; try clear_value x1
  refine keeps_ownMsg h ?_
  intro y2 hy3
  extract_lets +onlyGivenNames x4; try clear_value x4
  refine keeps_ite (fun _ => ?_) (fun _ => ?_)
  · exact keeps_ownReply hy3
  · refine keeps_ite (fun _ => ?_) (fun _ => ?_)
    · exact keeps_ownReply hy3
    · refine keeps_ownReply ?_
      exact keeps_killWave hy3

theorem keeps_execOstat {o : State} {ses : BitVec 4} {sel : BitVec 16} {ch : BitVec 8} {body : List (BitVec 8)} {s : State} (h : Keeps o s) :
    KeepsOut o (execOstat ses sel ch body s) := by
  unfold execOstat
  extract_lets +onlyGivenNames x1; try clear_value x1
  refine keeps_ownMsg h ?_
  intro y2 hy3
  extract_lets +onlyGivenNames x4; try clear_value x4
  refine keeps_ite (fun _ => ?_) (fun _ => ?_)
  · exact keeps_ownReply hy3
  · refine keeps_ite (fun _ => ?_) (fun _ => ?_)
    · exact keeps_ownReply hy3
    · exact keeps_ownReply hy3

end Sys2Proof.Machine
end

