-- ==== Sys2Proof/Laws/KeepsPower.lean ====
section
/-!
SUPPORT. The operations of Machine/Power.lean keep what Keeps says.
-/
namespace Sys2Proof.Machine

theorem keeps_showClocks {o : State} {ch : Nat} {s : State} (h : Keeps o s) :
    Keeps o (showClocks ch s) := by
  unfold showClocks
  refine keeps_foldl ?_ ?_
  · intro b9 y10 hb1
    extract_lets +onlyGivenNames x2; try clear_value x2
    extract_lets +onlyGivenNames x3; try clear_value x3
    extract_lets +onlyGivenNames x4; try clear_value x4
    extract_lets +onlyGivenNames x5; try clear_value x5
    extract_lets +onlyGivenNames x6; try clear_value x6
    extract_lets +onlyGivenNames x7; try clear_value x7
    extract_lets +onlyGivenNames t8
    have ht8 : Keeps o t8 := by
      unfold t8
      refine keeps_ite (fun _ => ?_) (fun _ => ?_)
      · exact keeps_detCause hb1
      · exact hb1
    try clear_value t8
    refine keeps_put ?_ Fld.ok_chClkStatCapped
    refine keeps_put ?_ Fld.ok_chClkStatThrottled
    refine keeps_put ?_ Fld.ok_chClkStatHalved
    exact keeps_put ht8 Fld.ok_chClkStatFeff
  · exact h

theorem keeps_moveLockstep {o : State} {ch : Nat} {s : State} (h : Keeps o s) :
    Keeps o (moveLockstep ch s) := by
  unfold moveLockstep
  refine keeps_ite (fun _ => ?_) (fun _ => ?_)
  · exact h
  · refine keeps_ite (fun _ => ?_) (fun _ => ?_)
    · exact keeps_relock h
    · exact keeps_put h Fld.ok_chLfreqEff

theorem keeps_execPllRelockDone {o : State} {ch : Chan} {s : State} (h : Keeps o s) :
    KeepsOut o (execPllRelockDone ch s) := by
  unfold execPllRelockDone
  extract_lets +onlyGivenNames x1; try clear_value x1
  refine keepsOut_ite (fun _ => ?_) (fun _ => ?_)
  · refine keepsOut_next ?_
    exact h
  · extract_lets +onlyGivenNames t2
    have ht2 : Keeps o t2 := by
      unfold t2
      refine keeps_put ?_ Fld.ok_chLfreqEff
      exact keeps_put h Fld.ok_pllRelock
    try clear_value t2
    extract_lets +onlyGivenNames t3
    have ht3 : Keeps o t3 := by
      unfold t3
      refine keeps_ite (fun _ => ?_) (fun _ => ?_)
      · exact ht2
      · refine keeps_put ?_ Fld.ok_foxRsvcEff
        exact keeps_put ht2 Fld.ok_foxServK
    try clear_value t3
    refine keepsOut_next ?_
    exact keeps_showClocks ht3

theorem keeps_execChCfgWrite {o : State} {ch : Chan} {value : BitVec 32} {s : State} (h : Keeps o s) :
    KeepsOut o (execChCfgWrite ch value s) := by
  unfold execChCfgWrite
  extract_lets +onlyGivenNames x1; try clear_value x1
  extract_lets +onlyGivenNames x2; try clear_value x2
  extract_lets +onlyGivenNames x3; try clear_value x3
  refine keepsOut_ite (fun _ => ?_) (fun _ => ?_)
  · refine keepsOut_next ?_
    exact h
  · refine keepsOut_ite (fun _ => ?_) (fun _ => ?_)
    · refine keepsOut_next ?_
      exact keeps_raise h
    · extract_lets +onlyGivenNames t4
      have ht4 : Keeps o t4 := by
        unfold t4
        refine keeps_put ?_ Fld.ok_chCfgRefalign
        refine keeps_put ?_ Fld.ok_chCfgAllowRace
        refine keeps_put ?_ Fld.ok_chCfgLfreq
        exact keeps_put h Fld.ok_chCfgLockstep
      try clear_value t4
      extract_lets +onlyGivenNames x5; try clear_value x5
      refine keepsOut_ite (fun _ => ?_) (fun _ => ?_)
      · refine keepsOut_next ?_
        refine keeps_showClocks ?_
        refine keeps_ite (fun _ => ?_) (fun _ => ?_)
        · exact keeps_relock ht4
        · exact keeps_put ht4 Fld.ok_chLfreqEff
      · refine keepsOut_next ?_
        exact keeps_showClocks ht4

theorem keeps_thermal {o : State} {f : Fld} {v : Nat} {s : State} (h1 : f.Ok) (h : Keeps o s) :
    Keeps o (thermal f v s) := by
  unfold thermal
  refine keeps_ite (fun _ => ?_) (fun _ => ?_)
  · exact h
  · refine keeps_mgCause ?_
    exact keeps_put h h1

theorem keeps_thermalBit {o : State} {f : Fld} {ch : Nat} {on : Bool} {s : State} (h1 : f.Ok) (h : Keeps o s) :
    Keeps o (thermalBit f ch on s) := by
  unfold thermalBit
  extract_lets +onlyGivenNames t1
  have ht1 : Keeps o t1 := by
    unfold t1
    refine keeps_ite (fun _ => ?_) (fun _ => ?_)
    · exact keeps_setBit h h1
    · exact keeps_clrBit h h1
  try clear_value t1
  refine keeps_ite (fun _ => ?_) (fun _ => ?_)
  · exact h
  · exact keeps_mgCause ht1

theorem keeps_setThrottle {o : State} {ch : Nat} {on : Bool} {s : State} (h : Keeps o s) :
    Keeps o (setThrottle ch on s) := by
  unfold setThrottle
  extract_lets +onlyGivenNames t1
  have ht1 : Keeps o t1 := by
    unfold t1
    refine keeps_raise ?_
    exact keeps_thermalBit Fld.ok_pwrStatThrottle h
  try clear_value t1
  refine keeps_ite (fun _ => ?_) (fun _ => ?_)
  · exact keeps_alert ht1
  · exact ht1

theorem keeps_setHalving {o : State} {ch : Nat} {on : Bool} {mark : Bool} {s : State} (h : Keeps o s) :
    Keeps o (setHalving ch on mark s) := by
  unfold setHalving
  extract_lets +onlyGivenNames t1
  have ht1 : Keeps o t1 := by
    unfold t1
    refine keeps_raise ?_
    exact keeps_thermalBit Fld.ok_pwrStatHalved h
  try clear_value t1
  extract_lets +onlyGivenNames t2
  have ht2 : Keeps o t2 := by
    unfold t2
    refine keeps_ite (fun _ => ?_) (fun _ => ?_)
    · exact keeps_alert ht1
    · exact ht1
  try clear_value t2
  refine keeps_showClocks ?_
  refine keeps_ite (fun _ => ?_) (fun _ => ?_)
  · exact ht2
  · exact keeps_detCause ht2

theorem keeps_noteMax {o : State} {a : Nat} {b : Nat} {v : Nat} {s : State} (h : Keeps o s) :
    Keeps o (noteMax a b v s) := by
  unfold noteMax
  exact keeps_put h Fld.ok_envExt

theorem keeps_noteMin {o : State} {a : Nat} {b : Nat} {v : Nat} {s : State} (h : Keeps o s) :
    Keeps o (noteMin a b v s) := by
  unfold noteMin
  exact keeps_put h Fld.ok_envExt

theorem keeps_tellThermal {o : State} {was : State} {s : State} (h1 : Keeps o was) (h2 : Keeps o s) :
    Keeps o (tellThermal was s) := by
  unfold tellThermal
  refine keeps_foldl ?_ ?_
  · intro b2 y3 hb1
    refine keeps_ite (fun _ => ?_) (fun _ => ?_)
    · exact hb1
    · exact keeps_sensor hb1
  · exact h2

theorem keeps_suspect {o : State} {r : Nat} {a : Reading} {b : Reading} {s : State} (h : Keeps o s) :
    Keeps o (suspect r a b s) := by
  unfold suspect
  split
  rename_i f n k e
  have hf : f.Ok := by
    repeat' split at e
    all_goals
      obtain ⟨rfl, _⟩ := Prod.mk.inj e
      simp
  extract_lets t u
  have ht : Keeps o t := keeps_thermal Fld.ok_pwrStatSensorSuspect (keeps_setBit h hf)
  have hu : Keeps o u := keeps_ite (fun _ => ht) (fun _ => keeps_alert ht)
  exact keeps_ite (fun _ => hu) (fun _ => keeps_raise hu)

theorem keeps_samplePair {o : State} {r : Nat} {a : Reading} {b : Reading} {s : State} (h : Keeps o s) :
    Keeps o (samplePair r a b s) := by
  unfold samplePair
  extract_lets +onlyGivenNames x1; try clear_value x1
  extract_lets +onlyGivenNames x2; try clear_value x2
  extract_lets +onlyGivenNames t3
  have ht3 : Keeps o t3 := by
    unfold t3
    exact keeps_put h Fld.ok_regTemp
  try clear_value t3
  extract_lets +onlyGivenNames x4; try clear_value x4
  extract_lets +onlyGivenNames t5
  have ht5 : Keeps o t5 := by
    unfold t5
    exact keeps_put ht3 Fld.ok_susAt
  try clear_value t5
  refine keeps_ite (fun _ => ?_) (fun _ => ?_)
  · exact keeps_suspect ht5
  · exact ht5

theorem keeps_coolTimer {o : State} {f : Fld} {ch : Nat} {cool : Bool} {s : State} (h1 : f.Ok) (h : Keeps o s) :
    Keeps o (coolTimer f ch cool s) := by
  unfold coolTimer
  exact keeps_put h h1

theorem keeps_lowerLimit {o : State} {f : Fld} {ch : Nat} {floor : Nat → Nat} {s : State} (h1 : f.Ok) (h : Keeps o s) :
    Keeps o (lowerLimit f ch floor s) := by
  unfold lowerLimit
  refine keeps_foldl ?_ ?_
  · intro b2 y3 hb1
    exact keeps_put hb1 h1
  · exact h

theorem keeps_raiseLimit {o : State} {f : Fld} {ch : Nat} {s : State} (h1 : f.Ok) (h : Keeps o s) :
    Keeps o (raiseLimit f ch s) := by
  unfold raiseLimit
  refine keeps_foldl ?_ ?_
  · intro b2 y3 hb1
    exact keeps_put hb1 h1
  · exact h

theorem keeps_lowerThermalL {o : State} {ch : Nat} {s : State} (h : Keeps o s) :
    Keeps o (lowerThermalL ch s) := by
  unfold lowerThermalL
  exact keeps_put h Fld.ok_thLimL

theorem keeps_throttleEnds {o : State} {ch : Nat} {s : State} (h : Keeps o s) :
    Keeps o (throttleEnds ch s) := by
  unfold throttleEnds
  refine keeps_ite (fun _ => ?_) (fun _ => ?_)
  · refine keeps_setThrottle ?_
    refine keeps_put ?_ Fld.ok_thLimL
    exact keeps_clearFlds h
  · exact h

theorem keeps_thresholds {o : State} {ch : Nat} {tj : Int} {s : State} (h : Keeps o s) :
    Keeps o (thresholds ch tj s) := by
  unfold thresholds
  extract_lets +onlyGivenNames t1
  have ht1 : Keeps o t1 := by
    unfold t1
    refine keeps_coolTimer Fld.ok_hvCoolAt ?_
    exact keeps_coolTimer Fld.ok_thCoolAt h
  try clear_value t1
  extract_lets +onlyGivenNames t2
  have ht2 : Keeps o t2 := by
    unfold t2
    exact keeps_setThrottle ht1
  try clear_value t2
  extract_lets +onlyGivenNames t3
  have ht3 : Keeps o t3 := by
    unfold t3
    refine keeps_ite (fun _ => ?_) (fun _ => ?_)
    · exact ht1
    · refine keeps_ite (fun _ => ?_) (fun _ => ?_)
      · refine keeps_showClocks ?_
        exact keeps_lowerLimit Fld.ok_thLim ht2
      · refine keeps_ite (fun _ => ?_) (fun _ => ?_)
        · exact ht2
        · refine keeps_moveLockstep ?_
          exact keeps_lowerThermalL ht2
  try clear_value t3
  refine keeps_ite (fun _ => ?_) (fun _ => ?_)
  · refine keeps_ite (fun _ => ?_) (fun _ => ?_)
    · exact ht3
    · exact keeps_setHalving ht3
  · refine keeps_ite (fun _ => ?_) (fun _ => ?_)
    · exact keeps_setHalving ht3
    · exact ht3

theorem keeps_sampleHbm {o : State} {ch : Nat} {v : Nat} {s : State} (h : Keeps o s) :
    Keeps o (sampleHbm ch v s) := by
  unfold sampleHbm
  extract_lets +onlyGivenNames t1
  have ht1 : Keeps o t1 := by
    unfold t1
    refine keeps_noteMax ?_
    exact keeps_put h Fld.ok_telChHbmTj
  try clear_value t1
  refine keeps_ite (fun _ => ?_) (fun _ => ?_)
  · exact keeps_put ht1 Fld.ok_refPend
  · refine keeps_ite (fun _ => ?_) (fun _ => ?_)
    · exact keeps_put ht1 Fld.ok_refPend
    · exact ht1

theorem keeps_execThermalSample {o : State} {pairs : List (BitVec 8 × Reading × Reading)} {hbm : List (Chan × BitVec 16)} {s : State} (h : Keeps o s) :
    KeepsOut o (execThermalSample pairs hbm s) := by
  unfold execThermalSample
  extract_lets +onlyGivenNames t1
  have ht1 : Keeps o t1 := by
    unfold t1
    refine keeps_foldl ?_ ?_
    · intro b3 y4 hb2
      exact keeps_samplePair hb2
    · exact h
  try clear_value t1
  extract_lets +onlyGivenNames t5
  have ht5 : Keeps o t5 := by
    unfold t5
    refine keeps_foldl ?_ ?_
    · intro b7 y8 hb6
      exact keeps_sampleHbm hb6
    · exact ht1
  try clear_value t5
  extract_lets +onlyGivenNames t9
  have ht9 : Keeps o t9 := by
    unfold t9
    refine keeps_foldl ?_ ?_
    · intro b12 y13 hb10
      split
      · extract_lets +onlyGivenNames x11; try clear_value x11
        refine keeps_thresholds ?_
        refine keeps_noteMin ?_
        refine keeps_noteMax ?_
        exact keeps_put hb10 Fld.ok_telChTj
      · exact hb10
    · exact ht5
  try clear_value t9
  extract_lets +onlyGivenNames t14
  have ht14 : Keeps o t14 := by
    unfold t14
    split
    · extract_lets +onlyGivenNames x15; try clear_value x15
      refine keeps_noteMin ?_
      refine keeps_noteMax ?_
      exact keeps_put ht9 Fld.ok_telChipTj
    · exact ht9
  try clear_value t14
  refine keepsOut_next ?_
  exact keeps_tellThermal h ht14

theorem keeps_execThrottleLoop {o : State} {s : State} (h : Keeps o s) :
    KeepsOut o (execThrottleLoop s) := by
  unfold execThrottleLoop
  refine keepsOut_next ?_
  refine keeps_tellThermal h ?_
  refine keeps_foldl ?_ ?_
  · intro b2 y3 hb1
    refine keeps_ite (fun _ => ?_) (fun _ => ?_)
    · exact hb1
    · refine keeps_ite (fun _ => ?_) (fun _ => ?_)
      · refine keeps_showClocks ?_
        exact keeps_lowerLimit Fld.ok_thLim hb1
      · refine keeps_ite (fun _ => ?_) (fun _ => ?_)
        · refine keeps_showClocks ?_
          refine keeps_throttleEnds ?_
          exact keeps_raiseLimit Fld.ok_thLim hb1
        · exact hb1
  · exact h

theorem keeps_capMiss {o : State} {who : Nat} {mw : Nat} {cap : Nat} {s : State} (h : Keeps o s) :
    Keeps o (capMiss who mw cap s) := by
  unfold capMiss
  refine keeps_ite (fun _ => ?_) (fun _ => ?_)
  · exact h
  · refine keeps_raise ?_
    exact keeps_thermal Fld.ok_pwrStatCapmiss h

theorem keeps_capStep {o : State} {ch : Nat} {mw : Nat} {chip : Nat} {s : State} (h : Keeps o s) :
    Keeps o (capStep ch mw chip s) := by
  unfold capStep
  extract_lets +onlyGivenNames x1; try clear_value x1
  extract_lets +onlyGivenNames x2; try clear_value x2
  extract_lets +onlyGivenNames x3; try clear_value x3
  extract_lets +onlyGivenNames t4
  have ht4 : Keeps o t4 := by
    unfold t4
    exact keeps_coolTimer Fld.ok_capCoolAt h
  try clear_value t4
  extract_lets +onlyGivenNames x5; try clear_value x5
  refine keeps_ite (fun _ => ?_) (fun _ => ?_)
  · extract_lets +onlyGivenNames x6; try clear_value x6
    extract_lets +onlyGivenNames t7
    have ht7 : Keeps o t7 := by
      unfold t7
      refine keeps_ite (fun _ => ?_) (fun _ => ?_)
      · exact keeps_put ht4 Fld.ok_capPend
      · refine keeps_showClocks ?_
        exact keeps_lowerLimit Fld.ok_capLim ht4
    try clear_value t7
    refine keeps_ite (fun _ => ?_) (fun _ => ?_)
    · exact keeps_capMiss ht7
    · exact ht7
  · refine keeps_ite (fun _ => ?_) (fun _ => ?_)
    · refine keeps_ite (fun _ => ?_) (fun _ => ?_)
      · exact keeps_put ht4 Fld.ok_capPend
      · refine keeps_showClocks ?_
        exact keeps_raiseLimit Fld.ok_capLim ht4
    · exact keeps_put ht4 Fld.ok_capPend

theorem keeps_execCapLoop {o : State} {power : List (BitVec 32)} {chip : BitVec 32} {s : State} (h : Keeps o s) :
    KeepsOut o (execCapLoop power chip s) := by
  unfold execCapLoop
  extract_lets +onlyGivenNames t1
  have ht1 : Keeps o t1 := by
    unfold t1
    refine keeps_foldl ?_ ?_
    · intro b3 y4 hb2
      refine keeps_noteMax ?_
      exact keeps_put hb2 Fld.ok_telChPwrMw
    · refine keeps_noteMax ?_
      exact keeps_put h Fld.ok_telChipPwrMw
  try clear_value t1
  extract_lets +onlyGivenNames x5; try clear_value x5
  extract_lets +onlyGivenNames x6; try clear_value x6
  extract_lets +onlyGivenNames t7
  have ht7 : Keeps o t7 := by
    unfold t7
    refine keeps_foldl ?_ ?_
    · intro b9 y10 hb8
      exact keeps_capStep hb8
    · exact ht1
  try clear_value t7
  refine keepsOut_next ?_
  refine keeps_ite (fun _ => ?_) (fun _ => ?_)
  · exact keeps_capMiss ht7
  · exact ht7

theorem keeps_markThermal {o : State} {ch : Nat} {s : State} (h : Keeps o s) :
    Keeps o (markThermal ch s) := by
  unfold markThermal
  refine keeps_ite (fun _ => ?_) (fun _ => ?_)
  · exact h
  · refine keeps_ite (fun _ => ?_) (fun _ => ?_)
    · exact keeps_lowerThermalL h
    · refine keeps_ite (fun _ => ?_) (fun _ => ?_)
      · refine keeps_throttleEnds ?_
        exact keeps_put h Fld.ok_thLimL
      · exact h

theorem keeps_markCap {o : State} {ch : Nat} {s : State} (h : Keeps o s) :
    Keeps o (markCap ch s) := by
  unfold markCap
  extract_lets +onlyGivenNames x1; try clear_value x1
  extract_lets +onlyGivenNames t2
  have ht2 : Keeps o t2 := by
    unfold t2
    split
    · exact keeps_put h Fld.ok_capLimL
    · exact keeps_put h Fld.ok_capLimL
    · exact h
  try clear_value t2
  exact keeps_put ht2 Fld.ok_capPend

theorem keeps_execBatchMark {o : State} {ch : Chan} {s : State} (h : Keeps o s) :
    KeepsOut o (execBatchMark ch s) := by
  unfold execBatchMark
  extract_lets +onlyGivenNames x1; try clear_value x1
  extract_lets +onlyGivenNames x2; try clear_value x2
  refine keepsOut_ite (fun _ => ?_) (fun _ => ?_)
  · refine keepsOut_next ?_
    exact h
  · extract_lets +onlyGivenNames t3
    have ht3 : Keeps o t3 := by
      unfold t3
      refine keeps_markCap ?_
      refine keeps_markThermal ?_
      exact keeps_put h Fld.ok_markAt
    try clear_value t3
    extract_lets +onlyGivenNames t4
    have ht4 : Keeps o t4 := by
      unfold t4
      refine keeps_ite (fun _ => ?_) (fun _ => ?_)
      · exact keeps_setHalving ht3
      · exact ht3
    try clear_value t4
    refine keepsOut_next ?_
    refine keeps_tellThermal h ?_
    refine keeps_showClocks ?_
    exact keeps_moveLockstep ht4

theorem keeps_execDroopDetect {o : State} {ch : Chan} {domain : BitVec 4} {sixteenths : BitVec 4} {s : State} (h : Keeps o s) :
    KeepsOut o (execDroopDetect ch domain sixteenths s) := by
  unfold execDroopDetect
  extract_lets +onlyGivenNames x1; try clear_value x1
  refine keepsOut_next ?_
  refine keeps_ite (fun _ => ?_) (fun _ => ?_)
  · exact keeps_put h Fld.ok_droop
  · exact h

theorem keeps_addStretch {o : State} {fw : Fld} {ff : Fld} {a : Nat} {b : Nat} {n : Nat} {s : State} (h1 : fw.Ok) (h2 : ff.Ok) (h : Keeps o s) :
    Keeps o (addStretch fw ff a b n s) := by
  unfold addStretch
  extract_lets +onlyGivenNames x1; try clear_value x1
  refine keeps_inc ?_ h1
  exact keeps_put h h2

theorem keeps_execDroopRecover {o : State} {ch : Chan} {domain : BitVec 4} {periods : BitVec 32} {s : State} (h : Keeps o s) :
    KeepsOut o (execDroopRecover ch domain periods s) := by
  unfold execDroopRecover
  extract_lets +onlyGivenNames x1; try clear_value x1
  extract_lets +onlyGivenNames x2; try clear_value x2
  refine keepsOut_ite (fun _ => ?_) (fun _ => ?_)
  · refine keepsOut_next ?_
    exact h
  · extract_lets +onlyGivenNames x3; try clear_value x3
    extract_lets +onlyGivenNames t4
    have ht4 : Keeps o t4 := by
      unfold t4
      refine keeps_tally ?_
      exact keeps_put h Fld.ok_droop
    try clear_value t4
    refine keepsOut_next ?_
    refine keeps_ite (fun _ => ?_) (fun _ => ?_)
    · exact keeps_addStretch Fld.ok_stretchCyclesWhole Fld.ok_stretchCyclesFrac ht4
    · exact keeps_addStretch Fld.ok_detIslStretchWhole Fld.ok_detIslStretchFrac ht4

theorem keeps_execAdaptiveVoltage {o : State} {ch : Chan} {mv : BitVec 10} {s : State} (h : Keeps o s) :
    KeepsOut o (execAdaptiveVoltage ch mv s) := by
  unfold execAdaptiveVoltage
  extract_lets +onlyGivenNames x1; try clear_value x1
  refine keepsOut_next ?_
  refine keeps_noteMin ?_
  refine keeps_noteMax ?_
  exact keeps_put h Fld.ok_telChRailMv

theorem keeps_mbxPower {o : State} {ch : Nat} {s : State} (h : Keeps o s) :
    Keeps o (mbxPower ch s) := by
  unfold mbxPower
  refine keeps_ite (fun _ => ?_) (fun _ => ?_)
  · refine keeps_mbxFinish ?_
    exact keeps_put h Fld.ok_mbxRsp
  · refine keeps_ite (fun _ => ?_) (fun _ => ?_)
    · refine keeps_mbxFinish ?_
      exact keeps_put h Fld.ok_mbxRsp
    · exact h

theorem keeps_dozeDone {o : State} {ch : Nat} {s : State} (h : Keeps o s) :
    Keeps o (dozeDone ch s) := by
  unfold dozeDone
  extract_lets +onlyGivenNames x1; try clear_value x1
  extract_lets +onlyGivenNames x2; try clear_value x2
  extract_lets +onlyGivenNames t3
  have ht3 : Keeps o t3 := by
    unfold t3
    refine keeps_ite (fun _ => ?_) (fun _ => ?_)
    · exact keeps_darkLoss h
    · exact h
  try clear_value t3
  extract_lets +onlyGivenNames t4
  have ht4 : Keeps o t4 := by
    unfold t4
    refine keeps_ite (fun _ => ?_) (fun _ => ?_)
    · refine keeps_put ?_ Fld.ok_hbmOff
      exact keeps_hbmLost ht3
    · exact ht3
  try clear_value t4
  extract_lets +onlyGivenNames t5
  have ht5 : Keeps o t5 := by
    unfold t5
    refine keeps_mbxPower ?_
    refine keeps_showClocks ?_
    exact keeps_setPwr ht4
  try clear_value t5
  refine keeps_ite (fun _ => ?_) (fun _ => ?_)
  · exact keeps_wakeChan ht5
  · exact ht5

theorem keeps_execDozeEntryDone {o : State} {ch : Chan} {s : State} (h : Keeps o s) :
    KeepsOut o (execDozeEntryDone ch s) := by
  unfold execDozeEntryDone
  refine keepsOut_next ?_
  refine keeps_ite (fun _ => ?_) (fun _ => ?_)
  · exact keeps_dozeDone h
  · exact h

theorem keeps_execGtcWakeMatch {o : State} {ch : Chan} {s : State} (h : Keeps o s) :
    KeepsOut o (execGtcWakeMatch ch s) := by
  unfold execGtcWakeMatch
  extract_lets +onlyGivenNames x1; try clear_value x1
  extract_lets +onlyGivenNames x2; try clear_value x2
  refine keepsOut_next ?_
  refine keeps_ite (fun _ => ?_) (fun _ => ?_)
  · refine keeps_wakeChan ?_
    exact keeps_put h Fld.ok_chPwrWgtc
  · exact h

theorem keeps_initCore {o : State} {c : Nat} {s : State} (h : Keeps o s) :
    Keeps o (initCore c s) := by
  unfold initCore
  extract_lets +onlyGivenNames t1
  have ht1 : Keeps o t1 := by
    unfold t1
    refine keeps_put ?_ Fld.ok_spdUpMask
    exact keeps_put h Fld.ok_spdInitMask
  try clear_value t1
  extract_lets +onlyGivenNames t2
  have ht2 : Keeps o t2 := by
    unfold t2
    refine keeps_foldl ?_ ?_
    · intro b4 y5 hb3
      refine keeps_ite (fun _ => ?_) (fun _ => ?_)
      · exact keeps_initBank hb3
      · exact hb3
    · exact ht1
  try clear_value t2
  refine keeps_put ?_ Fld.ok_spdStatSwept
  exact keeps_spdReadyUpdate ht2

theorem keeps_darkWake {o : State} {ch : Nat} {s : State} (h : Keeps o s) :
    Keeps o (darkWake ch s) := by
  unfold darkWake
  extract_lets +onlyGivenNames x1; try clear_value x1
  extract_lets +onlyGivenNames t2
  have ht2 : Keeps o t2 := by
    unfold t2
    refine keeps_foldl ?_ ?_
    · intro b4 y5 hb3
      exact keeps_initCore hb3
    · exact keeps_ringsReset h
  try clear_value t2
  extract_lets +onlyGivenNames t6
  have ht6 : Keeps o t6 := by
    unfold t6
    refine keeps_ite (fun _ => ?_) (fun _ => ?_)
    · refine keeps_put ?_ Fld.ok_ownChStatPending
      exact keeps_killCores ht2
    · exact ht2
  try clear_value t6
  refine keeps_ite (fun _ => ?_) (fun _ => ?_)
  · refine keeps_foldl ?_ ?_
    · intro b8 y9 hb7
      exact keeps_startCore hb7
    · exact ht6
  · exact ht6

theorem keeps_wakeDone {o : State} {ch : Nat} {s : State} (h : Keeps o s) :
    Keeps o (wakeDone ch s) := by
  unfold wakeDone
  extract_lets +onlyGivenNames t1
  have ht1 : Keeps o t1 := by
    unfold t1
    refine keeps_ite (fun _ => ?_) (fun _ => ?_)
    · exact keeps_darkWake h
    · exact h
  try clear_value t1
  extract_lets +onlyGivenNames t2
  have ht2 : Keeps o t2 := by
    unfold t2
    refine keeps_put ?_ Fld.ok_pwrDark
    exact keeps_put ht1 Fld.ok_hbmOff
  try clear_value t2
  extract_lets +onlyGivenNames t3
  have ht3 : Keeps o t3 := by
    unfold t3
    refine keeps_ite (fun _ => ?_) (fun _ => ?_)
    · exact keeps_put ht2 Fld.ok_chLfreqEff
    · exact ht2
  try clear_value t3
  extract_lets +onlyGivenNames t4
  have ht4 : Keeps o t4 := by
    unfold t4
    refine keeps_setPwr ?_
    exact keeps_put ht3 Fld.ok_chPwrStatWakeNs
  try clear_value t4
  refine keeps_mbxPower ?_
  exact keeps_showClocks ht4

theorem keeps_execChannelWakeDone {o : State} {ch : Chan} {s : State} (h : Keeps o s) :
    KeepsOut o (execChannelWakeDone ch s) := by
  unfold execChannelWakeDone
  refine keepsOut_next ?_
  refine keeps_ite (fun _ => ?_) (fun _ => ?_)
  · exact keeps_wakeDone h
  · exact h

theorem keeps_mbxWakeFails {o : State} {ch : Nat} {s : State} (h : Keeps o s) :
    Keeps o (mbxWakeFails ch s) := by
  unfold mbxWakeFails
  refine keeps_ite (fun _ => ?_) (fun _ => ?_)
  · refine keeps_draw ?_
    exact keeps_mbxFinish h
  · exact h

theorem keeps_execWakeFailure {o : State} {target : Fin 9} {step : BitVec 8} {s : State} (h : Keeps o s) :
    KeepsOut o (execWakeFailure target step s) := by
  unfold execWakeFailure
  extract_lets +onlyGivenNames x1; try clear_value x1
  refine keepsOut_ite (fun _ => ?_) (fun _ => ?_)
  · refine keepsOut_next ?_
    refine keeps_ite (fun _ => ?_) (fun _ => ?_)
    · refine keeps_mbxWakeFails ?_
      refine keeps_raise ?_
      refine keeps_thermal Fld.ok_pwrStatWfail ?_
      exact keeps_put h Fld.ok_pwrStatChip
    · exact h
  · refine keepsOut_ite (fun _ => ?_) (fun _ => ?_)
    · refine keepsOut_next ?_
      exact h
    · extract_lets +onlyGivenNames x2; try clear_value x2
      extract_lets +onlyGivenNames x3; try clear_value x3
      extract_lets +onlyGivenNames t4
      have ht4 : Keeps o t4 := by
        unfold t4
        refine keeps_setPwr ?_
        exact keeps_put h Fld.ok_chPwrStatWfail
      try clear_value t4
      refine keepsOut_next ?_
      refine keeps_mbxWakeFails ?_
      exact keeps_raise ht4

theorem keeps_configLoss {o : State} {ch : Nat} {s : State} (h : Keeps o s) :
    Keeps o (configLoss ch s) := by
  unfold configLoss
  extract_lets +onlyGivenNames t1
  have ht1 : Keeps o t1 := by
    unfold t1
    refine keeps_clearFlds ?_
    refine keeps_ringsReset ?_
    exact keeps_darkLoss h
  try clear_value t1
  refine keeps_foldl ?_ ?_
  · intro b3 y4 hb2
    refine keeps_clearFlds ?_
    exact keeps_wipe hb2
  · exact ht1

theorem keeps_abandonRequests {o : State} {s : State} (h : Keeps o s) :
    Keeps o (abandonRequests s) := by
  unfold abandonRequests
  extract_lets t now u
  have ht : Keeps o t :=
    keeps_foldl (fun _ _ h => keeps_put (keeps_put (keeps_setQueue h) Fld.ok_sveChHeld) Fld.ok_sveChLive) h
  clear_value t
  have hu : Keeps o u :=
    Keeps.upd ht (fun sh => { sh with
      windows := tsorted_map _ (hf := by intro; rfl) sh.windows, resps := rfl, liveTags := rfl }) rfl rfl rfl
  clear_value u
  exact keeps_clearFlds (keeps_put hu Fld.ok_sveInflight)

theorem keeps_enterStandby {o : State} {force : Bool} {off : Bool} {s : State} (h : Keeps o s) :
    Keeps o (enterStandby force off s) := by
  unfold enterStandby
  extract_lets +onlyGivenNames t1
  have ht1 : Keeps o t1 := by
    unfold t1
    refine keeps_foldl ?_ ?_
    · intro b3 y4 hb2
      exact keeps_closeAdmit hb2
    · exact h
  try clear_value t1
  extract_lets +onlyGivenNames t5
  have ht5 : Keeps o t5 := by
    unfold t5
    refine keeps_ite (fun _ => ?_) (fun _ => ?_)
    · exact keeps_abandonRequests ht1
    · exact ht1
  try clear_value t5
  extract_lets +onlyGivenNames t6
  have ht6 : Keeps o t6 := by
    unfold t6
    refine keeps_foldl ?_ ?_
    · intro b8 y9 hb7
      refine keeps_ite (fun _ => ?_) (fun _ => ?_)
      · exact keeps_chanHalt hb7
      · exact hb7
    · exact ht5
  try clear_value t6
  refine keeps_put ?_ Fld.ok_stbAt
  refine keeps_put ?_ Fld.ok_stbHbmoff
  refine keeps_put ?_ Fld.ok_stbForce
  refine keeps_put ?_ Fld.ok_pwrStatChip
  exact keeps_flush ht6

theorem keeps_standbyChan {o : State} {s : State} {ch : Nat} (h : Keeps o s) :
    Keeps o (standbyChan s ch) := by
  unfold standbyChan
  extract_lets +onlyGivenNames t1
  have ht1 : Keeps o t1 := by
    unfold t1
    refine keeps_configLoss ?_
    refine keeps_foxAbandon ?_
    exact keeps_detDrop h
  try clear_value t1
  extract_lets +onlyGivenNames t2
  have ht2 : Keeps o t2 := by
    unfold t2
    refine keeps_ite (fun _ => ?_) (fun _ => ?_)
    · refine keeps_put ?_ Fld.ok_hbmOff
      exact keeps_hbmLost ht1
    · exact ht1
  try clear_value t2
  refine keeps_setPwr ?_
  exact keeps_put ht2 Fld.ok_pwrDark

theorem keeps_standbyEvent {o : State} {s : State} (h : Keeps o s) :
    Keeps o (standbyEvent s) := by
  unfold standbyEvent
  exact keeps_raise h

theorem keeps_execStandbyEntryDone {o : State} {s : State} (h : Keeps o s) :
    KeepsOut o (execStandbyEntryDone s) := by
  unfold execStandbyEntryDone
  refine keepsOut_ite (fun _ => ?_) (fun _ => ?_)
  · refine keepsOut_next ?_
    exact h
  · extract_lets +onlyGivenNames t1
    have ht1 : Keeps o t1 := by
      unfold t1
      refine keeps_foldl ?_ ?_
      · intro b3 y4 hb2
        exact keeps_linkStop hb2
      · exact h
    try clear_value t1
    extract_lets +onlyGivenNames t5
    have ht5 : Keeps o t5 := by
      unfold t5
      refine keeps_foldl ?_ ?_
      · intro b7 y8 hb6
        exact keeps_standbyChan hb6
      · exact ht1
    try clear_value t5
    extract_lets +onlyGivenNames t9
    have ht9 : Keeps o t9 := by
      unfold t9
      refine keeps_put ?_ Fld.ok_pwrStatChip
      refine keeps_loseSummaries ?_
      refine keeps_flushNow ?_
      refine keeps_takeAll ?_
      exact keeps_standbyEvent ht5
    try clear_value t9
    refine keepsOut_next ?_
    refine keeps_ite (fun _ => ?_) (fun _ => ?_)
    · refine keeps_mbxFinish ?_
      exact keeps_put ht9 Fld.ok_mbxRsp
    · exact ht9

theorem keeps_execStandbyWakeDone {o : State} {s : State} (h : Keeps o s) :
    KeepsOut o (execStandbyWakeDone s) := by
  unfold execStandbyWakeDone
  refine keepsOut_ite (fun _ => ?_) (fun _ => ?_)
  · refine keepsOut_next ?_
    exact h
  · extract_lets +onlyGivenNames t1
    have ht1 : Keeps o t1 := by
      unfold t1
      refine keeps_standbyEvent ?_
      refine keeps_wakeTime ?_
      exact keeps_put h Fld.ok_pwrStatChip
    try clear_value t1
    extract_lets +onlyGivenNames t2
    have ht2 : Keeps o t2 := by
      unfold t2
      refine keeps_put ?_ Fld.ok_evrLostStb
      exact keeps_raise ht1
    try clear_value t2
    extract_lets +onlyGivenNames t3
    have ht3 : Keeps o t3 := by
      unfold t3
      refine keeps_foldl ?_ ?_
      · intro b5 y6 hb4
        exact keeps_linkStart hb4
      · exact ht2
    try clear_value t3
    refine keepsOut_next ?_
    refine keeps_ite (fun _ => ?_) (fun _ => ?_)
    · refine keeps_mbxFinish ?_
      exact keeps_put ht3 Fld.ok_mbxRsp
    · exact ht3

theorem keeps_tripChan {o : State} {s : State} {ch : Nat} (h : Keeps o s) :
    Keeps o (tripChan s ch) := by
  unfold tripChan
  extract_lets +onlyGivenNames t1
  have ht1 : Keeps o t1 := by
    unfold t1
    refine keeps_ite (fun _ => ?_) (fun _ => ?_)
    · exact keeps_chanHalt h
    · refine keeps_leaveBars ?_
      exact keeps_exchAbort h
  try clear_value t1
  extract_lets +onlyGivenNames t2
  have ht2 : Keeps o t2 := by
    unfold t2
    refine keeps_darkLoss ?_
    refine keeps_foxAbandon ?_
    exact keeps_detDrop ht1
  try clear_value t2
  extract_lets +onlyGivenNames t3
  have ht3 : Keeps o t3 := by
    unfold t3
    refine keeps_ite (fun _ => ?_) (fun _ => ?_)
    · exact keeps_put ht2 Fld.ok_frzCause
    · exact ht2
  try clear_value t3
  refine keeps_mbxWakeFails ?_
  refine keeps_setPwr ?_
  exact keeps_put ht3 Fld.ok_pwrDark

theorem keeps_execThermalTrip {o : State} {region : BitVec 8} {s : State} (h : Keeps o s) :
    KeepsOut o (execThermalTrip region s) := by
  unfold execThermalTrip
  extract_lets +onlyGivenNames x1; try clear_value x1
  extract_lets +onlyGivenNames x2; try clear_value x2
  refine keepsOut_ite (fun _ => ?_) (fun _ => ?_)
  · refine keepsOut_next ?_
    exact h
  · extract_lets +onlyGivenNames t3
    have ht3 : Keeps o t3 := by
      unfold t3
      refine keeps_foldl ?_ ?_
      · intro b5 y6 hb4
        exact keeps_tripChan hb4
      · exact h
    try clear_value t3
    extract_lets +onlyGivenNames t7
    have ht7 : Keeps o t7 := by
      unfold t7
      refine keeps_alert ?_
      refine keeps_thermal Fld.ok_pwrTripTripped ?_
      refine keeps_put ?_ Fld.ok_pwrTripTj
      exact keeps_put ht3 Fld.ok_pwrTripRegion
    try clear_value t7
    extract_lets +onlyGivenNames t8
    have ht8 : Keeps o t8 := by
      unfold t8
      refine keeps_foldl ?_ ?_
      · intro b10 y11 hb9
        refine keeps_draw ?_
        exact keeps_linkStop hb9
      · exact ht7
    try clear_value t8
    refine keepsOut_next ?_
    refine keeps_tellThermal h ?_
    exact keeps_raise ht8

end Sys2Proof.Machine
end

