-- ==== Sys2Proof/Laws/KeepsMailbox.lean ====
section
/-!
SUPPORT. The operations of Machine/Mailbox.lean keep what Keeps says.
-/
namespace Sys2Proof.Machine

theorem keeps_mbxTake {o : State} {code : Nat} {obj : Nat} {seq : Nat} {args : List Nat} {s : State} (h : Keeps o s) :
    Keeps o (mbxTake code obj seq args s) := by
  unfold mbxTake
  extract_lets +onlyGivenNames t1
  have ht1 : Keeps o t1 := by
    unfold t1
    refine keeps_foldl ?_ ?_
    · intro b3 y4 hb2
      refine keeps_put ?_ Fld.ok_mbxCopy
      exact keeps_put hb2 Fld.ok_mbxArg
    · exact h
  try clear_value t1
  extract_lets +onlyGivenNames t5
  have ht5 : Keeps o t5 := by
    unfold t5
    refine keeps_put ?_ Fld.ok_mbxCur
    refine keeps_put ?_ Fld.ok_mbxCmdSeq
    exact keeps_put ht1 Fld.ok_mbxCmdCode
  try clear_value t5
  refine keeps_put ?_ Fld.ok_mbxStatDone
  refine keeps_put ?_ Fld.ok_mbxStatBusy
  refine keeps_put ?_ Fld.ok_mbxSeq
  exact keeps_put ht5 Fld.ok_mbxCurObj

theorem keeps_command {o : State} {code : Nat} {obj : Nat} {seq : Nat} {args : List Nat} {s : State} {k : State → State} (h : Keeps o s) (h6 : ∀ y1, Keeps o y1 → Keeps o (k y1)) :
    KeepsOut o (command code obj seq args s k) := by
  unfold command
  refine keepsOut_ite (fun _ => ?_) (fun _ => ?_)
  · refine keepsOut_next ?_
    exact h
  · refine keepsOut_ite (fun _ => ?_) (fun _ => ?_)
    · refine keepsOut_next ?_
      exact keeps_put h Fld.ok_mbxStatOverrun
    · extract_lets +onlyGivenNames t1
      have ht1 : Keeps o t1 := by
        unfold t1
        exact keeps_mbxTake h
      try clear_value t1
      refine keepsOut_ite (fun _ => ?_) (fun _ => ?_)
      · refine keepsOut_next ?_
        exact keeps_mbxFinish ht1
      · refine keepsOut_ite (fun _ => ?_) (fun _ => ?_)
        · refine keepsOut_next ?_
          exact keeps_mbxFinish ht1
        · refine keepsOut_next ?_
          refine h6 _ ?_
          exact ht1

theorem keeps_respond {o : State} {ws : List Nat} {s : State} (h : Keeps o s) :
    Keeps o (respond ws s) := by
  unfold respond
  refine keeps_foldl ?_ ?_
  · intro b2 y3 hb1
    exact keeps_put hb1 Fld.ok_mbxRsp
  · exact h

theorem keeps_execMailboxOverrun {o : State} {seq : BitVec 8} {code : BitVec 8} {s : State} (h : Keeps o s) :
    KeepsOut o (execMailboxOverrun seq code s) := by
  unfold execMailboxOverrun
  refine keepsOut_next ?_
  refine keeps_ite (fun _ => ?_) (fun _ => ?_)
  · refine keeps_put ?_ Fld.ok_mbxStatOverrun
    refine keeps_put ?_ Fld.ok_mbxCmdSeq
    exact keeps_put h Fld.ok_mbxCmdCode
  · exact h

theorem keeps_execUnknownCommand {o : State} {seq : BitVec 8} {code : BitVec 8} {s : State} (h : Keeps o s) :
    KeepsOut o (execUnknownCommand seq code s) := by
  unfold execUnknownCommand
  refine keepsOut_ite (fun _ => ?_) (fun _ => ?_)
  · refine keepsOut_next ?_
    exact h
  · refine keepsOut_ite (fun _ => ?_) (fun _ => ?_)
    · refine keepsOut_next ?_
      exact h
    · refine keepsOut_ite (fun _ => ?_) (fun _ => ?_)
      · refine keepsOut_next ?_
        exact keeps_put h Fld.ok_mbxStatOverrun
      · extract_lets +onlyGivenNames t1
        have ht1 : Keeps o t1 := by
          unfold t1
          exact keeps_mbxTake h
        try clear_value t1
        refine keepsOut_next ?_
        exact keeps_mbxFinish ht1

theorem keeps_execIdentify {o : State} {seq : BitVec 8} {s : State} (h : Keeps o s) :
    KeepsOut o (execIdentify seq s) := by
  unfold execIdentify
  refine keeps_command h ?_
  intro y1 hy2
  refine keeps_mbxFinish ?_
  exact keeps_respond hy2

theorem keeps_onChan {o : State} {ch : Nat} {k : State → State} {s : State} (h2 : ∀ y1, Keeps o y1 → Keeps o (k y1)) (h : Keeps o s) :
    Keeps o (onChan ch k s) := by
  unfold onChan
  refine keeps_ite (fun _ => ?_) (fun _ => ?_)
  · exact keeps_mbxFinish h
  · refine keeps_ite (fun _ => ?_) (fun _ => ?_)
    · exact keeps_mbxFinish h
    · refine h2 _ ?_
      exact h

theorem keeps_execChannelAssign {o : State} {seq : BitVec 8} {ch : Chan} {s : State} (h : Keeps o s) :
    KeepsOut o (execChannelAssign seq ch s) := by
  unfold execChannelAssign
  extract_lets +onlyGivenNames x1; try clear_value x1
  refine keeps_command h ?_
  intro y2 hy3
  refine keeps_onChan ?_ hy3
  intro y4 hy5
  extract_lets +onlyGivenNames x6; try clear_value x6
  refine keeps_ite (fun _ => ?_) (fun _ => ?_)
  · refine keeps_mbxFinish ?_
    exact keeps_respond hy5
  · refine keeps_ite (fun _ => ?_) (fun _ => ?_)
    · exact keeps_mbxFinish hy5
    · extract_lets +onlyGivenNames t7
      have ht7 : Keeps o t7 := by
        unfold t7
        refine keeps_setOwner ?_
        exact keeps_drawKey hy5
      try clear_value t7
      refine keeps_ite (fun _ => ?_) (fun _ => ?_)
      · refine keeps_mbxFinish ?_
        exact keeps_respond ht7
      · exact keeps_wakeChan ht7

theorem keeps_execChannelRelease {o : State} {seq : BitVec 8} {ch : Chan} {s : State} (h : Keeps o s) :
    KeepsOut o (execChannelRelease seq ch s) := by
  unfold execChannelRelease
  extract_lets +onlyGivenNames x1; try clear_value x1
  refine keeps_command h ?_
  intro y2 hy3
  refine keeps_onChan ?_ hy3
  intro y4 hy5
  refine keeps_ite (fun _ => ?_) (fun _ => ?_)
  · refine keeps_mbxFinish ?_
    exact keeps_respond hy5
  · exact keeps_killWave hy5

theorem keeps_execOwnerBind {o : State} {seq : BitVec 8} {ch : Chan} {timeout : BitVec 10} {oid : BitVec 128} {s : State} (h : Keeps o s) :
    KeepsOut o (execOwnerBind seq ch timeout oid s) := by
  unfold execOwnerBind
  extract_lets +onlyGivenNames x1; try clear_value x1
  extract_lets +onlyGivenNames x2; try clear_value x2
  refine keeps_command h ?_
  intro y3 hy4
  refine keeps_onChan ?_ hy4
  intro y5 hy6
  refine keeps_ite (fun _ => ?_) (fun _ => ?_)
  · exact keeps_mbxFinish hy6
  · exact keeps_killWave hy6

theorem keeps_execOwnerKill {o : State} {seq : BitVec 8} {ch : Chan} {s : State} (h : Keeps o s) :
    KeepsOut o (execOwnerKill seq ch s) := by
  unfold execOwnerKill
  extract_lets +onlyGivenNames x1; try clear_value x1
  refine keeps_command h ?_
  intro y2 hy3
  refine keeps_ite (fun _ => ?_) (fun _ => ?_)
  · exact keeps_mbxFinish hy3
  · refine keeps_ite (fun _ => ?_) (fun _ => ?_)
    · exact keeps_mbxFinish hy3
    · exact keeps_killWave hy3

theorem keeps_execExchangeArm {o : State} {seq : BitVec 8} {ch : Chan} {s : State} (h : Keeps o s) :
    KeepsOut o (execExchangeArm seq ch s) := by
  unfold execExchangeArm
  extract_lets +onlyGivenNames x1; try clear_value x1
  refine keeps_command h ?_
  intro y2 hy3
  refine keeps_onChan ?_ hy3
  intro y4 hy5
  extract_lets +onlyGivenNames x6; try clear_value x6
  refine keeps_ite (fun _ => ?_) (fun _ => ?_)
  · exact keeps_mbxFinish hy5
  · refine keeps_ite (fun _ => ?_) (fun _ => ?_)
    · exact keeps_mbxFinish hy5
    · refine keeps_mbxFinish ?_
      refine keeps_raise ?_
      exact keeps_put hy5 Fld.ok_exchStatPhase

theorem keeps_execExchangeAbort {o : State} {seq : BitVec 8} {ch : Chan} {s : State} (h : Keeps o s) :
    KeepsOut o (execExchangeAbort seq ch s) := by
  unfold execExchangeAbort
  extract_lets +onlyGivenNames x1; try clear_value x1
  refine keeps_command h ?_
  intro y2 hy3
  refine keeps_onChan ?_ hy3
  intro y4 hy5
  extract_lets +onlyGivenNames x6; try clear_value x6
  extract_lets +onlyGivenNames t7
  have ht7 : Keeps o t7 := by
    unfold t7
    exact keeps_exchAbort hy5
  try clear_value t7
  refine keeps_mbxFinish ?_
  exact keeps_respond ht7

theorem keeps_execEpochFlip {o : State} {seq : BitVec 8} {svc : BitVec 12} {epoch : BitVec 32} {s : State} (h : Keeps o s) :
    KeepsOut o (execEpochFlip seq svc epoch s) := by
  unfold execEpochFlip
  extract_lets +onlyGivenNames x1; try clear_value x1
  refine keeps_command h ?_
  intro y2 hy3
  refine keeps_ite (fun _ => ?_) (fun _ => ?_)
  · exact keeps_mbxFinish hy3
  · refine keeps_ite (fun _ => ?_) (fun _ => ?_)
    · exact keeps_mbxFinish hy3
    · exact Keeps.upd hy3 (fun sh => { sh with epochPend := tsorted_tset _ _ sh.epochPend }) rfl rfl rfl

theorem keeps_powerDown {o : State} {ch : Nat} {dark : Bool} {force : Bool} {t : State} (h : Keeps o t) :
    Keeps o (powerDown ch dark force t) := by
  unfold powerDown
  extract_lets +onlyGivenNames x1; try clear_value x1
  extract_lets +onlyGivenNames x2
  have hx2 : ∀ y1, Keeps o y1 → Keeps o (x2 y1) := by
    intro y3 hy4
    unfold x2
    refine keeps_mbxFinish ?_
    exact keeps_respond hy4
  try clear_value x2
  extract_lets +onlyGivenNames t5
  have ht5 : Keeps o t5 := by
    unfold t5
    refine keeps_mbxFinish ?_
    exact keeps_respond h
  try clear_value t5
  refine keeps_ite (fun _ => ?_) (fun _ => ?_)
  · exact ht5
  · refine keeps_ite (fun _ => ?_) (fun _ => ?_)
    · refine hx2 _ ?_
      exact h
    · refine keeps_ite (fun _ => ?_) (fun _ => ?_)
      · refine keeps_enterDoze ?_
        exact keeps_channelReset h
      · refine keeps_ite (fun _ => ?_) (fun _ => ?_)
        · exact ht5
        · exact keeps_enterDoze h

theorem keeps_execPowerSet {o : State} {seq : BitVec 8} {scope : BitVec 4} {state : BitVec 2} {force : Bool} {hbmoff : Bool} {s : State} (h : Keeps o s) :
    KeepsOut o (execPowerSet seq scope state force hbmoff s) := by
  unfold execPowerSet
  extract_lets +onlyGivenNames x1; try clear_value x1
  refine keeps_command h ?_
  intro y2 hy3
  refine keeps_ite (fun _ => ?_) (fun _ => ?_)
  · exact keeps_mbxFinish hy3
  · refine keeps_onChan ?_ hy3
    intro y4 hy5
    exact keeps_powerDown hy5

theorem keeps_chipRun {o : State} {t : State} (h : Keeps o t) :
    Keeps o (chipRun t) := by
  unfold chipRun
  extract_lets +onlyGivenNames x1; try clear_value x1
  refine keeps_ite (fun _ => ?_) (fun _ => ?_)
  · refine keeps_put ?_ Fld.ok_stbAt
    exact keeps_put h Fld.ok_pwrStatChip
  · refine keeps_mbxFinish ?_
    exact keeps_respond h

theorem keeps_execPowerSetRun {o : State} {seq : BitVec 8} {scope : BitVec 4} {force : Bool} {hbmoff : Bool} {s : State} (h : Keeps o s) :
    KeepsOut o (execPowerSetRun seq scope force hbmoff s) := by
  unfold execPowerSetRun
  extract_lets +onlyGivenNames x1; try clear_value x1
  refine keeps_command h ?_
  intro y2 hy3
  refine keeps_ite (fun _ => ?_) (fun _ => ?_)
  · exact keeps_mbxFinish hy3
  · refine keeps_ite (fun _ => ?_) (fun _ => ?_)
    · exact keeps_chipRun hy3
    · refine keeps_onChan ?_ hy3
      intro y4 hy5
      extract_lets +onlyGivenNames x6; try clear_value x6
      refine keeps_ite (fun _ => ?_) (fun _ => ?_)
      · refine keeps_mbxFinish ?_
        exact keeps_respond hy5
      · refine keeps_ite (fun _ => ?_) (fun _ => ?_)
        · exact hy5
        · refine keeps_ite (fun _ => ?_) (fun _ => ?_)
          · refine keeps_mbxFinish ?_
            exact keeps_respond hy5
          · exact keeps_wakeChan hy5

theorem keeps_execPowerSetStandby {o : State} {seq : BitVec 8} {scope : BitVec 4} {force : Bool} {hbmoff : Bool} {s : State} (h : Keeps o s) :
    KeepsOut o (execPowerSetStandby seq scope force hbmoff s) := by
  unfold execPowerSetStandby
  extract_lets +onlyGivenNames x1; try clear_value x1
  refine keeps_command h ?_
  intro y2 hy3
  extract_lets +onlyGivenNames x4; try clear_value x4
  extract_lets +onlyGivenNames x5; try clear_value x5
  refine keeps_ite (fun _ => ?_) (fun _ => ?_)
  · exact keeps_mbxFinish hy3
  · refine keeps_ite (fun _ => ?_) (fun _ => ?_)
    · refine keeps_mbxFinish ?_
      exact keeps_respond hy3
    · refine keeps_ite (fun _ => ?_) (fun _ => ?_)
      · refine keeps_mbxFinish ?_
        exact keeps_respond hy3
      · exact keeps_enterStandby hy3

theorem keeps_execPowerSetChipRun {o : State} {seq : BitVec 8} {force : Bool} {hbmoff : Bool} {s : State} (h : Keeps o s) :
    KeepsOut o (execPowerSetChipRun seq force hbmoff s) := by
  unfold execPowerSetChipRun
  refine keeps_command h ?_
  intro y1 hy2
  exact keeps_chipRun hy2

theorem keeps_execTimePolicy {o : State} {seq : BitVec 8} {mask : BitVec 32} {words : List (BitVec 32)} {s : State} (h : Keeps o s) :
    KeepsOut o (execTimePolicy seq mask words s) := by
  unfold execTimePolicy
  refine keeps_command h ?_
  intro y1 hy2
  refine keeps_ite (fun _ => ?_) (fun _ => ?_)
  · exact hy2
  · refine keeps_mbxFinish ?_
    exact keeps_respond hy2

theorem keeps_admitLink {o : State} {l : Nat} {mode : Nat} {k : State → State} {s : State} (h3 : ∀ y1, Keeps o y1 → Keeps o (k y1)) (h : Keeps o s) :
    Keeps o (admitLink l mode k s) := by
  unfold admitLink
  refine keeps_ite (fun _ => ?_) (fun _ => ?_)
  · exact keeps_mbxFinish h
  · extract_lets +onlyGivenNames t1
    have ht1 : Keeps o t1 := by
      unfold t1
      exact keeps_put h Fld.ok_mbxMode
    try clear_value t1
    split
    · exact keeps_refuseAdmit ht1
    · refine h3 _ ?_
      exact ht1

theorem keeps_execLinkAdmit {o : State} {seq : BitVec 8} {link : BitVec 6} {s : State} (h : Keeps o s) :
    KeepsOut o (execLinkAdmit seq link s) := by
  unfold execLinkAdmit
  extract_lets +onlyGivenNames x1; try clear_value x1
  refine keeps_command h ?_
  intro y2 hy3
  refine keeps_admitLink ?_ hy3
  intro y4 hy5
  refine keeps_mbxFinish ?_
  refine keeps_respond ?_
  exact keeps_sendAdmit hy5

theorem keeps_execLinkAdmitAttest {o : State} {seq : BitVec 8} {link : BitVec 6} {s : State} (h : Keeps o s) :
    KeepsOut o (execLinkAdmitAttest seq link s) := by
  unfold execLinkAdmitAttest
  extract_lets +onlyGivenNames x1; try clear_value x1
  refine keeps_command h ?_
  intro y2 hy3
  refine keeps_admitLink ?_ hy3
  intro y4 hy5
  refine keeps_nextAttest ?_
  exact keeps_put hy5 Fld.ok_lnkAttStatAtt

theorem keeps_execLinkAdmitAttestMatch {o : State} {seq : BitVec 8} {link : BitVec 6} {cert : BitVec 384} {meas : BitVec 384} {s : State} (h : Keeps o s) :
    KeepsOut o (execLinkAdmitAttestMatch seq link cert meas s) := by
  unfold execLinkAdmitAttestMatch
  extract_lets +onlyGivenNames x1; try clear_value x1
  extract_lets +onlyGivenNames x2; try clear_value x2
  refine keeps_command h ?_
  intro y3 hy4
  refine keeps_admitLink ?_ hy4
  intro y5 hy6
  refine keeps_nextAttest ?_
  exact keeps_put hy6 Fld.ok_lnkAttStatAtt

theorem keeps_execLinkAdmitRestore {o : State} {seq : BitVec 8} {link : BitVec 6} {s : State} (h : Keeps o s) :
    KeepsOut o (execLinkAdmitRestore seq link s) := by
  unfold execLinkAdmitRestore
  extract_lets +onlyGivenNames x1; try clear_value x1
  refine keeps_command h ?_
  intro y2 hy3
  refine keeps_ite (fun _ => ?_) (fun _ => ?_)
  · exact keeps_mbxFinish hy3
  · extract_lets +onlyGivenNames t4
    have ht4 : Keeps o t4 := by
      unfold t4
      exact keeps_put hy3 Fld.ok_mbxMode
    try clear_value t4
    refine keeps_ite (fun _ => ?_) (fun _ => ?_)
    · exact keeps_refuseAdmit ht4
    · refine keeps_mbxFinish ?_
      refine keeps_respond ?_
      refine keeps_linkStart ?_
      exact keeps_setLink ht4

theorem keeps_beginRetire {o : State} {l : Nat} {s : State} (h : Keeps o s) :
    Keeps o (beginRetire l s) := by
  unfold beginRetire
  refine keeps_put ?_ Fld.ok_lnkRetireAt
  refine keeps_put ?_ Fld.ok_lnkRetiring
  exact keeps_sendCtl h

theorem keeps_execLinkRetire {o : State} {seq : BitVec 8} {link : BitVec 6} {s : State} (h : Keeps o s) :
    KeepsOut o (execLinkRetire seq link s) := by
  unfold execLinkRetire
  extract_lets +onlyGivenNames x1; try clear_value x1
  refine keeps_command h ?_
  intro y2 hy3
  refine keeps_ite (fun _ => ?_) (fun _ => ?_)
  · exact keeps_mbxFinish hy3
  · refine keeps_ite (fun _ => ?_) (fun _ => ?_)
    · refine keeps_mbxFinish ?_
      exact keeps_respond hy3
    · exact keeps_beginRetire hy3

theorem keeps_firstBind {o : State} {svc : Nat} {a2 : Nat} {cell : Nat} {len : Nat} {epoch : Nat} {s : State} (h : Keeps o s) :
    Keeps o (firstBind svc a2 cell len epoch s) := by
  unfold firstBind
  extract_lets +onlyGivenNames t1
  have ht1 : Keeps o t1 := by
    unfold t1
    refine keeps_put ?_ Fld.ok_sveSvcW1Epoch
    exact keeps_putSvc h
  try clear_value t1
  extract_lets +onlyGivenNames t2
  have ht2 : Keeps o t2 := by
    unfold t2
    exact Keeps.upd ht1 (fun sh => { sh with windows := tsorted_tset _ _ sh.windows }) rfl rfl rfl
  try clear_value t2
  exact keeps_raise ht2

theorem keeps_execServiceBind {o : State} {seq : BitVec 8} {a2 : BitVec 32} {a3 : BitVec 32} {a4 : BitVec 32} {a5 : BitVec 32} {a6 : BitVec 32} {a7 : BitVec 32} {s : State} (h : Keeps o s) :
    KeepsOut o (execServiceBind seq a2 a3 a4 a5 a6 a7 s) := by
  unfold execServiceBind
  extract_lets +onlyGivenNames x1; try clear_value x1
  extract_lets +onlyGivenNames x2; try clear_value x2
  extract_lets +onlyGivenNames x3; try clear_value x3
  extract_lets +onlyGivenNames x4; try clear_value x4
  extract_lets +onlyGivenNames x5; try clear_value x5
  refine keeps_command h ?_
  intro y6 hy7
  refine keeps_ite (fun _ => ?_) (fun _ => ?_)
  · exact keeps_mbxFinish hy7
  · refine keeps_onChan ?_ hy7
    intro y8 hy9
    refine keeps_ite (fun _ => ?_) (fun _ => ?_)
    · exact keeps_mbxFinish hy9
    · refine keeps_ite (fun _ => ?_) (fun _ => ?_)
      · exact keeps_mbxFinish hy9
      · extract_lets +onlyGivenNames t10
        have ht10 : Keeps o t10 := by
          unfold t10
          refine keeps_ite (fun _ => ?_) (fun _ => ?_)
          · exact hy9
          · exact keeps_havoc hy9
        try clear_value t10
        refine keeps_ite (fun _ => ?_) (fun _ => ?_)
        · exact Keeps.upd ht10 (fun sh => { sh with svcPend := tsorted_tset _ _ sh.svcPend }) rfl rfl rfl
        · refine keeps_mbxFinish ?_
          exact keeps_firstBind ht10

theorem keeps_execServiceUnbind {o : State} {seq : BitVec 8} {a2 : BitVec 32} {s : State} (h : Keeps o s) :
    KeepsOut o (execServiceUnbind seq a2 s) := by
  unfold execServiceUnbind
  extract_lets +onlyGivenNames x1; try clear_value x1
  refine keeps_command h ?_
  intro y2 hy3
  refine keeps_ite (fun _ => ?_) (fun _ => ?_)
  · exact keeps_mbxFinish hy3
  · refine keeps_ite (fun _ => ?_) (fun _ => ?_)
    · exact keeps_mbxFinish hy3
    · exact Keeps.upd hy3 (fun sh => { sh with svcPend := tsorted_tset _ _ sh.svcPend }) rfl rfl rfl

theorem keeps_execEvrClear {o : State} {seq : BitVec 8} {s : State} (h : Keeps o s) :
    KeepsOut o (execEvrClear seq s) := by
  unfold execEvrClear
  refine keeps_command h ?_
  intro y1 hy2
  extract_lets +onlyGivenNames t3
  have ht3 : Keeps o t3 := by
    unfold t3
    exact keeps_clearRecorder hy2
  try clear_value t3
  refine keeps_mbxFinish ?_
  exact keeps_respond ht3

theorem keeps_execFreezeArm {o : State} {seq : BitVec 8} {pin : Bool} {trig : Bool} {s : State} (h : Keeps o s) :
    KeepsOut o (execFreezeArm seq pin trig s) := by
  unfold execFreezeArm
  extract_lets +onlyGivenNames x1; try clear_value x1
  refine keeps_command h ?_
  intro y2 hy3
  extract_lets +onlyGivenNames t4
  have ht4 : Keeps o t4 := by
    unfold t4
    refine keeps_put ?_ Fld.ok_frzArmTrig
    exact keeps_put hy3 Fld.ok_frzArmPin
  try clear_value t4
  extract_lets +onlyGivenNames t5
  have ht5 : Keeps o t5 := by
    unfold t5
    refine keeps_ite (fun _ => ?_) (fun _ => ?_)
    · exact keeps_raise ht4
    · exact ht4
  try clear_value t5
  exact keeps_mbxFinish ht5

end Sys2Proof.Machine
end

