-- ==== Sys2Proof/Laws/KeepsReadout.lean ====
section
/-!
SUPPORT. The operations of Machine/Readout.lean keep what Keeps says.
-/
namespace Sys2Proof.Machine

theorem keeps_nextSection {o : State} {s : State} (h : Keeps o s) :
    Keeps o (nextSection s) := by
  unfold nextSection
  extract_lets +onlyGivenNames x1; try clear_value x1
  refine keeps_ite (fun _ => ?_) (fun _ => ?_)
  · refine keeps_raise ?_
    refine keeps_put ?_ Fld.ok_roNext
    refine keeps_draw ?_
    exact Keeps.upd h (fun sh => { sh with }) rfl rfl rfl
  · refine keeps_ite (fun _ => ?_) (fun _ => ?_)
    · split
      · extract_lets +onlyGivenNames t2
        have ht2 : Keeps o t2 := by
          unfold t2
          refine keeps_put ?_ Fld.ok_roNext
          refine keeps_draw ?_
          exact Keeps.upd h (fun sh => { sh with }) rfl rfl rfl
        try clear_value t2
        refine keeps_raise ?_
        refine keeps_put ?_ Fld.ok_roLast
        exact keeps_put ht2 Fld.ok_roOn
    · refine keeps_ite (fun _ => ?_) (fun _ => ?_)
      · extract_lets +onlyGivenNames x3; try clear_value x3
        extract_lets +onlyGivenNames x4; try clear_value x4
        extract_lets +onlyGivenNames x5; try clear_value x5
        refine keeps_put ?_ Fld.ok_roOn
        refine keeps_put ?_ Fld.ok_roNext
        exact Keeps.upd h (fun sh => { sh with }) rfl rfl rfl
      · exact h

theorem keeps_makeBytes {o : State} {n k : Nat} {s : State} (h : Keeps o s) :
    Keeps o (makeBytes n k s) := by
  induction k generalizing s with
  | zero => exact h
  | succ k ih =>
    unfold makeBytes
    exact keeps_ite (fun _ => h) (fun _ => ih (keeps_nextSection h))

theorem keeps_readoutEnds {o : State} {how : Nat} {s : State} (h : Keeps o s) :
    Keeps o (readoutEnds how s) := by
  unfold readoutEnds
  refine keeps_ite (fun _ => ?_) (fun _ => ?_)
  · exact h
  · extract_lets +onlyGivenNames t1
    have ht1 : Keeps o t1 := by
      unfold t1
      refine keeps_raise ?_
      exact keeps_put h Fld.ok_frzStatRo
    try clear_value t1
    refine keeps_mgCause ?_
    exact Keeps.upd ht1 (fun sh => { sh with }) rfl rfl rfl

theorem keeps_streamBytes {o : State} {n : Nat} {s : State} (h : Keeps o s) :
    Keeps o (streamBytes n s).2 := by
  unfold streamBytes
  extract_lets +onlyGivenNames t1
  have ht1 : Keeps o t1 := by
    unfold t1
    exact keeps_makeBytes h
  try clear_value t1
  extract_lets +onlyGivenNames x2; try clear_value x2
  extract_lets +onlyGivenNames t3
  have ht3 : Keeps o t3 := by
    unfold t3
    exact Keeps.upd ht1 (fun sh => { sh with }) rfl rfl rfl
  try clear_value t3
  show Keeps o (_)
  refine keeps_put ?_ Fld.ok_roLast
  refine keeps_inc ?_ Fld.ok_roSent
  exact keeps_put ht3 Fld.ok_roCrc

theorem keeps_startReadout {o : State} {path : Nat} {s : State} (h : Keeps o s) :
    Keeps o (startReadout path s) := by
  unfold startReadout
  refine keeps_ite (fun _ => ?_) (fun _ => ?_)
  · exact h
  · extract_lets +onlyGivenNames t1
    have ht1 : Keeps o t1 := by
      unfold t1
      refine keeps_put ?_ Fld.ok_roNext
      refine keeps_raise ?_
      refine keeps_put ?_ Fld.ok_frzStatPath
      exact keeps_put h Fld.ok_frzStatRo
    try clear_value t1
    extract_lets +onlyGivenNames t2
    have ht2 : Keeps o t2 := by
      unfold t2
      refine keeps_put ?_ Fld.ok_roLast
      refine keeps_put ?_ Fld.ok_roOn
      refine keeps_put ?_ Fld.ok_roSent
      exact keeps_put ht1 Fld.ok_roCrc
    try clear_value t2
    extract_lets +onlyGivenNames t3
    have ht3 : Keeps o t3 := by
      unfold t3
      refine keeps_put ?_ Fld.ok_frzRoLenReady
      refine keeps_put ?_ Fld.ok_frzRoLenLast
      refine keeps_put ?_ Fld.ok_frzRoLenBytes
      exact keeps_put ht2 Fld.ok_frzRoPosOffset
    try clear_value t3
    exact Keeps.upd ht3 (fun sh => { sh with }) rfl rfl rfl

theorem keeps_execReadoutStart {o : State} {s : State} (h : Keeps o s) :
    KeepsOut o (execReadoutStart s) := by
  unfold execReadoutStart
  refine keepsOut_next ?_
  refine keeps_ite (fun _ => ?_) (fun _ => ?_)
  · exact keeps_startReadout h
  · exact h

theorem keeps_execReadoutNext {o : State} {s : State} (h : Keeps o s) :
    KeepsOut o (execReadoutNext s) := by
  unfold execReadoutNext
  refine keepsOut_next ?_
  refine keeps_ite (fun _ => ?_) (fun _ => ?_)
  · refine keeps_put ?_ Fld.ok_frzRoLenReady
    exact keeps_inc h Fld.ok_frzRoPosOffset
  · exact h

theorem keeps_execReadoutWindowReady {o : State} {s : State} (h : Keeps o s) :
    KeepsOut o (execReadoutWindowReady s) := by
  unfold execReadoutWindowReady
  refine keepsOut_ite (fun _ => ?_) (fun _ => ?_)
  · refine keepsOut_next ?_
    exact h
  · split
    · rename_i v1 v2 e3
      have hv2 : Keeps o v2 := by
        have k4 := congrArg (fun p => Keeps o p.2) e3
        refine k4.mp ?_
        exact keeps_streamBytes h
      extract_lets +onlyGivenNames t5
      have ht5 : Keeps o t5 := by
        unfold t5
        refine keeps_foldl ?_ ?_
        · intro b7 y8 hb6
          exact keeps_put hb6 Fld.ok_frzRowin
        · exact keeps_clearFlds hv2
      try clear_value t5
      extract_lets +onlyGivenNames t9
      have ht9 : Keeps o t9 := by
        unfold t9
        refine keeps_put ?_ Fld.ok_frzRoLenReady
        refine keeps_put ?_ Fld.ok_frzRoLenLast
        exact keeps_put ht5 Fld.ok_frzRoLenBytes
      try clear_value t9
      refine keepsOut_next ?_
      refine keeps_ite (fun _ => ?_) (fun _ => ?_)
      · exact keeps_readoutEnds ht9
      · exact ht9

theorem keeps_execReadoutStop {o : State} {s : State} (h : Keeps o s) :
    KeepsOut o (execReadoutStop s) := by
  unfold execReadoutStop
  refine keepsOut_next ?_
  refine keeps_ite (fun _ => ?_) (fun _ => ?_)
  · exact keeps_readoutEnds h
  · exact h

theorem keeps_execRdout {o : State} {s : State} (h : Keeps o s) :
    KeepsOut o (execRdout s) := by
  unfold execRdout
  refine keepsOut_next ?_
  exact keeps_startReadout h

theorem keeps_execRdoutCaptureDr {o : State} {s : State} (h : Keeps o s) :
    KeepsOut o (execRdoutCaptureDr s) := by
  unfold execRdoutCaptureDr
  refine keepsOut_ite (fun _ => ?_) (fun _ => ?_)
  · refine keepsOut_next ?_
    exact keeps_emit h
  · split
    · rename_i v1 v2 e3
      have hv2 : Keeps o v2 := by
        have k4 := congrArg (fun p => Keeps o p.2) e3
        refine k4.mp ?_
        exact keeps_streamBytes h
      extract_lets +onlyGivenNames t5
      have ht5 : Keeps o t5 := by
        unfold t5
        exact keeps_emit hv2
      try clear_value t5
      refine keepsOut_next ?_
      refine keeps_ite (fun _ => ?_) (fun _ => ?_)
      · exact keeps_readoutEnds ht5
      · exact ht5

theorem keeps_thaw {o : State} {s : State} (h : Keeps o s) :
    Keeps o (thaw s) := by
  unfold thaw
  extract_lets +onlyGivenNames t1
  have ht1 : Keeps o t1 := by
    unfold t1
    refine keeps_foldl ?_ ?_
    · intro b3 y4 hb2
      exact keeps_closeAdmit hb2
    · exact keeps_put h Fld.ok_frzStatFrozen
  try clear_value t1
  refine keeps_readoutEnds ?_
  exact keeps_abandonRequests ht1

theorem keeps_leaveFrozen {o : State} {ch : Nat} {s : State} (h : Keeps o s) :
    Keeps o (leaveFrozen ch s) := by
  unfold leaveFrozen
  extract_lets +onlyGivenNames t1
  have ht1 : Keeps o t1 := by
    unfold t1
    refine keeps_cutSection ?_
    exact keeps_clrBit h Fld.ok_frzStatChfrozen
  try clear_value t1
  extract_lets +onlyGivenNames t2
  have ht2 : Keeps o t2 := by
    unfold t2
    refine keeps_ite (fun _ => ?_) (fun _ => ?_)
    · exact ht1
    · refine keeps_ite (fun _ => ?_) (fun _ => ?_)
      · exact ht1
      · exact keeps_put ht1 Fld.ok_frzCause
  try clear_value t2
  refine keeps_ite (fun _ => ?_) (fun _ => ?_)
  · exact keeps_thaw ht2
  · exact ht2

end Sys2Proof.Machine
end

