-- ==== Sys2Proof/Laws/KeepsBoot.lean ====
section
/-!
SUPPORT. The operations of Machine/Boot.lean keep what Keeps says.
-/
namespace Sys2Proof.Machine

theorem keeps_chooseSlot {o : State} {kind : Nat} {s : State} (h : Keeps o s) :
    Keeps o (chooseSlot kind s).2 := by
  unfold chooseSlot
  split
  · show Keeps o (_)
    exact h
  · show Keeps o (_)
    exact keeps_raise h
  · show Keeps o (_)
    exact keeps_raise h
  · show Keeps o (_)
    refine keeps_raise ?_
    exact keeps_raise h

theorem keeps_takeImage {o : State} {kind : Nat} {b : Bool} {s : State} (h : Keeps o s) :
    Keeps o (takeImage kind b s) := by
  unfold takeImage
  extract_lets +onlyGivenNames t1
  have ht1 : Keeps o t1 := by
    unfold t1
    refine keeps_ite (fun _ => ?_) (fun _ => ?_)
    · exact keeps_setBit h Fld.ok_msrBootSlotb
    · exact keeps_clrBit h Fld.ok_msrBootSlotb
  try clear_value t1
  exact keeps_put ht1 Fld.ok_msrImgverVersion

theorem keeps_putMeasure {o : State} {i : Nat} {d : List (BitVec 8)} {s : State} (h : Keeps o s) :
    Keeps o (putMeasure i d s) := by
  unfold putMeasure
  refine keeps_foldl ?_ ?_
  · intro b2 y3 hb1
    exact keeps_put hb1 Fld.ok_msrVal
  · exact h

theorem keeps_measure {o : State} {i : Nat} {writer : Nat} {body : List (BitVec 8)} {s : State} (h : Keeps o s) :
    Keeps o (measure i writer body s) := by
  unfold measure
  refine keeps_ite (fun _ => ?_) (fun _ => ?_)
  · exact keeps_raise h
  · refine keeps_setBit ?_ Fld.ok_msrLockLocked
    exact keeps_putMeasure h

theorem keeps_formDebug {o : State} {s : State} (h : Keeps o s) :
    Keeps o (formDebug s) := by
  unfold formDebug
  exact keeps_putMeasure h

theorem keeps_setDebug {o : State} {bit : Nat} {s : State} (h : Keeps o s) :
    Keeps o (setDebug bit s) := by
  unfold setDebug
  extract_lets +onlyGivenNames t1
  have ht1 : Keeps o t1 := by
    unfold t1
    exact keeps_setBit h Fld.ok_msrDbgState
  try clear_value t1
  refine keeps_ite (fun _ => ?_) (fun _ => ?_)
  · exact h
  · refine keeps_raise ?_
    exact keeps_formDebug ht1

theorem keeps_reachStage {o : State} {k : Nat} {s : State} (h : Keeps o s) :
    Keeps o (reachStage k s) := by
  unfold reachStage
  extract_lets +onlyGivenNames x1; try clear_value x1
  extract_lets +onlyGivenNames t2
  have ht2 : Keeps o t2 := by
    unfold t2
    refine keeps_draw ?_
    refine keeps_sensor ?_
    exact keeps_put h Fld.ok_msrBootStage
  try clear_value t2
  extract_lets +onlyGivenNames t3
  have ht3 : Keeps o t3 := by
    unfold t3
    refine keeps_ite (fun _ => ?_) (fun _ => ?_)
    · exact keeps_put ht2 Fld.ok_msrBootReadyMs
    · exact ht2
  try clear_value t3
  exact keeps_raise ht3

theorem keeps_enterRecovery {o : State} {cause : Nat} {s : State} (h : Keeps o s) :
    Keeps o (enterRecovery cause s) := by
  unfold enterRecovery
  refine keeps_mgCause ?_
  refine keeps_raise ?_
  refine keeps_sensor ?_
  exact keeps_put h Fld.ok_msrBootStage

theorem keeps_loadMicrocode {o : State} {kind : Nat} {index : Nat} {env : BootEnv} {failed : State → State} {s : State} (h4 : ∀ y1, Keeps o y1 → Keeps o (failed y1)) (h : Keeps o s) :
    Keeps o (loadMicrocode kind index env failed s) := by
  unfold loadMicrocode
  split
  · rename_i v1 v2 e3
    have hv2 : Keeps o v2 := by
      have k4 := congrArg (fun p => Keeps o p.2) e3
      refine k4.mp ?_
      exact keeps_chooseSlot h
    split
    · refine h4 _ ?_
      exact hv2
    · refine keeps_ite (fun _ => ?_) (fun _ => ?_)
      · refine h4 _ ?_
        exact keeps_raise hv2
      · refine keeps_measure ?_
        exact keeps_takeImage hv2

theorem keeps_allUnavailable {o : State} {s : State} (h : Keeps o s) :
    Keeps o (allUnavailable s) := by
  unfold allUnavailable
  refine keeps_foldl ?_ ?_
  · intro b2 y3 hb1
    exact keeps_setOwner hb1
  · exact h

theorem keeps_selfTest {o : State} {env : BootEnv} {s : State} (h : Keeps o s) :
    Keeps o (selfTest env s) := by
  unfold selfTest
  extract_lets +onlyGivenNames t1
  have ht1 : Keeps o t1 := by
    unfold t1
    refine keeps_foldl ?_ ?_
    · intro b3 y4 hb2
      refine keeps_put ?_ Fld.ok_mxBistPass
      exact keeps_put hb2 Fld.ok_mxBistDone
    · exact h
  try clear_value t1
  refine keeps_foldl ?_ ?_
  · intro b8 y9 hb5
    extract_lets +onlyGivenNames x6; try clear_value x6
    refine keeps_ite (fun _ => ?_) (fun _ => ?_)
    · exact hb5
    · extract_lets +onlyGivenNames t7
      have ht7 : Keeps o t7 := by
        unfold t7
        refine keeps_put ?_ Fld.ok_mxBistCol
        refine keeps_put ?_ Fld.ok_mxBistRow
        exact keeps_put hb5 Fld.ok_mxBistPass
      try clear_value t7
      refine keeps_setOwner ?_
      exact keeps_raise ht7
  · exact ht1

theorem keeps_showTopo {o : State} {s : State} (h : Keeps o s) :
    Keeps o (showTopo s) := by
  unfold showTopo
  refine keeps_foldl ?_ ?_
  · intro b3 y4 hb1
    refine keeps_ite (fun _ => ?_) (fun _ => ?_)
    · extract_lets +onlyGivenNames x2; try clear_value x2
      refine keeps_put ?_ Fld.ok_idTopoPos
      exact keeps_put hb1 Fld.ok_idTopoConn
    · refine keeps_put ?_ Fld.ok_idTopoBpair
      exact keeps_put hb1 Fld.ok_idTopoPos
  · exact h

theorem keeps_showTables {o : State} {bs : List (BitVec 8)} {s : State} (h : Keeps o s) :
    Keeps o (showTables bs s) := by
  unfold showTables
  extract_lets +onlyGivenNames t1
  have ht1 : Keeps o t1 := by
    unfold t1
    refine keeps_foldl ?_ ?_
    · intro b3 y4 hb2
      refine keeps_put ?_ Fld.ok_pwrWtDirRecords
      exact keeps_put hb2 Fld.ok_pwrWtDirFirst
    · exact h
  try clear_value t1
  refine keeps_foldl ?_ ?_
  · intro b6 y7 hb5
    exact keeps_put hb5 Fld.ok_pwrWt
  · exact ht1

theorem keeps_checkChain {o : State} {s : State} (h : Keeps o s) :
    Keeps o (checkChain s) := by
  unfold checkChain
  extract_lets +onlyGivenNames x1; try clear_value x1
  refine keeps_ite (fun _ => ?_) (fun _ => ?_)
  · exact keeps_put h Fld.ok_chainEmpty
  · refine keeps_raise ?_
    exact keeps_put h Fld.ok_chainEmpty

theorem keeps_boardChip {o : State} {board : List (BitVec 8)} {s : State} (h : Keeps o s) :
    Keeps o (boardChip board s) := by
  unfold boardChip
  split
  · refine keeps_put ?_ Fld.ok_fabCtlValid
    exact keeps_put h Fld.ok_fabCtlChipId
  · exact h

theorem keeps_stageTwo {o : State} {board : List (BitVec 8)} {a2 : List (BitVec 8)} {env : BootEnv} {s : State} (h : Keeps o s) :
    Keeps o (stageTwo board a2 env s) := by
  unfold stageTwo
  extract_lets +onlyGivenNames t1
  have ht1 : Keeps o t1 := by
    unfold t1
    exact keeps_boardChip h
  try clear_value t1
  extract_lets +onlyGivenNames t2
  have ht2 : Keeps o t2 := by
    unfold t2
    refine keeps_loadMicrocode ?_ ht1
    intro y3 hy4
    exact keeps_allUnavailable hy4
  try clear_value t2
  extract_lets +onlyGivenNames t5
  have ht5 : Keeps o t5 := by
    unfold t5
    exact keeps_selfTest ht2
  try clear_value t5
  extract_lets +onlyGivenNames t6
  have ht6 : Keeps o t6 := by
    unfold t6
    refine keeps_ite (fun _ => ?_) (fun _ => ?_)
    · refine keeps_loadMicrocode ?_ ht5
      intro y7 hy8
      exact keeps_put hy8 Fld.ok_sveBad
    · exact ht5
  try clear_value t6
  extract_lets +onlyGivenNames t9
  have ht9 : Keeps o t9 := by
    unfold t9
    refine keeps_loadMicrocode ?_ ht6
    intro y10 hy11
    exact keeps_put hy11 Fld.ok_tlailBad
  try clear_value t9
  extract_lets +onlyGivenNames x12; try clear_value x12
  extract_lets +onlyGivenNames t13
  have ht13 : Keeps o t13 := by
    unfold t13
    refine keeps_formDebug ?_
    refine keeps_measure ?_
    exact keeps_showTables ht9
  try clear_value t13
  extract_lets +onlyGivenNames t14
  have ht14 : Keeps o t14 := by
    unfold t14
    refine keeps_mgCause ?_
    refine keeps_reachStage ?_
    refine keeps_put ?_ Fld.ok_msrBootWdcount
    exact keeps_put ht13 Fld.ok_mbxStatReady
  try clear_value t14
  refine keeps_foldl ?_ ?_
  · intro b16 y17 hb15
    exact keeps_linkStart hb15
  · exact ht14

theorem keeps_stageOne {o : State} {cold : Bool} {reach : Nat} {env : BootEnv} {s : State} (h : Keeps o s) :
    Keeps o (stageOne cold reach env s) := by
  unfold stageOne
  extract_lets +onlyGivenNames t1
  have ht1 : Keeps o t1 := by
    unfold t1
    refine keeps_checkChain ?_
    exact keeps_reachStage h
  try clear_value t1
  refine keeps_ite (fun _ => ?_) (fun _ => ?_)
  · exact ht1
  · extract_lets +onlyGivenNames t2
    have ht2 : Keeps o t2 := by
      unfold t2
      exact keeps_mountRecorder ht1
    try clear_value t2
    split
    · rename_i v3 v4 e5
      have hv4 : Keeps o v4 := by
        have k6 := congrArg (fun p => Keeps o p.2) e5
        refine k6.mp ?_
        exact keeps_chooseSlot ht2
      extract_lets +onlyGivenNames x7; try clear_value x7
      extract_lets +onlyGivenNames t8
      have ht8 : Keeps o t8 := by
        unfold t8
        split
        · refine keeps_measure ?_
          exact keeps_takeImage hv4
        · exact hv4
      try clear_value t8
      split
      · rename_i v9 v10 e11
        have hv10 : Keeps o v10 := by
          have k12 := congrArg (fun p => Keeps o p.2) e11
          refine k12.mp ?_
          exact keeps_chooseSlot ht8
        split
        · exact hv10
        · extract_lets +onlyGivenNames x13; try clear_value x13
          extract_lets +onlyGivenNames t14
          have ht14 : Keeps o t14 := by
            unfold t14
            refine keeps_reachStage ?_
            refine keeps_measure ?_
            exact keeps_takeImage hv10
          try clear_value t14
          refine keeps_ite (fun _ => ?_) (fun _ => ?_)
          · exact ht14
          · exact keeps_stageTwo ht14

theorem keeps_romBoot {o : State} {cold : Bool} {reach : Nat} {env : BootEnv} {s : State} (h : Keeps o s) :
    Keeps o (romBoot cold reach env s) := by
  unfold romBoot
  extract_lets +onlyGivenNames t1
  have ht1 : Keeps o t1 := by
    unfold t1
    exact keeps_measure h
  try clear_value t1
  refine keeps_ite (fun _ => ?_) (fun _ => ?_)
  · refine keeps_sensor ?_
    exact keeps_put ht1 Fld.ok_msrBootStage
  · extract_lets +onlyGivenNames t2
    have ht2 : Keeps o t2 := by
      unfold t2
      refine keeps_showTopo ?_
      refine keeps_formDebug ?_
      exact keeps_measure ht1
    try clear_value t2
    extract_lets +onlyGivenNames x3; try clear_value x3
    refine keeps_ite (fun _ => ?_) (fun _ => ?_)
    · exact keeps_enterRecovery ht2
    · extract_lets +onlyGivenNames t4
      have ht4 : Keeps o t4 := by
        unfold t4
        refine keeps_ite (fun _ => ?_) (fun _ => ?_)
        · exact keeps_put ht2 Fld.ok_msrBootFallback
        · exact ht2
      try clear_value t4
      split
      · rename_i v5 v6 e7
        have hv6 : Keeps o v6 := by
          have k8 := congrArg (fun p => Keeps o p.2) e7
          refine k8.mp ?_
          exact keeps_chooseSlot ht4
        split
        · exact keeps_enterRecovery hv6
        · refine keeps_ite (fun _ => ?_) (fun _ => ?_)
          · exact hv6
          · refine keeps_stageOne ?_
            refine keeps_measure ?_
            exact keeps_takeImage hv6

theorem keeps_resetTo {o : State} {keep : List Fld} {mem : Nat → Bool} {s : State} (h : Keeps o s) :
    Keeps o (resetTo keep mem s) := by
  refine Keeps.upd h (fun sh => ?_) rfl rfl rfl
  constructor
  case mem => exact memWf_filter sh.mem _
  case reg => exact tsorted_filter _ sh.reg
  case fits => exact sh.fits.filter _
  case rerunFits => exact fun e he => absurd he List.not_mem_nil
  case lanes => exact fun e he => absurd he List.not_mem_nil
  case tileVals => exact fun e he => absurd he List.not_mem_nil
  case jobVals => exact fun e he => absurd he List.not_mem_nil
  all_goals rfl

theorem keeps_coldState {o : State} {s : State} (h : Keeps o s) :
    Keeps o (coldState s) := by
  unfold coldState
  refine keeps_foldl ?_ ?_
  · intro b2 y3 hb1
    exact keeps_hbmLost hb1
  · exact keeps_resetTo h

theorem keeps_warmState {o : State} {s : State} (h : Keeps o s) :
    Keeps o (warmState s) := by
  refine Keeps.upd h (fun sh => ?_) rfl rfl rfl
  have sr := ((keeps_resetTo (keep := keptFlds ++ warmFlds) (mem := fun a => decide (a < 2 ^ 43) || decide (2 ^ 47 ≤ a))
    (Keeps.refl s)).sound sh)
  exact { sr with hbmBad := sh.hbmBad, hbmKey := sh.hbmKey }

theorem keeps_endSession {o : State} {k : Nat} {s : State} (h : Keeps o s) :
    Keeps o (endSession k s) := by
  unfold endSession
  extract_lets +onlyGivenNames t1
  have ht1 : Keeps o t1 := by
    unfold t1
    exact keeps_clearFlds h
  try clear_value t1
  refine keeps_ite (fun _ => ?_) (fun _ => ?_)
  · exact keeps_raise ht1
  · exact ht1

theorem keeps_endSessions {o : State} {p : Nat → Bool} {s : State} (h : Keeps o s) :
    Keeps o (endSessions p s) := by
  unfold endSessions
  refine keeps_foldl ?_ ?_
  · intro b2 y3 hb1
    exact keeps_endSession hb1
  · exact h

theorem keeps_coldReset {o : State} {cause : Nat} {env : BootEnv} {s : State} (h : Keeps o s) :
    Keeps o (coldReset cause env s) := by
  unfold coldReset
  refine keeps_romBoot ?_
  refine keeps_put ?_ Fld.ok_modOn
  refine keeps_put ?_ Fld.ok_msrBootRcause
  refine keeps_coldState ?_
  exact keeps_recorderOff h

theorem keeps_execInputPowerGood {o : State} {vin : BitVec 16} {iin : BitVec 16} {vbank : BitVec 16} {env : BootEnv} {s : State} (h : Keeps o s) :
    KeepsOut o (execInputPowerGood vin iin vbank env s) := by
  unfold execInputPowerGood
  refine keepsOut_ite (fun _ => ?_) (fun _ => ?_)
  · refine keepsOut_next ?_
    exact h
  · extract_lets +onlyGivenNames t1
    have ht1 : Keeps o t1 := by
      unfold t1
      refine keeps_put ?_ Fld.ok_fpnPwrVbank
      refine keeps_put ?_ Fld.ok_fpnPwrIin
      exact keeps_put h Fld.ok_fpnPwrVin
    try clear_value t1
    refine keepsOut_next ?_
    refine keeps_coldReset ?_
    exact keeps_put ht1 Fld.ok_inLost

theorem keeps_execModRstN {o : State} {ms : BitVec 16} {env : BootEnv} {s : State} (h : Keeps o s) :
    KeepsOut o (execModRstN ms env s) := by
  unfold execModRstN
  refine keepsOut_next ?_
  refine keeps_ite (fun _ => ?_) (fun _ => ?_)
  · exact keeps_coldReset h
  · exact h

theorem keeps_warmResetBy {o : State} {cause : Nat} {reach : Nat} {env : BootEnv} {s : State} (h : Keeps o s) :
    Keeps o (warmResetBy cause reach env s) := by
  unfold warmResetBy
  extract_lets +onlyGivenNames t1
  have ht1 : Keeps o t1 := by
    unfold t1
    refine keeps_flushNow ?_
    exact keeps_takeAll h
  try clear_value t1
  extract_lets +onlyGivenNames t2
  have ht2 : Keeps o t2 := by
    unfold t2
    refine keeps_foldl ?_ ?_
    · intro b4 y5 hb3
      refine keeps_ite (fun _ => ?_) (fun _ => ?_)
      · exact hb3
      · refine keeps_draw ?_
        exact keeps_killWave hb3
    · exact ht1
  try clear_value t2
  extract_lets +onlyGivenNames t6
  have ht6 : Keeps o t6 := by
    unfold t6
    refine keeps_mbxFinish ?_
    refine keeps_readoutEnds ?_
    exact keeps_endSessions ht2
  try clear_value t6
  extract_lets +onlyGivenNames t7
  have ht7 : Keeps o t7 := by
    unfold t7
    refine keeps_put ?_ Fld.ok_msrBootRcause
    refine keeps_warmState ?_
    exact keeps_raise ht6
  try clear_value t7
  exact keeps_romBoot ht7

theorem keeps_execWarmReset {o : State} {who : Fin 3} {key : BitVec 8} {warm : Bool} {env : BootEnv} {s : State} (h : Keeps o s) :
    KeepsOut o (execWarmReset who key warm env s) := by
  unfold execWarmReset
  refine keepsOut_ite (fun _ => ?_) (fun _ => ?_)
  · refine keepsOut_next ?_
    exact h
  · refine keepsOut_next ?_
    exact keeps_warmResetBy h

theorem keeps_execWatchdogExpiry {o : State} {reach : Fin 4} {env : BootEnv} {s : State} (h : Keeps o s) :
    KeepsOut o (execWatchdogExpiry reach env s) := by
  unfold execWatchdogExpiry
  refine keepsOut_ite (fun _ => ?_) (fun _ => ?_)
  · refine keepsOut_next ?_
    exact h
  · extract_lets +onlyGivenNames x1; try clear_value x1
    refine keepsOut_next ?_
    refine keeps_warmResetBy ?_
    refine keeps_raise ?_
    exact keeps_put h Fld.ok_msrBootWdcount

theorem keeps_execRecoveryGo {o : State} {env : BootEnv} {s : State} (h : Keeps o s) :
    KeepsOut o (execRecoveryGo env s) := by
  unfold execRecoveryGo
  refine keepsOut_ite (fun _ => ?_) (fun _ => ?_)
  · refine keepsOut_next ?_
    exact h
  · extract_lets +onlyGivenNames x1; try clear_value x1
    extract_lets +onlyGivenNames x2; try clear_value x2
    extract_lets +onlyGivenNames t3
    have ht3 : Keeps o t3 := by
      unfold t3
      refine keeps_raise ?_
      refine keeps_setDebug ?_
      exact keeps_measure h
    try clear_value t3
    refine keepsOut_next ?_
    exact keeps_stageOne ht3

theorem keeps_pcieReset {o : State} {fn : Nat} {s : State} (h : Keeps o s) :
    Keeps o (pcieReset fn s) := by
  unfold pcieReset
  exact keeps_clearFlds h

theorem keeps_doeReset {o : State} {s : State} (h : Keeps o s) :
    Keeps o (doeReset s) := by
  unfold doeReset
  exact keeps_endSessions h

theorem keeps_execPerst {o : State} {s : State} (h : Keeps o s) :
    KeepsOut o (execPerst s) := by
  unfold execPerst
  refine keepsOut_next ?_
  refine keeps_doeReset ?_
  refine keeps_foldl ?_ ?_
  · intro b2 y3 hb1
    exact keeps_pcieReset hb1
  · exact h

theorem keeps_lateKill {o : State} {ch : Nat} {s : State} (h : Keeps o s) :
    Keeps o (lateKill ch s) := by
  unfold lateKill
  extract_lets +onlyGivenNames x1; try clear_value x1
  extract_lets +onlyGivenNames t2
  have ht2 : Keeps o t2 := by
    unfold t2
    refine keeps_foldl ?_ ?_
    · intro b4 y5 hb3
      refine keeps_draw ?_
      refine keeps_forcedSweep ?_
      refine keeps_raise ?_
      exact keeps_put hb3 Fld.ok_killPass
    · exact h
  try clear_value t2
  refine keeps_ite (fun _ => ?_) (fun _ => ?_)
  · refine keeps_killUnits ?_
    exact keeps_put ht2 Fld.ok_killDue
  · exact ht2

theorem keeps_resetChannel {o : State} {ch : Nat} {s : State} (h : Keeps o s) :
    Keeps o (resetChannel ch s) := by
  unfold resetChannel
  refine keeps_ite (fun _ => ?_) (fun _ => ?_)
  · refine keeps_leaveFrozen ?_
    refine keeps_channelReset ?_
    refine keeps_lateKill ?_
    exact keeps_clrBit h Fld.ok_frzStatChfrozen
  · refine keeps_ite (fun _ => ?_) (fun _ => ?_)
    · exact h
    · exact keeps_channelReset h

theorem keeps_execChRst {o : State} {ch : Chan} {s : State} (h : Keeps o s) :
    KeepsOut o (execChRst ch s) := by
  unfold execChRst
  extract_lets +onlyGivenNames x1; try clear_value x1
  refine keepsOut_next ?_
  refine keeps_ite (fun _ => ?_) (fun _ => ?_)
  · exact h
  · exact keeps_resetChannel h

theorem keeps_execFlr {o : State} {fn : Fin 9} {s : State} (h : Keeps o s) :
    KeepsOut o (execFlr fn s) := by
  unfold execFlr
  extract_lets +onlyGivenNames t1
  have ht1 : Keeps o t1 := by
    unfold t1
    exact keeps_pcieReset h
  try clear_value t1
  refine keepsOut_next ?_
  refine keeps_ite (fun _ => ?_) (fun _ => ?_)
  · exact keeps_doeReset ht1
  · exact keeps_resetChannel ht1

theorem keeps_execFwProgram {o : State} {image : BitVec 3} {slot : Bool} {offset : BitVec 12} {s : State} (h : Keeps o s) :
    KeepsOut o (execFwProgram image slot offset s) := by
  unfold execFwProgram
  extract_lets +onlyGivenNames x1; try clear_value x1
  extract_lets +onlyGivenNames x2; try clear_value x2
  refine keepsOut_ite (fun _ => ?_) (fun _ => ?_)
  · refine keepsOut_next ?_
    exact h
  · extract_lets +onlyGivenNames t3
    have ht3 : Keeps o t3 := by
      unfold t3
      refine keeps_put ?_ Fld.ok_msrFwCmdOffset
      refine keeps_put ?_ Fld.ok_msrFwCmdSlot
      exact keeps_put h Fld.ok_msrFwCmdImage
    try clear_value t3
    refine keepsOut_ite (fun _ => ?_) (fun _ => ?_)
    · refine keepsOut_next ?_
      exact ht3
    · refine keepsOut_ite (fun _ => ?_) (fun _ => ?_)
      · refine keepsOut_next ?_
        exact keeps_put ht3 Fld.ok_msrFwStatResult
      · extract_lets +onlyGivenNames t4
        have ht4 : Keeps o t4 := by
          unfold t4
          refine keeps_put ?_ Fld.ok_fwJobOffset
          refine keeps_put ?_ Fld.ok_fwJobSlot
          exact keeps_put ht3 Fld.ok_fwJobImage
        try clear_value t4
        refine keepsOut_next ?_
        refine keeps_put ?_ Fld.ok_msrFwStatBusy
        exact keeps_put ht4 Fld.ok_fwJobLen

theorem keeps_execFwProgramDone {o : State} {result : Fin 4} {s : State} (h : Keeps o s) :
    KeepsOut o (execFwProgramDone result s) := by
  unfold execFwProgramDone
  refine keepsOut_ite (fun _ => ?_) (fun _ => ?_)
  · refine keepsOut_next ?_
    exact h
  · extract_lets +onlyGivenNames x1; try clear_value x1
    extract_lets +onlyGivenNames x2; try clear_value x2
    extract_lets +onlyGivenNames x3; try clear_value x3
    extract_lets +onlyGivenNames x4; try clear_value x4
    extract_lets +onlyGivenNames x5; try clear_value x5
    extract_lets +onlyGivenNames x6; try clear_value x6
    extract_lets +onlyGivenNames x7; try clear_value x7
    extract_lets +onlyGivenNames x8; try clear_value x8
    extract_lets +onlyGivenNames t9
    have ht9 : Keeps o t9 := by
      unfold t9
      refine keeps_put ?_ Fld.ok_msrFwStatResult
      refine keeps_put ?_ Fld.ok_msrFwStatBusy
      refine keeps_draw ?_
      exact keeps_setBytes h
    try clear_value t9
    extract_lets +onlyGivenNames x10; try clear_value x10
    refine keepsOut_next ?_
    refine keeps_mgCause ?_
    refine keeps_ite (fun _ => ?_) (fun _ => ?_)
    · exact keeps_raise ht9
    · exact ht9

theorem keeps_execJtagDebugInstruction {o : State} {op : BitVec 8} {s : State} (h : Keeps o s) :
    KeepsOut o (execJtagDebugInstruction op s) := by
  unfold execJtagDebugInstruction
  refine keepsOut_ite (fun _ => ?_) (fun _ => ?_)
  · refine keepsOut_next ?_
    exact h
  · refine keepsOut_next ?_
    refine keeps_foldl ?_ ?_
    · intro b2 y3 hb1
      refine keeps_ite (fun _ => ?_) (fun _ => ?_)
      · refine keeps_draw ?_
        exact keeps_killWave hb1
      · exact hb1
    · exact keeps_setDebug h

end Sys2Proof.Machine
end

