-- ==== Sys2Proof/Laws/KeepsControl.lean ====
section
/-!
SUPPORT. The operations of Machine/Control.lean keep what Keeps says.
-/
namespace Sys2Proof.Machine

theorem keeps_execNop {o : State} {core : CoreId} {extra : BitVec 16} {s : State} (h : Keeps o s) :
    KeepsOut o (execNop core extra s) := by
  unfold execNop
  refine keeps_issue h ?_
  intro y1 hy2
  exact keeps_retire hy2

theorem keeps_execJmp {o : State} {core : CoreId} {cond : BitVec 4} {gs : BitVec 5} {target : BitVec 13} {s : State} (h : Keeps o s) :
    KeepsOut o (execJmp core cond gs target s) := by
  unfold execJmp
  extract_lets +onlyGivenNames x1; try clear_value x1
  refine keeps_issue h ?_
  intro y2 hy3
  extract_lets +onlyGivenNames t4
  have ht4 : Keeps o t4 := by
    unfold t4
    exact keeps_stallG hy3
  try clear_value t4
  refine keeps_ite (fun _ => ?_) (fun _ => ?_)
  · exact keeps_havoc ht4
  · refine keeps_ite (fun _ => ?_) (fun _ => ?_)
    · exact keeps_retire ht4
    · refine keeps_ite (fun _ => ?_) (fun _ => ?_)
      · exact keeps_havoc ht4
      · exact keeps_retireTo ht4

theorem keeps_execLoop {o : State} {core : CoreId} {src : Bool} {gs : BitVec 5} {count : BitVec 16} {last : BitVec 13} {s : State} (h : Keeps o s) :
    KeepsOut o (execLoop core src gs count last s) := by
  unfold execLoop
  extract_lets +onlyGivenNames x1; try clear_value x1
  refine keeps_issue h ?_
  intro y2 hy3
  extract_lets +onlyGivenNames t4
  have ht4 : Keeps o t4 := by
    unfold t4
    exact keeps_stallG hy3
  try clear_value t4
  extract_lets +onlyGivenNames x5; try clear_value x5
  extract_lets +onlyGivenNames x6; try clear_value x6
  extract_lets +onlyGivenNames x7; try clear_value x7
  extract_lets +onlyGivenNames x8; try clear_value x8
  extract_lets +onlyGivenNames x9; try clear_value x9
  refine keeps_ite (fun _ => ?_) (fun _ => ?_)
  · exact keeps_havoc ht4
  · refine keeps_ite (fun _ => ?_) (fun _ => ?_)
    · refine keeps_clockBoundary ?_
      refine keeps_afterLoop ?_
      exact keeps_pass ht4
    · extract_lets +onlyGivenNames t10
      have ht10 : Keeps o t10 := by
        unfold t10
        refine keeps_put ?_ Fld.ok_coreLoopIdx
        refine keeps_put ?_ Fld.ok_coreLoopCount
        refine keeps_put ?_ Fld.ok_coreLoopLast
        exact keeps_put ht4 Fld.ok_coreLoopStart
      try clear_value t10
      refine keeps_retireTo ?_
      exact keeps_put ht10 Fld.ok_coreStatLdepth

theorem keeps_execReplay {o : State} {core : CoreId} {src : Bool} {gs : BitVec 5} {start : BitVec 13} {len : BitVec 13} {count : BitVec 20} {s : State} (h : Keeps o s) :
    KeepsOut o (execReplay core src gs start len count s) := by
  unfold execReplay
  extract_lets +onlyGivenNames x1; try clear_value x1
  refine keeps_issue h ?_
  intro y2 hy3
  extract_lets +onlyGivenNames t4
  have ht4 : Keeps o t4 := by
    unfold t4
    exact keeps_stallG hy3
  try clear_value t4
  extract_lets +onlyGivenNames x5; try clear_value x5
  refine keeps_ite (fun _ => ?_) (fun _ => ?_)
  · exact keeps_havoc ht4
  · refine keeps_ite (fun _ => ?_) (fun _ => ?_)
    · exact keeps_retire ht4
    · extract_lets +onlyGivenNames t6
      have ht6 : Keeps o t6 := by
        unfold t6
        refine keeps_put ?_ Fld.ok_coreStatInreplay
        refine keeps_put ?_ Fld.ok_coreRepRet
        refine keeps_put ?_ Fld.ok_coreRepIdx
        refine keeps_put ?_ Fld.ok_coreRepCount
        refine keeps_put ?_ Fld.ok_coreRepLen
        exact keeps_put ht4 Fld.ok_coreRepStart
      try clear_value t6
      exact keeps_retireTo ht6

theorem keeps_execPatchSet {o : State} {core : CoreId} {pd : BitVec 6} {src : SrcB} {s : State} (h : Keeps o s) :
    KeepsOut o (execPatchSet core pd src s) := by
  unfold execPatchSet
  extract_lets +onlyGivenNames x1; try clear_value x1
  refine keeps_issue h ?_
  intro y2 hy3
  extract_lets +onlyGivenNames t4
  have ht4 : Keeps o t4 := by
    unfold t4
    exact keeps_stallG hy3
  try clear_value t4
  refine keeps_retire ?_
  exact keeps_setP ht4

theorem keeps_execPatchAdd {o : State} {core : CoreId} {pd : BitVec 6} {src : SrcB} {s : State} (h : Keeps o s) :
    KeepsOut o (execPatchAdd core pd src s) := by
  unfold execPatchAdd
  extract_lets +onlyGivenNames x1; try clear_value x1
  refine keeps_issue h ?_
  intro y2 hy3
  extract_lets +onlyGivenNames t4
  have ht4 : Keeps o t4 := by
    unfold t4
    exact keeps_stallG hy3
  try clear_value t4
  refine keeps_retire ?_
  exact keeps_setP ht4

theorem keeps_execPatchArm {o : State} {core : CoreId} {pd : BitVec 6} {ps : BitVec 6} {slot : BitVec 3} {s : State} (h : Keeps o s) :
    KeepsOut o (execPatchArm core pd ps slot s) := by
  unfold execPatchArm
  extract_lets +onlyGivenNames x1; try clear_value x1
  refine keeps_issue h ?_
  intro y2 hy3
  refine keeps_retire ?_
  refine keeps_put ?_ Fld.ok_corePatchPs
  refine keeps_put ?_ Fld.ok_corePatchPd
  exact keeps_put hy3 Fld.ok_corePatchArm

theorem keeps_execPatchClr {o : State} {core : CoreId} {s : State} (h : Keeps o s) :
    KeepsOut o (execPatchClr core s) := by
  unfold execPatchClr
  extract_lets +onlyGivenNames x1; try clear_value x1
  refine keeps_issue h ?_
  intro y2 hy3
  refine keeps_retire ?_
  refine keeps_foldl ?_ ?_
  · intro b5 y6 hb4
    exact keeps_put hb4 Fld.ok_corePatchArm
  · exact hy3

theorem keeps_execHalt {o : State} {core : CoreId} {code : BitVec 16} {s : State} (h : Keeps o s) :
    KeepsOut o (execHalt core code s) := by
  unfold execHalt
  extract_lets +onlyGivenNames x1; try clear_value x1
  refine keeps_issue h ?_
  intro y2 hy3
  extract_lets +onlyGivenNames t4
  have ht4 : Keeps o t4 := by
    unfold t4
    refine keeps_endSeg ?_
    refine keeps_coreHalt ?_
    exact keeps_pass hy3
  try clear_value t4
  exact keeps_raise ht4

theorem keeps_execReservedOpcode {o : State} {core : CoreId} {major : BitVec 6} {minor : BitVec 6} {s : State} (h : Keeps o s) :
    KeepsOut o (execReservedOpcode core major minor s) := by
  unfold execReservedOpcode
  extract_lets +onlyGivenNames x1; try clear_value x1
  refine keeps_issue h ?_
  intro y2 hy3
  refine keeps_ite (fun _ => ?_) (fun _ => ?_)
  · extract_lets +onlyGivenNames t4
    have ht4 : Keeps o t4 := by
      unfold t4
      refine keeps_endSeg ?_
      refine keeps_coreHalt ?_
      exact keeps_pass hy3
    try clear_value t4
    exact keeps_raise ht4
  · exact keeps_havoc hy3

theorem keeps_setClk {o : State} {c : Nat} {v : Nat} {s : State} (h : Keeps o s) :
    Keeps o (setClk c v s) := by
  unfold setClk
  refine keeps_ite (fun _ => ?_) (fun _ => ?_)
  · refine keeps_detCause ?_
    refine keeps_put ?_ Fld.ok_coreStatOnfic
    exact keeps_put h Fld.ok_coreClkPend
  · refine keeps_ite (fun _ => ?_) (fun _ => ?_)
    · exact keeps_put h Fld.ok_coreClkPend
    · exact h

theorem unitFields_ok {u : Nat} {f : Fld} {w : Nat → Nat} (h : unitFields u = some (f, w)) : f.Ok := by
  unfold unitFields at h
  split at h <;> cases h <;> simp

theorem keeps_execCfg {o : State} {core : CoreId} {unit : BitVec 4} {fld : BitVec 8} {src : CfgSrc} {s : State} (h : Keeps o s) :
    KeepsOut o (execCfg core unit fld src s) := by
  unfold execCfg
  extract_lets c u i
  refine keeps_issue h fun y hy => ?_
  extract_lets t
  have ht : Keeps o t := keeps_stallG hy
  clear_value t
  split
  · rename_i f w v e1 e2
    extract_lets x t1
    have h1 : Keeps o t1 := keeps_put ht (unitFields_ok e1)
    exact keeps_ite (fun _ => keeps_havoc ht) (fun _ => keeps_retire (keeps_ite (fun _ => keeps_setClk h1) (fun _ => h1)))
  · exact keeps_havoc ht

end Sys2Proof.Machine
end

