-- ==== Sys2Proof/Laws/KeepsPanel.lean ====
section
/-!
SUPPORT. The operations of Machine/Panel.lean keep what Keeps says.
-/
namespace Sys2Proof.Machine

theorem keeps_setRmv {o : State} {v : Nat} {s : State} (h : Keeps o s) :
    Keeps o (setRmv v s) := by
  unfold setRmv
  refine keeps_ite (fun _ => ?_) (fun _ => ?_)
  · exact h
  · refine keeps_sensor ?_
    exact keeps_put h Fld.ok_fpnStatRmv

theorem keeps_panelEvent {o : State} {code : Nat} {src : Nat} {s : State} (h : Keeps o s) :
    Keeps o (panelEvent code src s) := by
  unfold panelEvent
  refine keeps_mgCause ?_
  exact keeps_raise h

theorem keeps_requestModule {o : State} {src : Nat} {s : State} (h : Keeps o s) :
    Keeps o (requestModule src s) := by
  unfold requestModule
  extract_lets +onlyGivenNames x1; try clear_value x1
  refine keeps_ite (fun _ => ?_) (fun _ => ?_)
  · exact h
  · extract_lets +onlyGivenNames t2
    have ht2 : Keeps o t2 := by
      unfold t2
      refine keeps_put ?_ Fld.ok_rmvStep
      exact keeps_setRmv h
    try clear_value t2
    extract_lets +onlyGivenNames t3
    have ht3 : Keeps o t3 := by
      unfold t3
      refine keeps_put ?_ Fld.ok_fpnStatView
      refine keeps_put ?_ Fld.ok_fpnStatPage
      exact keeps_put ht2 Fld.ok_fpnStatDisp
    try clear_value t3
    refine keeps_alert ?_
    exact keeps_panelEvent ht3

theorem keeps_cancelModule {o : State} {src : Nat} {s : State} (h : Keeps o s) :
    Keeps o (cancelModule src s) := by
  unfold cancelModule
  refine keeps_ite (fun _ => ?_) (fun _ => ?_)
  · refine keeps_panelEvent ?_
    exact keeps_setRmv h
  · exact h

theorem keeps_execFpnRmvReq {o : State} {s : State} (h : Keeps o s) :
    KeepsOut o (execFpnRmvReq s) := by
  unfold execFpnRmvReq
  refine keepsOut_next ?_
  refine keeps_ite (fun _ => ?_) (fun _ => ?_)
  · exact keeps_requestModule h
  · exact h

theorem keeps_execFpnRmvSafe {o : State} {s : State} (h : Keeps o s) :
    KeepsOut o (execFpnRmvSafe s) := by
  unfold execFpnRmvSafe
  refine keepsOut_next ?_
  refine keeps_ite (fun _ => ?_) (fun _ => ?_)
  · exact keeps_setRmv h
  · exact h

theorem keeps_execFpnRmvDeny {o : State} {s : State} (h : Keeps o s) :
    KeepsOut o (execFpnRmvDeny s) := by
  unfold execFpnRmvDeny
  refine keepsOut_next ?_
  refine keeps_ite (fun _ => ?_) (fun _ => ?_)
  · refine keeps_panelEvent ?_
    exact keeps_setRmv h
  · exact h

theorem keeps_execFpnRmvCancel {o : State} {s : State} (h : Keeps o s) :
    KeepsOut o (execFpnRmvCancel s) := by
  unfold execFpnRmvCancel
  refine keepsOut_next ?_
  refine keeps_ite (fun _ => ?_) (fun _ => ?_)
  · exact keeps_cancelModule h
  · exact h

theorem keeps_execDeniedTimeout {o : State} {s : State} (h : Keeps o s) :
    KeepsOut o (execDeniedTimeout s) := by
  unfold execDeniedTimeout
  refine keepsOut_next ?_
  refine keeps_ite (fun _ => ?_) (fun _ => ?_)
  · exact keeps_setRmv h
  · exact h

theorem keeps_retireLink {o : State} {l : Nat} {s : State} (h : Keeps o s) :
    Keeps o (retireLink l s) := by
  unfold retireLink
  refine keeps_ite (fun _ => ?_) (fun _ => ?_)
  · exact keeps_beginRetire h
  · exact h

theorem keeps_requestCage {o : State} {cage : Nat} {s : State} (h : Keeps o s) :
    Keeps o (requestCage cage s) := by
  unfold requestCage
  extract_lets +onlyGivenNames t1
  have ht1 : Keeps o t1 := by
    unfold t1
    refine keeps_alert ?_
    refine keeps_panelEvent ?_
    exact keeps_put h Fld.ok_fpnCageRreq
  try clear_value t1
  refine keeps_ite (fun _ => ?_) (fun _ => ?_)
  · refine keeps_foldl ?_ ?_
    · intro b3 y4 hb2
      exact keeps_retireLink hb2
    · exact ht1
  · exact ht1

theorem keeps_execAttnPress {o : State} {s : State} (h : Keeps o s) :
    KeepsOut o (execAttnPress s) := by
  unfold execAttnPress
  refine keepsOut_next ?_
  refine keeps_ite (fun _ => ?_) (fun _ => ?_)
  · exact h
  · split
    · exact keeps_requestCage h
    · exact keeps_requestModule h

theorem keeps_execAttnHold {o : State} {s : State} (h : Keeps o s) :
    KeepsOut o (execAttnHold s) := by
  unfold execAttnHold
  refine keepsOut_next ?_
  refine keeps_ite (fun _ => ?_) (fun _ => ?_)
  · exact h
  · split
    · refine keeps_ite (fun _ => ?_) (fun _ => ?_)
      · refine keeps_panelEvent ?_
        exact keeps_put h Fld.ok_fpnCageRreq
      · exact h
    · exact keeps_cancelModule h

theorem keeps_drainStep {o : State} {timedOut : Bool} {s t : State} (h : Keeps o s) (ht : drainStep timedOut s = some t) :
    Keeps o t := by
  unfold drainStep at ht
  extract_lets k on l ch st at ht
  have hon : ∀ t, Keeps o t → Keeps o (on t) := fun _ h => keeps_put h Fld.ok_rmvStep
  clear_value on
  repeat' split at ht
  all_goals first | (obtain rfl := Option.some.inj ht) | exact absurd ht (Option.some_ne_none _).symm
  · exact hon _ (keeps_foldl (fun _ _ h => keeps_put h Fld.ok_sveChAdmit) h)
  · exact hon _ h
  · exact hon _ h
  · exact keeps_retireLink h
  · exact hon _ h
  · exact keeps_enterDoze (keeps_channelReset h)
  · exact keeps_setRmv h

theorem keeps_drainOn {o : State} {timedOut : Bool} {n : Nat} {s : State} (h : Keeps o s) :
    Keeps o (drainOn timedOut n s) := by
  induction n generalizing s with
  | zero => exact h
  | succ n ih =>
    unfold drainOn
    split
    · rename_i t ht
      exact ih (keeps_drainStep h ht)
    · exact h

theorem keeps_execRemovalDrain {o : State} {timedOut : Bool} {s : State} (h : Keeps o s) :
    KeepsOut o (execRemovalDrain timedOut s) := by
  unfold execRemovalDrain
  refine keepsOut_next ?_
  refine keeps_ite (fun _ => ?_) (fun _ => ?_)
  · exact keeps_drainOn h
  · exact h

theorem keeps_execPageTouch {o : State} {s : State} (h : Keeps o s) :
    KeepsOut o (execPageTouch s) := by
  unfold execPageTouch
  extract_lets +onlyGivenNames x1; try clear_value x1
  extract_lets +onlyGivenNames x2; try clear_value x2
  refine keepsOut_next ?_
  refine keeps_ite (fun _ => ?_) (fun _ => ?_)
  · exact h
  · refine keeps_ite (fun _ => ?_) (fun _ => ?_)
    · refine keeps_put ?_ Fld.ok_fpnStatView
      refine keeps_put ?_ Fld.ok_fpnStatPage
      exact keeps_put h Fld.ok_fpnStatDisp
    · refine keeps_ite (fun _ => ?_) (fun _ => ?_)
      · exact keeps_put h Fld.ok_fpnStatView
      · refine keeps_put ?_ Fld.ok_fpnStatView
        exact keeps_put h Fld.ok_fpnStatPage

theorem keeps_execPageHold {o : State} {s : State} (h : Keeps o s) :
    KeepsOut o (execPageHold s) := by
  unfold execPageHold
  refine keepsOut_next ?_
  refine keeps_ite (fun _ => ?_) (fun _ => ?_)
  · exact keeps_put h Fld.ok_fpnStatDisp
  · exact h

theorem keeps_execDisplayTimeout {o : State} {s : State} (h : Keeps o s) :
    KeepsOut o (execDisplayTimeout s) := by
  unfold execDisplayTimeout
  extract_lets +onlyGivenNames x1; try clear_value x1
  refine keepsOut_next ?_
  refine keeps_ite (fun _ => ?_) (fun _ => ?_)
  · exact keeps_put h Fld.ok_fpnStatDisp
  · exact h

theorem keeps_execLatchChange {o : State} {closed : Bool} {s : State} (h : Keeps o s) :
    KeepsOut o (execLatchChange closed s) := by
  unfold execLatchChange
  extract_lets +onlyGivenNames x1; try clear_value x1
  refine keepsOut_ite (fun _ => ?_) (fun _ => ?_)
  · refine keepsOut_next ?_
    exact h
  · extract_lets +onlyGivenNames t2
    have ht2 : Keeps o t2 := by
      unfold t2
      exact keeps_put h Fld.ok_fpnStatLatch
    try clear_value t2
    refine keepsOut_next ?_
    refine keeps_ite (fun _ => ?_) (fun _ => ?_)
    · refine keeps_mgCause ?_
      exact keeps_raise ht2
    · exact ht2

theorem keeps_readClass {o : State} {cage : Nat} {watts : Nat} {s : State} (h : Keeps o s) :
    Keeps o (readClass cage watts s) := by
  unfold readClass
  extract_lets +onlyGivenNames x1; try clear_value x1
  extract_lets +onlyGivenNames t2
  have ht2 : Keeps o t2 := by
    unfold t2
    refine keeps_put ?_ Fld.ok_fpnCageOverclass
    refine keeps_put ?_ Fld.ok_fpnCageHighpwr
    exact keeps_put h Fld.ok_fpnCagePwrW
  try clear_value t2
  refine keeps_ite (fun _ => ?_) (fun _ => ?_)
  · exact ht2
  · exact keeps_raise ht2

theorem keeps_emptyCage {o : State} {cage : Nat} {s : State} (h : Keeps o s) :
    Keeps o (emptyCage cage s) := by
  unfold emptyCage
  refine keeps_put ?_ Fld.ok_fpnCagePwrW
  refine keeps_put ?_ Fld.ok_fpnCageOverclass
  refine keeps_put ?_ Fld.ok_fpnCageHighpwr
  exact keeps_put h Fld.ok_fpnCagePresent

theorem keeps_execOsfpCageChange {o : State} {cage : Fin 6} {present : Bool} {pwr : BitVec 8} {s : State} (h : Keeps o s) :
    KeepsOut o (execOsfpCageChange cage present pwr s) := by
  unfold execOsfpCageChange
  extract_lets +onlyGivenNames x1; try clear_value x1
  refine keepsOut_ite (fun _ => ?_) (fun _ => ?_)
  · refine keepsOut_next ?_
    exact h
  · refine keepsOut_ite (fun _ => ?_) (fun _ => ?_)
    · refine keepsOut_next ?_
      exact keeps_put h Fld.ok_fpnCagePresent
    · extract_lets +onlyGivenNames t2
      have ht2 : Keeps o t2 := by
        unfold t2
        refine keeps_ite (fun _ => ?_) (fun _ => ?_)
        · refine keeps_readClass ?_
          exact keeps_put h Fld.ok_fpnCagePresent
        · exact keeps_emptyCage h
      try clear_value t2
      refine keepsOut_next ?_
      refine keeps_foldl ?_ ?_
      · intro b4 y5 hb3
        refine keeps_ite (fun _ => ?_) (fun _ => ?_)
        · refine keeps_linkStart ?_
          refine keeps_raise ?_
          exact keeps_put hb3 Fld.ok_lnkStatCable
        · refine keeps_linkLost ?_
          exact keeps_raise hb3
      · exact ht2

theorem keeps_execQsfpCageChange {o : State} {port : BitVec 1} {present : Bool} {pwr : BitVec 8} {s : State} (h : Keeps o s) :
    KeepsOut o (execQsfpCageChange port present pwr s) := by
  unfold execQsfpCageChange
  extract_lets +onlyGivenNames x1; try clear_value x1
  extract_lets +onlyGivenNames x2; try clear_value x2
  refine keepsOut_ite (fun _ => ?_) (fun _ => ?_)
  · refine keepsOut_next ?_
    exact h
  · extract_lets +onlyGivenNames t3
    have ht3 : Keeps o t3 := by
      unfold t3
      refine keeps_ite (fun _ => ?_) (fun _ => ?_)
      · exact keeps_put h Fld.ok_fpnCagePresent
      · refine keeps_put ?_ Fld.ok_pcsLock
        exact keeps_emptyCage h
    try clear_value t3
    refine keepsOut_ite (fun _ => ?_) (fun _ => ?_)
    · refine keepsOut_next ?_
      exact ht3
    · extract_lets +onlyGivenNames t4
      have ht4 : Keeps o t4 := by
        unfold t4
        exact keeps_raise ht3
      try clear_value t4
      refine keepsOut_next ?_
      refine keeps_ite (fun _ => ?_) (fun _ => ?_)
      · exact keeps_readClass ht4
      · exact ht4

theorem keeps_execPcsLockChange {o : State} {port : BitVec 1} {lock : Bool} {s : State} (h : Keeps o s) :
    KeepsOut o (execPcsLockChange port lock s) := by
  unfold execPcsLockChange
  extract_lets +onlyGivenNames x1; try clear_value x1
  refine keepsOut_next ?_
  refine keeps_ite (fun _ => ?_) (fun _ => ?_)
  · refine keeps_ite (fun _ => ?_) (fun _ => ?_)
    · exact keeps_put h Fld.ok_pcsLock
    · exact h
  · exact keeps_put h Fld.ok_pcsLock

theorem keeps_execCageAlarm {o : State} {cage : Fin 8} {flags : BitVec 8} {pwr : Option (BitVec 8)} {s : State} (h : Keeps o s) :
    KeepsOut o (execCageAlarm cage flags pwr s) := by
  unfold execCageAlarm
  extract_lets +onlyGivenNames x1; try clear_value x1
  refine keepsOut_ite (fun _ => ?_) (fun _ => ?_)
  · refine keepsOut_next ?_
    exact h
  · extract_lets +onlyGivenNames t2
    have ht2 : Keeps o t2 := by
      unfold t2
      split
      · exact keeps_readClass h
      · exact h
    try clear_value t2
    refine keepsOut_next ?_
    refine keeps_ite (fun _ => ?_) (fun _ => ?_)
    · exact ht2
    · refine keeps_alert ?_
      refine keeps_raise ?_
      exact keeps_put ht2 Fld.ok_fpnCageAlarm

theorem keeps_execInputLoss {o : State} {presence : Bool} {mv : BitVec 16} {s : State} (h : Keeps o s) :
    KeepsOut o (execInputLoss presence mv s) := by
  unfold execInputLoss
  refine keepsOut_ite (fun _ => ?_) (fun _ => ?_)
  · refine keepsOut_next ?_
    exact h
  · extract_lets +onlyGivenNames t1
    have ht1 : Keeps o t1 := by
      unfold t1
      refine keeps_inc ?_ Fld.ok_fpnPwrLosses
      refine keeps_put ?_ Fld.ok_inLostAt
      refine keeps_put ?_ Fld.ok_inLost
      exact keeps_put h Fld.ok_fpnPwrVin
    try clear_value t1
    extract_lets +onlyGivenNames t2
    have ht2 : Keeps o t2 := by
      unfold t2
      refine keeps_takeAll ?_
      refine keeps_alert ?_
      exact keeps_raise ht1
    try clear_value t2
    refine keepsOut_next ?_
    refine keeps_readoutEnds ?_
    refine keeps_put ?_ Fld.ok_evrFlushIn
    exact keeps_flush ht2

theorem keeps_bankLow {o : State} {s : State} (h : Keeps o s) :
    Keeps o (bankLow s) := by
  unfold bankLow
  extract_lets +onlyGivenNames t1
  have ht1 : Keeps o t1 := by
    unfold t1
    refine keeps_ite (fun _ => ?_) (fun _ => ?_)
    · refine keeps_put ?_ Fld.ok_evrStatFlushing
      exact keeps_recorderOff h
    · exact h
  try clear_value t1
  extract_lets +onlyGivenNames t2
  have ht2 : Keeps o t2 := by
    unfold t2
    refine keeps_foldl ?_ ?_
    · intro b4 y5 hb3
      exact keeps_tripChan hb3
    · exact keeps_put ht1 Fld.ok_compOff
  try clear_value t2
  refine keeps_foldl ?_ ?_
  · intro b7 y8 hb6
    refine keeps_draw ?_
    exact keeps_linkStop hb6
  · exact keeps_put ht2 Fld.ok_fpnPwrVbank

theorem keeps_execBankLow {o : State} {s : State} (h : Keeps o s) :
    KeepsOut o (execBankLow s) := by
  unfold execBankLow
  refine keepsOut_next ?_
  refine keeps_ite (fun _ => ?_) (fun _ => ?_)
  · exact keeps_bankLow h
  · exact h

theorem keeps_execBankExhausted {o : State} {s : State} (h : Keeps o s) :
    KeepsOut o (execBankExhausted s) := by
  unfold execBankExhausted
  refine keepsOut_ite (fun _ => ?_) (fun _ => ?_)
  · refine keepsOut_next ?_
    exact h
  · extract_lets +onlyGivenNames t1
    have ht1 : Keeps o t1 := by
      unfold t1
      refine keeps_ite (fun _ => ?_) (fun _ => ?_)
      · exact h
      · exact keeps_bankLow h
    try clear_value t1
    refine keepsOut_next ?_
    refine keeps_put ?_ Fld.ok_modOn
    refine keeps_put ?_ Fld.ok_fpnPwrVbank
    exact keeps_recorderOff ht1

theorem keeps_execInputRestore {o : State} {mv : BitVec 16} {env : BootEnv} {s : State} (h : Keeps o s) :
    KeepsOut o (execInputRestore mv env s) := by
  unfold execInputRestore
  refine keepsOut_ite (fun _ => ?_) (fun _ => ?_)
  · refine keepsOut_next ?_
    exact h
  · extract_lets +onlyGivenNames t1
    have ht1 : Keeps o t1 := by
      unfold t1
      refine keeps_put ?_ Fld.ok_fpnPwrVin
      exact keeps_put h Fld.ok_inLost
    try clear_value t1
    refine keepsOut_ite (fun _ => ?_) (fun _ => ?_)
    · refine keepsOut_next ?_
      exact keeps_coldReset ht1
    · refine keepsOut_ite (fun _ => ?_) (fun _ => ?_)
      · refine keepsOut_next ?_
        exact ht1
      · refine keepsOut_next ?_
        refine keeps_raise ?_
        exact keeps_put ht1 Fld.ok_evrFlushIn

end Sys2Proof.Machine
end

