-- ==== Sys2Proof/Laws/KeepsMgmt.lean ====
section
/-!
SUPPORT. The operations of Machine/Mgmt.lean keep what Keeps says.
-/
namespace Sys2Proof.Machine

theorem keeps_spdmReply {o : State} {via : SpdmVia} {r : SpdmReply} {s : State} (h : Keeps o s) :
    Keeps o (spdmReply via r s) := by
  unfold spdmReply
  extract_lets +onlyGivenNames t1
  have ht1 : Keeps o t1 := by
    unfold t1
    exact keeps_emit h
  try clear_value t1
  split
  · extract_lets +onlyGivenNames x2; try clear_value x2
    extract_lets +onlyGivenNames t3
    have ht3 : Keeps o t3 := by
      unfold t3
      exact Keeps.upd ht1 (fun sh => { sh with attest := tsorted_filter _ sh.attest }) rfl rfl rfl
    try clear_value t3
    extract_lets +onlyGivenNames t4
    have ht4 : Keeps o t4 := by
      unfold t4
      exact keeps_put ht3 Fld.ok_lnkAttGot
    try clear_value t4
    refine keeps_draw ?_
    exact keeps_sendAttest ht4
  · exact ht1

theorem keeps_spdmRequest {o : State} {via : SpdmVia} {s : State} {k : State → State} (h : Keeps o s) (h3 : ∀ y1, Keeps o y1 → Keeps o (k y1)) :
    KeepsOut o (spdmRequest via s k) := by
  unfold spdmRequest
  split
  · refine keepsOut_next ?_
    refine keeps_ite (fun _ => ?_) (fun _ => ?_)
    · refine h3 _ ?_
      exact h
    · exact h
  · refine keepsOut_next ?_
    refine keeps_ite (fun _ => ?_) (fun _ => ?_)
    · refine h3 _ ?_
      exact h
    · exact h

theorem keeps_sessionRequest {o : State} {via : SpdmVia} {s : State} {k : State → State} (h : Keeps o s) (h3 : ∀ y1, Keeps o y1 → Keeps o (k y1)) :
    KeepsOut o (sessionRequest via s k) := by
  unfold sessionRequest
  refine keeps_spdmRequest h ?_
  intro y1 hy2
  split
  · exact keeps_spdmReply hy2
  · refine h3 _ ?_
    exact hy2

theorem keeps_execGetVersion {o : State} {via : SpdmVia} {s : State} (h : Keeps o s) :
    KeepsOut o (execGetVersion via s) := by
  unfold execGetVersion
  refine keeps_spdmRequest h ?_
  intro y1 hy2
  exact keeps_spdmReply hy2

theorem keeps_execGetCapabilities {o : State} {via : SpdmVia} {s : State} (h : Keeps o s) :
    KeepsOut o (execGetCapabilities via s) := by
  unfold execGetCapabilities
  refine keeps_spdmRequest h ?_
  intro y1 hy2
  exact keeps_spdmReply hy2

theorem keeps_execNegotiateAlgorithms {o : State} {via : SpdmVia} {offer : AlgOffer} {s : State} (h : Keeps o s) :
    KeepsOut o (execNegotiateAlgorithms via offer s) := by
  unfold execNegotiateAlgorithms
  extract_lets +onlyGivenNames x1; try clear_value x1
  refine keeps_spdmRequest h ?_
  intro y2 hy3
  exact keeps_spdmReply hy3

theorem keeps_execGetDigests {o : State} {via : SpdmVia} {s : State} (h : Keeps o s) :
    KeepsOut o (execGetDigests via s) := by
  unfold execGetDigests
  refine keeps_spdmRequest h ?_
  intro y1 hy2
  exact keeps_spdmReply hy2

theorem keeps_execGetCertificate {o : State} {via : SpdmVia} {slot : BitVec 4} {offset : BitVec 16} {length : BitVec 16} {s : State} (h : Keeps o s) :
    KeepsOut o (execGetCertificate via slot offset length s) := by
  unfold execGetCertificate
  refine keeps_spdmRequest h ?_
  intro y1 hy2
  extract_lets +onlyGivenNames x3; try clear_value x3
  refine keeps_ite (fun _ => ?_) (fun _ => ?_)
  · exact keeps_spdmReply hy2
  · extract_lets +onlyGivenNames x4; try clear_value x4
    exact keeps_spdmReply hy2

theorem keeps_execChallenge {o : State} {via : SpdmVia} {s : State} (h : Keeps o s) :
    KeepsOut o (execChallenge via s) := by
  unfold execChallenge
  refine keeps_spdmRequest h ?_
  intro y1 hy2
  refine keeps_draw ?_
  exact keeps_spdmReply hy2

theorem keeps_execGetMeasurements {o : State} {via : SpdmVia} {signed : Bool} {index : BitVec 8} {s : State} (h : Keeps o s) :
    KeepsOut o (execGetMeasurements via signed index s) := by
  unfold execGetMeasurements
  refine keeps_spdmRequest h ?_
  intro y1 hy2
  extract_lets +onlyGivenNames x3; try clear_value x3
  extract_lets +onlyGivenNames x4; try clear_value x4
  split
  · exact keeps_spdmReply hy2
  · refine keeps_draw ?_
    exact keeps_spdmReply hy2

theorem keeps_execKeyExchange {o : State} {via : SpdmVia} {s : State} (h : Keeps o s) :
    KeepsOut o (execKeyExchange via s) := by
  unfold execKeyExchange
  refine keeps_sessionRequest h ?_
  intro y1 hy2
  split
  · exact keeps_spdmReply hy2
  · extract_lets +onlyGivenNames t3
    have ht3 : Keeps o t3 := by
      unfold t3
      refine keeps_put ?_ Fld.ok_sesVia
      exact keeps_put hy2 Fld.ok_sesState
    try clear_value t3
    refine keeps_draw ?_
    exact keeps_spdmReply ht3

theorem keeps_inSession {o : State} {via : SpdmVia} {ses : BitVec 4} {p : Nat → Bool} {s : State} {k : State → State} (h : Keeps o s) (h5 : ∀ y1, Keeps o y1 → Keeps o (k y1)) :
    KeepsOut o (inSession via ses p s k) := by
  unfold inSession
  refine keeps_sessionRequest h ?_
  intro y1 hy2
  extract_lets +onlyGivenNames x3; try clear_value x3
  refine keeps_ite (fun _ => ?_) (fun _ => ?_)
  · refine h5 _ ?_
    exact hy2
  · exact keeps_spdmReply hy2

theorem keeps_execGetEncapsulatedRequest {o : State} {via : SpdmVia} {ses : BitVec 4} {s : State} (h : Keeps o s) :
    KeepsOut o (execGetEncapsulatedRequest via ses s) := by
  unfold execGetEncapsulatedRequest
  refine keeps_inSession h ?_
  intro y1 hy2
  refine keeps_spdmReply ?_
  exact keeps_put hy2 Fld.ok_sesAsk

theorem keeps_execDeliverEncapsulatedResponse {o : State} {via : SpdmVia} {ses : BitVec 4} {good : Bool} {leafKey : List (BitVec 8)} {s : State} (h : Keeps o s) :
    KeepsOut o (execDeliverEncapsulatedResponse via ses good leafKey s) := by
  unfold execDeliverEncapsulatedResponse
  extract_lets +onlyGivenNames x1; try clear_value x1
  refine keeps_inSession h ?_
  intro y2 hy3
  split
  · exact keeps_spdmReply hy3
  · refine keeps_spdmReply ?_
    exact keeps_put hy3 Fld.ok_sesAsk
  · refine keeps_ite (fun _ => ?_) (fun _ => ?_)
    · refine keeps_spdmReply ?_
      exact keeps_clearFlds hy3
    · extract_lets +onlyGivenNames t4
      have ht4 : Keeps o t4 := by
        unfold t4
        refine keeps_put ?_ Fld.ok_sesAsk
        exact keeps_put hy3 Fld.ok_sesState
      try clear_value t4
      refine keeps_spdmReply ?_
      exact keeps_put ht4 Fld.ok_sesOid

theorem keeps_execFinish {o : State} {via : SpdmVia} {ses : BitVec 4} {good : Bool} {s : State} (h : Keeps o s) :
    KeepsOut o (execFinish via ses good s) := by
  unfold execFinish
  extract_lets +onlyGivenNames x1; try clear_value x1
  refine keeps_inSession h ?_
  intro y2 hy3
  refine keeps_ite (fun _ => ?_) (fun _ => ?_)
  · refine keeps_spdmReply ?_
    exact keeps_clearFlds hy3
  · refine keeps_spdmReply ?_
    refine keeps_raise ?_
    exact keeps_put hy3 Fld.ok_sesState

theorem keeps_execEndSession {o : State} {via : SpdmVia} {ses : BitVec 4} {s : State} (h : Keeps o s) :
    KeepsOut o (execEndSession via ses s) := by
  unfold execEndSession
  refine keeps_inSession h ?_
  intro y1 hy2
  refine keeps_spdmReply ?_
  exact keeps_endSession hy2

theorem keeps_execHeartbeat {o : State} {via : SpdmVia} {ses : BitVec 4} {s : State} (h : Keeps o s) :
    KeepsOut o (execHeartbeat via ses s) := by
  unfold execHeartbeat
  refine keeps_inSession h ?_
  intro y1 hy2
  exact keeps_spdmReply hy2

theorem keeps_execKeyUpdate {o : State} {via : SpdmVia} {ses : BitVec 4} {s : State} (h : Keeps o s) :
    KeepsOut o (execKeyUpdate via ses s) := by
  unfold execKeyUpdate
  refine keeps_inSession h ?_
  intro y1 hy2
  exact keeps_spdmReply hy2

theorem keeps_execUnsupportedSpdmRequest {o : State} {via : SpdmVia} {s : State} (h : Keeps o s) :
    KeepsOut o (execUnsupportedSpdmRequest via s) := by
  unfold execUnsupportedSpdmRequest
  refine keeps_spdmRequest h ?_
  intro y1 hy2
  exact keeps_spdmReply hy2

theorem keeps_execDoeAbort {o : State} {s : State} (h : Keeps o s) :
    KeepsOut o (execDoeAbort s) := by
  unfold execDoeAbort
  refine keepsOut_next ?_
  exact h

theorem keeps_execDoeDiscovery {o : State} {index : BitVec 8} {s : State} (h : Keeps o s) :
    KeepsOut o (execDoeDiscovery index s) := by
  unfold execDoeDiscovery
  extract_lets +onlyGivenNames x1; try clear_value x1
  refine keepsOut_next ?_
  refine keeps_ite (fun _ => ?_) (fun _ => ?_)
  · exact h
  · refine keeps_ite (fun _ => ?_) (fun _ => ?_)
    · exact keeps_emit h
    · refine keeps_draw ?_
      refine keeps_draw ?_
      refine keeps_draw ?_
      exact keeps_emit h

theorem keeps_mctpReply {o : State} {r : MctpReply} {s : State} (h : Keeps o s) :
    KeepsOut o (mctpReply r s) := by
  unfold mctpReply
  refine keepsOut_next ?_
  refine keeps_ite (fun _ => ?_) (fun _ => ?_)
  · exact keeps_emit h
  · exact h

theorem keeps_execSetEndpointId {o : State} {eid : BitVec 8} {s : State} (h : Keeps o s) :
    KeepsOut o (execSetEndpointId eid s) := by
  unfold execSetEndpointId
  refine keepsOut_next ?_
  refine keeps_ite (fun _ => ?_) (fun _ => ?_)
  · refine keeps_emit ?_
    exact keeps_put h Fld.ok_mctpEid
  · exact h

theorem keeps_execGetEndpointId {o : State} {s : State} (h : Keeps o s) :
    KeepsOut o (execGetEndpointId s) := by
  unfold execGetEndpointId
  exact keeps_mctpReply h

theorem keeps_execGetMctpVersionSupport {o : State} {a1 : BitVec 8} {s : State} (h : Keeps o s) :
    KeepsOut o (execGetMctpVersionSupport a1 s) := by
  unfold execGetMctpVersionSupport
  refine keeps_mctpReply ?_
  exact keeps_draw h

theorem keeps_execGetMessageTypeSupport {o : State} {s : State} (h : Keeps o s) :
    KeepsOut o (execGetMessageTypeSupport s) := by
  unfold execGetMessageTypeSupport
  exact keeps_mctpReply h

theorem keeps_execGetVendorDefinedMessageSupport {o : State} {a1 : BitVec 8} {s : State} (h : Keeps o s) :
    KeepsOut o (execGetVendorDefinedMessageSupport a1 s) := by
  unfold execGetVendorDefinedMessageSupport
  refine keeps_mctpReply ?_
  exact keeps_draw h

theorem keeps_pldmReply {o : State} {r : PldmReply} {s : State} (h : Keeps o s) :
    KeepsOut o (pldmReply r s) := by
  unfold pldmReply
  refine keepsOut_next ?_
  refine keeps_ite (fun _ => ?_) (fun _ => ?_)
  · exact keeps_emit h
  · exact h

theorem keeps_pldmDo {o : State} {k : State → State} {s : State} (h1 : ∀ y1, Keeps o y1 → Keeps o (k y1)) (h : Keeps o s) :
    KeepsOut o (pldmDo k s) := by
  unfold pldmDo
  refine keepsOut_next ?_
  refine keeps_ite (fun _ => ?_) (fun _ => ?_)
  · refine keeps_emit ?_
    refine h1 _ ?_
    exact h
  · exact h

theorem keeps_execGetTid {o : State} {s : State} (h : Keeps o s) :
    KeepsOut o (execGetTid s) := by
  unfold execGetTid
  exact keeps_pldmReply h

theorem keeps_execSetTid {o : State} {tid : BitVec 8} {s : State} (h : Keeps o s) :
    KeepsOut o (execSetTid tid s) := by
  unfold execSetTid
  refine keeps_pldmDo ?_ h
  intro y1 hy2
  exact keeps_put hy2 Fld.ok_pldmTid

theorem keeps_execGetPldmVersion {o : State} {a1 : BitVec 8} {s : State} (h : Keeps o s) :
    KeepsOut o (execGetPldmVersion a1 s) := by
  unfold execGetPldmVersion
  refine keeps_pldmReply ?_
  exact keeps_draw h

theorem keeps_execGetPldmTypes {o : State} {s : State} (h : Keeps o s) :
    KeepsOut o (execGetPldmTypes s) := by
  unfold execGetPldmTypes
  exact keeps_pldmReply h

theorem keeps_execGetPldmCommands {o : State} {type : BitVec 8} {s : State} (h : Keeps o s) :
    KeepsOut o (execGetPldmCommands type s) := by
  unfold execGetPldmCommands
  exact keeps_pldmReply h

theorem keeps_execGetPdrRepositoryInfo {o : State} {s : State} (h : Keeps o s) :
    KeepsOut o (execGetPdrRepositoryInfo s) := by
  unfold execGetPdrRepositoryInfo
  refine keeps_pldmReply ?_
  exact keeps_draw h

theorem keeps_execGetPdr {o : State} {a1 : BitVec 32} {s : State} (h : Keeps o s) :
    KeepsOut o (execGetPdr a1 s) := by
  unfold execGetPdr
  refine keeps_pldmReply ?_
  exact keeps_draw h

theorem keeps_execGetSensorReading {o : State} {id : BitVec 16} {s : State} (h : Keeps o s) :
    KeepsOut o (execGetSensorReading id s) := by
  unfold execGetSensorReading
  exact keeps_pldmReply h

theorem keeps_execGetStateSensorReadings {o : State} {id : BitVec 16} {s : State} (h : Keeps o s) :
    KeepsOut o (execGetStateSensorReadings id s) := by
  unfold execGetStateSensorReadings
  exact keeps_pldmReply h

theorem keeps_execSetStateEffecterStates {o : State} {id : BitVec 16} {state : BitVec 8} {s : State} (h : Keeps o s) :
    KeepsOut o (execSetStateEffecterStates id state s) := by
  unfold execSetStateEffecterStates
  refine keepsOut_ite (fun _ => ?_) (fun _ => ?_)
  · refine keeps_pldmDo ?_ h
    intro y1 hy2
    exact keeps_put hy2 Fld.ok_fpnLocMode
  · exact keeps_pldmReply h

theorem keeps_execSetEventReceiver {o : State} {enable : Bool} {eid : BitVec 8} {s : State} (h : Keeps o s) :
    KeepsOut o (execSetEventReceiver enable eid s) := by
  unfold execSetEventReceiver
  refine keeps_pldmDo ?_ h
  intro y1 hy2
  exact keeps_put hy2 Fld.ok_pldmRx

theorem keeps_execAlertResponseRead {o : State} {s : State} (h : Keeps o s) :
    KeepsOut o (execAlertResponseRead s) := by
  unfold execAlertResponseRead
  refine keepsOut_next ?_
  refine keeps_ite (fun _ => ?_) (fun _ => ?_)
  · refine keeps_put ?_ Fld.ok_alertPin
    exact keeps_emit h
  · exact h

end Sys2Proof.Machine
end

