-- ==== Sys2Proof/Laws/KeepsRegWrite.lean ====
section
/-!
SUPPORT. The operations of Machine/RegWrite.lean keep what Keeps says.
-/
namespace Sys2Proof.Machine

/-- Every field of a register map is one of the table. -/
def RegsOk (rs : List Reg) : Prop := ∀ r ∈ rs, ∀ f ∈ r.fields, f.fld.Ok

theorem RegsOk.append {a b : List Reg} (ha : RegsOk a) (hb : RegsOk b) : RegsOk (a ++ b) := fun r hr =>
  (List.mem_append.mp hr).elim (ha r) (hb r)

/-- The same, as a check that evaluates. -/
theorem regsOk_of {rs : List Reg} (h : rs.all (fun r => r.fields.all fun f => decide (Fld.at? f.fld.id = some f.fld)) = true) :
    RegsOk rs := fun r hr f hf => by
  have := List.all_eq_true.mp (List.all_eq_true.mp h r hr) f hf
  exact of_decide_eq_true (p := Fld.at? f.fld.id = some f.fld) this

theorem mgmtRegs0_ok : RegsOk mgmtRegs0 := regsOk_of (by rfl)
theorem mgmtRegs1_ok : RegsOk mgmtRegs1 := regsOk_of (by rfl)
theorem mgmtRegs2_ok : RegsOk mgmtRegs2 := regsOk_of (by rfl)
theorem mgmtRegs3_ok : RegsOk mgmtRegs3 := regsOk_of (by rfl)
theorem mgmtRegs4_ok : RegsOk mgmtRegs4 := regsOk_of (by rfl)
theorem linkRegs_ok : RegsOk linkRegs := regsOk_of (by rfl)
theorem ownRegs_ok : RegsOk ownRegs := regsOk_of (by rfl)
theorem chanRegs0_ok : RegsOk chanRegs0 := regsOk_of (by rfl)
theorem chanRegs1_ok : RegsOk chanRegs1 := regsOk_of (by rfl)
theorem chanRegs2_ok : RegsOk chanRegs2 := regsOk_of (by rfl)
theorem chanRegs3_ok : RegsOk chanRegs3 := regsOk_of (by rfl)
theorem coreRegs0_ok : RegsOk coreRegs0 := regsOk_of (by rfl)
theorem coreRegs1_ok : RegsOk coreRegs1 := regsOk_of (by rfl)

theorem mgmtRegs_ok : RegsOk mgmtRegs :=
  (((mgmtRegs0_ok.append mgmtRegs1_ok).append mgmtRegs2_ok).append mgmtRegs3_ok).append mgmtRegs4_ok

theorem chanRegs_ok : RegsOk chanRegs := ((chanRegs0_ok.append chanRegs1_ok).append chanRegs2_ok).append chanRegs3_ok

theorem coreRegs_ok : RegsOk coreRegs := coreRegs0_ok.append coreRegs1_ok

theorem findReg_mem {rs : List Reg} {off : Nat} {r : Reg} {x : Nat × Nat × Nat} (h : findReg rs off = some (r, x)) : r ∈ rs := by
  obtain ⟨q, hq, hx⟩ := List.exists_of_findSome?_eq_some h
  simp only [Option.map_eq_some_iff] at hx
  obtain ⟨y, _, hy⟩ := hx
  cases hy
  exact hq

theorem keeps_fieldsWrite {o : State} {r : Reg} {a : Nat} {b : Nat} {k : Nat} {v : Nat} {owned : Bool} {s : State} (h : Keeps o s)
    (hr : ∀ f ∈ r.fields, f.fld.Ok) : Keeps o (fieldsWrite r a b k v owned s) :=
  keeps_foldl_mem (fun _ f hm ht => keeps_put ht (hr f hm)) h

theorem keeps_mapWrite {o : State} {rs : List Reg} {put : Nat → Nat → Nat × Nat} {off : Nat} {v : Nat} {owned : Bool} {s : State}
    (h : Keeps o s) (hr : RegsOk rs := by first | exact mgmtRegs_ok | exact linkRegs_ok | exact ownRegs_ok | exact chanRegs_ok | exact coreRegs_ok) : Keeps o (mapWrite rs put off v owned s) := by
  unfold mapWrite
  split
  · rename_i r a b k e
    have hf := hr r (findReg_mem e)
    split
    refine keeps_ite (fun _ => h) (fun _ => keeps_ite (fun _ => ?_) (fun _ => keeps_fieldsWrite h hf))
    exact keeps_foldl (fun _ _ ht => keeps_fieldsWrite ht hf) h
  · exact h

theorem keeps_alertWritten {o : State} {was : State} {s : State} (h1 : Keeps o was) (h2 : Keeps o s) :
    Keeps o (alertWritten was s) := by
  unfold alertWritten
  extract_lets +onlyGivenNames x1; try clear_value x1
  extract_lets +onlyGivenNames x2; try clear_value x2
  refine keeps_ite (fun _ => ?_) (fun _ => ?_)
  · exact keeps_put h2 Fld.ok_alertPin
  · refine keeps_ite (fun _ => ?_) (fun _ => ?_)
    · exact h2
    · refine keeps_raise ?_
      exact keeps_put h2 Fld.ok_alertPin

theorem keeps_fallbackWrite {o : State} {off : Nat} {v : Nat} {s : State} (h : Keeps o s) :
    Keeps o (fallbackWrite off v s) := by
  unfold fallbackWrite
  extract_lets +onlyGivenNames x1; try clear_value x1
  refine keeps_ite (fun _ => ?_) (fun _ => ?_)
  · exact h
  · refine keeps_foldl ?_ ?_
    · intro b3 y4 hb2
      exact keeps_havoc hb2
    · exact keeps_setBytes h

theorem keeps_msixWrite {o : State} {fn : Nat} {n : Nat} {off : Nat} {v : Nat} {s : State} (h : Keeps o s) :
    Keeps o (msixWrite fn n off v s) := by
  unfold msixWrite
  refine keeps_ite (fun _ => ?_) (fun _ => ?_)
  · exact h
  · refine keeps_ite (fun _ => ?_) (fun _ => ?_)
    · refine keeps_sendPending ?_
      exact keeps_put h Fld.ok_msixVmask
    · exact keeps_put h Fld.ok_msixTab

theorem keeps_mgmtAfter {o : State} {name : String} {a : Nat} {b : Nat} {was : State} {s : State} (h4 : Keeps o was) (h5 : Keeps o s) :
    Keeps o (mgmtAfter name a b was s) := by
  unfold mgmtAfter
  split
  · refine keeps_ite (fun _ => ?_) (fun _ => ?_)
    · exact h5
    · exact keeps_mgCause h5
  · extract_lets +onlyGivenNames t1
    have ht1 : Keeps o t1 := by
      unfold t1
      exact keeps_put h5 Fld.ok_fbarGen
    try clear_value t1
    refine keeps_ite (fun _ => ?_) (fun _ => ?_)
    · refine keeps_foldl ?_ ?_
      · intro b3 y4 hb2
        exact keeps_havoc hb2
      · exact ht1
    · exact ht1
  · extract_lets +onlyGivenNames x5; try clear_value x5
    refine keeps_ite (fun _ => ?_) (fun _ => ?_)
    · exact h4
    · exact h5
  · refine keeps_ite (fun _ => ?_) (fun _ => ?_)
    · exact h4
    · exact h5
  · refine keeps_ite (fun _ => ?_) (fun _ => ?_)
    · exact h4
    · exact h5
  · exact keeps_alertWritten h4 h5
  · refine keeps_ite (fun _ => ?_) (fun _ => ?_)
    · refine keeps_draw ?_
      exact keeps_raise h5
    · exact h5
  · exact h5

theorem keeps_linkAfter {o : State} {l : Nat} {was : State} {s : State} (h2 : Keeps o was) (h3 : Keeps o s) :
    Keeps o (linkAfter l was s) := by
  unfold linkAfter
  split
  · exact keeps_linkStop h3
  · exact keeps_linkStart h3
  · exact h3

theorem keeps_mgmtWrite {o : State} {off : Nat} {v : Nat} {s : State} (h : Keeps o s) :
    Keeps o (mgmtWrite off v s) := by
  unfold mgmtWrite
  refine keeps_ite (fun _ => ?_) (fun _ => ?_)
  · extract_lets +onlyGivenNames x1; try clear_value x1
    refine keeps_ite (fun _ => ?_) (fun _ => ?_)
    · refine keeps_linkAfter h ?_
      exact keeps_mapWrite h
    · exact h
  · refine keeps_ite (fun _ => ?_) (fun _ => ?_)
    · extract_lets +onlyGivenNames x2; try clear_value x2
      exact keeps_mapWrite h
    · refine keeps_ite (fun _ => ?_) (fun _ => ?_)
      · exact h
      · refine keeps_ite (fun _ => ?_) (fun _ => ?_)
        · exact keeps_fallbackWrite h
        · refine keeps_ite (fun _ => ?_) (fun _ => ?_)
          · exact keeps_msixWrite h
          · split
            · refine keeps_mgmtAfter h ?_
              exact keeps_mapWrite h

theorem keeps_coreWrite {o : State} {c : Nat} {off : Nat} {v : Nat} {s : State} (h : Keeps o s) :
    Keeps o (coreWrite c off v s) := by
  unfold coreWrite
  extract_lets +onlyGivenNames x1; try clear_value x1
  extract_lets +onlyGivenNames x2
  have hx2 : ∀ y1 y2, Keeps o y2 → Keeps o (x2 y1 y2) := by
    intro y3 y4 hy5
    unfold x2
    refine keeps_ite (fun _ => ?_) (fun _ => ?_)
    · exact keeps_havoc hy5
    · exact hy5
  try clear_value x2
  refine keeps_ite (fun _ => ?_) (fun _ => ?_)
  · extract_lets +onlyGivenNames x6; try clear_value x6
    extract_lets +onlyGivenNames x7; try clear_value x7
    refine hx2 _ _ ?_
    exact keeps_setBytes h
  · refine keeps_ite (fun _ => ?_) (fun _ => ?_)
    · extract_lets +onlyGivenNames x8; try clear_value x8
      extract_lets +onlyGivenNames x9; try clear_value x9
      refine hx2 _ _ ?_
      exact keeps_putV h
    · extract_lets +onlyGivenNames t10
      have ht10 : Keeps o t10 := by
        unfold t10
        exact keeps_mapWrite h
      try clear_value t10
      split
      · refine keeps_ite (fun _ => ?_) (fun _ => ?_)
        · exact ht10
        · exact h
      · refine hx2 _ _ ?_
        refine keeps_ite (fun _ => ?_) (fun _ => ?_)
        · exact h
        · exact ht10
      · refine hx2 _ _ ?_
        exact ht10
      · refine hx2 _ _ ?_
        exact ht10
      · refine hx2 _ _ ?_
        exact ht10
      · refine hx2 _ _ ?_
        exact ht10
      · exact ht10

theorem keeps_chanAfter {o : State} {ch : Nat} {name : String} {b : Nat} {was : State} {s : State} (h4 : Keeps o was) (h5 : Keeps o s) :
    Keeps o (chanAfter ch name b was s) := by
  unfold chanAfter
  extract_lets +onlyGivenNames x1; try clear_value x1
  extract_lets +onlyGivenNames x2
  have hx2 : ∀ y1, Keeps o (x2 y1) := by
    intro y3 
    unfold x2
    refine keeps_ite (fun _ => ?_) (fun _ => ?_)
    · exact keeps_havoc h5
    · exact h5
  try clear_value x2
  refine keeps_ite (fun _ => ?_) (fun _ => ?_)
  · exact keeps_showClocks h5
  · refine keeps_ite (fun _ => ?_) (fun _ => ?_)
    · exact hx2 _
    · refine keeps_ite (fun _ => ?_) (fun _ => ?_)
      · exact hx2 _
      · refine keeps_ite (fun _ => ?_) (fun _ => ?_)
        · exact hx2 _
        · refine keeps_ite (fun _ => ?_) (fun _ => ?_)
          · refine keeps_ite (fun _ => ?_) (fun _ => ?_)
            · exact h5
            · exact keeps_put h5 Fld.ok_bdgStatSilent
          · refine keeps_ite (fun _ => ?_) (fun _ => ?_)
            · refine keeps_ite (fun _ => ?_) (fun _ => ?_)
              · exact keeps_havoc h5
              · exact h5
            · refine keeps_ite (fun _ => ?_) (fun _ => ?_)
              · refine keeps_ite (fun _ => ?_) (fun _ => ?_)
                · exact keeps_havoc h5
                · exact h5
              · refine keeps_ite (fun _ => ?_) (fun _ => ?_)
                · refine keeps_ite (fun _ => ?_) (fun _ => ?_)
                  · exact keeps_havoc h5
                  · exact h5
                · refine keeps_ite (fun _ => ?_) (fun _ => ?_)
                  · exact keeps_havoc h5
                  · exact h5

theorem keeps_chanWrite {o : State} {ch : Nat} {off : Nat} {v : Nat} {s : State} (h : Keeps o s) :
    Keeps o (chanWrite ch off v s) := by
  unfold chanWrite
  refine keeps_ite (fun _ => ?_) (fun _ => ?_)
  · extract_lets +onlyGivenNames x1; try clear_value x1
    extract_lets +onlyGivenNames x2; try clear_value x2
    refine keeps_ite (fun _ => ?_) (fun _ => ?_)
    · exact keeps_coreWrite h
    · exact h
  · refine keeps_ite (fun _ => ?_) (fun _ => ?_)
    · exact keeps_msixWrite h
    · refine keeps_ite (fun _ => ?_) (fun _ => ?_)
      · extract_lets +onlyGivenNames t3
        have ht3 : Keeps o t3 := by
          unfold t3
          exact keeps_setBytes h
        try clear_value t3
        refine keeps_ite (fun _ => ?_) (fun _ => ?_)
        · exact keeps_havoc ht3
        · exact ht3
      · refine keeps_ite (fun _ => ?_) (fun _ => ?_)
        · refine keeps_ite (fun _ => ?_) (fun _ => ?_)
          · exact h
          · extract_lets +onlyGivenNames t4
            have ht4 : Keeps o t4 := by
              unfold t4
              exact keeps_setBytes h
            try clear_value t4
            extract_lets +onlyGivenNames x5; try clear_value x5
            extract_lets +onlyGivenNames x6; try clear_value x6
            refine keeps_ite (fun _ => ?_) (fun _ => ?_)
            · exact keeps_havoc ht4
            · exact ht4
        · split
          · refine keeps_chanAfter h ?_
            exact keeps_mapWrite h

theorem keeps_execRegisterWrite {o : State} {fn : Fin 9} {place : RegPlace} {value : BitVec 64} {s : State} (h : Keeps o s) :
    KeepsOut o (execRegisterWrite fn place value s) := by
  unfold execRegisterWrite
  extract_lets f v
  split
  · exact keepsOut_next (keeps_sendPending (keeps_put (keeps_put h Fld.ok_msixEn) Fld.ok_msixFmask))
  · extract_lets q n good each ch
    have hw : ∀ w : Nat → Nat → State → State, (∀ a b t, Keeps o t → Keeps o (w a b t)) → Keeps o (each w) := fun w hw =>
      keeps_ite (fun _ => hw _ _ _ (hw _ _ _ h)) (fun _ => hw _ _ _ h)
    clear_value each
    refine keepsOut_ite (fun _ => keepsOut_next (keeps_ite (fun _ => hw _ fun _ _ _ => keeps_mgmtWrite) (fun _ => h)))
      (fun _ => keepsOut_ite (fun _ => keepsOut_next (keeps_ite (fun _ => keeps_havoc h) (fun _ => h)))
      (fun _ => keepsOut_next (keeps_ite (fun _ => hw _ fun _ _ _ => keeps_chanWrite) (fun _ => h))))

end Sys2Proof.Machine
end

