-- ==== Sys2Proof/Laws/KeepsScalar.lean ====
section
/-!
SUPPORT. The operations of Machine/Scalar.lean keep what Keeps says.
-/
namespace Sys2Proof.Machine

theorem keeps_aluOp {o : State} {c : Nat} {i : Instr} {gd : BitVec 5} {ga : BitVec 5} {b : SrcB} {lat : Nat} {f : Word → Word → Word} {s : State} (h : Keeps o s) :
    KeepsOut o (aluOp c i gd ga b lat f s) := by
  unfold aluOp
  refine keeps_issue h ?_
  intro y1 hy2
  extract_lets +onlyGivenNames t3
  have ht3 : Keeps o t3 := by
    unfold t3
    exact keeps_stallG hy2
  try clear_value t3
  refine keeps_retire ?_
  exact keeps_setG ht3

theorem keeps_movOp {o : State} {c : Nat} {i : Instr} {gd : BitVec 5} {reads : List Nat} {f : State → Word} {s : State} (h : Keeps o s) :
    KeepsOut o (movOp c i gd reads f s) := by
  unfold movOp
  refine keeps_issue h ?_
  intro y1 hy2
  extract_lets +onlyGivenNames t3
  have ht3 : Keeps o t3 := by
    unfold t3
    exact keeps_stallG hy2
  try clear_value t3
  refine keeps_retire ?_
  exact keeps_setG ht3

theorem keeps_execAdd {o : State} {core : CoreId} {gd : BitVec 5} {ga : BitVec 5} {b : SrcB} {s : State} (h : Keeps o s) :
    KeepsOut o (execAdd core gd ga b s) := by
  unfold execAdd
  exact keeps_aluOp h

theorem keeps_execSub {o : State} {core : CoreId} {gd : BitVec 5} {ga : BitVec 5} {b : SrcB} {s : State} (h : Keeps o s) :
    KeepsOut o (execSub core gd ga b s) := by
  unfold execSub
  exact keeps_aluOp h

theorem keeps_execAnd {o : State} {core : CoreId} {gd : BitVec 5} {ga : BitVec 5} {b : SrcB} {s : State} (h : Keeps o s) :
    KeepsOut o (execAnd core gd ga b s) := by
  unfold execAnd
  exact keeps_aluOp h

theorem keeps_execOr {o : State} {core : CoreId} {gd : BitVec 5} {ga : BitVec 5} {b : SrcB} {s : State} (h : Keeps o s) :
    KeepsOut o (execOr core gd ga b s) := by
  unfold execOr
  exact keeps_aluOp h

theorem keeps_execXor {o : State} {core : CoreId} {gd : BitVec 5} {ga : BitVec 5} {b : SrcB} {s : State} (h : Keeps o s) :
    KeepsOut o (execXor core gd ga b s) := by
  unfold execXor
  exact keeps_aluOp h

theorem keeps_execShl {o : State} {core : CoreId} {gd : BitVec 5} {ga : BitVec 5} {b : SrcB} {s : State} (h : Keeps o s) :
    KeepsOut o (execShl core gd ga b s) := by
  unfold execShl
  exact keeps_aluOp h

theorem keeps_execShr {o : State} {core : CoreId} {gd : BitVec 5} {ga : BitVec 5} {b : SrcB} {s : State} (h : Keeps o s) :
    KeepsOut o (execShr core gd ga b s) := by
  unfold execShr
  exact keeps_aluOp h

theorem keeps_execSar {o : State} {core : CoreId} {gd : BitVec 5} {ga : BitVec 5} {b : SrcB} {s : State} (h : Keeps o s) :
    KeepsOut o (execSar core gd ga b s) := by
  unfold execSar
  exact keeps_aluOp h

theorem keeps_execMul {o : State} {core : CoreId} {gd : BitVec 5} {ga : BitVec 5} {b : SrcB} {s : State} (h : Keeps o s) :
    KeepsOut o (execMul core gd ga b s) := by
  unfold execMul
  exact keeps_aluOp h

theorem keeps_execMin {o : State} {core : CoreId} {gd : BitVec 5} {ga : BitVec 5} {b : SrcB} {s : State} (h : Keeps o s) :
    KeepsOut o (execMin core gd ga b s) := by
  unfold execMin
  exact keeps_aluOp h

theorem keeps_execMax {o : State} {core : CoreId} {gd : BitVec 5} {ga : BitVec 5} {b : SrcB} {s : State} (h : Keeps o s) :
    KeepsOut o (execMax core gd ga b s) := by
  unfold execMax
  exact keeps_aluOp h

theorem keeps_execMinu {o : State} {core : CoreId} {gd : BitVec 5} {ga : BitVec 5} {b : SrcB} {s : State} (h : Keeps o s) :
    KeepsOut o (execMinu core gd ga b s) := by
  unfold execMinu
  exact keeps_aluOp h

theorem keeps_execMaxu {o : State} {core : CoreId} {gd : BitVec 5} {ga : BitVec 5} {b : SrcB} {s : State} (h : Keeps o s) :
    KeepsOut o (execMaxu core gd ga b s) := by
  unfold execMaxu
  exact keeps_aluOp h

theorem keeps_execCmpeq {o : State} {core : CoreId} {gd : BitVec 5} {ga : BitVec 5} {b : SrcB} {s : State} (h : Keeps o s) :
    KeepsOut o (execCmpeq core gd ga b s) := by
  unfold execCmpeq
  exact keeps_aluOp h

theorem keeps_execCmplt {o : State} {core : CoreId} {gd : BitVec 5} {ga : BitVec 5} {b : SrcB} {s : State} (h : Keeps o s) :
    KeepsOut o (execCmplt core gd ga b s) := by
  unfold execCmplt
  exact keeps_aluOp h

theorem keeps_execCmpltu {o : State} {core : CoreId} {gd : BitVec 5} {ga : BitVec 5} {b : SrcB} {s : State} (h : Keeps o s) :
    KeepsOut o (execCmpltu core gd ga b s) := by
  unfold execCmpltu
  exact keeps_aluOp h

theorem keeps_execMovi {o : State} {core : CoreId} {gd : BitVec 5} {imm : BitVec 32} {s : State} (h : Keeps o s) :
    KeepsOut o (execMovi core gd imm s) := by
  unfold execMovi
  exact keeps_movOp h

theorem keeps_execMovhi {o : State} {core : CoreId} {gd : BitVec 5} {ga : BitVec 5} {imm : BitVec 32} {s : State} (h : Keeps o s) :
    KeepsOut o (execMovhi core gd ga imm s) := by
  unfold execMovhi
  exact keeps_movOp h

theorem keeps_execRds {o : State} {core : CoreId} {gd : BitVec 5} {index : BitVec 8} {s : State} (h : Keeps o s) :
    KeepsOut o (execRds core gd index s) := by
  unfold execRds
  exact keeps_movOp h

theorem keeps_execMovgp {o : State} {core : CoreId} {p : BitVec 6} {ga : BitVec 5} {s : State} (h : Keeps o s) :
    KeepsOut o (execMovgp core p ga s) := by
  unfold execMovgp
  refine keeps_issue h ?_
  intro y1 hy2
  extract_lets +onlyGivenNames t3
  have ht3 : Keeps o t3 := by
    unfold t3
    exact keeps_stallG hy2
  try clear_value t3
  refine keeps_retire ?_
  exact keeps_setP ht3

theorem keeps_execMovpg {o : State} {core : CoreId} {gd : BitVec 5} {p : BitVec 6} {s : State} (h : Keeps o s) :
    KeepsOut o (execMovpg core gd p s) := by
  unfold execMovpg
  exact keeps_movOp h

end Sys2Proof.Machine
end

