-- ==== Sys2Proof/WellFormed.lean ====
section
/-!
DEFINITION. Which terms of Instr spell a command that can come at all: the bounds that the operand types leave to a check.
The meanings do not ask for it.
-/
namespace Sys2Proof

/-- The accesses of a 64 B word's cores name cores of the channel. -/
def cellsOk (cells : List (BitVec 8 × Access)) : Bool := cells.all fun e => decide (e.1.toNat < 160)

/-- A BAR2 access moves at least one byte, and a write has a byte enable for each (R590). -/
def writeOk (len : Nat) : Option (List (Option (BitVec 8))) → Bool
  | none => decide (1 ≤ len)
  | some bs => decide (1 ≤ len) && decide (bs.length = len)

/-- A register write moves 1 to 8 bytes (R29). -/
def placeOk : RegPlace → Bool
  | .bar0 _ size => decide (1 ≤ size.toNat) && decide (size.toNat ≤ 8)
  | .msixControl => true

/-- A region with a sensor pair (R507): island i of channel n is 16 n + i, channel n's own units 0xF0 + n, the chip's 0xF8 and 0xF9. -/
def regionOk (r : Nat) : Bool :=
  (decide (r < 0x80) && decide (r % 16 < 10)) || (decide (0xF0 ≤ r) && decide (r < 0xFA))

/-- The links of the cages (R610). -/
def cageLink (l : Nat) : Bool := [4, 5, 10, 11, 16, 17, 22, 23, 29, 35, 41, 47].contains l

/-- The command is well formed. -/
def Instr.wf : Instr → Bool
  | .nop _ _ => true
  | .jmp _ _ _ _ => true
  | .loop _ _ _ _ _ => true
  | .replay _ _ _ _ _ _ => true
  | .wait _ _ _ => true
  | .waitIdle _ _ => true
  | .halt _ _ => true
  | .reservedOpcode _ major _ => decide (0x0B ≤ major.toNat)
  | .patchSet _ _ _ => true
  | .patchAdd _ _ _ => true
  | .patchArm _ _ _ _ => true
  | .patchClr _ => true
  | .cfg _ _ _ _ => true
  | .goMx _ _ _ _ => true
  | .mxTileDrain _ => true
  | .goVx _ _ => true
  | .spillTile _ _ => true
  | .goFxSubmit _ _ => true
  | .goFxFence _ _ => true
  | .goSy _ _ => true
  | .syLandWord _ _ => true
  | .add _ _ _ _ => true
  | .sub _ _ _ _ => true
  | .and _ _ _ _ => true
  | .or _ _ _ _ => true
  | .xor _ _ _ _ => true
  | .shl _ _ _ _ => true
  | .shr _ _ _ _ => true
  | .sar _ _ _ _ => true
  | .mul _ _ _ _ => true
  | .min _ _ _ _ => true
  | .max _ _ _ _ => true
  | .minu _ _ _ _ => true
  | .maxu _ _ _ _ => true
  | .cmpeq _ _ _ _ => true
  | .cmplt _ _ _ _ => true
  | .cmpltu _ _ _ _ => true
  | .movi _ _ _ => true
  | .movhi _ _ _ _ => true
  | .rds _ _ _ => true
  | .movgp _ _ _ => true
  | .movpg _ _ _ => true
  | .vadd _ _ _ _ _ _ => true
  | .vsub _ _ _ _ _ _ => true
  | .vmul _ _ _ _ _ _ => true
  | .vfma _ _ _ _ _ _ _ => true
  | .vmin _ _ _ _ _ _ => true
  | .vmax _ _ _ _ _ _ => true
  | .vabs _ _ _ _ => true
  | .vneg _ _ _ _ => true
  | .vand _ _ _ _ _ => true
  | .vor _ _ _ _ _ => true
  | .vxor _ _ _ _ _ => true
  | .vshl _ _ _ _ _ => true
  | .vshr _ _ _ _ _ => true
  | .vsar _ _ _ _ _ => true
  | .vcmpeq _ _ _ _ _ _ => true
  | .vcmplt _ _ _ _ _ _ => true
  | .vcmple _ _ _ _ _ _ => true
  | .vsel _ _ _ _ _ _ => true
  | .vmov _ _ _ => true
  | .vbcast _ _ _ => true
  | .viota _ _ _ => true
  | .vcvt _ _ _ _ _ => true
  | .vdiv _ _ _ _ _ _ => true
  | .vsqrt _ _ _ _ => true
  | .vscale _ _ _ _ _ _ => true
  | .vld _ _ _ _ _ => true
  | .vst _ _ _ _ _ => true
  | .vgathW _ _ _ _ _ _ => true
  | .vgathD _ _ _ _ _ _ => true
  | .vscatW _ _ _ _ _ _ => true
  | .vscatD _ _ _ _ _ _ => true
  | .vtpop _ _ _ _ _ _ => true
  | .vrsum _ _ _ _ => true
  | .vrmax _ _ _ _ => true
  | .vrmin _ _ _ _ => true
  | .topk _ _ _ _ _ _ _ => true
  | .topkM _ _ _ _ _ _ => true
  | .rwait _ _ _ _ => true
  | .rpop _ _ _ => true
  | .rpub _ _ _ _ _ => true
  | .qpush _ _ _ _ => true
  | .qpop _ _ _ _ => true
  | .qpeek _ _ _ _ => true
  | .firstof _ _ _ _ _ _ => true
  | .cinc _ _ _ _ _ => true
  | .cdec _ _ _ _ _ => true
  | .cwait _ _ _ _ => true
  | .bar _ _ _ _ => true
  | .launch _ _ _ _ _ => true
  | .batchTake _ _ _ _ => true
  | .respPut _ _ _ _ _ => true
  | .wordArrival _ _ => true
  | .roomReturn _ _ => true
  | .counterTokenArrival _ _ => true
  | .doneCtrIncrement _ => true
  | .ringViewUpdate _ _ => true
  | .doorbellArrival _ => true
  | .channelBarrierRelease _ _ => true
  | .chipBarrierRelease _ _ => true
  | .barTimeout _ _ _ => true
  | .fabricBarrierRelease _ => true
  | .napWake _ => true
  | .alignerLock _ => true
  | .conflictHaltTimeout _ => true
  | .sweeperVisit _ _ => true
  | .bankInitDone _ _ => true
  | .groupPowerUpDone _ _ => true
  | .badgerReport _ => true
  | .foxAccept _ => true
  | .foxIssue _ cells => cellsOk cells
  | .hbmReadReturn _ _ _ cells => cellsOk cells
  | .descriptorComplete _ => true
  | .peerServiceSlot _ => true
  | .remoteReadTimeout _ _ => true
  | .foxHsqTailSeen _ => true
  | .frameReceive _ frame _ => decide (60 ≤ frame.length) && decide (frame.length ≤ 9212)
  | .slowPathReply _ => true
  | .requestAdmit => true
  | .batchBoundary _ => true
  | .deadlineExpiry _ => true
  | .responseArrival _ => true
  | .responseSent _ => true
  | .batchStreamWord _ => true
  | .tagGraceExpiry _ _ => true
  | .seamReady _ => true
  | .exchangeSwap _ => true
  | .exchHoldTimeout _ => true
  | .latchedSyncPresent _ => true
  | .refreshSlot _ => true
  | .gtcTick _ => true
  | .fusionEpoch => true
  | .syncInEdge _ => true
  | .ptmDialogue _ _ _ => true
  | .syncOutPulse => true
  | .beaconSend => true
  | .flitTransmit _ _ => true
  | .crcFail _ _ _ => true
  | .idle _ _ => true
  | .nak _ _ => true
  | .flow _ _ _ _ words => decide (1 ≤ words.length) && decide (words.length ≤ 4)
  | .rreq _ _ _ _ _ _ _ _ => true
  | .rdata _ _ _ _ _ _ words cells => (decide (1 ≤ words.length) && decide (words.length ≤ 4)) && cellsOk cells
  | .rref _ _ _ _ cells => cellsOk cells
  | .commit _ _ _ => true
  | .cancel _ _ _ => true
  | .hopfail _ _ _ _ _ _ => true
  | .beacon _ _ _ _ _ _ _ _ _ _ => true
  | .arrive _ _ _ _ => true
  | .release _ _ _ _ _ => true
  | .fault _ _ _ _ _ => true
  | .attest _ _ _ _ _ _ data => decide (data.length ≤ 254)
  | .hello _ _ _ => true
  | .peerAdmit _ _ _ _ => true
  | .retire _ _ _ => true
  | .ackTimeout _ => true
  | .episodeLimit _ => true
  | .signalDetect _ => true
  | .trainingComplete _ => true
  | .trainingTimeout _ => true
  | .signalLoss link cause => decide (1 ≤ cause.toNat) && (cause != 3#2 || cageLink link.val)
  | .faultRetrain _ => true
  | .helloSend _ => true
  | .linkRetireDone _ => true
  | .attestationDone _ _ _ _ => true
  | .obind _ _ _ _ => true
  | .ogrant _ _ _ _ => true
  | .oskey _ _ _ _ => true
  | .opolicy _ _ _ _ => true
  | .oend _ _ _ _ => true
  | .ostat _ _ _ _ => true
  | .bindingTimeout _ => true
  | .killSequenceComplete _ => true
  | .getVersion _ => true
  | .getCapabilities _ => true
  | .negotiateAlgorithms _ _ => true
  | .getDigests _ => true
  | .getCertificate _ _ _ _ => true
  | .challenge _ => true
  | .getMeasurements _ _ _ => true
  | .keyExchange _ => true
  | .finish _ _ _ => true
  | .endSession _ _ => true
  | .heartbeat _ _ => true
  | .keyUpdate _ _ => true
  | .getEncapsulatedRequest _ _ => true
  | .deliverEncapsulatedResponse _ _ _ _ => true
  | .doeAbort => true
  | .setEndpointId _ => true
  | .getEndpointId => true
  | .getMctpVersionSupport _ => true
  | .getMessageTypeSupport => true
  | .getVendorDefinedMessageSupport _ => true
  | .getTid => true
  | .setTid _ => true
  | .getPldmVersion _ => true
  | .getPldmTypes => true
  | .getPldmCommands _ => true
  | .getPdrRepositoryInfo => true
  | .getPdr _ => true
  | .getSensorReading _ => true
  | .getStateSensorReadings _ => true
  | .setStateEffecterStates _ _ => true
  | .setEventReceiver _ _ => true
  | .alertResponseRead => true
  | .inputPowerGood _ _ _ _ => true
  | .modRstN _ _ => true
  | .perst => true
  | .flr _ => true
  | .watchdogExpiry _ _ => true
  | .warmReset _ _ _ _ => true
  | .chRst _ => true
  | .fwProgram _ _ _ => true
  | .fwProgramDone _ => true
  | .recoveryGo _ => true
  | .jtagDebugInstruction _ => true
  | .rdout => true
  | .rdoutCaptureDr => true
  | .coreCtlRun _ => true
  | .coreCtlStop _ => true
  | .coreCtlDbell _ => true
  | .coreCtlCreset _ => true
  | .chDbell _ _ _ => true
  | .rteCtlFlip _ => true
  | .chCfgWrite _ _ => true
  | .spdKindPwrWrite _ _ _ => true
  | .ringCfgWrite _ _ _ _ _ _ _ _ => true
  | .foxCtlWrite _ _ _ => true
  | .foxHsqTail _ _ => true
  | .hbqWtail _ => true
  | .hbqRhead _ => true
  | .ownSkeyLoad _ _ => true
  | .fabFwdData _ => true
  | .tunGtcLoRead _ _ => true
  | .tunGtcHiRead _ => true
  | .bar2Access _ _ len wr => writeOk len.toNat wr
  | .irqMaskWrite _ _ _ => true
  | .chPwrWrite _ _ _ _ _ _ _ => true
  | .evrConfigWrite _ _ _ => true
  | .evrAdv _ => true
  | .frzCtrlGo _ => true
  | .freezeN _ => true
  | .readoutStart => true
  | .readoutNext => true
  | .readoutWindowReady => true
  | .readoutStop => true
  | .fpnRmvReq => true
  | .fpnRmvSafe => true
  | .fpnRmvDeny => true
  | .fpnRmvCancel => true
  | .registerWrite _ place _ => placeOk place
  | .mailboxOverrun _ _ => true
  | .identify _ => true
  | .channelAssign _ _ => true
  | .channelRelease _ _ => true
  | .ownerBind _ _ _ _ => true
  | .ownerKill _ _ => true
  | .exchangeArm _ _ => true
  | .exchangeAbort _ _ => true
  | .epochFlip _ _ _ => true
  | .powerSet _ _ _ _ _ => true
  | .powerSetRun _ _ _ _ => true
  | .powerSetStandby _ _ _ _ => true
  | .powerSetChipRun _ _ _ => true
  | .timePolicy _ _ words => decide (words.length ≤ 63)
  | .linkAdmit _ _ => true
  | .linkAdmitAttest _ _ => true
  | .linkAdmitAttestMatch _ _ _ _ => true
  | .linkAdmitRestore _ _ => true
  | .linkRetire _ _ => true
  | .serviceBind _ _ _ _ _ _ _ => true
  | .serviceUnbind _ _ => true
  | .evrClear _ => true
  | .freezeArm _ _ _ => true
  | .dozeEntryDone _ => true
  | .gtcWakeMatch _ => true
  | .channelWakeDone _ => true
  | .wakeFailure _ _ => true
  | .standbyWakeDone => true
  | .pllRelockDone _ => true
  | .batchMark _ => true
  | .thermalSample pairs _ => pairs.all fun p => regionOk p.1.toNat
  | .throttleLoop => true
  | .capLoop power _ => decide (power.length = 8)
  | .thermalTrip region => regionOk region.toNat
  | .droopDetect _ _ sixteenths => decide (1 ≤ sixteenths.toNat) && decide (sixteenths.toNat ≤ 8)
  | .droopRecover _ _ _ => true
  | .adaptiveVoltage _ _ => true
  | .recordEvent => true
  | .norPageWrite _ => true
  | .sectorErase _ => true
  | .rateRefill => true
  | .summaryPeriodEnd => true
  | .hourlyPeriodEnd => true
  | .opsecMinute => true
  | .inputLoss _ _ => true
  | .bankLow => true
  | .inputRestore _ _ => true
  | .attnPress => true
  | .attnHold => true
  | .removalDrain _ => true
  | .deniedTimeout => true
  | .pageTouch => true
  | .pageHold => true
  | .displayTimeout => true
  | .latchChange _ => true
  | .osfpCageChange _ _ _ => true
  | .qsfpCageChange _ _ _ => true
  | .cageAlarm _ _ _ => true
  | .standbyEntryDone => true
  | .fallbackCellsZeroed _ => true
  | .bankExhausted => true
  | .unknownCommand _ code => decide (code = 0#8) || decide (0x0E < code.toNat)
  | .reservedFlitKind _ _ => true
  | .unsupportedSpdmRequest _ => true
  | .doeDiscovery _ => true
  | .pcsLockChange _ _ => true
  | .functionDStateChange _ _ => true

end Sys2Proof
end

section
/-!
PROOFS. Every command keeps what Keeps says, so every step of a sound state gives a sound state.
-/
namespace Sys2Proof.Machine

/-! ## Every command (R12, R13) -/

/-- Each command completes and keeps what Keeps says: the operation that is its meaning does. -/
theorem keepsOut_exec (i : Instr) (s : State) : KeepsOut s (exec i s) := by
  have h := Keeps.refl s
  cases i with
  | nop => exact keeps_execNop h
  | jmp => exact keeps_execJmp h
  | loop => exact keeps_execLoop h
  | replay => exact keeps_execReplay h
  | wait => exact keeps_execWait h
  | waitIdle => exact keeps_execWaitIdle h
  | halt => exact keeps_execHalt h
  | reservedOpcode => exact keeps_execReservedOpcode h
  | patchSet => exact keeps_execPatchSet h
  | patchAdd => exact keeps_execPatchAdd h
  | patchArm => exact keeps_execPatchArm h
  | patchClr => exact keeps_execPatchClr h
  | cfg => exact keeps_execCfg h
  | goMx => exact keeps_execGoMx h
  | mxTileDrain => exact keeps_execMxTileDrain h
  | goVx => exact keeps_execGoVx h
  | spillTile => exact keeps_execSpillTile h
  | goFxSubmit => exact keeps_execGoFxSubmit h
  | goFxFence => exact keeps_execGoFxFence h
  | goSy => exact keeps_execGoSy h
  | syLandWord => exact keeps_execSyLandWord h
  | add => exact keeps_execAdd h
  | sub => exact keeps_execSub h
  | and => exact keeps_execAnd h
  | or => exact keeps_execOr h
  | xor => exact keeps_execXor h
  | shl => exact keeps_execShl h
  | shr => exact keeps_execShr h
  | sar => exact keeps_execSar h
  | mul => exact keeps_execMul h
  | min => exact keeps_execMin h
  | max => exact keeps_execMax h
  | minu => exact keeps_execMinu h
  | maxu => exact keeps_execMaxu h
  | cmpeq => exact keeps_execCmpeq h
  | cmplt => exact keeps_execCmplt h
  | cmpltu => exact keeps_execCmpltu h
  | movi => exact keeps_execMovi h
  | movhi => exact keeps_execMovhi h
  | rds => exact keeps_execRds h
  | movgp => exact keeps_execMovgp h
  | movpg => exact keeps_execMovpg h
  | vadd => exact keeps_execVadd h
  | vsub => exact keeps_execVsub h
  | vmul => exact keeps_execVmul h
  | vfma => exact keeps_execVfma h
  | vmin => exact keeps_execVmin h
  | vmax => exact keeps_execVmax h
  | vabs => exact keeps_execVabs h
  | vneg => exact keeps_execVneg h
  | vand => exact keeps_execVand h
  | vor => exact keeps_execVor h
  | vxor => exact keeps_execVxor h
  | vshl => exact keeps_execVshl h
  | vshr => exact keeps_execVshr h
  | vsar => exact keeps_execVsar h
  | vcmpeq => exact keeps_execVcmpeq h
  | vcmplt => exact keeps_execVcmplt h
  | vcmple => exact keeps_execVcmple h
  | vsel => exact keeps_execVsel h
  | vmov => exact keeps_execVmov h
  | vbcast => exact keeps_execVbcast h
  | viota => exact keeps_execViota h
  | vcvt => exact keeps_execVcvt h
  | vdiv => exact keeps_execVdiv h
  | vsqrt => exact keeps_execVsqrt h
  | vscale => exact keeps_execVscale h
  | vld => exact keeps_execVld h
  | vst => exact keeps_execVst h
  | vgathW => exact keeps_execVgathW h
  | vgathD => exact keeps_execVgathD h
  | vscatW => exact keeps_execVscatW h
  | vscatD => exact keeps_execVscatD h
  | vtpop => exact keeps_execVtpop h
  | vrsum => exact keeps_execVrsum h
  | vrmax => exact keeps_execVrmax h
  | vrmin => exact keeps_execVrmin h
  | topk => exact keeps_execTopk h
  | topkM => exact keeps_execTopkM h
  | rwait => exact keeps_execRwait h
  | rpop => exact keeps_execRpop h
  | rpub => exact keeps_execRpub h
  | qpush => exact keeps_execQpush h
  | qpop => exact keeps_execQpop h
  | qpeek => exact keeps_execQpeek h
  | firstof => exact keeps_execFirstof h
  | cinc => exact keeps_execCinc h
  | cdec => exact keeps_execCdec h
  | cwait => exact keeps_execCwait h
  | bar => exact keeps_execBar h
  | launch => exact keeps_execLaunch h
  | batchTake => exact keeps_execBatchTake h
  | respPut => exact keeps_execRespPut h
  | wordArrival => exact keeps_execWordArrival h
  | roomReturn => exact keeps_execRoomReturn h
  | counterTokenArrival => exact keeps_execCounterTokenArrival h
  | doneCtrIncrement => exact keeps_execDoneCtrIncrement h
  | ringViewUpdate => exact keeps_execRingViewUpdate h
  | doorbellArrival => exact keeps_execDoorbellArrival h
  | channelBarrierRelease => exact keeps_execChannelBarrierRelease h
  | chipBarrierRelease => exact keeps_execChipBarrierRelease h
  | barTimeout => exact keeps_execBarTimeout h
  | fabricBarrierRelease => exact keeps_execFabricBarrierRelease h
  | napWake => exact keeps_execNapWake h
  | alignerLock => exact keeps_execAlignerLock h
  | conflictHaltTimeout => exact keeps_execConflictHaltTimeout h
  | sweeperVisit => exact keeps_execSweeperVisit h
  | bankInitDone => exact keeps_execBankInitDone h
  | groupPowerUpDone => exact keeps_execGroupPowerUpDone h
  | badgerReport => exact keeps_execBadgerReport h
  | foxAccept => exact keeps_execFoxAccept h
  | foxIssue => exact keeps_execFoxIssue h
  | hbmReadReturn => exact keeps_execHbmReadReturn h
  | descriptorComplete => exact keeps_execDescriptorComplete h
  | peerServiceSlot => exact keeps_execPeerServiceSlot h
  | remoteReadTimeout => exact keeps_execRemoteReadTimeout h
  | foxHsqTailSeen => exact keeps_execFoxHsqTailSeen h
  | frameReceive => exact keeps_execFrameReceive h
  | slowPathReply => exact keeps_execSlowPathReply h
  | requestAdmit => exact keeps_execRequestAdmit h
  | batchBoundary => exact keeps_execBatchBoundary h
  | deadlineExpiry => exact keeps_execDeadlineExpiry h
  | responseArrival => exact keeps_execResponseArrival h
  | responseSent => exact keeps_execResponseSent h
  | batchStreamWord => exact keeps_execBatchStreamWord h
  | tagGraceExpiry => exact keeps_execTagGraceExpiry h
  | seamReady => exact keeps_execSeamReady h
  | exchangeSwap => exact keeps_execExchangeSwap h
  | exchHoldTimeout => exact keeps_execExchHoldTimeout h
  | latchedSyncPresent => exact keeps_execLatchedSyncPresent h
  | refreshSlot => exact keeps_execRefreshSlot h
  | gtcTick => exact keeps_execGtcTick h
  | fusionEpoch => exact keeps_execFusionEpoch h
  | syncInEdge => exact keeps_execSyncInEdge h
  | ptmDialogue => exact keeps_execPtmDialogue h
  | syncOutPulse => exact keeps_execSyncOutPulse h
  | beaconSend => exact keeps_execBeaconSend h
  | flitTransmit => exact keeps_execFlitTransmit h
  | crcFail => exact keeps_execCrcFail h
  | idle => exact keeps_execIdle h
  | nak => exact keeps_execNak h
  | flow => exact keeps_execFlow h
  | rreq => exact keeps_execRreq h
  | rdata => exact keeps_execRdata h
  | rref => exact keeps_execRref h
  | commit => exact keeps_execCommit h
  | cancel => exact keeps_execCancel h
  | hopfail => exact keeps_execHopfail h
  | beacon => exact keeps_execBeacon h
  | arrive => exact keeps_execArrive h
  | release => exact keeps_execRelease h
  | fault => exact keeps_execFault h
  | attest => exact keeps_execAttest h
  | hello => exact keeps_execHello h
  | peerAdmit _ _ c _ => exact keeps_execPeerAdmit (a3 := c) h
  | retire _ _ c => exact keeps_execRetire (a3 := c) h
  | ackTimeout => exact keeps_execAckTimeout h
  | episodeLimit => exact keeps_execEpisodeLimit h
  | signalDetect => exact keeps_execSignalDetect h
  | trainingComplete => exact keeps_execTrainingComplete h
  | trainingTimeout => exact keeps_execTrainingTimeout h
  | signalLoss => exact keeps_execSignalLoss h
  | faultRetrain => exact keeps_execFaultRetrain h
  | helloSend => exact keeps_execHelloSend h
  | linkRetireDone => exact keeps_execLinkRetireDone h
  | attestationDone => exact keeps_execAttestationDone h
  | obind => exact keeps_execObind h
  | ogrant => exact keeps_execOgrant h
  | oskey => exact keeps_execOskey h
  | opolicy => exact keeps_execOpolicy h
  | oend => exact keeps_execOend h
  | ostat => exact keeps_execOstat h
  | bindingTimeout => exact keeps_execBindingTimeout h
  | killSequenceComplete => exact keeps_execKillSequenceComplete h
  | getVersion => exact keeps_execGetVersion h
  | getCapabilities => exact keeps_execGetCapabilities h
  | negotiateAlgorithms => exact keeps_execNegotiateAlgorithms h
  | getDigests => exact keeps_execGetDigests h
  | getCertificate => exact keeps_execGetCertificate h
  | challenge => exact keeps_execChallenge h
  | getMeasurements => exact keeps_execGetMeasurements h
  | keyExchange => exact keeps_execKeyExchange h
  | finish => exact keeps_execFinish h
  | endSession => exact keeps_execEndSession h
  | heartbeat => exact keeps_execHeartbeat h
  | keyUpdate => exact keeps_execKeyUpdate h
  | getEncapsulatedRequest => exact keeps_execGetEncapsulatedRequest h
  | deliverEncapsulatedResponse => exact keeps_execDeliverEncapsulatedResponse h
  | doeAbort => exact keeps_execDoeAbort h
  | setEndpointId => exact keeps_execSetEndpointId h
  | getEndpointId => exact keeps_execGetEndpointId h
  | getMctpVersionSupport type => exact keeps_execGetMctpVersionSupport (a1 := type) h
  | getMessageTypeSupport => exact keeps_execGetMessageTypeSupport h
  | getVendorDefinedMessageSupport set => exact keeps_execGetVendorDefinedMessageSupport (a1 := set) h
  | getTid => exact keeps_execGetTid h
  | setTid => exact keeps_execSetTid h
  | getPldmVersion type => exact keeps_execGetPldmVersion (a1 := type) h
  | getPldmTypes => exact keeps_execGetPldmTypes h
  | getPldmCommands => exact keeps_execGetPldmCommands h
  | getPdrRepositoryInfo => exact keeps_execGetPdrRepositoryInfo h
  | getPdr record => exact keeps_execGetPdr (a1 := record) h
  | getSensorReading => exact keeps_execGetSensorReading h
  | getStateSensorReadings => exact keeps_execGetStateSensorReadings h
  | setStateEffecterStates => exact keeps_execSetStateEffecterStates h
  | setEventReceiver => exact keeps_execSetEventReceiver h
  | alertResponseRead => exact keeps_execAlertResponseRead h
  | inputPowerGood => exact keeps_execInputPowerGood h
  | modRstN => exact keeps_execModRstN h
  | perst => exact keeps_execPerst h
  | flr => exact keeps_execFlr h
  | watchdogExpiry => exact keeps_execWatchdogExpiry h
  | warmReset => exact keeps_execWarmReset h
  | chRst => exact keeps_execChRst h
  | fwProgram => exact keeps_execFwProgram h
  | fwProgramDone => exact keeps_execFwProgramDone h
  | recoveryGo => exact keeps_execRecoveryGo h
  | jtagDebugInstruction => exact keeps_execJtagDebugInstruction h
  | rdout => exact keeps_execRdout h
  | rdoutCaptureDr => exact keeps_execRdoutCaptureDr h
  | coreCtlRun => exact keeps_execCoreCtlRun h
  | coreCtlStop => exact keeps_execCoreCtlStop h
  | coreCtlDbell => exact keeps_execCoreCtlDbell h
  | coreCtlCreset => exact keeps_execCoreCtlCreset h
  | chDbell => exact keeps_execChDbell h
  | rteCtlFlip => exact keeps_execRteCtlFlip h
  | chCfgWrite => exact keeps_execChCfgWrite h
  | spdKindPwrWrite => exact keeps_execSpdKindPwrWrite h
  | ringCfgWrite => exact keeps_execRingCfgWrite h
  | foxCtlWrite => exact keeps_execFoxCtlWrite h
  | foxHsqTail => exact keeps_execFoxHsqTail h
  | hbqWtail => exact keeps_execHbqWtail h
  | hbqRhead => exact keeps_execHbqRhead h
  | ownSkeyLoad => exact keeps_execOwnSkeyLoad h
  | fabFwdData => exact keeps_execFabFwdData h
  | tunGtcLoRead => exact keeps_execTunGtcLoRead h
  | tunGtcHiRead => exact keeps_execTunGtcHiRead h
  | bar2Access => exact keeps_execBar2Access h
  | irqMaskWrite => exact keeps_execIrqMaskWrite h
  | chPwrWrite => exact keeps_execChPwrWrite h
  | evrConfigWrite => exact keeps_execEvrConfigWrite h
  | evrAdv => exact keeps_execEvrAdv h
  | frzCtrlGo => exact keeps_execFrzCtrlGo h
  | freezeN => exact keeps_execFreezeN h
  | readoutStart => exact keeps_execReadoutStart h
  | readoutNext => exact keeps_execReadoutNext h
  | readoutWindowReady => exact keeps_execReadoutWindowReady h
  | readoutStop => exact keeps_execReadoutStop h
  | fpnRmvReq => exact keeps_execFpnRmvReq h
  | fpnRmvSafe => exact keeps_execFpnRmvSafe h
  | fpnRmvDeny => exact keeps_execFpnRmvDeny h
  | fpnRmvCancel => exact keeps_execFpnRmvCancel h
  | registerWrite => exact keeps_execRegisterWrite h
  | mailboxOverrun => exact keeps_execMailboxOverrun h
  | identify => exact keeps_execIdentify h
  | channelAssign => exact keeps_execChannelAssign h
  | channelRelease => exact keeps_execChannelRelease h
  | ownerBind => exact keeps_execOwnerBind h
  | ownerKill => exact keeps_execOwnerKill h
  | exchangeArm => exact keeps_execExchangeArm h
  | exchangeAbort => exact keeps_execExchangeAbort h
  | epochFlip => exact keeps_execEpochFlip h
  | powerSet => exact keeps_execPowerSet h
  | powerSetRun => exact keeps_execPowerSetRun h
  | powerSetStandby => exact keeps_execPowerSetStandby h
  | powerSetChipRun => exact keeps_execPowerSetChipRun h
  | timePolicy => exact keeps_execTimePolicy h
  | linkAdmit => exact keeps_execLinkAdmit h
  | linkAdmitAttest => exact keeps_execLinkAdmitAttest h
  | linkAdmitAttestMatch => exact keeps_execLinkAdmitAttestMatch h
  | linkAdmitRestore => exact keeps_execLinkAdmitRestore h
  | linkRetire => exact keeps_execLinkRetire h
  | serviceBind => exact keeps_execServiceBind h
  | serviceUnbind => exact keeps_execServiceUnbind h
  | evrClear => exact keeps_execEvrClear h
  | freezeArm => exact keeps_execFreezeArm h
  | dozeEntryDone => exact keeps_execDozeEntryDone h
  | gtcWakeMatch => exact keeps_execGtcWakeMatch h
  | channelWakeDone => exact keeps_execChannelWakeDone h
  | wakeFailure => exact keeps_execWakeFailure h
  | standbyWakeDone => exact keeps_execStandbyWakeDone h
  | pllRelockDone => exact keeps_execPllRelockDone h
  | batchMark => exact keeps_execBatchMark h
  | thermalSample pairs hbm =>
    show KeepsOut s (execThermalSample pairs hbm s)
    exact keeps_execThermalSample h
  | throttleLoop => exact keeps_execThrottleLoop h
  | capLoop => exact keeps_execCapLoop h
  | thermalTrip => exact keeps_execThermalTrip h
  | droopDetect => exact keeps_execDroopDetect h
  | droopRecover => exact keeps_execDroopRecover h
  | adaptiveVoltage => exact keeps_execAdaptiveVoltage h
  | recordEvent => exact keeps_execRecordEvent h
  | norPageWrite => exact keeps_execNorPageWrite h
  | sectorErase => exact keeps_execSectorErase h
  | rateRefill => exact keeps_execRateRefill h
  | summaryPeriodEnd => exact keeps_execSummaryPeriodEnd h
  | hourlyPeriodEnd => exact keeps_execHourlyPeriodEnd h
  | opsecMinute => exact keeps_execOpsecMinute h
  | inputLoss => exact keeps_execInputLoss h
  | bankLow => exact keeps_execBankLow h
  | inputRestore => exact keeps_execInputRestore h
  | attnPress => exact keeps_execAttnPress h
  | attnHold => exact keeps_execAttnHold h
  | removalDrain => exact keeps_execRemovalDrain h
  | deniedTimeout => exact keeps_execDeniedTimeout h
  | pageTouch => exact keeps_execPageTouch h
  | pageHold => exact keeps_execPageHold h
  | displayTimeout => exact keeps_execDisplayTimeout h
  | latchChange => exact keeps_execLatchChange h
  | osfpCageChange => exact keeps_execOsfpCageChange h
  | qsfpCageChange => exact keeps_execQsfpCageChange h
  | cageAlarm => exact keeps_execCageAlarm h
  | standbyEntryDone => exact keeps_execStandbyEntryDone h
  | fallbackCellsZeroed => exact keeps_execFallbackCellsZeroed h
  | bankExhausted => exact keeps_execBankExhausted h
  | unknownCommand => exact keeps_execUnknownCommand h
  | reservedFlitKind => exact keeps_execReservedFlitKind h
  | unsupportedSpdmRequest => exact keeps_execUnsupportedSpdmRequest h
  | doeDiscovery => exact keeps_execDoeDiscovery h
  | pcsLockChange => exact keeps_execPcsLockChange h
  | functionDStateChange => exact keeps_execFunctionDStateChange h

/-! ## A step -/

/-- The queue of waiting commands has no part in soundness. -/
theorem Sound.setPending {s : State} (h : Sound s) (cs : List Instr) : Sound { s with pending := cs } := { h with }

theorem step_of_pending_nil {s : State} (h : s.pending = []) : step s = .next s := by
  unfold step
  rw [h]

theorem step_of_pending_cons {s : State} {c : Instr} {cs : List Instr} (h : s.pending = c :: cs) :
    step s = exec c { s with pending := cs } := by
  unfold step
  rw [h]

/-- Settles O3, by what each command keeps: a step is the front command's effect on the state with the queue's rest. -/
theorem everyStepKeepsTheStateSound : Obligations.EveryStepKeepsTheStateSound := by
  unfold Obligations.EveryStepKeepsTheStateSound
  refine ⟨fun c s => ?_, fun s hs => ?_⟩
  · obtain ⟨t, ht, hk⟩ := (keepsOut_exec c s).next
    exact ⟨t, ht, hk.pending⟩
  · cases hp : s.pending with
    | nil => exact ⟨s, step_of_pending_nil hp, hs, hp, (Keeps.refl s).out, (Keeps.refl s).ctr⟩
    | cons c cs =>
      obtain ⟨t, ht, hk⟩ := (keepsOut_exec c { s with pending := cs }).next
      exact ⟨t, (step_of_pending_cons hp).trans ht, hk.sound (hs.setPending cs), hk.pending, hk.out, hk.ctr⟩

/-! ## Reset -/

/-- Empty tables are in order, and what holds of every entry holds of none. -/
theorem sound_reset : Sound State.reset where
  mem := rfl
  reg := rfl
  fits := List.forall_mem_nil _
  rerunFits := List.forall_mem_nil _
  vreg := rfl
  planes := rfl
  tiles := rfl
  mxJobs := rfl
  vxJobs := rfl
  rerun := rfl
  fifo := rfl
  transit := rfl
  foxArr := rfl
  foxAct := rfl
  foxReqs := rfl
  foxMsgs := rfl
  foxPeer := rfl
  hbmBad := rfl
  hbmKey := rfl
  txq := rfl
  retry := rfl
  attest := rfl
  segs := rfl
  segRings := rfl
  windows := rfl
  batches := rfl
  resps := rfl
  liveTags := rfl
  svcPend := rfl
  epochPend := rfl
  held := rfl
  lanes := List.forall_mem_nil _
  tileVals := List.forall_mem_nil _
  jobVals := List.forall_mem_nil _

/-- Settles O2: the state after reset lists nothing. -/
theorem resetStateIsSound : Obligations.ResetStateIsSound :=
  ⟨sound_reset, fun _ _ _ => rfl, fun _ => rfl, rfl⟩

end Sys2Proof.Machine
end

section
/-!
PROOFS. What a place of a named field reads: its reset value and every value of a sound state fit the field's width (R31); and what
a write of one place, or a return of some fields to reset, leaves as it was.
-/
namespace Sys2Proof.Machine

/-! ## Reset values fit -/

theorem trigCode_lt (a : Nat) : trigCode a < 2 ^ 16 := by
  unfold trigCode
  split <;> decide

theorem trigSrc_lt (a : Nat) : trigSrc a < 2 ^ 9 := by
  unfold trigSrc
  split <;> decide

theorem trigSels_length_lt (a : Nat) : (trigSels a).length < 2 ^ 5 := by
  unfold trigSels
  split <;> decide

theorem trigSels_getD_lt (a b : Nat) : (trigSels a).getD b 0 < 2 ^ 32 := by
  have h : ∀ v ∈ trigSels a, v < 2 ^ 32 := by
    unfold trigSels
    split <;> decide
  rw [List.getD_eq_getElem?_getD]
  cases hb : (trigSels a)[b]? with
  | none => decide
  | some v => exact h v (List.mem_of_getElem? hb)

theorem Fld.reset_eq_zero_or_lt : ∀ p ∈ parts, ∀ f ∈ p, f.reset = 0 ∨ f.reset < 2 ^ f.width := by decide

theorem Fld.reset_lt {f : Fld} (hf : f ∈ all) : f.reset < 2 ^ f.width := by
  rw [all_eq_parts, List.mem_flatten] at hf
  obtain ⟨p, hp, hfp⟩ := hf
  rcases reset_eq_zero_or_lt p hp f hfp with h | h
  · rw [h]; exact Nat.two_pow_pos _
  · exact h

/-- What a place holds at reset fits its field: the fields whose reset value depends on the place are looked at one by one. -/
theorem resetAt_lt {f : Fld} (hf : f ∈ Fld.all) (a b : Nat) : resetAt f a b < 2 ^ f.width := by
  have hw : ∀ {g : Fld}, g.Ok → f.id = g.id → f.width = g.width := fun hg h =>
    congrArg Fld.width ((Fld.ok_of_mem hf).unique hg h)
  have either : ∀ {c : Prop} [Decidable c] {x y : Nat}, (c → x < 2 ^ f.width) → (¬ c → y < 2 ^ f.width) →
      (if c then x else y) < 2 ^ f.width := fun hx hy => iteInduction (motive := (· < 2 ^ f.width)) hx hy
  unfold resetAt
  refine either (fun h => ?mxF) fun _ => either (fun h => ?trigCode) fun _ => either (fun h => ?trigMask) fun _ =>
    either (fun h => ?trigSrc) fun _ => either (fun h => ?trigN) fun _ => either (fun h => ?trigEn) fun _ =>
    either (fun h => ?trigSel) fun _ => either (fun h => ?rlim) fun _ => either (fun h => ?cable) fun _ => Fld.reset_lt hf
  case mxF => rw [hw Fld.ok_mxF h]; split <;> decide
  case trigCode => rw [hw Fld.ok_evrTrigCode h]; exact trigCode_lt a
  case trigMask => rw [hw Fld.ok_evrTrigMask h]; split <;> decide
  case trigSrc => rw [hw Fld.ok_evrTrigSrc h]; exact trigSrc_lt a
  case trigN => rw [hw Fld.ok_evrTrigN h]; exact trigSels_length_lt a
  case trigEn => rw [hw Fld.ok_evrTrigEn h]; split <;> decide
  case trigSel => rw [hw Fld.ok_evrTrigSel h]; exact trigSels_getD_lt a b
  case rlim => exact either (fun _ => by rw [hw Fld.ok_evrRlim h]; decide) fun _ => Fld.reset_lt hf
  case cable => rw [hw Fld.ok_lnkStatCable h]; split <;> decide

/-- Every named field of a sound state reads within its width: a listed place by soundness, an unlisted one at its reset value. -/
theorem Sound.get_lt {s : State} (hs : Sound s) {f : Fld} (hf : f ∈ Fld.all) (a b : Nat) : s.get f a b < 2 ^ f.width := by
  unfold State.get
  cases h : tget? s.reg (key f a b) with
  | none => exact resetAt_lt hf a b
  | some v => exact hs.fits _ (mem_of_tget? h) f hf (keyFld_key f a b).symm

/-! ## Fields that return to reset -/

/-- A place whose field is named and whose first index is accepted reads its reset value, every other place reads as before. -/
theorem State.get_clearFlds (s : State) (fs : List Fld) (p : Nat → Bool) (f : Fld) (a b : Nat) :
    (s.clearFlds fs p).get f a b =
      if (fs.any fun g => g.id == f.id) && p (a % 2 ^ 24) then resetAt f a b else s.get f a b := by
  simp only [State.get, State.clearFlds, tget?_tclear, keyFld_key, keyA_key]
  split <;> simp

theorem State.get_clearFlds_of_mem (s : State) {fs : List Fld} {p : Nat → Bool} {f : Fld} {a : Nat} (b : Nat) (hf : f ∈ fs)
    (hp : p (a % 2 ^ 24) = true) : (s.clearFlds fs p).get f a b = resetAt f a b := by
  have h : (fs.any fun g => g.id == f.id) = true := List.any_eq_true.mpr ⟨f, hf, beq_self_eq_true _⟩
  rw [State.get_clearFlds, h, hp, Bool.and_self, if_pos rfl]

theorem State.get_clearFlds_of_not (s : State) (fs : List Fld) {p : Nat → Bool} (f : Fld) {a : Nat} (b : Nat)
    (hp : p (a % 2 ^ 24) = false) : (s.clearFlds fs p).get f a b = s.get f a b := by
  rw [State.get_clearFlds, hp, Bool.and_false, if_neg Bool.false_ne_true]

theorem State.get_clearFlds_of_ne (s : State) {fs : List Fld} (p : Nat → Bool) {f : Fld} (a b : Nat)
    (hf : (fs.any fun g => g.id == f.id) = false) : (s.clearFlds fs p).get f a b = s.get f a b := by
  rw [State.get_clearFlds, hf, Bool.false_and, if_neg Bool.false_ne_true]

/-! ## What stays as it was -/

namespace SameFields

variable {E : Fld → Nat → Nat → Prop} {s t : State}

theorem refl (E : Fld → Nat → Nat → Prop) (s : State) : SameFields E s s := fun _ _ _ _ _ _ _ => rfl

/-- A write of a place of the set. -/
theorem put (h : SameFields E s t) {f : Fld} (hf : f.Ok) {a b : Nat} (hE : E f (a % 2 ^ 24) (b % 2 ^ 24)) (v : Nat) :
    SameFields E s (t.put f a b v) := by
  intro g hg x y hx hy hgE
  rw [t.get_put_of_key_ne v ?_]
  · exact h g hg x y hx hy hgE
  · intro hk
    obtain ⟨hid, hxa, hyb⟩ := (key_eq_iff _ _ _ _ _ _).mp hk
    rw [Nat.mod_eq_of_lt hx] at hxa
    rw [Nat.mod_eq_of_lt hy] at hyb
    rw [(Fld.ok_of_mem hg).unique hf hid, hxa, hyb] at hgE
    exact hgE hE

/-- The set speaks of the register table alone. -/
theorem of_reg {u : State} (h : SameFields E s t) (hr : u.reg = t.reg) : SameFields E s u :=
  fun f hf a b ha hb hE => (State.get_congr hr f a b).trans (h f hf a b ha hb hE)

/-- A return to reset within the set. -/
theorem clearFlds (h : SameFields E s t) {fs : List Fld} {p : Nat → Bool} (hok : ∀ f ∈ fs, f.Ok)
    (hE : ∀ f ∈ fs, ∀ a b, p a = true → E f a b) : SameFields E s (t.clearFlds fs p) := by
  intro g hg x y hx hy hgE
  rw [State.get_clearFlds, if_neg ?_]
  · exact h g hg x y hx hy hgE
  · rw [Bool.and_eq_true, List.any_eq_true, Nat.mod_eq_of_lt hx]
    rintro ⟨⟨f, hf, hid⟩, hp⟩
    rw [← (hok f hf).unique (Fld.ok_of_mem hg) (eq_of_beq hid)] at hgE
    exact hgE (hE f hf x y hp)

end SameFields

/-- Settles O4: soundness bounds a listed value, the table of fields a reset value, and two places of the table have two keys. -/
theorem soundFieldsFitTheirWidths : Obligations.SoundFieldsFitTheirWidths := by
  unfold Obligations.SoundFieldsFitTheirWidths
  refine ⟨fun s hs f hf a b => hs.get_lt hf a b, fun s f hf a b v => ⟨s.get_put_self f a b v, ?_⟩⟩
  exact (SameFields.refl _ s).put (Fld.ok_of_mem hf) ⟨rfl, rfl, rfl⟩ v

end Sys2Proof.Machine
end

section
/-!
PROOFS. The operations on one core that CORE_CTL is made of: what each part of a core reset touches, and what RUN, STOP, DBELL and
CRESET do (R102, R103, R104, R631).
-/
namespace Sys2Proof.Machine

/-! ## Changes at one core -/

/-- Every place whose first index is not that of core c reads as before, and so do the bytes, the events and what is held. -/
structure AtCore (c : Nat) (s t : State) : Prop where
  get : ∀ (f : Fld) (a b : Nat), a % 2 ^ 24 ≠ c % 2 ^ 24 → t.get f a b = s.get f a b
  mem : t.mem = s.mem
  evq : t.evq = s.evq
  held : t.held = s.held

namespace AtCore

variable {c : Nat} {s t u : State}

theorem refl (c : Nat) (s : State) : AtCore c s s := ⟨fun _ _ _ _ => rfl, rfl, rfl, rfl⟩

theorem trans (h : AtCore c s t) (g : AtCore c t u) : AtCore c s u :=
  ⟨fun f a b ha => (g.get f a b ha).trans (h.get f a b ha), g.mem.trans h.mem, g.evq.trans h.evq, g.held.trans h.held⟩

/-- A change of tables that are none of the four. -/
theorem upd (h : AtCore c s t) (hr : u.reg = t.reg) (hm : u.mem = t.mem) (he : u.evq = t.evq) (hh : u.held = t.held) :
    AtCore c s u :=
  h.trans ⟨fun f a b _ => State.get_congr hr f a b, hm, he, hh⟩

theorem put (h : AtCore c s t) (f : Fld) (b v : Nat) : AtCore c s (t.put f c b v) :=
  h.trans ⟨fun _ _ _ ha => t.get_put_a _ _ _ ha, rfl, rfl, rfl⟩

theorem clearFlds (h : AtCore c s t) (hc : c < 2 ^ 24) (fs : List Fld) : AtCore c s (t.clearFlds fs (· == c)) :=
  h.trans ⟨fun f a b ha => t.get_clearFlds_of_not fs f b (by rw [Nat.mod_eq_of_lt hc] at ha; simpa using ha), rfl, rfl, rfl⟩

end AtCore

theorem atCore_endSeg (c : Nat) (atBar : Bool) (s : State) : AtCore c s (endSeg c atBar s) := by
  have h : AtCore c s (s.put .detSegOpen c 0 0) := (AtCore.refl c s).put _ _ _
  unfold endSeg
  dsimp only
  split
  · exact .refl c s
  · split
    · exact h
    · split
      · exact h.upd rfl rfl rfl rfl
      · exact h.put _ _ _

theorem atCore_mxClear (c : Nat) (s : State) : AtCore c s (mxClear c s) := by
  unfold mxClear
  have h := ((AtCore.refl c s).put .mxStatRetained 0 0).put .mxStatDrainwait 0 0
  refine AtCore.put ?_ _ _ _
  exact h.upd rfl rfl rfl rfl

theorem atCore_vxStop (c : Nat) (s : State) : AtCore c s (vxStop c s) := by
  unfold vxStop
  refine AtCore.put ?_ _ _ _
  exact (AtCore.refl c s).upd rfl rfl rfl rfl

theorem atCore_tqFree {c : Nat} (hc : c < 2 ^ 24) (s : State) : AtCore c s (tqFree c s) := by
  unfold tqFree
  exact ((AtCore.refl c s).clearFlds hc _).upd rfl rfl rfl rfl

/-! ## CORE_CYC stands -/

theorem get_endSeg_coreCyc (c : Nat) (atBar : Bool) (s : State) (a b : Nat) :
    (endSeg c atBar s).get .coreCyc a b = s.get .coreCyc a b := by
  have h : (s.put .detSegOpen c 0 0).get .coreCyc a b = s.get .coreCyc a b := s.get_put_fld _ _ _ _ _ (by decide)
  unfold endSeg
  dsimp only
  split
  · rfl
  · split
    · exact h
    · split
      · exact h
      · exact (State.get_inc_fld _ _ _ _ _ _ (by decide)).trans h

theorem get_mxClear_coreCyc (c : Nat) (s : State) (a b : Nat) : (mxClear c s).get .coreCyc a b = s.get .coreCyc a b := by
  have h : ((s.put .mxStatRetained c 0 0).put .mxStatDrainwait c 0 0).get .coreCyc a b = s.get .coreCyc a b := by
    simp (disch := decide) only [State.get_put_fld]
  unfold mxClear
  exact (State.get_put_fld _ _ _ _ _ _ (by decide)).trans h

theorem get_vxStop_coreCyc (c : Nat) (s : State) (a b : Nat) : (vxStop c s).get .coreCyc a b = s.get .coreCyc a b := by
  unfold vxStop
  exact State.get_put_fld _ _ _ _ _ _ (by decide)

/-- Freeing the tile queue returns its fields to reset. -/
theorem get_tqFree (c : Nat) (s : State) (f : Fld) (a b : Nat) :
    (tqFree c s).get f a b = (s.clearFlds [.tqEnt, .tqHead, .tqFreeAt, .tqFullAt] (· == c)).get f a b := rfl

theorem get_tqFree_coreCyc (c : Nat) (s : State) (a b : Nat) : (tqFree c s).get .coreCyc a b = s.get .coreCyc a b := by
  rw [get_tqFree, State.get_clearFlds_of_ne _ _ _ _ (by decide)]

/-! ## Core reset (R102, R631) -/

/-- What a core reset does before the fields return to reset: the units stop, the tile queue is freed, the V registers are
cleared. -/
def unitsReset (c : Nat) (s : State) : State := clearV c (tqFree c (vxStop c (mxClear c (endSeg c false s))))

theorem atCore_unitsReset {c : Nat} (hc : c < 2 ^ 24) (s : State) : AtCore c s (unitsReset c s) :=
  ((((atCore_endSeg c false s).trans (atCore_mxClear c _)).trans (atCore_vxStop c _)).trans (atCore_tqFree hc _)).upd
    rfl rfl rfl rfl

theorem get_coreReset (c : Nat) (s : State) (f : Fld) (a b : Nat) : (coreReset c s).get f a b =
    (((unitsReset c s).clearFlds seqFlds (· == c)).clearFlds unitFlds (· == c)).get f a b := rfl

/-- A field that is neither the sequencer's nor a unit's is left as the stopping of the units leaves it. -/
theorem get_coreReset_of_not (c : Nat) (s : State) {f : Fld} (a b : Nat) (hs : (seqFlds.any fun g => g.id == f.id) = false)
    (hu : (unitFlds.any fun g => g.id == f.id) = false) : (coreReset c s).get f a b = (unitsReset c s).get f a b := by
  rw [get_coreReset, State.get_clearFlds_of_ne _ _ _ _ hu, State.get_clearFlds_of_ne _ _ _ _ hs]

theorem get_coreReset_coreCyc (c : Nat) (s : State) (a b : Nat) : (coreReset c s).get .coreCyc a b = s.get .coreCyc a b := by
  rw [get_coreReset_of_not c s a b (by decide) (by decide)]
  calc (tqFree c (vxStop c (mxClear c (endSeg c false s)))).get .coreCyc a b
    _ = (vxStop c (mxClear c (endSeg c false s))).get .coreCyc a b := get_tqFree_coreCyc c _ a b
    _ = (mxClear c (endSeg c false s)).get .coreCyc a b := get_vxStop_coreCyc c _ a b
    _ = (endSeg c false s).get .coreCyc a b := get_mxClear_coreCyc c _ a b
    _ = s.get .coreCyc a b := get_endSeg_coreCyc c false s a b

/-- Every V register of the core is zero. -/
theorem v_coreReset (c n : Nat) (s : State) : (coreReset c s).v c n = List.replicate 64 0#32 := by
  have hk : ((c * 32 + n % 32) / 32 == c) = true := beq_iff_eq.mpr (by omega)
  show (tget? (tclear (fun k => k / 32 == c) _) (c * 32 + n % 32)).getD _ = _
  rw [tget?_tclear, hk, if_pos rfl, Option.getD_none]

/-- The SQ and unit fields are among those a core reset returns to reset. -/
theorem sqfUnitFlds_subset : [Fld.coreSqf, .mxF, .vxF, .fxF, .syF] ⊆ seqFlds ++ unitFlds := by decide

section
variable {c : Nat} (hc : c < 2 ^ 24) (s : State)
include hc

/-- A core reset touches no place of another core. -/
theorem get_coreReset_of_ne (f : Fld) {a : Nat} (b : Nat) (ha : a % 2 ^ 24 ≠ c) :
    (coreReset c s).get f a b = s.get f a b := by
  have h := ((atCore_unitsReset hc s).clearFlds hc seqFlds).clearFlds hc unitFlds
  rw [get_coreReset]
  exact h.get f a b (by rwa [Nat.mod_eq_of_lt hc])

theorem coreReset_mem : (coreReset c s).mem = s.mem := (atCore_unitsReset hc s).mem

theorem coreReset_evq : (coreReset c s).evq = s.evq := (atCore_unitsReset hc s).evq

theorem coreReset_held : (coreReset c s).held = tdel s.held c := congrArg (tdel · c) (atCore_unitsReset hc s).held

/-- The sequencer's and the units' fields read their reset values. -/
theorem get_coreReset_of_mem {f : Fld} (b : Nat) (hf : f ∈ seqFlds ++ unitFlds) : (coreReset c s).get f c b = resetAt f c b := by
  have hp : (c % 2 ^ 24 == c) = true := by rw [Nat.mod_eq_of_lt hc, beq_self_eq_true]
  rw [get_coreReset]
  rcases List.mem_append.mp hf with h | h
  · rw [State.get_clearFlds, State.get_clearFlds_of_mem _ _ h hp, ite_self]
  · exact State.get_clearFlds_of_mem _ _ h hp

theorem g_coreReset (n : Nat) : (coreReset c s).g c n = 0#64 := by
  unfold State.g
  rw [get_coreReset_of_mem hc s n (by decide : Fld.coreG ∈ _)]
  exact ite_self _

theorem p_coreReset (n : Nat) : (coreReset c s).p c n = 0#64 :=
  congrArg (BitVec.ofNat 64) (get_coreReset_of_mem hc s n (by decide : Fld.coreP ∈ _))

/-- Every tile-queue entry is FREE. -/
theorem get_coreReset_tqEnt (e : Nat) : (coreReset c s).get .tqEnt c e = 0 := by
  have hp : (c % 2 ^ 24 == c) = true := by rw [Nat.mod_eq_of_lt hc, beq_self_eq_true]
  rw [get_coreReset_of_not c s c e (by decide) (by decide)]
  exact (get_tqFree c _ _ _ _).trans (State.get_clearFlds_of_mem _ _ (by decide) hp)

end

/-! ## Starting a core (R102, R183, R195) -/

theorem spdInitRuns_eq_false_iff (c : Nat) (s : State) :
    spdInitRuns c s = false ↔ s.get .spdInitMask c 0 = 0 ∧ s.get .spdUpMask c 0 = 0 := by
  simp [spdInitRuns, State.on]

/-- Of the fields, a re-run point touches the attempt count and the clean mark alone. -/
theorem get_rerunPoint (c : Nat) (s : State) (f : Fld) (a b : Nat) :
    (rerunPoint c s).get f a b = ((s.put .spdStatAttempt c 0 0).put .spdStatClean c 0 1).get f a b := rfl

theorem sameFields_rerunPoint {E : Fld → Nat → Nat → Prop} {c : Nat} (s : State) (hatt : E .spdStatAttempt (c % 2 ^ 24) 0)
    (hclean : E .spdStatClean (c % 2 ^ 24) 0) : SameFields E s (rerunPoint c s) :=
  (((SameFields.refl E s).put Fld.ok_spdStatAttempt (b := 0) hatt 0).put Fld.ok_spdStatClean (b := 0) hclean 1).of_reg rfl

theorem spdInitRuns_rerunPoint (c : Nat) (s : State) : spdInitRuns c (rerunPoint c s) = spdInitRuns c s := by
  simp (disch := decide) only [spdInitRuns, State.on, get_rerunPoint, State.get_put_fld]

/-- A start is a re-run point at which the core shows RUNNING, or WAITING for its banks. -/
theorem startCore_eq (c : Nat) (s : State) : startCore c s =
    ((rerunPoint c s).put .coreStatState c 0 (if spdInitRuns c s then stWaiting else stRunning)).put .coreStartWait c 0
      (if spdInitRuns c s then 1 else 0) := by
  unfold startCore
  dsimp only
  rw [spdInitRuns_rerunPoint]
  split <;> rfl

theorem coreState_startCore (c : Nat) (s : State) : (startCore c s).coreState c =
    if s.get .spdInitMask c 0 = 0 ∧ s.get .spdUpMask c 0 = 0 then stRunning else stWaiting := by
  rw [startCore_eq, State.coreState, State.get_put_fld _ _ _ _ _ _ (by decide), State.get_put_self]
  simp only [← spdInitRuns_eq_false_iff]
  cases spdInitRuns c s <;> rfl

theorem get_startCore_spdStatClean (c : Nat) (s : State) : (startCore c s).get .spdStatClean c 0 = 1 := by
  simp (disch := decide) only [startCore_eq, get_rerunPoint, State.get_put_fld]
  exact State.get_put_self _ _ _ _ _

theorem get_startCore_spdStatAttempt (c : Nat) (s : State) : (startCore c s).get .spdStatAttempt c 0 = 0 := by
  simp (disch := decide) only [startCore_eq, get_rerunPoint, State.get_put_fld]
  exact State.get_put_self _ _ _ _ _

theorem startCore_frame (c : Nat) (s : State) :
    startCore c s = { s with reg := (startCore c s).reg, rerun := (startCore c s).rerun } := by
  rw [startCore_eq]
  rfl

theorem sameFields_startCore {c : Nat} (hc : c < 2 ^ 24) (s : State) :
    SameFields (fun f a _ => f ∈ [Fld.coreStatState, .coreStartWait, .spdStatClean, .spdStatAttempt] ∧ a = c) s
      (startCore c s) := by
  have hm : c % 2 ^ 24 = c := Nat.mod_eq_of_lt hc
  rw [startCore_eq]
  refine .put (.put (sameFields_rerunPoint s ?_ ?_) Fld.ok_coreStatState ?_ _) Fld.ok_coreStartWait ?_ _ <;>
    exact ⟨by decide, hm⟩

/-! ## Stopping a core (R103) -/

/-- The effect of STOP: the core shows STOPPED, holds nothing and waits on nothing. -/
def stopCore (c : Nat) (s : State) : State :=
  ({ s with held := tdel s.held c }.put .coreStatState c 0 stStopped).clearFlds [.coreWkind, .coreWobj, .coreStartWait] (· == c)

theorem coreState_stopCore (c : Nat) (s : State) : (stopCore c s).coreState c = stStopped :=
  (State.get_clearFlds_of_ne _ _ _ _ (by decide)).trans (State.get_put_self _ _ _ _ _)

theorem sameFields_stopCore {c : Nat} (hc : c < 2 ^ 24) (s : State) :
    SameFields (fun f a _ => f ∈ [Fld.coreStatState, .coreWkind, .coreWobj, .coreStartWait] ∧ a = c) s (stopCore c s) := by
  refine .clearFlds (.put (.of_reg (.refl _ s) ?_) Fld.ok_coreStatState ?_ _) ?_ ?_
  · rfl
  · exact ⟨by decide, Nat.mod_eq_of_lt hc⟩
  · simp
  · exact fun f hf a _ ha => ⟨List.mem_cons_of_mem _ hf, eq_of_beq ha⟩

/-! ## The four commands at a core whose window host software reaches -/

/-- Where the recorder records, an event that is raised joins the queue; elsewhere nothing does. -/
theorem State.raise_evq (s : State) (code src : Nat) (ctx : List Nat) :
    (s.raise code src ctx).evq = if Recording s then s.evq ++ [⟨code, src, ctx⟩] else s.evq := by
  have h : (s.on .evrFlushIn 0 0 || s.get .pwrStatChip 0 0 == 2) = true ↔ ¬ Recording s := by
    simp only [State.on, Recording, Bool.or_eq_true, bne_iff_ne, beq_iff_eq, ne_eq, Decidable.not_and_iff_or_not,
      Decidable.not_not]
  unfold State.raise
  split
  next hr => rw [if_neg (h.mp hr)]
  next hr => rw [if_pos (Decidable.not_not.mp (hr ∘ h.mpr))]

/-- The state in which CRESET resets the core: event 0x0104 is raised where the core was neither STOPPED nor HALTED. -/
def cresetRaised (c : Nat) (s : State) : State :=
  if s.coreState c = stStopped ∨ s.coreState c = stHalted then s else s.raise 0x0104 (chanOf c) [c, s.coreState c]

section
variable {core : CoreId} {s : State}

theorem exec_coreCtl_of_window_false (hw : coreWindow core.val s = false) :
    ∀ x ∈ [Instr.coreCtlRun core, .coreCtlStop core, .coreCtlDbell core, .coreCtlCreset core], exec x s = .next s := by
  have hrun : execCoreCtlRun core s = .next s := by simp [execCoreCtlRun, hw]
  have hstop : execCoreCtlStop core s = .next s := by simp [execCoreCtlStop, hw]
  have hdbell : execCoreCtlDbell core s = .next s := by simp [execCoreCtlDbell, hw]
  have hcreset : execCoreCtlCreset core s = .next s := by simp [execCoreCtlCreset, hw]
  simp only [List.forall_mem_cons, List.not_mem_nil, false_imp_iff, implies_true, and_true]
  exact ⟨hrun, hstop, hdbell, hcreset⟩

theorem exec_coreCtlRun (hw : coreWindow core.val s = true) (hst : s.coreState core.val = stStopped) :
    exec (.coreCtlRun core) s = .next (startCore core.val s) := by
  show execCoreCtlRun core s = _
  simp [execCoreCtlRun, hw, hst]

theorem exec_coreCtlStop (hw : coreWindow core.val s = true) (h1 : s.coreState core.val ≠ stStopped)
    (h2 : s.coreState core.val ≠ stHalted) : exec (.coreCtlStop core) s = .next (stopCore core.val s) := by
  show execCoreCtlStop core s = _
  simp [execCoreCtlStop, stopCore, hw, h1, h2]

theorem exec_coreCtlDbell (hw : coreWindow core.val s = true) :
    exec (.coreCtlDbell core) s = .next (s.put .coreStatDbell core.val 0 1) := by
  show execCoreCtlDbell core s = _
  simp [execCoreCtlDbell, hw]

theorem exec_coreCtlCreset (hw : coreWindow core.val s = true) :
    exec (.coreCtlCreset core) s = .next (coreReset core.val (cresetRaised core.val s)) := by
  show execCoreCtlCreset core s = _
  simp [execCoreCtlCreset, cresetRaised, hw]

end

theorem evq_cresetRaised (c : Nat) (s : State) : (cresetRaised c s).evq =
    if s.coreState c ≠ stStopped ∧ s.coreState c ≠ stHalted ∧ Recording s then
      s.evq ++ [⟨0x0104, c / 160, [c, s.coreState c]⟩] else s.evq := by
  unfold cresetRaised
  split
  next h => rw [if_neg (fun g => h.elim g.1 g.2.1)]
  next h =>
    obtain ⟨h1, h2⟩ := not_or.mp h
    rw [State.raise_evq]
    simp only [h1, h2, ne_eq, not_false_eq_true, true_and]
    rfl

/-- The event is all that precedes the reset. -/
theorem cresetRaised_frame (c : Nat) (s : State) : cresetRaised c s = { s with evq := (cresetRaised c s).evq } := by
  unfold cresetRaised State.raise
  split
  · rfl
  · split <;> rfl

theorem get_cresetRaised (c : Nat) (s : State) (f : Fld) (a b : Nat) : (cresetRaised c s).get f a b = s.get f a b :=
  State.get_congr (congrArg State.reg (cresetRaised_frame c s)) f a b

theorem cresetRaised_held (c : Nat) (s : State) : (cresetRaised c s).held = s.held := by rw [cresetRaised_frame]

theorem cresetRaised_mem (c : Nat) (s : State) : (cresetRaised c s).mem = s.mem := by rw [cresetRaised_frame]

/-- Settles O16: each command is the operation on its core that the model names, and the rules of that operation say what it
changes. -/
theorem coreControlStartsStopsAndResetsACore : Obligations.CoreControlStartsStopsAndResetsACore := by
  unfold Obligations.CoreControlStartsStopsAndResetsACore
  intro core s
  have hc : core.val < 2 ^ 24 := by omega
  refine ⟨exec_coreCtl_of_window_false, fun hw => ⟨fun hst => ?run, fun h1 h2 => ?stop, ?dbell, ?creset⟩⟩
  case run =>
    exact ⟨_, exec_coreCtlRun hw hst, coreState_startCore _ s, get_startCore_spdStatClean _ s,
      get_startCore_spdStatAttempt _ s, sameFields_startCore hc s, startCore_frame _ s⟩
  case stop => exact ⟨_, exec_coreCtlStop hw h1 h2, coreState_stopCore _ s, sameFields_stopCore hc s, rfl⟩
  case dbell =>
    exact ⟨_, exec_coreCtlDbell hw, State.get_put_self _ _ _ _ _,
      (SameFields.refl _ s).put Fld.ok_coreStatDbell ⟨rfl, Nat.mod_eq_of_lt hc⟩ 1, rfl⟩
  case creset =>
    have hz {f : Fld} (hf : f ∈ seqFlds ++ unitFlds) (b : Nat) := get_coreReset_of_mem hc (cresetRaised core.val s) b hf
    refine ⟨_, exec_coreCtlCreset hw, hz (f := .coreStatState) (by decide) 0, hz (f := .corePc) (by decide) 0,
      fun n _ => ⟨g_coreReset hc _ n, v_coreReset _ n _⟩, fun n _ => p_coreReset hc _ n,
      hz (f := .coreStatLdepth) (by decide) 0, hz (f := .coreStatInreplay) (by decide) 0,
      fun f hf i _ => hz (sqfUnitFlds_subset hf) i, fun e _ => get_coreReset_tqEnt hc _ e, ?held, fun k hk => ?heldElse,
      ?cyc, ?event, fun f _ a b ha h24 => ?others, ?mem⟩
    case held => rw [coreReset_held hc, tget?_tdel_self]
    case heldElse => rw [coreReset_held hc, tget?_tdel_ne _ hk, cresetRaised_held]
    case cyc => rw [get_coreReset_coreCyc, get_cresetRaised]
    case event => rw [coreReset_evq hc, evq_cresetRaised]
    case others => rw [get_coreReset_of_ne hc _ f b (by rwa [Nat.mod_eq_of_lt h24]), get_cresetRaised]
    case mem => rw [coreReset_mem hc, cresetRaised_mem]

end Sys2Proof.Machine
end

section
/-!
PROOFS. The float formats: decoding an FP32 pattern and encoding the value gives the pattern back, and BF16 widens to FP32 and
narrows back without loss (R116, R117, R118, R141, R143).
-/
namespace Sys2Proof.Machine

/-! ## Significands and signs -/

theorem bitLen_of_lt {m k : Nat} (hlo : 2 ^ k ≤ m) (hhi : m < 2 ^ (k + 1)) : bitLen m = k + 1 := by
  have hm : m ≠ 0 := Nat.ne_of_gt (Nat.lt_of_lt_of_le (Nat.two_pow_pos k) hlo)
  rw [bitLen, if_neg hm, (Nat.log2_eq_iff hm).2 ⟨hlo, hhi⟩]

theorem bitLen_le {m k : Nat} (h : m < 2 ^ k) : bitLen m ≤ k := by
  unfold bitLen
  split
  next => exact Nat.zero_le k
  next hm => exact (Nat.log2_lt hm).2 h

/-- The exponent of the leading one, for a significand of k + 1 bits. -/
theorem topExp_of_lt {m k : Nat} (hlo : 2 ^ k ≤ m) (hhi : m < 2 ^ (k + 1)) (e : Int) : topExp m e = e + k := by
  rw [topExp, bitLen_of_lt hlo hhi]
  omega

/-- Bits below the last place that are all zero shift out without rounding. -/
theorem shiftRne_mul_two_pow (m d : Nat) : shiftRne (m * 2 ^ d) d false = m := by
  by_cases hd : d = 0
  · simp only [shiftRne, hd, if_true, Nat.pow_zero, Nat.mul_one]
  · have hpos := Nat.two_pow_pos d
    have hhalf : 2 ^ d / 2 ≠ 0 := by
      have hle := Nat.pow_le_pow_right Nat.two_pos (Nat.one_le_iff_ne_zero.2 hd)
      omega
    simp only [shiftRne, hd, if_false, Nat.mul_div_cancel _ hpos, Nat.mul_mod_left, Nat.not_lt_zero, hhalf.symm, false_and,
      or_self]

/-- The sign bit of a value decoded from a pattern is the pattern's own. -/
theorem signBit_beq_one (x w : Nat) : signBit (x % 2 == 1) w = x % 2 * 2 ^ (w - 1) := by
  rcases Nat.mod_two_eq_zero_or_one x with h | h
  · rw [h, Nat.zero_mul]
    rfl
  · rw [h, Nat.one_mul]
    rfl

/-! ## Encoding an exact value as FP32 (R117, R141) -/

/-- A significand of at most 24 bits in the range of the normal numbers is stored without rounding. -/
theorem encFin_of_normal {m k : Nat} {e : Int} (neg sticky : Bool) (hlo : 2 ^ k ≤ m) (hhi : m < 2 ^ (k + 1)) (hk : k ≤ 23)
    (hmin : -126 ≤ e + k) (hmax : e + k ≤ 127) :
    encFin neg m e sticky = signBit neg 32 + ((e + k + 126).toNat * 2 ^ 23 + m * 2 ^ (23 - k)) := by
  have hm : m ≠ 0 := Nat.ne_of_gt (Nat.lt_of_lt_of_le (Nat.two_pow_pos k) hlo)
  have hq : max (e + k - 23) (-149) = e + k - 23 := by omega
  have hmant : m * 2 ^ (23 - k) < 2 ^ 24 := calc
    m * 2 ^ (23 - k) < 2 ^ (k + 1) * 2 ^ (23 - k) := Nat.mul_lt_mul_of_pos_right hhi (Nat.two_pow_pos _)
    _ = 2 ^ 24 := by rw [← Nat.pow_add]; congr 1; omega
  have htop : e + (bitLen m : Int) - 1 = e + k := topExp_of_lt hlo hhi e
  have hshift : (e - (e + k - 23)).toNat = 23 - k := by omega
  have hexp : e + k - 23 + 149 = e + k + 126 := by omega
  have hfit : (e + k + 126).toNat * 2 ^ 23 + m * 2 ^ (23 - k) ≤ 0x7F800000 := by omega
  simp only [encFin, htop, hm, hq, if_false, if_neg (show ¬ 128 ≤ e + (k : Int) by omega),
    if_neg (show ¬ e + (k : Int) < -151 by omega), if_pos (show e + (k : Int) - 23 ≤ e by omega), hshift, hexp,
    Nat.min_eq_left hfit]

/-- A denormal is stored as its significand. -/
theorem encFin_of_denormal {m : Nat} (neg sticky : Bool) (h : m < 2 ^ 23) :
    encFin neg m (-149) sticky = signBit neg 32 + m := by
  have hlen := bitLen_le h
  by_cases hm : m = 0
  · rw [encFin, if_pos hm, hm, Nat.add_zero]
  · have hpos : 0 < bitLen m := by rw [bitLen, if_neg hm]; exact Nat.succ_pos _
    have hq : max (-149 + (bitLen m : Int) - 1 - 23) (-149) = -149 := by omega
    have hfit : m ≤ 0x7F800000 := by omega
    simp only [encFin, hm, hq, if_false, if_neg (show ¬ 128 ≤ -149 + (bitLen m : Int) - 1 by omega),
      if_neg (show ¬ -149 + (bitLen m : Int) - 1 < -151 by omega), Int.le_refl, if_true, Int.sub_self,
      Int.add_left_neg, Int.toNat_zero, Nat.pow_zero, Nat.mul_one, Nat.zero_mul, Nat.zero_add, Nat.min_eq_left hfit]

/-! ## The classes of FP32 patterns -/

section
variable {v : Nat}

theorem decF32_of_inf (hex : v / 2 ^ 23 % 256 = 255) (hfr : v % 2 ^ 23 = 0) : decF32 v = .inf (v / 2 ^ 31 % 2 == 1) := by
  simp only [decF32, hex, hfr, if_true]

theorem decF32_of_nan (hex : v / 2 ^ 23 % 256 = 255) (hfr : v % 2 ^ 23 ≠ 0) : decF32 v = .nan := by
  simp only [decF32, hex, hfr, if_true, if_false]

theorem decF32_of_denormal (hex : v / 2 ^ 23 % 256 = 0) :
    decF32 v = .fin (v / 2 ^ 31 % 2 == 1) (v % 2 ^ 23) (-149) := by
  simp only [decF32, hex, if_true, if_neg (show ¬ 0 = 255 by decide)]

theorem decF32_of_normal (hmax : v / 2 ^ 23 % 256 ≠ 255) (hmin : v / 2 ^ 23 % 256 ≠ 0) :
    decF32 v = .fin (v / 2 ^ 31 % 2 == 1) (v % 2 ^ 23 + 2 ^ 23) ((v / 2 ^ 23 % 256 : Nat) - 150) := by
  simp only [decF32, hmax, hmin, if_false]

end

/-- Encoding a decoded pattern gives the pattern back, and the canonical NaN for every NaN (R118, R141). -/
theorem encF32_decF32 {v : Nat} (hv : v < 2 ^ 32) :
    encF32 (decF32 v) = if v % 2 ^ 31 ≤ 0x7F800000 then v else nanBits := by
  by_cases hmax : v / 2 ^ 23 % 256 = 255
  · by_cases hfr : v % 2 ^ 23 = 0
    · rw [decF32_of_inf hmax hfr, if_pos (by omega), encF32, signBit_beq_one]
      omega
    · rw [decF32_of_nan hmax hfr, if_neg (by omega), encF32]
  rw [if_pos (by omega)]
  by_cases hmin : v / 2 ^ 23 % 256 = 0
  · rw [decF32_of_denormal hmin, encF32, encFin_of_denormal _ _ (Nat.mod_lt _ (by decide)), signBit_beq_one]
    omega
  · rw [decF32_of_normal hmax hmin, encF32,
      encFin_of_normal (k := 23) _ _ (by omega) (by omega) (Nat.le_refl 23) (by omega) (by omega), signBit_beq_one]
    omega

/-! ## BF16: the upper half of an FP32 pattern (R116, R143) -/

section
variable {v : Nat}

theorem decBf16_of_inf (hex : v / 2 ^ 7 % 256 = 255) (hfr : v % 2 ^ 7 = 0) : decBf16 v = .inf (v / 2 ^ 15 % 2 == 1) := by
  simp only [decBf16, hex, hfr, if_true]

theorem decBf16_of_zero (hex : v / 2 ^ 7 % 256 = 0) : decBf16 v = .fin (v / 2 ^ 15 % 2 == 1) 0 0 := by
  simp only [decBf16, hex, if_true, if_neg (show ¬ 0 = 255 by decide)]

theorem decBf16_of_normal (hmax : v / 2 ^ 7 % 256 ≠ 255) (hmin : v / 2 ^ 7 % 256 ≠ 0) :
    decBf16 v = .fin (v / 2 ^ 15 % 2 == 1) (v % 2 ^ 7 + 2 ^ 7) ((v / 2 ^ 7 % 256 : Nat) - 134) := by
  simp only [decBf16, hmax, hmin, if_false]

/-- Widening a BF16 pattern that is neither a NaN nor a denormal appends sixteen zero bits. -/
theorem encF32_decBf16 (hv : v < 2 ^ 16) (hnan : v % 2 ^ 15 ≤ 0x7F80) (hden : 0x80 ≤ v % 2 ^ 15 ∨ v % 2 ^ 15 = 0) :
    encF32 (decBf16 v) = v * 2 ^ 16 := by
  by_cases hmax : v / 2 ^ 7 % 256 = 255
  · rw [decBf16_of_inf hmax (by omega), encF32, signBit_beq_one]
    omega
  by_cases hmin : v / 2 ^ 7 % 256 = 0
  · rw [decBf16_of_zero hmin, encF32, encFin, if_pos rfl, signBit_beq_one]
    omega
  · rw [decBf16_of_normal hmax hmin, encF32,
      encFin_of_normal (k := 7) _ _ (by omega) (by omega) (by decide) (by omega) (by omega), signBit_beq_one]
    omega

/-- An 8-bit significand followed by sixteen zero bits narrows without rounding. -/
theorem toBf16_of_normal {m : Nat} {e : Int} (neg : Bool) (hlo : 2 ^ 7 ≤ m) (hhi : m < 2 ^ 8) (hmin : -126 ≤ e + 23)
    (hmax : e + 23 ≤ 127) :
    toBf16 (.fin neg (m * 2 ^ 16) e) = signBit neg 16 + ((e + 150).toNat * 2 ^ 7 + m % 2 ^ 7) := by
  have hround : roundSig 8 (m * 2 ^ 16) e = (m, e + (16 : Nat)) := by
    rw [roundSig, bitLen_of_lt (k := 23) (by omega) (by omega), shiftRne_mul_two_pow]
  have htop : topExp m (e + (16 : Nat)) = e + 23 := by
    rw [topExp_of_lt hlo hhi]
    omega
  have hpack : packNorm 7 127 m (e + (16 : Nat)) = (e + 150).toNat * 2 ^ 7 + m % 2 ^ 7 := by
    have hplace : e + 23 - (e + (16 : Nat)) = (7 : Nat) := by omega
    have hexp : e + 23 + 127 = e + 150 := by omega
    simp only [packNorm, htop, hplace, hexp, Int.le_refl, if_true, Int.sub_self, Int.toNat_zero, Nat.pow_zero, Nat.div_one]
  simp only [toBf16, hround, htop, hpack]
  rw [if_neg (by omega), if_neg (by omega)]

/-- Narrowing an FP32 pattern whose lower half is zero keeps its upper half, when that is neither a NaN nor a denormal. -/
theorem toBf16_decF32_mul_two_pow (hv : v < 2 ^ 16) (hnan : v % 2 ^ 15 ≤ 0x7F80)
    (hden : 0x80 ≤ v % 2 ^ 15 ∨ v % 2 ^ 15 = 0) : toBf16 (decF32 (v * 2 ^ 16)) = v := by
  have hsign : v * 2 ^ 16 / 2 ^ 31 = v / 2 ^ 15 := by omega
  have hex : v * 2 ^ 16 / 2 ^ 23 = v / 2 ^ 7 := by omega
  by_cases hmax : v / 2 ^ 7 % 256 = 255
  · rw [decF32_of_inf (by rwa [hex]) (by omega), toBf16, hsign, signBit_beq_one]
    omega
  by_cases hmin : v / 2 ^ 7 % 256 = 0
  · have hzero : v * 2 ^ 16 % 2 ^ 23 = 0 := by omega
    have hround : roundSig 8 0 (-149) = (0, -149) := by decide
    rw [decF32_of_denormal (by rwa [hex]), hzero, hsign, toBf16, hround]
    simp only [true_or, if_true, signBit_beq_one]
    omega
  · have hsig : v * 2 ^ 16 % 2 ^ 23 + 2 ^ 23 = (v % 2 ^ 7 + 2 ^ 7) * 2 ^ 16 := by omega
    rw [decF32_of_normal (by rwa [hex]) (by rwa [hex]), hsign, hex, hsig,
      toBf16_of_normal _ (by omega) (by omega) (by omega) (by omega), signBit_beq_one]
    omega

end

/-- Settles O22: the classes of patterns are told apart by the exponent field, and none of them is rounded. -/
theorem floatFormatsDecodeAndEncodeExactly : Obligations.FloatFormatsDecodeAndEncodeExactly := by
  unfold Obligations.FloatFormatsDecodeAndEncodeExactly
  refine ⟨fun v hv => encF32_decF32 hv, fun v hv hnan hden => ?_⟩
  rw [encF32_decBf16 hv hnan hden]
  exact toBf16_decF32_mul_two_pow hv hnan hden

end Sys2Proof.Machine
end

section
/-!
PROOFS. The scratchpad's events (R188, R189, R190, R194, R195, R196): what each operation on bank kinds, power groups,
initialisation and the sweeper leaves in the masks, the tags and the bytes, and what it does not touch.
-/
namespace Sys2Proof.Machine

theorem Fld.Ok.mem_all {f : Fld} (h : f.Ok) : f ∈ Fld.all := List.mem_of_getElem? ((Fld.all_getElem? f.id).trans h)

/-! ## Bits of masks -/

/-- A fold that sets the bits named by a list. -/
theorem testBit_foldl_or_two_pow (l : List Nat) (m k : Nat) :
    (l.foldl (fun r b => r ||| 2 ^ b) m).testBit k = (m.testBit k || decide (k ∈ l)) := by
  induction l generalizing m with
  | nil => simp
  | cons b l ih =>
    rw [List.foldl_cons, ih, Nat.testBit_or, Nat.testBit_two_pow, Bool.or_assoc]
    simp [eq_comm]

/-- Adding distinct powers of two sets exactly their bits. -/
theorem foldl_add_two_pow_below (n : Nat) (p : Nat → Bool) :
    (below n p).foldl (fun r g => r + 2 ^ g) 0 < 2 ^ n ∧
      ∀ k, ((below n p).foldl (fun r g => r + 2 ^ g) 0).testBit k = (decide (k < n) && p k) := by
  induction n with
  | zero => simp [below]
  | succ n ih =>
    obtain ⟨hlt, hbit⟩ := ih
    have hstep : below (n + 1) p = below n p ++ if p n then [n] else [] := by
      simp [below, List.range_succ, List.filter_append, List.filter_cons]
    rw [hstep, List.foldl_append]
    generalize (below n p).foldl (fun r g => r + 2 ^ g) 0 = r at hlt hbit
    cases hp : p n with
    | false =>
      refine ⟨Nat.lt_trans hlt (Nat.pow_lt_pow_right (by decide) n.lt_succ_self), fun k => (hbit k).trans ?_⟩
      rcases Nat.lt_trichotomy k n with h | h | h
      · simp [h, Nat.lt_succ_of_lt h]
      · simp [h, hp]
      · simp [show ¬ k < n by omega, show ¬ k < n + 1 by omega]
    | true =>
      refine ⟨?_, fun k => ?_⟩
      · show r + 2 ^ n < 2 ^ (n + 1)
        omega
      · show (r + 2 ^ n).testBit k = _
        have hr := Nat.testBit_two_pow_mul_add 1 hlt k
        rw [Nat.mul_one, Nat.add_comm] at hr
        rw [hr]
        rcases Nat.lt_trichotomy k n with h | h | h
        · rw [if_pos h, hbit]; simp [h, Nat.lt_succ_of_lt h]
        · simp [h, hp]
        · rw [if_neg (by omega), Nat.testBit_lt_two_pow (Nat.one_lt_two_pow (by omega))]
          simp [show ¬ k < n + 1 by omega]

/-- Taking away a bit that is set clears it. -/
theorem testBit_sub_two_pow_self {m k : Nat} (h : m.testBit k = true) : (m - 2 ^ k).testBit k = false := by
  have hdiv := Nat.sub_mul_div m (2 ^ k) 1
  rw [Nat.mul_one] at hdiv
  rw [Nat.testBit_eq_decide_div_mod_eq, decide_eq_true_eq] at h
  rw [Nat.testBit_eq_decide_div_mod_eq, hdiv, decide_eq_false_iff_not]
  omega

/-- The bits of one group's four banks. -/
theorem testBit_nibble (g b : Nat) : (0xF * 2 ^ (4 * g)).testBit b = decide (b / 4 = g) := by
  rw [Nat.testBit_mul_two_pow, show (0xF : Nat) = 2 ^ 4 - 1 from rfl, Nat.testBit_two_pow_sub_one, ← Bool.decide_and,
    decide_eq_decide]
  omega

/-- All ones of a mask but bit b. -/
theorem testBit_ones_sub_two_pow (n b k : Nat) (hb : b < n) :
    (2 ^ n - 1 - 2 ^ b).testBit k = (decide (k < n) && decide (b ≠ k)) := by
  rw [Nat.sub_sub, Nat.add_comm, Nat.testBit_two_pow_sub_succ (Nat.pow_lt_pow_right (by decide) hb), Nat.testBit_two_pow,
    decide_not]

/-! ## Changes to fields and memory alone -/

/-- The fields outside E and the bytes outside B read as before, and nothing but the register table and the memory changed. -/
structure Touches (E : Fld → Nat → Nat → Prop) (B : Nat → Prop) (s t : State) : Prop where
  fields : SameFields E s t
  bytes : SameBytes B s t
  frame : t = { s with reg := t.reg, mem := t.mem }

/-- A wiped byte reads as one that nothing has written, every other byte as before. -/
theorem State.byte_wipe (s : State) (lo hi x : Nat) :
    (s.wipe lo hi).byte x = if lo ≤ x ∧ x < hi then memDefault x else s.byte x := by
  simp only [State.byte, State.wipe, tget?_tclear, Bool.and_eq_true, decide_eq_true_eq]
  split <;> rfl

theorem State.setBytes_frame (s : State) (a : Nat) (vs : List (BitVec 8)) :
    s.setBytes a vs = { s with mem := (s.setBytes a vs).mem } := by
  induction vs generalizing s a with
  | nil => rfl
  | cons v vs ih =>
    show (s.setByte a v).setBytes (a + 1) vs = { s with mem := ((s.setByte a v).setBytes (a + 1) vs).mem }
    rw [ih]
    rfl

namespace Touches

variable {E : Fld → Nat → Nat → Prop} {B : Nat → Prop} {s t u : State}

theorem refl (E : Fld → Nat → Nat → Prop) (B : Nat → Prop) (s : State) : Touches E B s s := ⟨.refl E s, fun _ _ => rfl, rfl⟩

theorem trans (h : Touches E B s t) (g : Touches E B t u) : Touches E B s u where
  fields f hf a b ha hb hE := (g.fields f hf a b ha hb hE).trans (h.fields f hf a b ha hb hE)
  bytes a ha := (g.bytes a ha).trans (h.bytes a ha)
  frame := g.frame.trans (by rw [h.frame])

theorem put (h : Touches E B s t) {f : Fld} (hf : f.Ok) {a b : Nat} (hE : E f (a % 2 ^ 24) (b % 2 ^ 24)) (v : Nat) :
    Touches E B s (t.put f a b v) :=
  h.trans ⟨(SameFields.refl E t).put hf hE v, fun _ _ => rfl, rfl⟩

theorem wipe (h : Touches E B s t) {lo hi : Nat} (hB : ∀ x, lo ≤ x → x < hi → B x) : Touches E B s (t.wipe lo hi) := by
  refine h.trans ⟨(SameFields.refl E t).of_reg rfl, fun x hx => ?_, rfl⟩
  rw [State.byte_wipe, if_neg (fun hr => hx (hB x hr.1 hr.2))]

theorem setBytes (h : Touches E B s t) {a : Nat} {vs : List (BitVec 8)} (hB : ∀ i < vs.length, B (a + i)) :
    Touches E B s (t.setBytes a vs) := by
  refine h.trans ⟨(SameFields.refl E t).of_reg (t.setBytes_reg a vs), fun x hx => ?_, ?_⟩
  · refine t.byte_setBytes_out a vs x (Decidable.byContradiction fun hr => hx ?_)
    have hx := hB (x - a) (by omega)
    rwa [Nat.add_sub_cancel' (by omega)] at hx
  · rw [t.setBytes_frame]

end Touches

section
variable {E : Fld → Nat → Nat → Prop} {B : Nat → Prop}

/-! ## SPD_STAT.INIT and SPD_PWR.READY -/

section
variable (c : Nat) (s : State)

/-- The fields other than READY and INIT read as before. -/
theorem get_spdReadyUpdate_fld {f : Fld} (a b : Nat) (hr : f.id ≠ Fld.spdPwrReady.id) (hi : f.id ≠ Fld.spdStatInit.id) :
    (spdReadyUpdate c s).get f a b = s.get f a b := by
  unfold spdReadyUpdate
  rw [State.get_put_fld _ _ _ _ _ _ hi, State.get_put_fld _ _ _ _ _ _ hr]

theorem get_spdReadyUpdate_spdStatInit : (spdReadyUpdate c s).get .spdStatInit c 0 = if spdInitRuns c s then 1 else 0 := by
  unfold spdReadyUpdate
  rw [State.get_put_self]
  split <;> rfl

/-- A group is ready when it is on and up and none of its banks is being initialised. -/
theorem testBit_spdPwrReady_spdReadyUpdate {g : Nat} (hg : g < 4) :
    ((spdReadyUpdate c s).get .spdPwrReady c 0).testBit g =
      ((s.get .spdPwrOn c 0).testBit g && !(s.get .spdUpMask c 0).testBit g &&
        bitsAt (s.get .spdInitMask c 0) (4 * g) 4 == 0) := by
  unfold spdReadyUpdate
  dsimp only
  rw [State.get_put_fld _ _ _ _ _ _ (by decide), State.get_put_self, Nat.testBit_mod_two_pow,
    (foldl_add_two_pow_below 4 _).2, show Fld.spdPwrReady.width = 4 from rfl, decide_eq_true hg, Bool.true_and, Bool.true_and]

end

theorem Touches.spdReadyUpdate {s t : State} (h : Touches E B s t) {c : Nat}
    (hr : E .spdPwrReady (c % 2 ^ 24) 0) (hi : E .spdStatInit (c % 2 ^ 24) 0) : Touches E B s (spdReadyUpdate c t) :=
  (h.put Fld.ok_spdPwrReady (b := 0) hr _).put Fld.ok_spdStatInit (b := 0) hi _

/-! ## SPD_KIND (R194, R195) -/

theorem get_setKinds_spdKindWbank (c v : Nat) (s : State) : (setKinds c v s).get .spdKindWbank c 0 = v % 2 ^ 16 := by
  unfold setKinds
  dsimp only
  rw [get_spdReadyUpdate_fld _ _ _ _ (by decide) (by decide), State.get_put_fld _ _ _ _ _ _ (by decide), State.get_put_self]
  rfl

/-- The banks being initialised are those that were, and each powered bank whose kind changes. -/
theorem testBit_spdInitMask_setKinds (c v : Nat) (s : State) {b : Nat} (hb : b < 16) :
    ((setKinds c v s).get .spdInitMask c 0).testBit b = ((s.get .spdInitMask c 0).testBit b ||
      ((s.get .spdKindWbank c 0).testBit b != v.testBit b && (s.get .spdPwrOn c 0).testBit (b / 4) &&
        !(s.get .spdUpMask c 0).testBit (b / 4))) := by
  unfold setKinds
  dsimp only
  rw [get_spdReadyUpdate_fld _ _ _ _ (by decide) (by decide), State.get_put_self, Nat.testBit_mod_two_pow,
    testBit_foldl_or_two_pow, show Fld.spdInitMask.width = 16 from rfl, decide_eq_true hb, Bool.true_and]
  simp only [below, List.mem_filter, List.mem_range, hb, true_and, Bool.decide_eq_true]

theorem touches_setKinds {c : Nat} (v : Nat) (s : State)
    (hE : ∀ f ∈ [Fld.spdKindWbank, .spdInitMask, .spdPwrReady, .spdStatInit], E f (c % 2 ^ 24) 0) :
    Touches E B s (setKinds c v s) :=
  (((Touches.refl E B s).put Fld.ok_spdKindWbank (b := 0) (hE _ (by decide)) _).put Fld.ok_spdInitMask (b := 0)
    (hE _ (by decide)) _).spdReadyUpdate (hE _ (by decide)) (hE _ (by decide))

/-! ## SPD_PWR (R194, R195) -/

/-- What a write of SPD_PWR.ON does about one group: it comes up, or loses its contents, or is left alone. -/
def setGroup (c v old : Nat) (t : State) (g : Nat) : State :=
  if v.testBit g && !old.testBit g then t.put .spdUpMask c 0 (t.get .spdUpMask c 0 ||| 2 ^ g)
  else if old.testBit g && !v.testBit g then
    ((t.put .spdUpMask c 0 (t.get .spdUpMask c 0 &&& (15 - 2 ^ g))).put .spdInitMask c 0
      (t.get .spdInitMask c 0 &&& (0xFFFF - 0xF * 2 ^ (4 * g)))).wipe (spdAddr c (g * 2 ^ 17)) (spdAddr c (g * 2 ^ 17) + 2 ^ 17)
  else t

/-- The four groups after a write of SPD_PWR.ON, in turn. -/
def groupsSet (c v : Nat) (s : State) : State := (List.range 4).foldl (setGroup c v (s.get .spdPwrOn c 0)) s

theorem setGroups_eq (c v : Nat) (s : State) : setGroups c v s = spdReadyUpdate c ((groupsSet c v s).put .spdPwrOn c 0 v) := rfl

/-- A group that goes on stays coming up whatever is done about the others. -/
theorem testBit_spdUpMask_setGroup (c : Nat) {v old g k : Nat} (t : State) (hg : g < 4) (hk : k < 4) (hv : v.testBit g = true)
    (hold : old.testBit g = false) :
    ((setGroup c v old t k).get .spdUpMask c 0).testBit g = (decide (k = g) || (t.get .spdUpMask c 0).testBit g) := by
  unfold setGroup
  by_cases hon : (v.testBit k && !old.testBit k) = true
  · rw [if_pos hon, State.get_put_self, Nat.testBit_mod_two_pow, Nat.testBit_or, Nat.testBit_two_pow, Bool.or_comm,
      show Fld.spdUpMask.width = 4 from rfl, decide_eq_true hg, Bool.true_and]
  · have hne : k ≠ g := fun e => hon (by rw [e, hv, hold]; rfl)
    rw [if_neg hon, decide_eq_false hne, Bool.false_or]
    split
    · rw [State.get_wipe, State.get_put_fld _ _ _ _ _ _ (by decide), State.get_put_self, Nat.testBit_mod_two_pow,
        Nat.testBit_and, show 15 - 2 ^ k = 2 ^ 4 - 1 - 2 ^ k from rfl, testBit_ones_sub_two_pow 4 k g hk,
        show Fld.spdUpMask.width = 4 from rfl, decide_eq_true hg, decide_eq_true hne]
      simp
    · rfl

theorem testBit_spdUpMask_groupsSet (c : Nat) {v g : Nat} (s : State) (hg : g < 4) (hv : v.testBit g = true)
    (hold : (s.get .spdPwrOn c 0).testBit g = false) : ((groupsSet c v s).get .spdUpMask c 0).testBit g = true := by
  have hstep {k : Nat} (t : State) (hk : k < 4) := testBit_spdUpMask_setGroup c t hg hk hv hold
  unfold groupsSet
  simp only [List.range_succ, List.range_zero, List.nil_append, List.foldl_append, List.foldl_cons, List.foldl_nil]
  rw [hstep _ (by decide), hstep _ (by decide), hstep _ (by decide), hstep _ (by decide)]
  have hcases : g = 0 ∨ g = 1 ∨ g = 2 ∨ g = 3 := by omega
  rcases hcases with rfl | rfl | rfl | rfl <;> rfl

theorem get_setGroups_spdPwrOn (c v : Nat) (s : State) : (setGroups c v s).get .spdPwrOn c 0 = v % 2 ^ 4 := by
  rw [setGroups_eq, get_spdReadyUpdate_fld _ _ _ _ (by decide) (by decide), State.get_put_self]
  rfl

theorem get_setGroups_spdUpMask (c v : Nat) (s : State) :
    (setGroups c v s).get .spdUpMask c 0 = (groupsSet c v s).get .spdUpMask c 0 := by
  rw [setGroups_eq, get_spdReadyUpdate_fld _ _ _ _ (by decide) (by decide), State.get_put_fld _ _ _ _ _ _ (by decide)]

/-- A ready group is on and up. -/
theorem on_of_ready_setGroups (c : Nat) {v g : Nat} (s : State) (hg : g < 4)
    (h : ((setGroups c v s).get .spdPwrReady c 0).testBit g = true) :
    v.testBit g = true ∧ ((setGroups c v s).get .spdUpMask c 0).testBit g = false := by
  rw [setGroups_eq, testBit_spdPwrReady_spdReadyUpdate _ _ hg, State.get_put_self, Nat.testBit_mod_two_pow,
    State.get_put_fld _ _ _ _ _ _ (by decide), ← get_setGroups_spdUpMask] at h
  simp only [Bool.and_eq_true, Bool.not_eq_true'] at h
  obtain ⟨⟨⟨_, hv⟩, hup⟩, _⟩ := h
  exact ⟨hv, hup⟩

/-! ## Addresses -/

theorem spdAddr_of_lt (c : Nat) {a : Nat} (h : a < 2 ^ 19) : spdAddr c a = spdAddr c 0 + a := by
  unfold spdAddr
  omega

/-- A scratchpad byte that nothing has written reads zero. -/
theorem memDefault_spdAddr {c : Nat} (hc : c < 1280) (a : Nat) : memDefault (spdAddr c a) = 0#8 := by
  have h : spdAddr c a < 2 ^ 47 := by unfold spdAddr; omega
  rw [memDefault, if_pos h]

theorem Touches.setGroup {s t : State} (h : Touches E B s t) {c g : Nat}
    (v old : Nat) (hg : g < 4) (hup : E .spdUpMask (c % 2 ^ 24) 0) (hinit : E .spdInitMask (c % 2 ^ 24) 0)
    (hB : ∀ x, spdAddr c 0 ≤ x ∧ x < spdAddr c 0 + 2 ^ 19 → B x) : Touches E B s (setGroup c v old t g) := by
  unfold Sys2Proof.Machine.setGroup
  split
  · exact h.put Fld.ok_spdUpMask (b := 0) hup _
  · split
    · refine ((h.put Fld.ok_spdUpMask (b := 0) hup _).put Fld.ok_spdInitMask (b := 0) hinit _).wipe fun x hlo hhi => hB x ?_
      rw [spdAddr_of_lt c (by omega)] at hlo hhi
      omega
    · exact h

theorem touches_setGroups {c : Nat} (v : Nat) (s : State)
    (hE : ∀ f ∈ [Fld.spdPwrOn, .spdUpMask, .spdInitMask, .spdPwrReady, .spdStatInit], E f (c % 2 ^ 24) 0)
    (hB : ∀ x, spdAddr c 0 ≤ x ∧ x < spdAddr c 0 + 2 ^ 19 → B x) : Touches E B s (setGroups c v s) := by
  have hgroups : Touches E B s (groupsSet c v s) :=
    List.foldlRecOn _ _ (.refl E B s) fun t ht g hg =>
      ht.setGroup v _ (List.mem_range.mp hg) (hE _ (by decide)) (hE _ (by decide)) hB
  rw [setGroups_eq]
  exact (hgroups.put Fld.ok_spdPwrOn (b := 0) (hE _ (by decide)) _).spdReadyUpdate (hE _ (by decide)) (hE _ (by decide))

/-! ## The tags of a run of words (R189, R195) -/

/-- The keys of a run of places of one field are those that name the field, the first index and a second index of the run. -/
theorem key_mem_run_iff {f g : Fld} {a c lo n : Nat} (b : Nat) (hn : lo + n ≤ 2 ^ 24) :
    key f c lo ≤ key g a b ∧ key g a b < key f c lo + n ↔
      g.id = f.id ∧ a % 2 ^ 24 = c % 2 ^ 24 ∧ lo ≤ b % 2 ^ 24 ∧ b % 2 ^ 24 < lo + n := by
  unfold key
  omega

/-- The tags and the stored errors of words lo to lo + n − 1 of a core return to reset. -/
def untagWords (c lo n : Nat) (s : State) : State :=
  { s with reg := tclear (fun k => (decide (key .spdTag c lo ≤ k) && decide (k < key .spdTag c lo + n)) ||
    (decide (key .spdErr c lo ≤ k) && decide (k < key .spdErr c lo + n))) s.reg }

theorem tagWords_eq (c lo n : Nat) (s : State) : tagWords c lo n s =
    if s.get .chSpdEpoch (chanOf c) 0 = 0 then untagWords c lo n s
    else (List.range n).foldl (fun t k => t.put .spdTag c (lo + k) (s.get .chSpdEpoch (chanOf c) 0)) (untagWords c lo n s) :=
  rfl

section
variable {c lo n : Nat} (s : State)

theorem get_untagWords (hn : lo + n ≤ 2 ^ 24) (f : Fld) (a b : Nat) : (untagWords c lo n s).get f a b =
    if (f.id = Fld.spdTag.id ∨ f.id = Fld.spdErr.id) ∧ a % 2 ^ 24 = c % 2 ^ 24 ∧ lo ≤ b % 2 ^ 24 ∧ b % 2 ^ 24 < lo + n then
      resetAt f a b else s.get f a b := by
  simp only [State.get, untagWords, tget?_tclear, Bool.or_eq_true, Bool.and_eq_true, decide_eq_true_eq, key_mem_run_iff b hn,
    ← or_and_right]
  split <;> rfl

/-- Writing one value to a run of places. -/
theorem get_foldl_put_run (f : Fld) (c lo v n b : Nat) (hn : lo + n ≤ 2 ^ 24) (hlo : lo ≤ b) (hhi : b < lo + n) :
    ((List.range n).foldl (fun t k => t.put f c (lo + k) v) s).get f c b = v % 2 ^ f.width := by
  induction n with
  | zero => omega
  | succ n ih =>
    rw [List.range_succ, List.foldl_append, List.foldl_cons, List.foldl_nil]
    by_cases hb : b = lo + n
    · rw [hb, State.get_put_self]
    · rw [State.get_put_b _ _ _ _ (by omega), ih (by omega) (by omega)]

/-- A word of the run carries the current epoch. -/
theorem get_tagWords_spdTag (hn : lo + n ≤ 2 ^ 24) {b : Nat} (hlo : lo ≤ b) (hhi : b < lo + n) :
    (tagWords c lo n s).get .spdTag c b = s.get .chSpdEpoch (chanOf c) 0 % 2 ^ 4 := by
  rw [tagWords_eq]
  split
  next h0 => rw [get_untagWords s hn, if_pos ⟨.inl rfl, rfl, by omega, by omega⟩, h0]; rfl
  next => exact get_foldl_put_run _ _ _ _ _ _ _ hn hlo hhi

/-- Past the tags, tagging a run is its return to reset. -/
theorem get_tagWords_fld {f : Fld} (a b : Nat) (hf : f.id ≠ Fld.spdTag.id) :
    (tagWords c lo n s).get f a b = (untagWords c lo n s).get f a b := by
  rw [tagWords_eq]
  split
  · rfl
  · exact foldl_keeps (fun t : State => t.get f a b = (untagWords c lo n s).get f a b)
      (fun t k ht => (t.get_put_fld _ _ _ _ _ hf).trans ht) rfl

/-- A word of the run holds no stored error. -/
theorem get_tagWords_spdErr (hn : lo + n ≤ 2 ^ 24) {b : Nat} (hlo : lo ≤ b) (hhi : b < lo + n) :
    (tagWords c lo n s).get .spdErr c b = 0 := by
  rw [get_tagWords_fld s _ _ (by decide), get_untagWords s hn, if_pos ⟨.inr rfl, rfl, by omega, by omega⟩]
  rfl

end

theorem Touches.tagWords {s t : State} (h : Touches E B s t) {c lo n : Nat}
    (hn : lo + n ≤ 2 ^ 24) (hE : ∀ f ∈ [Fld.spdTag, .spdErr], ∀ b, lo ≤ b → b < lo + n → E f (c % 2 ^ 24) b) :
    Touches E B s (tagWords c lo n t) := by
  have huntag : Touches E B s (untagWords c lo n t) := by
    refine h.trans ⟨fun f hf a b ha hb hfE => ?_, fun _ _ => rfl, rfl⟩
    rw [get_untagWords t hn, if_neg ?_]
    rintro ⟨hid, hac, hlo, hhi⟩
    rw [Nat.mod_eq_of_lt ha] at hac
    rw [Nat.mod_eq_of_lt hb] at hlo hhi
    have hmem : f ∈ [Fld.spdTag, .spdErr] := by
      rcases hid with hid | hid
      · rw [(Fld.ok_of_mem hf).unique Fld.ok_spdTag hid]; decide
      · rw [(Fld.ok_of_mem hf).unique Fld.ok_spdErr hid]; decide
    exact hfE (hac ▸ hE f hmem b hlo hhi)
  rw [tagWords_eq]
  split
  · exact huntag
  · refine List.foldlRecOn _ _ huntag fun u hu k hk => hu.put Fld.ok_spdTag ?_ _
    have hk := List.mem_range.mp hk
    rw [Nat.mod_eq_of_lt (show lo + k < 2 ^ 24 by omega)]
    exact hE _ (by decide) _ (by omega) (by omega)

theorem byte_tagWords {c lo n : Nat} (s : State) (hn : lo + n ≤ 2 ^ 24) (x : Nat) : (tagWords c lo n s).byte x = s.byte x :=
  ((Touches.refl (fun _ _ _ => True) (fun _ => False) s).tagWords hn fun _ _ _ _ _ => trivial).bytes x not_false

/-! ## The end of a sweep pass, and cores that wait for INIT (R190, R195) -/

/-- SPD_STAT.SWEPT sets where the pass is complete. -/
def noteSwept (c : Nat) (s : State) : State := if sweepDone c s then s.put .spdStatSwept c 0 1 else s

theorem get_noteSwept_fld (c : Nat) (s : State) {f : Fld} (a b : Nat) (hf : f.id ≠ Fld.spdStatSwept.id) :
    (noteSwept c s).get f a b = s.get f a b := by
  unfold noteSwept
  split
  · exact s.get_put_fld _ _ _ _ _ hf
  · rfl

theorem byte_noteSwept (c : Nat) (s : State) (x : Nat) : (noteSwept c s).byte x = s.byte x := by
  unfold noteSwept
  split <;> rfl

theorem Touches.noteSwept {s t : State} (h : Touches E B s t) {c : Nat}
    (hE : E .spdStatSwept (c % 2 ^ 24) 0) : Touches E B s (noteSwept c t) := by
  unfold Sys2Proof.Machine.noteSwept
  split
  · exact h.put Fld.ok_spdStatSwept (b := 0) hE _
  · exact h

theorem get_startWaiting_fld (c : Nat) (s : State) {f : Fld} (a b : Nat) (hs : f.id ≠ Fld.coreStatState.id)
    (hw : f.id ≠ Fld.coreStartWait.id) : (startWaiting c s).get f a b = s.get f a b := by
  unfold startWaiting
  split
  · rw [State.get_put_fld _ _ _ _ _ _ hw, State.get_put_fld _ _ _ _ _ _ hs]
  · rfl

theorem byte_startWaiting (c : Nat) (s : State) (x : Nat) : (startWaiting c s).byte x = s.byte x := by
  unfold startWaiting
  split <;> rfl

theorem Touches.startWaiting {s t : State} (h : Touches E B s t) {c : Nat}
    (hs : E .coreStatState (c % 2 ^ 24) 0) (hw : E .coreStartWait (c % 2 ^ 24) 0) : Touches E B s (startWaiting c t) := by
  unfold Sys2Proof.Machine.startWaiting
  split
  · exact (h.put Fld.ok_coreStatState (b := 0) hs _).put Fld.ok_coreStartWait (b := 0) hw _
  · exact h

/-! ## BANK_INIT_DONE (R190, R195) -/

section
variable {c b : Nat} (s : State)

/-- The words of bank b wiped and tagged: what an initialisation does before the core's masks and counts follow. -/
def wipeBank (c b : Nat) (s : State) : State :=
  tagWords c (b * 512) 512 (s.wipe (spdAddr c (b * 2 ^ 15)) (spdAddr c (b * 2 ^ 15) + 2 ^ 15))

theorem get_initBank_fld {f : Fld} (x y : Nat)
    (hf : ∀ g ∈ [Fld.spdInitMask, .spdVisited, .spdPwrReady, .spdStatInit], f.id ≠ g.id) :
    (initBank c b s).get f x y = (wipeBank c b s).get f x y := by
  unfold initBank
  dsimp only
  rw [get_spdReadyUpdate_fld _ _ _ _ (hf _ (by decide)) (hf _ (by decide)), State.get_put_fld _ _ _ _ _ _ (hf _ (by decide)),
    State.get_put_fld _ _ _ _ _ _ (hf _ (by decide))]
  rfl

/-- A word of the bank carries the current epoch and no stored error. -/
theorem get_initBank_word (hb : b < 16) {w : Nat} (hw : w < 512) :
    (initBank c b s).get .spdTag c (b * 512 + w) = s.get .chSpdEpoch (c / 160) 0 % 2 ^ 4 ∧
      (initBank c b s).get .spdErr c (b * 512 + w) = 0 := by
  rw [get_initBank_fld s _ _ (by decide), get_initBank_fld s _ _ (by decide)]
  exact ⟨get_tagWords_spdTag _ (by omega) (by omega) (by omega), get_tagWords_spdErr _ (by omega) (by omega) (by omega)⟩

/-- Every byte of the bank reads zero. -/
theorem byte_initBank (hc : c < 1280) (hb : b < 16) {i : Nat} (hi : i < 2 ^ 15) :
    (initBank c b s).byte (spdAddr c (b * 2 ^ 15 + i)) = 0#8 := by
  show (wipeBank c b s).byte _ = _
  unfold wipeBank
  rw [byte_tagWords _ (by omega), State.byte_wipe, if_pos, memDefault_spdAddr hc]
  rw [spdAddr_of_lt c (show b * 2 ^ 15 < 2 ^ 19 by omega), spdAddr_of_lt c (show b * 2 ^ 15 + i < 2 ^ 19 by omega)]
  omega

/-- The bank is initialised no longer. -/
theorem testBit_spdInitMask_initBank (hb : b < 16) : ((initBank c b s).get .spdInitMask c 0).testBit b = false := by
  unfold initBank
  dsimp only
  rw [get_spdReadyUpdate_fld _ _ _ _ (by decide) (by decide), State.get_put_fld _ _ _ _ _ _ (by decide), State.get_put_self,
    Nat.testBit_mod_two_pow, Nat.testBit_and, show 0xFFFF - 2 ^ b = 2 ^ 16 - 1 - 2 ^ b from rfl,
    testBit_ones_sub_two_pow 16 b b hb]
  simp

theorem get_initBank_spdVisited : (initBank c b s).get .spdVisited c b = 512 := by
  unfold initBank
  dsimp only
  rw [get_spdReadyUpdate_fld _ _ _ _ (by decide) (by decide), State.get_put_self]
  rfl

theorem touches_initBank (hb : b < 16)
    (hE : ∀ f ∈ [Fld.spdInitMask, .spdPwrReady, .spdStatInit], E f (c % 2 ^ 24) 0) (hvis : E .spdVisited (c % 2 ^ 24) b)
    (hword : ∀ f ∈ [Fld.spdTag, .spdErr], ∀ w, w / 512 = b → E f (c % 2 ^ 24) w)
    (hB : ∀ x, spdAddr c (b * 2 ^ 15) ≤ x ∧ x < spdAddr c (b * 2 ^ 15) + 2 ^ 15 → B x) : Touches E B s (initBank c b s) := by
  have htag := ((Touches.refl E B s).wipe fun x hlo hhi => hB x ⟨hlo, hhi⟩).tagWords (c := c) (lo := b * 512) (n := 512)
    (by omega) fun f hf w _ _ => hword f hf w (by omega)
  refine ((htag.put Fld.ok_spdInitMask (hE _ (by decide)) _).put Fld.ok_spdVisited ?_ 512).spdReadyUpdate (hE _ (by decide))
    (hE _ (by decide))
  rwa [Nat.mod_eq_of_lt (show b < 2 ^ 24 by omega)]

/-- The places that the end of bank b's initialisation may change. -/
def bankInitPlaces (c b : Nat) : Fld → Nat → Nat → Prop := fun f a i =>
  a = c ∧ (f ∈ [Fld.spdInitMask, .spdPwrReady, .spdStatInit, .spdStatSwept, .coreStatState, .coreStartWait] ∨
    f = .spdVisited ∧ i = b ∨ f ∈ [Fld.spdTag, .spdErr] ∧ i / 512 = b)

/-- What follows the initialisation touches neither the masks nor the words. -/
theorem get_bankInitDone_fld {f : Fld} (x y : Nat)
    (hf : ∀ g ∈ [Fld.spdStatSwept, .coreStatState, .coreStartWait], f.id ≠ g.id) :
    (startWaiting c (noteSwept c (initBank c b s))).get f x y = (initBank c b s).get f x y := by
  rw [get_startWaiting_fld _ _ _ _ (hf _ (by decide)) (hf _ (by decide)), get_noteSwept_fld _ _ _ _ (hf _ (by decide))]

theorem initMaskFlds_subset : [Fld.spdInitMask, .spdPwrReady, .spdStatInit] ⊆
    [Fld.spdInitMask, .spdPwrReady, .spdStatInit, .spdStatSwept, .coreStatState, .coreStartWait] := by decide

theorem touches_bankInitDone (hb : b < 16)
    (hE : ∀ f ∈ [Fld.spdInitMask, .spdPwrReady, .spdStatInit, .spdStatSwept, .coreStatState, .coreStartWait], E f (c % 2 ^ 24) 0)
    (hvis : E .spdVisited (c % 2 ^ 24) b) (hword : ∀ f ∈ [Fld.spdTag, .spdErr], ∀ w, w / 512 = b → E f (c % 2 ^ 24) w)
    (hB : ∀ x, spdAddr c (b * 2 ^ 15) ≤ x ∧ x < spdAddr c (b * 2 ^ 15) + 2 ^ 15 → B x) :
    Touches E B s (startWaiting c (noteSwept c (initBank c b s))) := by
  have hinit : Touches E B s (initBank c b s) :=
    touches_initBank s hb (fun f hf => hE f (initMaskFlds_subset hf)) hvis hword hB
  exact (hinit.noteSwept (hE _ (by decide))).startWaiting (hE _ (by decide)) (hE _ (by decide))

end

/-! ## GROUP_POWER_UP_DONE (R195) -/

/-- The masks after group g has come up: it is up, and its four banks are being initialised. -/
def groupUp (c g : Nat) (s : State) : State :=
  (s.put .spdUpMask c 0 (s.get .spdUpMask c 0 - 2 ^ g)).put .spdInitMask c 0 (s.get .spdInitMask c 0 ||| 0xF * 2 ^ (4 * g))

section
variable {c g : Nat} (s : State)

theorem testBit_spdUpMask_groupUp (hg : (s.get .spdUpMask c 0).testBit g = true) :
    ((groupUp c g s).get .spdUpMask c 0).testBit g = false := by
  unfold groupUp
  rw [State.get_put_fld _ _ _ _ _ _ (by decide), State.get_put_self, Nat.testBit_mod_two_pow, testBit_sub_two_pow_self hg,
    Bool.and_false]

theorem testBit_spdInitMask_groupUp {b : Nat} (hb : b < 16) :
    ((groupUp c g s).get .spdInitMask c 0).testBit b = ((s.get .spdInitMask c 0).testBit b || decide (b / 4 = g)) := by
  unfold groupUp
  rw [State.get_put_self, Nat.testBit_mod_two_pow, Nat.testBit_or, testBit_nibble, show Fld.spdInitMask.width = 16 from rfl,
    decide_eq_true hb, Bool.true_and]

/-- The group's first bank is being initialised, so initialisation runs. -/
theorem spdInitRuns_groupUp (hg : g < 4) : spdInitRuns c (groupUp c g s) = true := by
  refine Bool.of_not_eq_false fun h => ?_
  have hbit := testBit_spdInitMask_groupUp (c := c) (g := g) s (show 4 * g < 16 by omega)
  rw [((spdInitRuns_eq_false_iff _ _).mp h).1, Nat.zero_testBit, decide_eq_true (by omega), Bool.or_true] at hbit
  exact Bool.false_ne_true hbit

theorem touches_groupUp
    (hE : ∀ f ∈ [Fld.spdUpMask, .spdInitMask, .spdPwrReady, .spdStatInit], E f (c % 2 ^ 24) 0) :
    Touches E B s (spdReadyUpdate c (groupUp c g s)) :=
  (((Touches.refl E B s).put Fld.ok_spdUpMask (b := 0) (hE _ (by decide)) _).put Fld.ok_spdInitMask (b := 0)
    (hE _ (by decide)) _).spdReadyUpdate (hE _ (by decide)) (hE _ (by decide))

end

/-! ## SWEEPER_VISIT (R189, R190) -/

/-- The word at the sweeper's place, bank × 512 + word in the bank. -/
def sweepWord (c b : Nat) (s : State) : Nat := b * 512 + s.get .spdSweepPos c b

/-- A stale word is zero under the current epoch after the visit. -/
def cleanWord (c w : Nat) (s : State) : State :=
  if isStale c w s then storeWord c w (List.replicate 64 0#8) (fullWord (List.replicate 64 0#8)) false s else s

/-- The whole of a visit of the sweeper to a bank. -/
def sweepVisit (c b : Nat) (s : State) : State :=
  let t := (cleanWord c (sweepWord c b s) s).inc .spdSweepPos c b 1
  noteSwept c (t.put .spdVisited c b (min 512 (t.get .spdVisited c b + 1)))

/-- The places that a visit of the sweeper to bank b may change. -/
def sweepPlaces (c b : Nat) (s : State) : Fld → Nat → Nat → Prop := fun f a i =>
  a = c ∧ (f ∈ [Fld.spdSweepPos, .spdVisited] ∧ i = b ∨ f = .spdStatSwept ∨ f ∈ [Fld.spdTag, .spdErr] ∧ i = sweepWord c b s)

/-- A write of a whole word names each of its bytes once. -/
theorem find?_fullWord {bs : List (BitVec 8)} {k : Nat} (hk : k < bs.length) :
    (fullWord bs).reverse.find? (fun e => e.1 == k) = some (k, bs[k]) := by
  cases hf : (fullWord bs).reverse.find? (fun e => e.1 == k) with
  | none =>
    have hmem : (k, bs[k]) ∈ (fullWord bs).reverse := List.mem_reverse.mpr (List.mem_mapIdx.mpr ⟨k, hk, rfl⟩)
    exact absurd (beq_self_eq_true k) (List.find?_eq_none.mp hf _ hmem)
  | some e =>
    have hmem := List.mem_reverse.mp (List.mem_of_find?_eq_some hf)
    obtain ⟨i, hi, rfl⟩ := List.mem_mapIdx.mp hmem
    obtain rfl : i = k := eq_of_beq (List.find?_some (p := fun e : Nat × BitVec 8 => e.1 == k) hf)
    rfl

/-- Storing a whole word keeps nothing of the old one. -/
theorem storeWord_fullWord (c w : Nat) {old bs : List (BitVec 8)} (h : old.length = bs.length) (err : Bool) (s : State) :
    storeWord c w old (fullWord bs) err s =
      ((s.setBytes (spdAddr c (w * 64)) bs).put .spdTag c w (s.get .chSpdEpoch (chanOf c) 0)).put .spdErr c w
        (if err then 1 else 0) := by
  have hbs : (old.mapIdx fun k b => (((fullWord bs).reverse.find? fun e => e.1 == k).map Prod.snd).getD b) = bs := by
    refine List.ext_getElem (by rwa [List.length_mapIdx]) fun k _ hk => ?_
    rw [List.getElem_mapIdx, find?_fullWord hk]
    rfl
  unfold storeWord
  dsimp only
  rw [hbs]

section
variable {c b w : Nat} (s : State)

/-- The fields past a visit to a word, but for the word's own. -/
theorem get_cleanWord_fld {f : Fld} (x y : Nat) (ht : f.id ≠ Fld.spdTag.id) (he : f.id ≠ Fld.spdErr.id) :
    (cleanWord c w s).get f x y = s.get f x y := by
  unfold cleanWord
  split
  · rw [storeWord_fullWord _ _ rfl, State.get_put_fld _ _ _ _ _ _ he, State.get_put_fld _ _ _ _ _ _ ht, State.get_setBytes]
  · rfl

theorem isStale_iff : isStale c w s = true ↔ s.get .spdTag c w ≠ s.get .chSpdEpoch (c / 160) 0 := bne_iff_ne

/-- A word that was stale carries the current epoch. -/
theorem get_cleanWord_spdTag (h : s.get .spdTag c w ≠ s.get .chSpdEpoch (c / 160) 0) :
    (cleanWord c w s).get .spdTag c w = s.get .chSpdEpoch (c / 160) 0 % 2 ^ 4 := by
  unfold cleanWord
  rw [if_pos ((isStale_iff s).mpr h), storeWord_fullWord _ _ rfl, State.get_put_fld _ _ _ _ _ _ (by decide), State.get_put_self]
  rfl

/-- A word that was stale reads zero. -/
theorem byte_cleanWord (h : s.get .spdTag c w ≠ s.get .chSpdEpoch (c / 160) 0) (hw : w < 8192) {i : Nat} (hi : i < 64) :
    (cleanWord c w s).byte (spdAddr c (w * 64 + i)) = 0#8 := by
  have haddr : spdAddr c (w * 64 + i) = spdAddr c (w * 64) + i := by
    rw [spdAddr_of_lt c (show w * 64 + i < 2 ^ 19 by omega), spdAddr_of_lt c (show w * 64 < 2 ^ 19 by omega), Nat.add_assoc]
  unfold cleanWord
  rw [if_pos ((isStale_iff s).mpr h), storeWord_fullWord _ _ rfl, State.byte_put, State.byte_put, haddr,
    State.byte_setBytes_in _ _ _ _ (by rwa [List.length_replicate]), List.getElem_replicate]

theorem touches_cleanWord (hw : w < 8192)
    (hE : ∀ f ∈ [Fld.spdTag, .spdErr], E f (c % 2 ^ 24) w) (hB : ∀ i < 64, B (spdAddr c (w * 64 + i))) :
    Touches E B s (cleanWord c w s) := by
  have hm : w % 2 ^ 24 = w := Nat.mod_eq_of_lt (by omega)
  unfold cleanWord
  split
  · rw [storeWord_fullWord _ _ rfl]
    refine Touches.put (Touches.put ((Touches.refl E B s).setBytes fun i hi => ?_) Fld.ok_spdTag ?_ _) Fld.ok_spdErr ?_ _
    · rw [List.length_replicate] at hi
      have h := hB i hi
      rwa [spdAddr_of_lt c (show w * 64 + i < 2 ^ 19 by omega), ← Nat.add_assoc,
        ← spdAddr_of_lt c (show w * 64 < 2 ^ 19 by omega)] at h
    · rw [hm]; exact hE _ (by decide)
    · rw [hm]; exact hE _ (by decide)
  · exact .refl E B s

theorem get_sweepVisit_spdSweepPos :
    (sweepVisit c b s).get .spdSweepPos c b = (s.get .spdSweepPos c b + 1) % 512 := by
  unfold sweepVisit
  dsimp only
  rw [get_noteSwept_fld _ _ _ _ (by decide), State.get_put_fld _ _ _ _ _ _ (by decide), State.get_inc_self,
    get_cleanWord_fld _ _ _ (by decide) (by decide)]
  rfl

theorem get_sweepVisit_spdTag (x y : Nat) :
    (sweepVisit c b s).get .spdTag x y = (cleanWord c (sweepWord c b s) s).get .spdTag x y := by
  unfold sweepVisit
  dsimp only
  rw [get_noteSwept_fld _ _ _ _ (by decide), State.get_put_fld _ _ _ _ _ _ (by decide),
    State.get_inc_fld _ _ _ _ _ _ (by decide)]

theorem byte_sweepVisit (x : Nat) : (sweepVisit c b s).byte x = (cleanWord c (sweepWord c b s) s).byte x :=
  byte_noteSwept _ _ _

theorem touches_sweepVisit (hb : b < 16) (hw : sweepWord c b s < 8192)
    (hE : ∀ f ∈ [Fld.spdSweepPos, .spdVisited], E f (c % 2 ^ 24) b) (hswept : E .spdStatSwept (c % 2 ^ 24) 0)
    (hword : ∀ f ∈ [Fld.spdTag, .spdErr], E f (c % 2 ^ 24) (sweepWord c b s))
    (hB : ∀ i < 64, B (spdAddr c (sweepWord c b s * 64 + i))) : Touches E B s (sweepVisit c b s) := by
  have hm : b % 2 ^ 24 = b := Nat.mod_eq_of_lt (by omega)
  refine Touches.noteSwept (Touches.put (Touches.put (touches_cleanWord s hw hword hB) Fld.ok_spdSweepPos ?_ _)
    Fld.ok_spdVisited ?_ _) hswept
  · rw [hm]; exact hE _ (by decide)
  · rw [hm]; exact hE _ (by decide)

end

end

/-! ## The four commands where they act -/

section
variable {core : CoreId} {s : State}

theorem exec_spdKindPwrWrite (pwr : Bool) (v : BitVec 16) (hw : coreWindow core.val s = true)
    (hst : s.coreState core.val = stStopped ∨ s.coreState core.val = stHalted) : exec (.spdKindPwrWrite core pwr v) s =
      .next (if pwr then setGroups core.val (v.toNat % 16) s else setKinds core.val v.toNat s) := by
  have hst : (s.coreState core.val == stStopped || s.coreState core.val == stHalted) = true := by
    rwa [Bool.or_eq_true, beq_iff_eq, beq_iff_eq]
  show execSpdKindPwrWrite core pwr v s = _
  simp only [execSpdKindPwrWrite, hw, hst, Bool.not_true, Bool.or_self, Bool.false_eq_true, if_false]

theorem exec_bankInitDone {bank : BitVec 4} (hm : (s.get .spdInitMask core.val 0).testBit bank.toNat = true)
    (hrun : s.chanRuns (chanOf core.val) = true) : exec (.bankInitDone core bank) s =
      .next (startWaiting core.val (noteSwept core.val (initBank core.val bank.toNat s))) := by
  show execBankInitDone core bank s = _
  simp only [execBankInitDone, noteSwept, hm, hrun, Bool.not_true, Bool.or_self, Bool.false_eq_true, if_false]

theorem exec_groupPowerUpDone {group : BitVec 2} (hm : (s.get .spdUpMask core.val 0).testBit group.toNat = true)
    (hrun : s.chanRuns (chanOf core.val) = true) : exec (.groupPowerUpDone core group) s =
      .next (spdReadyUpdate core.val (groupUp core.val group.toNat s)) := by
  show execGroupPowerUpDone core group s = _
  simp only [execGroupPowerUpDone, groupUp, hm, hrun, Bool.not_true, Bool.or_self, Bool.false_eq_true, if_false]

theorem exec_sweeperVisit {bank : BitVec 4} (hp : s.present core.val = true) (hrun : s.chanRuns (chanOf core.val) = true)
    (hnap : s.coreState core.val ≠ stNap) (hready : (s.get .spdPwrReady core.val 0).testBit (bank.toNat / 4) = true)
    (hinit : (s.get .spdInitMask core.val 0).testBit bank.toNat = false) :
    exec (.sweeperVisit core bank) s = .next (sweepVisit core.val bank.toNat s) := by
  show execSweeperVisit core bank s = _
  simp only [execSweeperVisit, hp, hrun, beq_false_of_ne hnap, hready, hinit, Bool.not_true, Bool.or_self, Bool.false_eq_true,
    if_false]
  rfl

end

/-- Settles O17: each event is the model's operation on the masks, the tags and the bytes, whose rules say what it writes and what
it leaves. -/
theorem scratchpadEventsInitialiseAndSweep : Obligations.ScratchpadEventsInitialiseAndSweep := by
  unfold Obligations.ScratchpadEventsInitialiseAndSweep
  intro core s hs
  have hc : core.val < 1280 := core.isLt
  have hm : core.val % 2 ^ 24 = core.val := Nat.mod_eq_of_lt (by omega)
  have hepoch : s.get .chSpdEpoch (core.val / 160) 0 % 2 ^ 4 = s.get .chSpdEpoch (core.val / 160) 0 :=
    Nat.mod_eq_of_lt (hs.get_lt Fld.ok_chSpdEpoch.mem_all _ _)
  refine ⟨fun hw hst v => ⟨?kinds, ?groups⟩, fun bank hmask hrun => ?bank, fun group hup hrun => ?group,
    fun bank hp hrun hnap hready hinit => ?sweep⟩
  case kinds =>
    refine ⟨_, exec_spdKindPwrWrite false v hw hst, ?_, fun b hb => ?_, ?_, rfl⟩
    · exact (get_setKinds_spdKindWbank _ _ s).trans (Nat.mod_eq_of_lt v.isLt)
    · rw [if_neg Bool.false_ne_true, testBit_spdInitMask_setKinds _ _ s hb, ← BitVec.testBit_toNat]
      simp only [Bool.or_eq_true, Bool.and_eq_true, bne_iff_ne, Bool.not_eq_true', and_assoc]
    · exact (touches_setKinds (B := fun _ => True) _ s fun f hf => ⟨hf, hm⟩).fields
  case groups =>
    have hbit {g : Nat} (hg : g < 4) : (v.toNat % 16).testBit g = v.getLsbD g :=
      (Nat.testBit_mod_two_pow v.toNat 4 g).trans (by rw [decide_eq_true hg, Bool.true_and, BitVec.testBit_toNat])
    have htouch := touches_setGroups (v.toNat % 16) s
      (E := placesOf [.spdPwrOn, .spdUpMask, .spdInitMask, .spdPwrReady, .spdStatInit] core.val)
      (fun f hf => ⟨hf, hm⟩) fun _ h => h
    refine ⟨_, exec_spdKindPwrWrite true v hw hst, ?_, fun g hg hon hoff => ?_, fun g hg hoff => ?_, htouch.fields, htouch.bytes,
      htouch.frame⟩
    · exact (get_setGroups_spdPwrOn _ _ s).trans (Nat.mod_mod _ _)
    · have hup : ((setGroups core.val (v.toNat % 16) s).get .spdUpMask core.val 0).testBit g = true := by
        rw [get_setGroups_spdUpMask]
        exact testBit_spdUpMask_groupsSet _ s hg ((hbit hg).trans hon) hoff
      refine ⟨hup, Bool.eq_false_iff.mpr fun hready => ?_⟩
      exact Bool.false_ne_true ((on_of_ready_setGroups _ s hg hready).2.symm.trans hup)
    · refine Bool.eq_false_iff.mpr fun hready => ?_
      exact Bool.false_ne_true ((hoff.symm.trans (hbit hg).symm).trans (on_of_ready_setGroups _ s hg hready).1)
  case bank =>
    have hb : bank.toNat < 16 := bank.isLt
    have htouch := touches_bankInitDone (E := bankInitPlaces core.val bank.toNat) s hb (fun f hf => ⟨hm, .inl hf⟩)
      ⟨hm, .inr (.inl ⟨rfl, rfl⟩)⟩ (fun f hf w hw => ⟨hm, .inr (.inr ⟨hf, hw⟩)⟩) fun _ h => h
    refine ⟨_, exec_bankInitDone hmask hrun, fun i hi => ?_, fun w hw => ?_, ?_, ?_, htouch.fields, htouch.bytes, htouch.frame⟩
    · rw [byte_startWaiting, byte_noteSwept, byte_initBank s hc hb hi]
    · rw [get_bankInitDone_fld s _ _ (by decide), get_bankInitDone_fld s _ _ (by decide), ← hepoch]
      exact get_initBank_word s hb hw
    · rw [get_bankInitDone_fld s _ _ (by decide), testBit_spdInitMask_initBank s hb]
    · rw [get_bankInitDone_fld s _ _ (by decide), get_initBank_spdVisited]
  case group =>
    have hg : group.toNat < 4 := group.isLt
    refine ⟨_, exec_groupPowerUpDone hup hrun, ?_, fun b hb => ?_, ?_, ?_, rfl⟩
    · rw [get_spdReadyUpdate_fld _ _ _ _ (by decide) (by decide), testBit_spdUpMask_groupUp s hup]
    · rw [get_spdReadyUpdate_fld _ _ _ _ (by decide) (by decide), testBit_spdInitMask_groupUp s hb, Bool.or_eq_true,
        decide_eq_true_eq]
    · rw [get_spdReadyUpdate_spdStatInit, spdInitRuns_groupUp s hg, if_pos rfl]
    · exact (touches_groupUp (B := fun _ => True) s fun f hf => ⟨hf, hm⟩).fields
  case sweep =>
    have hb : bank.toNat < 16 := bank.isLt
    have hpos : s.get .spdSweepPos core.val bank.toNat < 512 := hs.get_lt Fld.ok_spdSweepPos.mem_all _ _
    have hw : sweepWord core.val bank.toNat s < 8192 := by unfold sweepWord; omega
    have htouch := touches_sweepVisit s (E := sweepPlaces core.val bank.toNat s) hb hw
      (fun f hf => ⟨hm, .inl ⟨hf, rfl⟩⟩) ⟨hm, .inr (.inl rfl)⟩ (fun f hf => ⟨hm, .inr (.inr ⟨hf, rfl⟩)⟩)
      (B := fun x => ∃ i < 64, x = spdAddr core.val (sweepWord core.val bank.toNat s * 64 + i)) fun i hi => ⟨i, hi, rfl⟩
    refine ⟨_, exec_sweeperVisit hp hrun hnap hready hinit, get_sweepVisit_spdSweepPos s, fun hstale => ⟨fun i hi => ?_, ?_⟩,
      htouch.fields, htouch.bytes, htouch.frame⟩
    · exact (byte_sweepVisit s _).trans (byte_cleanWord s hstale hw hi)
    · exact (get_sweepVisit_spdTag s _ _).trans ((get_cleanWord_spdTag s hstale).trans hepoch)

end Sys2Proof.Machine
end
